-- ==== Sys2Proof/Word.lean ====
section
/-! DEFINITION. The words of the IQ7200: bytes, 32-bit registers and 64-bit values (R7, R8, R86). -/

namespace Sys2Proof

/-- One byte of memory or of a dictionary payload. -/
abbrev Byte := BitVec 8

/-- One 32-bit register of a lane (R108). -/
abbrev Word32 := BitVec 32

/-- A 64-bit value: an ADDR64, a U64 object, a register pair. -/
abbrev Word64 := BitVec 64

/-- The 32-bit active mask of a group, one bit per lane. -/
abbrev LaneMask := BitVec 32

/-- A channel, 0 to 3 (R9); field die Cn and Pacer n bear the same number. -/
abbrev Chan := Fin 4

/-- A channel set, bit n for channel n (ATTACH_TO, CH_MASK). -/
abbrev ChanMask := BitVec 4

end Sys2Proof
end

