-- ==== Sys2Proof/Syntax.lean ====
section
/-! DEFINITION. The commands of the block: one constructor of `Instr` for every row of
spec/opcode_table.json, with the operands the row's rule names.

Operands that a rule takes from OUTSIDE the device (a measured error, a sensor value, a training
outcome, the result of the timing model, the bytes a peer sends) are operands of the row's
constructor: nothing constrains them, so a statement about the command holds for every one. -/

namespace Sys2Proof

/-- Who makes a dictionary request (R348, R349, R352): a PCI Express function (0 is PF0) or a T1
client, named by its IPv4 address and UDP port. -/
inductive Req where
  | fn (f : Nat)
  | t1 (ip port : Nat)
  deriving DecidableEq, Repr

/-- The attachable units of R28. -/
inductive AttachUnit where
  | dpin0 | dpin1 | kl0 | kl1
  deriving DecidableEq, Repr

/-- A video input DPINi. -/
inductive Dpin where
  | in0 | in1
  deriving DecidableEq, Repr

/-- An off-package Kister Link port KLi. -/
inductive KlPort where
  | kl0 | kl1
  deriving DecidableEq, Repr

/-- The engines a queue is bound to, by their Q_CREATE codes 0 to 4 (R369). -/
inductive Engine where
  | launch | bearing | traverse | raster | copy
  deriving DecidableEq, Repr

/-- A group of a running launch: the run, the linear block index and the group of the block. -/
structure GroupRef where
  run   : Nat
  block : Nat
  group : Nat
  deriving DecidableEq, Repr

/-- Integer widths of R118: I8, I16, I32, and I64 held in a register pair. -/
inductive IntTy where
  | i8 | i16 | i32 | i64
  deriving DecidableEq, Repr

/-- Shift forms of R86 and R118. -/
inductive ShiftKind where
  | left | rightLogical | rightArith
  deriving DecidableEq, Repr

/-- Bitwise logic forms of R118. -/
inductive LogicOp where
  | and | or | xor | not
  deriving DecidableEq, Repr

/-- Compare relations of R118. -/
inductive CmpOp where
  | eq | ne | lt | le | gt | ge
  deriving DecidableEq, Repr

/-- The block formats of R88. -/
inductive BlockFmt where
  | b4 | b8 | b16
  deriving DecidableEq, Repr

/-- Memory spaces of R125. -/
inductive Space where
  | blockLocal | cluster | renderTile | global
  deriving DecidableEq, Repr

/-- Atomic scopes of R131 and R151. -/
inductive Scope where
  | group | block | cluster | device | system
  deriving DecidableEq, Repr

/-- Where an error of a read or a write arose: the memory interface (R308), the hub link or the ring
segment (R415). -/
inductive ErrVia where
  | mem | hub | ring
  deriving DecidableEq, Repr

/-- What the reads of a command meet besides their data (R308, R415): the device addresses at which link ECC or the
in-package link corrected an error, and whether one was uncorrectable, with its device address. -/
structure Ecc where
  corrected : List Nat
  bad       : Option Nat
  via       : ErrVia
  deriving DecidableEq, Repr

/-- What is read of the serial flash (R475): the bytes of the directory at offset 0, and the bytes found at the offsets of
image copies, none where the flash holds no directory. -/
structure FlashRead where
  dir    : List (BitVec 8)
  copies : List (Nat × List (BitVec 8))
  deriving DecidableEq, Repr

/-- How an ATOM names its word: scope, space, word size, fetch form, address register (a pair in
global space), the cluster rank for .C, the register that takes the prior value, and the errors its reads meet. -/
structure AtomForm where
  scope : Scope
  space : Space
  is64  : Bool
  fetch : Bool
  addr  : Nat
  rank  : Nat
  dst   : Nat
  ecc   : Ecc
  deriving DecidableEq, Repr

/-- Special registers of R115 and, in a fragment group, of R234. -/
inductive SpecialReg where
  | lane | group | blockX | blockY | blockZ | blockId | gridX | gridY | gridZ
  | clusterId | clusterRank | logicalCore | channel | context | cls | strict | clock
  | pixX | pixY | primId | bary | front
  deriving DecidableEq, Repr

/-- The target operand of CALL (R120): an address, or a register pair for an indirect call. -/
inductive CallTarget where
  | direct (addr : Nat)
  | indirect (reg : Nat)
  deriving DecidableEq, Repr

/-- Where the operands and outputs of one matrix instruction lie (R138, R143): global virtual addresses, or the block's own
block-local storage. One space serves all operands of an instruction (DESIGN CHOICE, log entries 18 and 136). -/
inductive MSpace where
  | global | blockLocal
  deriving DecidableEq, Repr

/-- A coherence point of channel n memory (R157, R159): the system-cache slice, or the die L2. -/
inductive CohPoint where
  | sc (ch : Fin 4)
  | l2 (ch : Fin 4)
  deriving DecidableEq, Repr

/-- The unit that holds the tag of a lock word (R145): the channel atomic unit, or the tile atomic
logic of a physical core of the channel (by logical index in the die). -/
inductive TagUnit where
  | channel (ch : Fin 4)
  | core (ch : Fin 4) (core : Nat)
  deriving DecidableEq, Repr

/-- A cache slice of a channel (R310): die L2 slice 0-3 or system-cache half 0-1. -/
inductive Slice where
  | l2 (s : Fin 4)
  | sc (h : Fin 2)
  deriving DecidableEq, Repr

/-- One message of a Kister Link flit as R417 delivers it: TYPE, virtual channel, class, ARG, ARG64
and the data bytes of its slots. -/
structure KlMsg where
  type  : Nat
  vc    : Nat
  cls   : Nat
  arg   : Nat
  arg64 : Nat
  data  : List (BitVec 8)
  deriving DecidableEq, Repr

/-- An arriving flit (R416, R418): in how many symbols FEC found an error, and its 218 data bytes, SEQ to CRC, as they are
after correction. -/
structure Flit where
  symErrors : Nat
  bytes     : List (BitVec 8)
  deriving DecidableEq, Repr

/-- What a join compares of a channel of a pair (R434): TP_DIGEST, PACER_PERIOD, the pipeline descriptor, DP_HACTIVE to
DP_LINE_TICKS with DSC_SLICES and DSC_BPP, DP_CTRL, PAIR_ID, and the tick at which a program frame of the active program
begins. -/
structure PairChan where
  digest  : List (BitVec 8)
  period  : Nat
  pipe    : List (BitVec 8)
  timing  : List Nat
  dpCtrl  : Nat
  pairId  : Nat
  start   : Option Nat
  deriving DecidableEq, Repr

/-- What a join needs of the other device of a pair (R434): whether its KL0 is UP, START_VALID, START_LATCH, and its
channels 0 to 3. -/
structure PairView where
  up    : Bool
  valid : Bool
  latch : Nat
  chans : List PairChan
  deriving DecidableEq, Repr

/-- The format of a stream on a video input (R172, R295). -/
structure StreamFmt where
  width    : Nat
  height   : Nat
  rate     : Nat
  sampling : Nat
  bpc      : Nat
  colour   : Nat
  hdcpType : Nat
  deriving DecidableEq, Repr

/-- What the timing model answers for a load check (R82): for each slot of each variant, in order,
model_cost + model_stall in cycles; the latency it computes from the slot dependencies; and the lowest
OPP at which the program passes (R458). -/
structure ModelFigures where
  slotCost : List Nat
  latency  : Nat
  floorOpp : Nat
  deriving DecidableEq, Repr

/-- The commands of the block, one constructor per row of spec/opcode_table.json, in the table's
order. -/
inductive Instr where
  -- dictionary transport
  | dictRead
  | dictWrite
  | genericObjectWrite (who : Req) (index sub : Nat) (value : List (BitVec 8))
  | dictDoorbell (f : Nat) (tag : Nat) (frame : List (BitVec 8))
  | t1DictDatagram (ip port : Nat) (payload : List (BitVec 8))
  -- attachable units
  | attachApply (who : Req) (u : AttachUnit) (t : Nat)
  | attachEffect (u : AttachUnit)
  -- Pacer
  | tickEdge (ch : Fin 4) (period : Nat) (ref : Option Nat) (ecc : Ecc)
  | lockSourceLost (ch : Fin 4)
  | lockSourceReturn (ch : Fin 4)
  | apply (who : Req) (ch : Fin 4) (v : Nat) (ms : List ModelFigures)
  | pacerApplyEffect (ch : Fin 4)
  | followStart (ch : Fin 4) (ecc : Ecc)
  | windowOpen (ch : Fin 4) (map window : Nat)
  | windowClose (ch : Fin 4) (map : Nat)
  | wcetOverrun (run : Nat)
  | engineFetch (q : Nat) (ecc : Ecc)
  | commandStart (ch : Fin 4) (eng : Engine) (now : Nat) (ecc : Ecc)
  | commandSeal (run : Nat) (now : Nat) (ports : List Nat)
  | openMarker (run : Nat) (pt : CohPoint)
  | closeMarker (pub : Nat) (pt : CohPoint) (now : Nat) (err : Ecc)
  | publicationEnd (pub : Nat)
  | tpLoad (who : Req) (ch : Fin 4) (t : Nat)
  | loadCheckDone (ch : Fin 4) (m : ModelFigures)
  | tpSwitch (ch : Fin 4)
  | tpUnload (who : Req) (ch : Fin 4) (t : Nat)
  | tpUnloadEffect (ch : Fin 4)
  -- core instructions
  | intAdd (g : GroupRef) (ty : IntTy) (sat : Bool) (d a b : Nat)
  | intSubtract (g : GroupRef) (ty : IntTy) (sat : Bool) (d a b : Nat)
  | intMultiply (g : GroupRef) (ty : IntTy) (sat : Bool) (d a b : Nat)
  | intMultiplyAdd (g : GroupRef) (ty : IntTy) (sat : Bool) (d a b c : Nat)
  | intShift (g : GroupRef) (ty : IntTy) (k : ShiftKind) (d a b : Nat)
  | intLogic (g : GroupRef) (ty : IntTy) (op : LogicOp) (d a b : Nat)
  | intCompare (g : GroupRef) (ty : IntTy) (op : CmpOp) (signed : Bool) (d a b : Nat)
  | intSelect (g : GroupRef) (ty : IntTy) (d p a b : Nat)
  | widen (g : GroupRef) (src dst : IntTy) (signed : Bool) (d a : Nat)
  | narrow (g : GroupRef) (src dst : IntTy) (d a : Nat)
  | blockElementPack (g : GroupRef) (fmt : BlockFmt) (d a : Nat)
  | blockElementUnpack (g : GroupRef) (fmt : BlockFmt) (d a : Nat)
  | bra (g : GroupRef) (mr : Bool) (p target reconv : Nat)
  | brx (g : GroupRef) (mr : Bool) (r reconv : Nat)
  | call (g : GroupRef) (mr : Bool) (target : CallTarget) (reconv : Nat)
  | ret (g : GroupRef)
  | exit (g : GroupRef) (mr : Bool)
  | readSpecialRegister (g : GroupRef) (r : SpecialReg) (d : Nat) (now : Nat)
  | ld (g : GroupRef) (sp : Space) (size d a rank : Nat) (ecc : Ecc)
  | st (g : GroupRef) (sp : Space) (size v a rank : Nat)
  | constantLoad (g : GroupRef) (size d a : Nat) (ecc : Ecc)
  | atomAdd (g : GroupRef) (f : AtomForm) (v : Nat)
  | atomSub (g : GroupRef) (f : AtomForm) (v : Nat)
  | atomMin (g : GroupRef) (f : AtomForm) (signed : Bool) (v : Nat)
  | atomMax (g : GroupRef) (f : AtomForm) (signed : Bool) (v : Nat)
  | atomAnd (g : GroupRef) (f : AtomForm) (v : Nat)
  | atomOr (g : GroupRef) (f : AtomForm) (v : Nat)
  | atomXor (g : GroupRef) (f : AtomForm) (v : Nat)
  | atomSadd (g : GroupRef) (f : AtomForm) (v : Nat)
  | atomSsub (g : GroupRef) (f : AtomForm) (v : Nat)
  | atomExch (g : GroupRef) (f : AtomForm) (v : Nat)
  | atomExchLock (g : GroupRef) (f : AtomForm) (v : Nat) (now : Nat)
  | atomCas (g : GroupRef) (f : AtomForm) (cmp v : Nat)
  | atomCasLock (g : GroupRef) (f : AtomForm) (cmp v : Nat) (now : Nat)
  | atomUnlock (g : GroupRef) (f : AtomForm)
  | siblingWaitExpiry (u : TagUnit) (addr : Nat)
  | appendG (g : GroupRef) (desc v d : Nat) (ecc : Ecc)
  | fenceG (g : GroupRef)
  | fenceB (g : GroupRef)
  | fenceC (g : GroupRef)
  | fenceD (g : GroupRef)
  | fenceS (g : GroupRef)
  | barB (g : GroupRef) (n : Nat)
  | barC (g : GroupRef)
  | alloc (g : GroupRef) (d size align : Nat) (ecc : Ecc)
  | allocF (g : GroupRef) (d size align : Nat) (ecc : Ecc)
  | free (g : GroupRef) (a : Nat) (ecc : Ecc)
  | commit (g : GroupRef) (status : Nat)
  | blockStart (run : Nat) (core : Nat)
  -- matrix
  | mopen (g : GroupRef) (t f cfg va vb : Nat) (sp : MSpace) (i0 j0 k0 n : Nat) (ecc : Ecc)
  | mresume (g : GroupRef) (t f recAddr cfg va vb : Nat) (sp : MSpace) (i0 j0 k0 n : Nat) (ecc : Ecc)
  | mstep (g : GroupRef) (t k : Nat) (ecc : Ecc)
  | mmerge (g : GroupRef) (t u : Nat)
  | mmerger (g : GroupRef) (t recAddr : Nat) (sp : MSpace) (ecc : Ecc)
  | msave (g : GroupRef) (t recAddr : Nat) (sp : MSpace)
  | mepi (g : GroupRef) (t desc vo : Nat) (sp : MSpace) (io bo : Nat) (ecc : Ecc)
  | mclose (g : GroupRef) (t : Nat)
  | tex (g : GroupRef) (d src u v smp : Nat) (ecc : Ecc)
  | rayq (g : GroupRef) (d src h : Nat) (ecc : Ecc)
  -- queue commands
  | fence (q : Nat)
  | launch (run : Nat)
  | bearingSearch (run : Nat) (ecc : Ecc)
  | bearingRefine (run : Nat) (ecc : Ecc)
  | bearingOcclude (run : Nat) (ecc : Ecc)
  | traverseRays (run : Nat) (ecc : Ecc)
  | traversePatch (run : Nat) (ecc : Ecc)
  | rasterBinned (run : Nat) (ecc : Ecc)
  | rasterDirect (run : Nat) (ecc : Ecc)
  | rasterAuto (run : Nat) (ecc : Ecc)
  | poolGrowReturn (run : Nat)
  | copy (run : Nat) (ecc : Ecc)
  | fill (run : Nat)
  | notify (q : Nat)
  | take (run : Nat)
  | course (q : Nat)
  | heatStep (q : Nat) (ecc : Ecc)
  | admissionComplete (ch : Fin 4) (heat : Nat)
  -- picture pipeline
  | sourceRowCapture (n : Dpin) (row : Nat) (planes : List (List (BitVec 8)))
  | rowDeadline (ch : Fin 4)
  | streamMismatch (n : Dpin)
  | inputLossTimeout (ch : Fin 4)
  | srcSubmit (who : Req) (ch : Fin 4) (slot : Nat)
  | hostFrameBegin (ch : Fin 4)
  | frameBinding (ch : Fin 4)
  | outputFrameStart (ch : Fin 4) (ecc : Ecc)
  | gangApply (who : Req) (ch : Fin 4) (t : Nat)
  | gangChange (ch : Fin 4)
  | safePictureStart
  -- composition and display
  | setSnapshot (ch : Fin 4) (ecc : Ecc)
  | lutBankLoadDone (ch : Fin 4) (ecc : Ecc)
  | closureClear (who : Req) (ch : Fin 4) (mask : Nat)
  | dpApply (who : Req) (ch : Fin 4) (t : Nat)
  | dpTimingEffect (ch : Fin 4)
  | dpTrainingDone (ch : Fin 4) (ok : Bool)
  | hpdLowTimeout (ch : Fin 4)
  | hpdReturn (ch : Fin 4)
  | irqHpd (ch : Fin 4) (laneUnlocked : Bool)
  | hdcpLoss (ch : Fin 4)
  | dpinLinkLoss (n : Dpin)
  | dpinStreamPresent (n : Dpin) (fmt : StreamFmt)
  -- memory and translation
  | memTrainingDone (ch : Fin 4) (ok : Bool)
  | memTempReport (ch : Fin 4) (hot : Bool)
  | trackStep (ch : Fin 4) (movement : Nat)
  | memRetrain (who : Req) (ch : Fin 4) (v : Nat)
  | memRetrainDone (ch : Fin 4) (ok : Bool)
  | cacheCtrlWrite (who : Req) (ch : Fin 4) (v : Nat) (passes : Bool)
  | cacheInvalidateDone (ch : Fin 4) (sl : Slice)
  | cacheHandoverDone (ch : Fin 4) (sl : Slice)
  | cacheReturnScanDone (ch : Fin 4) (sl : Slice)
  | allocPoolWrite (who : Req) (ch : Fin 4) (chunks : Bool) (v : Nat)
  | allocPoolEffect (ch : Fin 4)
  | chunkZeroed (ch : Fin 4) (chunk : Nat)
  | allocTrim (who : Req) (k : Nat) (v : Nat)
  | trimSelect (ch : Fin 4) (k : Nat)
  | trimDrainDone (k : Nat)
  | asInstall (who : Req) (k : Nat) (v : Nat)
  | asCheckDone (k : Nat) (ecc : Ecc)
  | asGenEffect (ch : Fin 4) (k : Nat)
  | asDrainDone (k : Nat)
  -- host port
  | bar2Read (f : Nat) (addr len : Nat) (ecc : Ecc)
  | bar2Write (f : Nat) (addr : Nat) (bytes : List (BitVec 8))
  | functionLevelReset (f : Nat)
  | hotReset
  | linkDownReset
  | t1AddressWrite (who : Req) (sub : Nat) (v : List (BitVec 8))
  | arpRequest (ip mac target : Nat)
  | icmpEchoRequest (ip no : Nat) (data : List (BitVec 8))
  | addressConflict
  | asTimeMessage (now time : Nat) (linkDelay : Nat) (synced : Bool)
  | asSyncLoss
  | image (f ptr : Nat) (space : Bool) (user : Nat)
  | policy (f ptr : Nat) (space : Bool) (user : Nat)
  | traceRing (f ptr : Nat) (space : Bool) (user : Nat)
  | restore (f ptr : Nat) (space : Bool) (user : Nat)
  | marshalToHostNotice (f ptr : Nat) (h2mSeq : Nat)
  | m2hTake (f : Nat) (rc : Nat)
  | attnAck (who : Req) (v : Nat)
  | queueDb (f q : Nat) (wptr : Nat)
  | fetcherSample (q : Nat)
  -- contexts, batons, queues, courses, heats
  | ctxCreate (who : Req) (c : Nat) (v : Nat)
  | ctxHold (who : Req) (c : Nat) (v : Nat)
  | ctxRelease (who : Req) (c : Nat) (v : Nat)
  | ctxAbort (who : Req) (c : Nat) (v : Nat)
  | teardownEdge (ch : Fin 4) (c : Nat)
  | teardownComplete (c : Nat)
  | ctxBatonCreate (who : Req) (c b : Nat)
  | ctxBatonRelease (who : Req) (c b : Nat)
  | ctxBatonShare (who : Req) (c : Nat) (v : Nat)
  | batonSignal (who : Req) (b v : Nat)
  | batonFail (who : Req) (b code : Nat)
  | tenantQuotaWrite (who : Req) (t sub v : Nat)
  | qCreate (who : Req) (q : Nat) (v : Nat)
  | qDestroy (who : Req) (q : Nat) (v : Nat)
  | queueClosed (q : Nat)
  | queueStall (q : Nat)
  | courseCreate (who : Req) (k v : Nat)
  | coursePatch (who : Req) (k v : Nat)
  | courseVersionEffect (k : Nat)
  | courseDestroy (who : Req) (k v : Nat)
  | heatCreate (who : Req) (ch : Fin 4) (h c : Nat)
  | heatDestroy (who : Req) (ch : Fin 4) (h v : Nat)
  -- Kister Link, chain, twins
  | flitReceive (p : KlPort) (fl : Flit)
  | klFlitTimeout (p : KlPort)
  | klTrainingDone (p : KlPort) (lanes8ok : Bool) (ok : Bool)
  | ident (p : KlPort) (digest : List (BitVec 8)) (index port : Nat)
  | lineWrite (p : KlPort) (tag addr : Nat) (mask : Nat) (data : List (BitVec 8)) (relay : Bool)
  | closeAck (p : KlPort) (tag : Nat)
  | forwardedBatonSignal (p : KlPort) (b v code : Nat)
  | klApply (who : Req) (p : KlPort) (v : Nat)
  | klTableEffect (p : KlPort)
  | syncMark (width : Nat) (now : Nat)
  | syncMarkSend (now : Nat)
  | syncMarkTimeout
  | syncRoleWrite (who : Req) (v : Nat)
  | startLine (who : Req) (v : Nat)
  | startLineEdge
  | pairJoin (who : Req) (v : Nat) (peer : PairView)
  | pairJoinEffect (peer : PairView) (numbers : List (Nat × Nat))
  | datum (bytes : List (BitVec 8))
  | relayApply (ch : Fin 4)
  | mirror (index sub : Nat) (tick : Nat) (value : List (BitVec 8))
  | promotion
  | pairSwap (who : Req) (t : Nat)
  | pairSwapEffect
  | digestRun (who : Req) (v : Nat)
  | digestDone
  | replayCtrlWrite (who : Req) (c v : Nat)
  -- power
  | chPowerOn (who : Req) (ch : Fin 4)
  | chPowerPark (who : Req) (ch : Fin 4)
  | chPowerGate (who : Req) (ch : Fin 4)
  | chPowerEffect (ch : Fin 4)
  | chReturnDone (ch : Fin 4)
  | domainEnOff (u : Nat)
  | oppReqWrite (who : Req) (ch : Fin 4) (v : Nat)
  | frequencyChange (ch : Fin 4)
  | chBudgetWrite (who : Req) (ch : Fin 4) (v : Nat)
  | packageLimitWrite (who : Req) (v : Nat)
  | lendStart (ch : Fin 4)
  | lendEnd (ch : Fin 4)
  | p2Enter (who : Req) (v : Nat)
  | p2EntryStart
  | p2EntryDrained
  | p2EntryCommit (vretCurrent : Nat)
  | wake (src : Nat) (inWindow : Bool)
  | entryAbort
  | returnComplete
  | brownOut
  | padRelease (who : Req) (v : Nat)
  -- bring-up, update, security
  | resetRelease (bootSrc : Nat) (sePresent t1Role : Bool) (boardId : Nat)
  | resetAssert (durationNs : Nat)
  | bootPolicyRead (policy : Option (List (BitVec 8)))
  | marshalImageVerified (flash : FlashRead)
  | unitImagesStarted (flash : FlashRead)
  | imageChunk (who : Req) (chunk : List (BitVec 8))
  | policyWrite (who : Req) (policy : List (BitVec 8))
  | attestRun (who : Req) (v : Nat)
  | attestDone
  | hdcpKeys (who : Req) (keys : List (BitVec 8))
  | updateApply (who : Req) (t : Nat)
  | updateApplyPoint (unitId : Nat)
  | marshalUpdateDone
  | updateDiscard (who : Req) (unitId : Nat)
  | serviceReturn (who : Req) (ch : Fin 4) (t : Nat)
  | serviceOutGangCover (who : Req) (ch : Fin 4) (t : Nat)
  | serviceOutTwinCover (who : Req) (ch : Fin 4) (t : Nat)
  | serviceOutNoCover (who : Req) (ch : Fin 4) (t : Nat)
  | chServiceEffect (ch : Fin 4)
  | chReset (who : Req) (ch : Fin 4) (v : Nat)
  | chResetDone (ch : Fin 4)
  | substApply (who : Req) (ch : Fin 4) (t : Nat)
  | substEffect (ch : Fin 4)
  | testRun (who : Req) (ch : Fin 4) (t : Nat)
  | testStart (ch : Fin 4)
  | testDone (ch : Fin 4) (passed : Bool)
  | imageReload (unitId : Nat) (flash : FlashRead)
  -- observation
  | traceMark (ch : Fin 4)
  | traceTimeref
  | traceDatagramSend
  | reportClose (ch : Fin 4)
  | splitClear (who : Req) (ch : Fin 4) (v : Nat)
  | restoreWrite (who : Req) (block : List (BitVec 8))
  -- electrical
  | supplyUndervoltage
  | thermalAlert (above : Bool)
  | thermalTrip
  | sysRefclkLoss
  -- link and boot completions
  | hdcpAuthDone (ch : Fin 4) (type1 : Bool)
  | dpinLinkTrained (n : Dpin) (rate lanes : Nat)
  | t1LinkChange (up : Bool)
  | t1AddressAcquired (addr : Nat)
  | pcieLinkTrained (speed width : Nat)
  | pcieConfigWrite (f : Nat) (busMaster atomicEn : Bool)
  | sysRefclkReturn
  | supplyRestored
  | identityDerived (ok : Bool)
  | bootSelfTestDone (ch : Fin 4) (failed : List Nat)
  | courseCheckDone (k : Nat) (ecc : Ecc)
  | p2EntryStepDone
  | entryUndoDone
  deriving DecidableEq, Repr

end Sys2Proof
end

