-- ==== Sys2Proof/Decode.lean ====
section
/-! DEFINITION. The command a word of the table's bits spells. The rows of the table give no bits: the
commands reach the block through its ports and as events, not as encoded words. -/

namespace Sys2Proof

/-- The command that a word spells: none, for the table gives no row any bits. -/
def decodeTableWord (nbits w : Nat) : Option Instr :=
  match nbits, w with
  | _, _ => none

end Sys2Proof
end

