-- ==== Sys2Proof/Config.lean ====
section
/-! DEFINITION. What the specification leaves open or places outside itself: free values (constants
without a body, so nothing is provable of them) and the fixed figures of one IQ7200. -/

namespace Sys2Proof.Config

/-- FREE VALUE: the n-th value the specification leaves undefined (log entry 3); `State.fresh` counts
them. -/
opaque freeValue : Nat → BitVec 64

/-- FREE VALUE: what a shift by the width or more writes (R86 states no result): width, kind of shift, value and count
(log entry 11). The same operands give the same bits (R102). -/
opaque wideShift : Nat → Nat → Nat → Nat → BitVec 64

/-- FREE VALUE: where a group goes on after a RET at an address with no call outstanding (log entry 14). -/
opaque emptyReturn : Nat → BitVec 64

/-- FREE VALUE: `ModelVersion`, the timing-model version Marshal holds for stepping B0 (R82). -/
opaque modelVersion : Nat

/-- FREE VALUE: a figure of the timing model (R82) for a check that a dictionary request starts and whose request carries
none: the number of the check, the program and the place of the figure in it (log entry 37). -/
opaque figure : Nat → Nat → Nat → Nat

/-- FREE VALUE: the mask-ROM SHA3-256 digest of the root certificate of this part's signing chain
(R480, R481). -/
opaque rootDigest : List (BitVec 8)

/-- FREE VALUE: the ML-DSA-44 public key of the vendor root, whose digest the mask ROM holds (R481, R483). -/
opaque rootKey : List (BitVec 8)

/-- FREE VALUE: the 256 bits that the PUF of this part reconstructs (R486). -/
opaque puf : List (BitVec 8)

/-- FREE VALUE: the random bytes of the n-th signing with the hedged variant (R487). -/
opaque signRandom : Nat → List (BitVec 8)

/-- FREE VALUE: the SERIAL fuses of this part (R519). -/
opaque serial : Nat

/-- FREE VALUE: the T1 MAC address the part carries (R342). -/
opaque t1MacFuses : Nat

/-- FREE VALUE: the bytes of a CONSTANT block's sector after its pixel, as a function of the pixel, CLEAR and
the byte's offset (R249, R251: the encoding is a function of these, and the rest of the sector is not
stated). -/
opaque constantFill : Nat → Nat → Nat → BitVec 8

/-- FREE VALUE: what composition reads as a pixel of a surface block whose metadata byte is malformed (R249 gives
no outcome for a read by composition), of the metadata byte, the block's data and the pixel's place (R259). -/
opaque brokenPixel : Nat → List (BitVec 8) → Nat → Nat

/-- FREE VALUE: whether a DisplayID or EDID, as SINK_INFO holds it, lists CTA-861 VIC 97 (R193): its layout is the
standards'. -/
opaque listsVic97 : List (BitVec 8) → Bool

end Sys2Proof.Config
end

