-- ==== Sys2Proof/Machine/State.lean ====
section
/-! DEFINITION. The state of the IQ7200: every register, counter, queue, store and mode the
specification gives the block, and the queue of commands that wait. Plain data throughout.

Dictionary objects that are a plain number have ONE home, the sparse list `objs` (see
Machine/Objects.lean for each object's key and default); octet objects that are stored have `octs`.
Every other piece of state is a field of its own below. -/

namespace Sys2Proof.Machine

/-- One value for each of four channels, maps, slots or ports. -/
structure Per4 (α : Type) where
  c0 : α
  c1 : α
  c2 : α
  c3 : α
  deriving DecidableEq, Repr

/-! ## Pacer (R52 to R85) -/

/-- The active copy of a Pacer's registers (R62): the raw PACER_CTRL, PACER_PERIOD and UNIT_MAP words
and the 32 window registers, WINDOW_k of MAPm at position 8 m + k. -/
structure PacerCfg where
  ctrl    : Nat
  period  : Nat
  unitMap : Nat
  windows : List Nat
  deriving DecidableEq, Repr

/-- LOCK_STATE of R55. -/
inductive LockState where
  | free | acquiring | locked | hold
  deriving DecidableEq, Repr

/-- One slot of a tick-program variant (R78). -/
structure Slot where
  unit   : Nat
  window : Nat
  dep0   : Nat
  dep1   : Nat
  desc   : Nat
  deriving DecidableEq, Repr

/-- The fields of the pipeline descriptor of R168, as loaded with a tick program: the 64 header bytes
and each entry list as it lies in memory. -/
structure PipeDesc where
  bytes : List Byte
  deriving DecidableEq, Repr

/-- A tick program as the load check read it (R78), with the display context and status baton it was
loaded with (R368) and the tick at which its frame tick 0 fell. `seals` holds the seal[s] the check computed,
by 512 variant + slot (R512). -/
structure Program where
  addr       : Nat
  model      : Nat
  frameTicks : Nat
  flags      : Nat
  latency    : Nat
  unitsUsed  : Nat
  srcTicks   : Nat
  digest     : List Byte
  runs       : List (Nat × Nat)
  variants   : List (List Slot)
  ctx        : Nat
  baton      : Nat
  pipe       : Option PipeDesc
  floorOpp   : Nat
  start      : Nat
  frames     : Nat
  ofnBase    : Nat
  seals      : List (Nat × Nat)
  deriving DecidableEq, Repr

/-- The one pending program change of a channel (R80). `t` is the target tick, 0 for the next program
frame boundary. -/
inductive TpChange where
  | none
  | checking (t addr ctx baton pipe : Nat)
  | waiting (t : Nat) (p : Program)
  | unload (t : Nat)
  deriving DecidableEq, Repr

/-- A window that is open in a map (R61): its index, class, backfill bit and the cycles at which it
opened and closes within the tick. -/
structure OpenWindow where
  index    : Nat
  cls      : Nat
  backfill : Bool
  start    : Nat
  stop     : Nat
  deriving DecidableEq, Repr

/-- A slot of the current tick that has been dispatched and not started, or has sealed (R78, R82). -/
inductive SlotPhase where
  | idle | waiting | running (run : Nat) | sealed | abandoned
  deriving DecidableEq, Repr

/-- One Pacer. `edge` is the TCLK cycle at which the current tick started, `len` its length, `acc` the
fraction accumulator after that edge and `accPrev` before it; `count` counts the edges since reset, which a change of the
tick number by following (R57, R58) leaves alone. `floors` are the lowest OPPs, by channel, that
the load check of an accepted APPLY found (R62, R83). `aim` is the target the lock steers toward (R55): tick and
cycle of the next reference for a video input, or the tick of the first edge of acquisition with its synchronised
time in ns for IEEE 802.1AS; `back` tells that a lost source has returned, `opened` that a window has opened in
this tick. -/
structure Pacer where
  tick       : Nat
  count      : Nat
  edge       : Nat
  len        : Nat
  lastLen    : Nat
  acc        : Nat
  accPrev    : Nat
  effPeriod  : Nat
  cfg        : PacerCfg
  pending    : Option PacerCfg
  applyAt    : Nat
  floors     : List (Fin 4 × Nat)
  following  : Bool
  transition : Bool
  lock       : LockState
  lockRun    : Nat
  atLimit    : Bool
  aim        : Option (Nat × Nat)
  back       : Bool
  opened     : Bool
  wins       : Per4 (Option OpenWindow)
  slots      : List SlotPhase
  program    : Option Program
  change     : TpChange
  deriving DecidableEq, Repr

/-! ## Picture pipeline, gangs and pending channel changes (R35, R167 to R197) -/

/-- A source frame in a slot (R173 to R176): its number, the tick its row 0 was captured in, the rows
captured or substituted, whether a row was substituted, the slot of the frame that was newest when it
began, whether all its rows are in, how it is protected (R297: 0 not, 1 Type 0, 2 Type 1), and whether it is RGB and its bits per
component (R175). -/
structure SrcFrame where
  sfn    : Nat
  t0     : Nat
  rows   : List Nat
  torn   : Bool
  before : Option Nat
  whole  : Bool
  prot   : Nat
  rgb    : Bool
  bpc    : Nat
  deriving DecidableEq, Repr

/-- A frame record of R181 as the Pacer wrote it. -/
structure FrameRec where
  ofn   : Nat
  kind  : Nat
  slotA : Nat
  slotB : Nat
  sfnA  : Nat
  sfnB  : Nat
  again : Bool
  mute  : Bool
  cut   : Nat
  tick  : Nat
  deriving DecidableEq, Repr

/-- A video-row ring with rows of an output frame whose video layer is protected (R297): its base, rows and bytes per row,
and the number of the frame. -/
structure HotRing where
  base  : Nat
  rows  : Nat
  pitch : Nat
  ofn   : Nat
  deriving DecidableEq, Repr

/-- What a channel's pipeline keeps: the frames in its slots, the slot of the newest frame begun and of
the frame being captured, whether a frame is being dropped for want of a slot, the submissions that wait,
each a slot with the ordinal of the edge at which its frame begins (R176), the tick of the last binding, the frame records of output frames that have not ended, the number of each real
output frame bound of late with the slot and number of the frame it bound, the cut accumulator (R180), the frames bound while the input is lost or
mismatched (R183), the tick of the last captured row or submission (R177), the tick of the last output frame start, and the
rings that hold rows of protected output frames (R297). -/
structure Picture where
  slots     : List (Nat × SrcFrame)
  newest    : Option Nat
  capturing : Option Nat
  dropping  : Bool
  submit    : List (Nat × Nat)
  bound     : Option Nat
  recs      : List FrameRec
  reals     : List (Nat × Nat × Nat)
  cut       : Nat
  heldFor   : Nat
  lastRow   : Nat
  ofStart   : Nat
  hotRows   : List HotRing
  deriving DecidableEq, Repr

/-- The gang a channel 0 or 2 leads: GANG_CTRL in force (SET 0: none), and the change accepted for a tick
(R197). -/
structure Gang where
  ctrl    : Nat
  pending : Option (Nat × Nat)
  deriving DecidableEq, Repr

/-- A service change accepted for tick `t` (R493), with its mode and whether it is for the whole gang. -/
structure SvcChange where
  t    : Nat
  mode : Nat
  all  : Bool
  deriving DecidableEq, Repr

/-- Changes of a channel that wait for a tick: a service change (R493), a park (1), gate (2) or return
(0) of power (R453) with the tick it was accepted in, a substitution (R495: its tick and logical core), a self-test
(R496: its tick and target; once it runs, the state its slot had and its target) and a channel reset (R494: whether its
edge has passed). While a change of power waits, `was` is the power state the channel is in (R452). -/
structure ChPending where
  svc    : Option SvcChange
  power  : Option (Nat × Nat)
  was    : Nat
  subst  : Option (Nat × Nat)
  test   : Option (Nat × Nat)
  reset  : Option Bool
  deriving DecidableEq, Repr

/-! ## Composition and display (R259 to R300) -/

/-- Three components of a pixel. -/
structure Px where
  a : Nat
  b : Nat
  c : Nat
  deriving DecidableEq, Repr

/-- A composition set (R263): its address and the 1,088 bytes of the working copy (R277). -/
structure CompSet where
  addr  : Nat
  bytes : List Byte
  deriving DecidableEq, Repr

/-- A bank of tables (R275): the 3D LUT's and the tone curves' bytes. -/
structure CompBank where
  lut : List Byte
  tcs : Per4 (List Byte)
  deriving DecidableEq, Repr

/-- A region's state (R280 to R284): an action in force, what its next frame start brings, its matches in
sequence, the CRC register, its FREEZE store with the half that holds a match, and the half being written. -/
structure Region where
  active  : Bool
  begins  : Bool
  ends    : Bool
  cleared : Bool
  matched : Nat
  crc     : Nat
  store   : Nat
  good    : Option Nat
  half    : Nat
  deriving DecidableEq, Repr

/-- What DPn transmits in a tick (R190): nothing in blanking or while its lanes are idle, the fill code for a
segment, or a segment's pixels. -/
inductive DpOut where
  | idle | blank
  | fill (n : Nat)
  | pixels (l : List Px)
  deriving DecidableEq, Repr

/-- A composition pipe: the tick at which the output frame in progress started, whether the snapshot of the
next frame has been taken, the set in force (none: the default set of R266) and its bank, the set that takes
effect at the next frame start, the set whose tables are loading with the frame starts it has seen and the
idle bank once loaded, a set that waits behind it (R275), FILL as of the frame start, the layers replaced for
HDCP (R292), whether protected content was cut off in this frame, whether this frame has had a layer underrun,
the video pixels of the row, the row before and the row so far (for 4:2:0), the segment composed in this tick
with the CRC of its Format output (R435) and what DPn transmits, the regions, and COMP_READ_MAX in force and as the last
TP_LOAD took it (R299). -/
structure Comp where
  frame    : Option Nat
  snapped  : Bool
  force    : Option CompSet
  bank     : CompBank
  next     : Option CompSet
  loading  : Option CompSet
  loadAge  : Nat
  idle     : Option CompBank
  behind   : Option CompSet
  fill     : Px
  blocked  : List Nat
  cutOff   : Bool
  underran : Bool
  video    : Option (List Byte)
  prevRow  : List Px
  curRow   : List Px
  seg      : Option (List Px)
  segCrc   : Nat
  sent     : DpOut
  regions  : List Region
  readMax  : Nat
  readNext : Nat
  deriving DecidableEq, Repr

/-- The settings of a display output that DP_APPLY stages (R285, R287). -/
structure DpCfg where
  ctrl      : Nat
  hactive   : Nat
  hfront    : Nat
  hsync     : Nat
  hback     : Nat
  vactive   : Nat
  vfront    : Nat
  vsync     : Nat
  vback     : Nat
  lineTicks : Nat
  slices    : Nat
  bpp       : Nat
  deriving DecidableEq, Repr

/-- A display output: the settings in force, the ones accepted for a tick, failed training attempts in
sequence, whether HPD is high, whether it shows the safe picture and with which CTA-861 timing (R193), the data bytes of the
last marker sent and of the frame's own (R293). -/
structure DpLink where
  cfg      : DpCfg
  pending  : Option (Nat × DpCfg)
  attempts : Nat
  hpd      : Bool
  safe     : Bool
  vic      : Nat
  marker   : List Byte
  sdp      : List Byte
  deriving DecidableEq, Repr

/-! ## Kister Link, the SYNC chain and twins (R414 to R450) -/

/-- The timing decisions of one tick of a channel (R435, R436): the output frame, the frame that began with
its slot, the record bound, the set accepted with its CRC (address 0: the set in force is kept), the rows
substituted (count and first), the CRC of the segment handed over and the input state. `shadow` tells that
the decisions were made as a shadow and are not in force. -/
structure Decision where
  ch     : Nat
  tick   : Nat
  ofn    : Nat
  begun  : Option (Nat × Nat)
  bind   : Option FrameRec
  snap   : Option (Nat × Nat)
  subst  : Option (Nat × Nat)
  seg    : Nat
  input  : Nat
  shadow : Bool
  deriving DecidableEq, Repr

/-- The effect of a write in a pair that waits for an edge (R438): STRICT_ALL, FILL or a mask of CLOSURE_CLEAR. -/
inductive PairEffect where
  | strictAll (on : Bool)
  | fill (bytes : List Byte)
  | clear (mask : Nat)
  deriving DecidableEq, Repr

/-- A waiting effect of a channel: it is taken at the first edge of its kind at tick `tick` or later (R438; DEDUCED, log entry
150). -/
structure PairWait where
  ch     : Nat
  tick   : Nat
  effect : PairEffect
  deriving DecidableEq, Repr

/-- A twin pair: the device's own decisions of ticks not yet applied, the decisions of the datums received
and not yet applied, the swap accepted for a tick, the
consecutive output frames in which every segment matched and whether the present one does, whether a join is under
way, the tick of the last promotion, the tick in which KL0 of a standby went DOWN (R441), the tick at which this device
became the active by a swap (R443), the mirror messages that follow the datum of the present tick, by channel (R435), the
writes whose effect waits, and, while a mirrored write is executed, the tick of its effect here (R438). -/
structure Pair where
  own     : List Decision
  heard   : List Decision
  swap    : Option Nat
  frames  : Nat
  clean   : Bool
  joining : Bool
  promoted : Option Nat
  downAt   : Option Nat
  swapped  : Option Nat
  mirrors  : List (Nat × KlMsg)
  waits    : List PairWait
  effect   : Option Nat
  deriving DecidableEq, Repr

/-- A publication a port receives (R423): its tag, its filter, whether attention was raised for a line it may not write
(R424), its class, and whether the coherence points of the owner set's memory have accepted its OPEN (R158). -/
structure RxPub where
  tag     : Nat
  filter  : List Nat
  dropped : Bool
  cls     : Nat
  opened  : Bool
  deriving DecidableEq, Repr

/-- A Kister Link port: the window and baton tables in force (R422, R425), the tables accepted with the tick
of their acceptance, consecutive attempts of one flit that failed and the last sequence number received
intact (R418), the publications the peer has open, the slots received of a message that spans flits (R417), the slots
taken of each virtual channel and not yet returned (R416), the number of the next flit sent, and the flits sent that the
peer has not acknowledged, oldest first and at most 512 (R418). -/
structure KlLink where
  windows : List Byte
  batons  : List Byte
  pending : Option (Nat × List Byte × List Byte)
  fails   : Nat
  rxSeq   : Nat
  rxPubs  : List RxPub
  rxSlots : List Byte
  owed    : Per4 Nat
  txSeq   : Nat
  replay  : List (List Byte)
  deriving DecidableEq, Repr

/-- The SYNC chain (R427 to R432): the cycle the head sent its last mark, the cycle and width of the mark on
SYNC_OUT, the cycle the last mark arrived with the edge it places, whether a start line runs on the head,
whether an ARM flag has come back, and whether the next edge is the one a START mark placed. -/
structure SyncChain where
  sent   : Option Nat
  out    : Option (Nat × Nat)
  mark   : Option (Nat × Nat)
  run    : Bool
  armed  : Bool
  start  : Bool
  deriving DecidableEq, Repr

/-! ## Attention, dictionary transport and mailboxes (R335 to R364) -/

/-- One attention entry (R355). `channel` is 0xFF for none. -/
structure AttnEntry where
  seq     : Nat
  code    : Nat
  channel : Nat
  index   : Nat
  sub     : Nat
  detail  : Nat
  tick    : Nat
  deriving DecidableEq, Repr

/-- An attention log (R355, R356): the newest SEQ, the acknowledged SEQ, the oldest SEQ retained, the
entries overwritten and the retained entries, newest first. -/
structure AttnLog where
  newest  : Nat
  acked   : Nat
  first   : Nat
  dropped : Nat
  entries : List AttnEntry
  deriving DecidableEq, Repr

/-- A dictionary request that waits for Marshal (R349, R350): its requester, the doorbell's TAG, the frame, and whether the
policy in force when it was queued admits its client (R485). -/
structure DictRequest where
  src      : Req
  tag      : Nat
  frame    : List Byte
  admitted : Bool
  deriving DecidableEq, Repr

/-- The dictionary window of one function (R349). -/
structure DictWindow where
  req     : List Byte
  reply   : List Byte
  busy    : Bool
  overrun : Bool
  tag     : Nat
  deriving DecidableEq, Repr

/-- A T1 client (R348): its address and the TAGs and replies of its last 16 executed requests, newest
first. The client list is kept most recently heard first. -/
structure T1Client where
  ip   : Nat
  port : Nat
  kept : List (Nat × List Byte)
  deriving DecidableEq, Repr

/-- The segment buffer of one requester (R347). -/
structure Segment where
  who   : Req
  index : Nat
  sub   : Nat
  data  : List Byte
  deriving DecidableEq, Repr

/-- A mailbox (R358): the pointer register as the sender last wrote it (R339), the notice it holds and its acknowledge
register. -/
structure Mailbox where
  reg     : Nat
  pending : Bool
  ptr     : Nat
  tag     : Nat
  seq     : Nat
  rc      : Nat
  deriving DecidableEq, Repr

/-- A BAR2 access that arrived while the device entered P2 or was in it (R464): function, address, and the length with the
errors the read meets, or the bytes. -/
inductive BarAccess where
  | read (f addr len : Nat) (ecc : Ecc)
  | write (f addr : Nat) (bytes : List Byte)
  deriving DecidableEq, Repr

/-- A PCI Express function's configuration bits (R337). -/
structure PcieFn where
  busMaster : Bool
  atomicEn  : Bool
  deriving DecidableEq, Repr

/-! ## Contexts, batons, queues and courses (R365 to R399) -/

/-- CTX_STATE of a context that exists (R367); a FREE context is absent. -/
inductive CtxState where
  | active | faulted | teardown
  deriving DecidableEq, Repr

/-- The record of CTX_FAULT (R399). -/
structure FaultRec where
  code  : Nat
  queue : Nat
  chan  : Nat
  tick  : Nat
  deriving DecidableEq, Repr

/-- A context (R366, R367, R386). `edges` holds, in TEARDOWN, the channels whose teardown edge has
passed, and `since` the ticks of the channels when it entered TEARDOWN (R387). -/
structure Context where
  state    : CtxState
  owner    : Nat
  asid     : Nat
  strict   : Bool
  hostRefs : Nat
  fault    : FaultRec
  edges    : List Nat
  since    : Per4 Nat
  deriving DecidableEq, Repr

/-- Who signalled a baton last (R381). -/
inductive Signaller where
  | none | queue (q : Nat) | host (f : Nat) | t1 | program (ch : Nat) | marshal
  deriving DecidableEq, Repr

/-- A baton that is not FREE (R378 to R381). -/
structure Baton where
  value    : Nat
  lastTick : Nat
  lastSig  : Signaller
  owner    : Option Nat
  shares   : List Nat
  inError  : Bool
  errCode  : Nat
  errOrig  : Nat
  errDet   : Nat
  deriving DecidableEq, Repr

/-- A command: its 48-byte header fields (R370) and its body bytes, with the generation it was fetched under
and the SEED its replay record takes (R448). -/
structure Cmd where
  op        : Nat
  cls       : Nat
  immediate : Bool
  waitEn    : Bool
  signalEn  : Bool
  ring      : Bool
  wcet      : Nat
  waitBaton : Nat
  sigBaton  : Nat
  waitValue : Nat
  sigValue  : Nat
  user      : Nat
  addr      : Nat
  body      : List Byte
  gen       : Nat
  seed      : Nat
  /-- Of a retired command whose context keeps a replay log (R448): STEP, TICK and QSEQ of its record. -/
  stamp     : Option (Nat × Nat × Nat)
  deriving DecidableEq, Repr

/-- How a command retired (R375, R382): error code (0 for a normal completion), the origin of a copied
error, the command status, and whether it ran. -/
structure Ending where
  code   : Nat
  origin : Option Nat
  detail : Nat
  status : Nat
  ran    : Bool
  deriving DecidableEq, Repr

/-- A command of a queue between its fetch and its completion, in queue order (R375). -/
structure Track where
  id      : Nat
  cmd     : Cmd
  outcome : Option Ending
  deriving DecidableEq, Repr

/-- Where a queue's head command is (R372). -/
inductive HeadPhase where
  | fetched | running (run : Nat) | killed | launched (launch : Nat)
  deriving DecidableEq, Repr

/-- The head of a queue or a course node: its track, phase, and the generation and tick at which it
became ready (R373, R385). -/
structure Head where
  track : Nat
  cmd   : Cmd
  phase : HeadPhase
  gen   : Nat
  deriving DecidableEq, Repr

/-- A queue that exists (R369 to R375, R382, R385). `ahead` tells that the entry after the buffer in hand has been fetched
(R371). -/
structure Queue where
  ctx        : Nat
  engine     : Nat
  ch         : Nat
  cls        : Nat
  base       : Nat
  entries    : Nat
  ring       : Nat
  ringN      : Nat
  wptr       : Nat
  rung       : Bool
  idle       : Bool
  sampled    : Nat
  rptr       : Nat
  bufAddr    : Nat
  bufBytes   : Nat
  bufOff     : Nat
  head       : Option Head
  order      : List Track
  nextSeq    : Nat
  consumed   : Nat
  ringDrops  : Nat
  lap        : Nat
  readyTicks : Nat
  stalled    : Bool
  stopped    : Bool
  closing    : Bool
  ahead      : Bool
  deriving DecidableEq, Repr

/-- One node of a course version (R394). -/
structure CourseNode where
  engine : Nat
  dep0   : Nat
  dep1   : Nat
  cmd    : Nat
  deriving DecidableEq, Repr

/-- COURSE_STATUS state (R399). -/
inductive CourseState where
  | checking | ready | refused
  deriving DecidableEq, Repr

/-- A course that is not FREE (R394, R395): its versions, newest first; the table whose check runs, the
version that waits for its edge, and the ticks of the channels when its check passed. -/
structure Course where
  state    : CourseState
  ctx      : Nat
  cls      : Nat
  code     : Nat
  failNode : Nat
  version  : Nat
  versions : List (Nat × List CourseNode)
  checking : Option Nat
  waiting  : Option (List CourseNode)
  since    : Per4 Nat
  deriving DecidableEq, Repr

/-- A node of a running course launch (R396): `ended` tells how it ended while its completion waits for every earlier command
of the queue (R375), `done` that it has completed. -/
inductive NodePhase where
  | waiting | fetched (h : Head) | ended (c : Cmd) (o : Ending) | done (o : Ending)
  deriving DecidableEq, Repr

/-- A course launch in progress (R396), with the heat whose step it is (R401). -/
structure Launch where
  course  : Nat
  version : Nat
  queue   : Nat
  track   : Nat
  nodes   : List CourseNode
  phases  : List NodePhase
  heat    : Option Nat
  admitted : Bool
  deriving DecidableEq, Repr

/-- A heat that is not FREE (R402): the address of its record, and the requests deferred at an earlier
admission. Its counters and state are dictionary objects. -/
structure Heat where
  ctx  : Nat
  addr : Nat
  seen : List Nat
  deriving DecidableEq, Repr

/-! ## Running commands, cores and publications (R65 to R164) -/

/-- An entry of a group's reconvergence stack (R119): it is popped when the running lanes reach
`reconv`, and its lanes then run from `addr`. -/
structure StackEntry where
  reconv : Nat
  addr   : Nat
  mask   : LaneMask
  calls  : List Nat
  deriving DecidableEq, Repr

/-- A view of R90 as a matrix slot holds it: the view record's fields and its memory space. -/
structure View where
  ebase   : Nat
  sbase   : Nat
  rows    : Nat
  cols    : Nat
  estride : Nat
  sstride : Nat
  fmt     : Nat
  sp      : MSpace
  deriving DecidableEq, Repr

/-- An open tile slot of a group (R138 to R142). -/
structure Tile where
  frag  : Nat
  cfg   : Nat
  va    : View
  vb    : View
  i0    : Nat
  j0    : Nat
  k0    : Nat
  n     : Nat
  eAcc  : Int
  count : Nat
  deriving DecidableEq, Repr

/-- Why a group does not issue (R116, R123, R124, R129, R157). -/
inductive GroupWait where
  | none
  | barB (n : Nat)
  | barC
  | commit (status : Nat)
  | load (dst size : Nat) (lanes : List (Nat × Nat))
  deriving DecidableEq, Repr

/-- The inputs the rasteriser gives a fragment group (R234): triangle index, facing, and each lane's pixel
and BARY word. -/
structure Fragment where
  prim  : Nat
  front : Bool
  pix   : List (Nat × Nat)
  bary  : List Nat
  deriving DecidableEq, Repr

/-- A group of a resident block. Registers are kept sparsely, key lane * 256 + register, no entry 0. -/
structure Group where
  regs   : List (Nat × Word32)
  mask   : LaneMask
  exited : LaneMask
  pc     : Nat
  stack  : List StackEntry
  calls  : List Nat
  wait   : GroupWait
  tiles  : Per4 (Option Tile)
  issued : Nat
  frag   : Option Fragment
  deriving DecidableEq, Repr

/-- A block of a launch that has started. `core` is the logical index in the die (0-15), `bls` its
block-local bytes (sparse, no entry 0) and `staged` the bytes it has staged, by memory key. `committed`
is set when the block ends: with the status of its COMMIT, or none when its last thread exited. -/
structure Block where
  index     : Nat
  core      : Nat
  groups    : List Group
  bls       : List Host.Cell
  staged    : List Host.Cell
  committed : Option (Option Nat)
  deriving DecidableEq, Repr

/-- A deferred operation of R106 (SADD, SSUB), an append of R164 in strict order, or a deferred FREE
(R136). The canonical order of R106 is block, then issue number, group and lane as they stand here. -/
inductive DeferKind where
  | sadd (is64 : Bool) | ssub (is64 : Bool) | append | free
  deriving DecidableEq, Repr

/-- One deferred operation with its canonical key (R106). Its word is memory key `addr`, or offset `addr` of the
block-local storage of block `home`. -/
structure Defer where
  block : Nat
  group : Nat
  lane  : Nat
  seq   : Nat
  kind  : DeferKind
  home  : Option Nat
  addr  : Nat
  value : Nat
  entry : Nat
  deriving DecidableEq, Repr

/-- A generation of an address space (R316, R331). -/
structure Gen where
  num     : Nat
  addr    : Nat
  count   : Nat
  allocVa : Nat
  allocEn : Bool
  deriving DecidableEq, Repr

/-- Where a running command came from. -/
inductive Origin where
  | queue (q track : Nat)
  | node (launch index : Nat)
  | slot (ch variant index : Nat)
  deriving DecidableEq, Repr

/-- Where a raster pass stands (R237 to R246): before its start, binning, waiting for its pool to grow,
rasterising its listed tiles, and resolved. -/
inductive PassPhase where
  | fresh | binning | growing | tiles | resolved
  deriving DecidableEq, Repr

/-- A raster pass in progress (R237 to R246). `direct` is the mode it runs in and `auto` that AUTO has yet
to decide; `next` is the next primitive to bin and `skip` how many of its entries are listed; `entries`
counts the entries of the primitives binned. `lists` holds the triangles listed for each tile, `touched` the
tiles that have had an entry, `stored` the tiles in the stage, and `drawn` the primitive and entry before
which everything is in the stage. `poolKb` is the pool's size, `chunks` and `stageCh` the allocator chunks
of pool and stage. `final` tells that the tiles being worked are the last; `tile`, `prim` and `stamp` say
where the rasteriser stands and `opened` that the tile is loaded. `pix` are render-tile bytes and `stage`
those of the stage (key: target, row, column, byte), `slots` the pre-checked memory keys of every block's metadata byte
and data slot (R245), and `widths` the bytes per pixel of colour targets 0-3 and
depth. -/
structure Pass where
  phase   : PassPhase
  direct  : Bool
  auto    : Bool
  next    : Nat
  skip    : Nat
  entries : Nat
  lists   : List (Nat × List Nat)
  touched : List Nat
  stored  : List Nat
  drawn   : Nat × Nat
  poolKb  : Nat
  chunks  : List Nat
  stageCh : List Nat
  final   : Bool
  tile    : Nat
  prim    : Nat
  stamp   : Nat
  slots   : List (List (Nat × Nat) × List (Nat × Nat))
  opened  : Bool
  pix     : List Host.Cell
  widths  : List Nat
  stage   : List Host.Cell
  deriving DecidableEq, Repr

/-- A command that runs on units of a channel (R65 to R72). `units` is a mask in UNIT_MAP order.
`body` is the launch body its groups run
under (R112, R234). `tally` holds what its seal adds to counters, by object key
(R227, R258). `finished` is set when its last output is staged (R69, R130, R372); it seals once every destination has
accepted its OPEN marker (R157). `peerOpen` holds the ports that were sent its OPEN, each with whether it has stayed UP
(R423, R426). -/
structure Run where
  origin   : Origin
  cmd      : Cmd
  body     : List Byte
  eng      : Engine
  ctx      : Nat
  asid     : Nat
  gen      : Gen
  strict   : Bool
  ch       : Nat
  cls      : Nat
  units    : Nat
  map      : Nat
  window   : Nat
  wcet     : Nat
  start    : Nat
  tick     : Nat
  blocks   : List Block
  nextBlk  : Nat
  status   : Nat
  staged   : List Host.Cell
  stagedN  : Nat
  defers   : List Defer
  calls    : Nat
  pass     : Option Pass
  cut      : Nat
  tally    : List (Nat × Nat)
  notice   : Option (Nat × Nat)
  opens    : List (CohPoint × List Nat)
  peerOpen : List (Nat × Bool)
  waited   : Bool
  finished : Bool
  deriving DecidableEq, Repr

/-- A publication under way (R157, R160): the outputs still to land, the coherence points that hold its
filter, and the far acknowledgements it waits for. `prior` holds the lines that have landed as they were before (R415), and
`exports` the ports its lines are forwarded over, with their windows at the seal (R423). -/
structure Pub where
  origin  : Origin
  cmd     : Cmd
  ctx     : Nat
  asid    : Nat
  gen     : Gen
  ch      : Nat
  cls     : Nat
  status  : Nat
  cells   : List Host.Cell
  defers  : List Defer
  opens   : List (CohPoint × List Nat)
  landed  : List Nat
  prior   : List (Nat × List Byte)
  exports : List (Nat × List Byte)
  claims  : List (Nat × Nat)
  peer    : List (Nat × Nat)
  failed  : Nat
  deriving DecidableEq, Repr

/-- A lock tag (R145) and its sibling-wait record (R146). The word is memory key `addr`, or offset `addr`
of the block-local storage of block `home` of the run. -/
structure Tag where
  unit    : TagUnit
  addr    : Nat
  home    : Option Nat
  is64    : Bool
  run     : Nat
  ctx     : Nat
  core    : Nat
  block   : Nat
  group   : Nat
  lane    : Nat
  t0      : Option Nat
  further : Bool
  deriving DecidableEq, Repr

/-- Who waits with a load that an open publication holds (R157): a group, an engine command or a publication's atomic unit,
the fetch or a completion of a queue, the host, a composition pipe, or a slot of a channel's tick program. -/
inductive Holder where
  | group (g : GroupRef)
  | run (id : Nat)
  | queue (q : Nat)
  | host
  | comp (ch : Fin 4)
  | slot (ch : Fin 4) (i : Nat)
  deriving DecidableEq, Repr

/-- A held load (R157, R165): who waits, the field die it reads from (none: from the hub), its memory key and the
cycle from which it is held. -/
structure Hold where
  who   : Holder
  die   : Option (Fin 4)
  key   : Nat
  since : Nat
  deriving DecidableEq, Repr

/-! ## Caches (R310 to R315) -/

/-- Where a cache slice stands (R314, R315). The tick is that of the edge from which the new state holds: an
enabled slice serves from it, a scanned or departing one reads HANDOVER from it. A drained slice has departed and holds no
dirty line; its addresses pass at an edge. -/
inductive SlicePhase where
  | off | invalidating
  | upAt (t : Nat)
  | scanAt (t : Nat)
  | backAt (t : Nat)
  | departAt (t : Nat)
  | drained
  deriving DecidableEq, Repr

/-- A line a slice holds: the memory key of its first byte divided by 64, the address space it was read for
(0 for channel memory), its replacement bit and whether it is dirty. -/
structure CacheLine where
  line  : Nat
  asid  : Nat
  used  : Bool
  dirty : Bool
  deriving DecidableEq, Repr

/-- A stream tracker (R312): its port, the line a stream would go on with, the misses in sequence and the
cycle of the last one. -/
structure Tracker where
  port : Nat
  next : Nat
  run  : Nat
  last : Nat
  deriving DecidableEq, Repr

/-- A cache slice: its lines by 16 × set + way, and its trackers. -/
structure CacheSlice where
  phase    : SlicePhase
  lines    : List (Nat × CacheLine)
  trackers : List Tracker
  deriving DecidableEq, Repr

/-- The slices of a channel: die L2 slices 0 to 3 and system-cache half-slices 0 and 1. -/
structure Caches where
  l2 : Per4 CacheSlice
  h0 : CacheSlice
  h1 : CacheSlice
  deriving DecidableEq, Repr

/-! ## Translation and the allocator (R301 to R334) -/

/-- State of an installation or trim of an address space (AS_STATUS, R329). -/
inductive AsPhase where
  | idle | checking | pending | draining | done | refused
  deriving DecidableEq, Repr

/-- A descriptor of a range table (R317). -/
structure RangeDesc where
  start  : Nat
  length : Nat
  pbase  : Nat
  attr   : Nat
  tail   : Nat
  deriving DecidableEq, Repr

/-- A descriptor in a range cache (R319), with its address space and generation, and its replacement bit. -/
structure RangeLine where
  asid  : Nat
  gen   : Nat
  desc  : RangeDesc
  used  : Bool
  deriving DecidableEq, Repr

/-- An address space (R316): the generation in force on each channel, the newest, the one before it until that is acknowledged
(R322), and the acknowledged one;
the installation, trim or empty table of R388 in hand, with the ticks of the channels when it became PENDING
and the channels that have passed their edge. `empty` tells that the empty table of R388 is wanted once what is in hand is
acknowledged, and `making` that it is what is in hand. `trimSel` lists the chunks a trim selected, channel and chunk (R328), and `trimRuns` the runs and
publications that must end before they are freed. -/
structure AddrSpace where
  force    : Per4 Gen
  newest   : Gen
  prior    : Option Gen
  ack      : Nat
  next     : Option Gen
  phase    : AsPhase
  trim     : Bool
  code     : Nat
  failIdx  : Nat
  passed   : List Nat
  since    : Per4 Nat
  empty    : Bool
  making   : Bool
  trimSel  : List (Nat × Nat)
  trimRuns : List Nat
  deriving DecidableEq, Repr

/-- A live allocation of the device-side allocator (R325, R326); `kv` marks the key-value memory of a heat's sequence, which
only leave(s), HEAT_DESTROY or teardown frees (R407). -/
structure Alloc where
  size : Nat
  asid : Nat
  ctx  : Nat
  prov : Option Nat
  priv : Bool
  kv   : Bool
  deriving DecidableEq, Repr

/-- The allocator of one channel (R322 to R327): the pool in force, the staged one with the tick it was staged in,
its zeroed chunks, whether every chunk has been zeroed since the pool took effect, the live allocations by
device address, and the chunks that running commands have taken, command and chunk (R326). Owner entries and granule maps lie in channel memory. -/
structure Allocator where
  base   : Nat
  chunks : Nat
  staged : Option (Nat × Nat)
  asOf   : Nat
  zeroed : List Nat
  ready  : Bool
  allocs : List (Nat × Alloc)
  taken  : List (Nat × Nat)
  deriving DecidableEq, Repr

/-! ## Marshal, services and observation (R34, R353, R354, R505 to R512) -/

/-- MARSHAL_STATE (R354). -/
inductive MarshalState where
  | rom | loading | running | updating | recovery
  deriving DecidableEq, Repr

/-- A channel's service state (R34). -/
inductive Service where
  | offline | reduced | inService | covered
  deriving DecidableEq, Repr

/-- The rollback policy in force (R483, R484); version 0 is none. -/
structure Policy where
  version   : Nat
  flags     : Nat
  owner     : List Byte
  floors    : List Nat
  allow     : List (Nat × Nat)
  certFloor : Nat
  deriving DecidableEq, Repr

/-- Values of a channel that follow a written object only at a tick edge: STRICT_ALL (R105), CACHE_RES
(R313), the addresses of protected content (R321), and the power state and READY of CH_SUMMARY (R520). -/
structure Latched where
  strictAll : Bool
  cacheRes  : Nat
  protect   : List (Nat × Nat)
  pstate    : Nat
  ready     : Bool
  deriving DecidableEq, Repr

/-- What Marshal keeps of an image (R479): its signer, versions, the RETRAIN flag, its payload's digest,
and whether it came from flash. -/
structure Image where
  signer  : Nat
  version : Nat
  build   : Nat
  model   : Nat
  retrain : Bool
  digest  : List Byte
  flash   : Bool
  deriving DecidableEq, Repr

/-- A unit's images (R478, R489, R492): the running one, the staged one, the first tick at which a pending
apply may fall, and whether the unit waits for an image it has lost. -/
structure UnitImage where
  running : Option Image
  staged  : Option Image
  apply   : Option Nat
  needed  : Bool
  deriving DecidableEq, Repr

/-- The core slots of a die (R495): the slot of each logical core, and the state of each slot. -/
structure CoreSlots where
  map   : List Nat
  state : List Nat
  deriving DecidableEq, Repr

/-- Why every clock stands still: the thermal trip (R547) or the loss of SYS_REFCLK (R543), or the
power-on reset holds until the supplies are back (R540). -/
inductive Halt where
  | trip | refclk | supply
  deriving DecidableEq, Repr

/-- How far standby entry has come (R462 to R465): not entering; accepted in a tick of channel 0; in step E1 to
E6; undoing the steps; in P2; returning. -/
inductive P2Phase where
  | awake | asked (t : Nat) | entry (step : Nat) | undoing | standby | returning
  deriving DecidableEq, Repr

/-- The device's power state beside its objects: standby entry with its mode (WINDOW or ABORT) and the wake sources
seen in it, the pad groups the entry latched, the pad groups whose release waits for their domain (R471), the unit
domains that stay ON until a frame ends (bit n: PD 112 + n, R456), those that go OFF at the edge that has come, those that
have been ON and were switched off (R467), the code on VREQ with the cycle from which VDD_FIELD is in range (R458, R537), THERM_ALERT_N low (R547), and the endpoint resets that wait for the return (R471;
0 stands for PF0 and every VF). -/
structure Power where
  p2      : P2Phase
  window  : Bool
  woken   : Nat
  latched : Nat
  release : Nat
  linger  : Nat
  off     : Nat
  reached : Nat
  vreq    : Nat
  vreqAt  : Nat
  hot     : Bool
  resets  : List Nat
  deriving DecidableEq, Repr

/-- Lending of a channel's budget (R469, R470): idle ticks in sequence, whether a command of classes 1 to 3 started
in this tick, whether the channel lends, and the cycle from which its home OPP may take effect after lending. -/
structure Lend where
  idle    : Nat
  started : Bool
  lending : Bool
  backAt  : Option Nat
  deriving DecidableEq, Repr

/-- What the T1 port sends (R342, R343): an ARP probe for an address, an announcement of one, an ARP reply, an ICMP echo
reply with the request's identifier and sequence number, or a UDP datagram from port 19544 with its destination address, port
and payload. -/
inductive T1Frame where
  | probe (ip : Nat)
  | announce (ip : Nat)
  | arp (ip mac : Nat)
  | echo (ip ident : Nat) (data : List Byte)
  | udp (ip port : Nat) (data : List Byte)
  deriving DecidableEq, Repr

/-- A trace record (R505), with the cycle at which the buffer took it. -/
structure TraceRec where
  kept  : Nat
  type  : Nat
  chan  : Nat
  unit  : Nat
  cls   : Nat
  seq   : Nat
  tick  : Nat
  cycle : Nat
  arg0  : Nat
  arg1  : Nat
  deriving DecidableEq, Repr

/-- The trace filter in force on a channel (R507). -/
structure TraceFilter where
  ctrl    : Nat
  types   : Nat
  classes : Nat
  ctx     : Nat
  watch   : List Nat
  deriving DecidableEq, Repr

/-- Counts of one window of one unit in the open report (R511). -/
structure SplitWin where
  owner    : Nat
  backfill : Nat
  killed   : Nat
  cycles   : Nat
  starts   : Nat
  seals    : Nat
  kills    : Nat
  slack    : Nat
  lastSeal : Option Nat
  deriving DecidableEq, Repr

/-- RUNS and MAX_SEAL of one slot in SPLIT_STAGE (R512); MODEL_SEAL is the program's. -/
structure SplitStage where
  runs : Nat
  max  : Nat
  deriving DecidableEq, Repr

/-- The trace ring named by the newest TRACE_RING notice (R509): descriptor key, BASE, ENTRIES and the
next record number. -/
structure TraceRing where
  desc    : Nat
  base    : Nat
  entries : Nat
  wptr    : Nat
  deriving DecidableEq, Repr

/-- What a channel's observation keeps: the filter in force, records dropped since its last LOST, the
cycle until which its capture queue is draining (R508), the open report and the closed one (R511), the
length of the open report in ticks and its target, the slots' counters (R512), whether a clear of them
waits for the edge, and the ticks of the last MARK and TIMEREF records (R506). -/
structure Observe where
  filter  : TraceFilter
  lost    : Nat
  drain   : Nat
  split   : List (Nat × SplitWin)
  closed  : List (Nat × SplitWin)
  ticks   : Nat
  target  : Nat
  stage   : List (Nat × SplitStage)
  clear   : Bool
  marked  : Option Nat
  refd    : Option Nat
  deriving DecidableEq, Repr

/-! ## Faults and refusals of the model -/

/-- Why a step of the model stops with a fault. No command of the block faults in this model: what the
specification describes as a fault of a command or a context is a next state (R150, R383), and a stop
of the whole device (R543, R547) is a state in which later commands change nothing. -/
inductive Fault where
  /-- Raised by nothing; the type is not empty so that a fault can be named. Safe. -/
  | none
  deriving DecidableEq, Repr

/-- Why the model refuses a command. -/
inductive Refusal where
  /-- The command has no meaning in this model yet; raised only by arms of `exec`. Safe. -/
  | notModelled (mnemonic : String)
  deriving DecidableEq, Repr

/-! ## The state -/

/-- The whole block. -/
structure State where
  /-- Time in TCLK cycles since the Pacer block left reset (R52, R57). -/
  now       : Nat
  /-- The address of a composition read of the command in progress that met an uncorrectable error (R308). -/
  readFault : Option Nat
  /-- The model's own counter of free values used (Config.freeValue; log entry 3). -/
  fresh     : Nat
  /-- Every plain numeric dictionary object and counter, by key (Machine/Objects.lean). -/
  objs      : List (Nat × Nat)
  /-- Stored octet and string objects, by key. -/
  octs      : List (Nat × List Byte)
  /-- Channel memory at device addresses below 2^34 and host memory at 2^64 + bus address. -/
  mem       : List Host.Cell
  pacers    : Per4 Pacer
  /-- The device log, shared by PF0 and T1 (R355), and the VF logs by function. -/
  devLog    : AttnLog
  vfLogs    : List (Nat × AttnLog)
  /-- Events that raised attention in the present cycle, with the function whose log takes each, in the order of R355. -/
  raised    : List (Nat × AttnEntry)
  /-- Events that raised attention while Marshal is being replaced, with the function of their context, oldest first
  (R491). -/
  heldAttn  : List (Nat × AttnEntry)
  /-- REPLY_CODE of the last request executed (R351). -/
  reply     : Nat
  /-- The T1 request being executed was admitted when it was queued (R485). -/
  queuedOk  : Bool
  marshalQ  : List DictRequest
  windows   : List (Nat × DictWindow)
  t1Clients : List T1Client
  segments  : List Segment
  /-- What the T1 port has sent, oldest first. -/
  t1Out     : List T1Frame
  /-- The ARP cache of the T1 port (R343): addresses with their MAC addresses, the latest first. -/
  arp       : List (Nat × Nat)
  mboxes    : List (Nat × Mailbox)
  pcieFns   : List (Nat × PcieFn)
  /-- The functions whose reset is not complete (R338). -/
  underReset : List Nat
  /-- BAR2 accesses held until the return from P2 ends, oldest first (R464). -/
  barWait   : List BarAccess
  ctxs      : List (Nat × Context)
  batons    : List (Nat × Baton)
  queues    : List (Nat × Queue)
  courses   : List (Nat × Course)
  launches  : List (Nat × Launch)
  /-- The next identifier of a track, run, launch or publication. -/
  nextId    : Nat
  runs      : List (Nat × Run)
  pubs      : List (Nat × Pub)
  tags      : List Tag
  /-- Loads that open publications hold (R157, R165). -/
  holds     : List Hold
  /-- Quads reserved by a launch that waits for a busy quad (R373): channel, class and the launch. -/
  quadHolds : List (Nat × Nat × Origin)
  /-- Heats by 16 × channel + heat. -/
  heats     : List (Nat × Heat)
  spaces    : List (Nat × AddrSpace)
  caches    : Per4 Caches
  /-- The range caches (R319), by unit: 32 for each channel, core slots 0 to 16, then BEARING, TRAVERSE, RASTER, COPY. -/
  ranges    : List (Nat × List (Nat × RangeLine))
  /-- The owner cache of each channel's walker (R319): chunks by device address over 64 KB, the latest first. -/
  owners    : Per4 (List Nat)
  /-- The 64 KB texture cache of each quad of a channel (R254): the 64-byte lines it holds, newest first. -/
  texCaches : Per4 (Per4 (List Nat))
  allocs    : Per4 Allocator
  /-- The status U32 of each CMD object that has been written (R346), by key. -/
  cmdStatus : List (Nat × Nat)
  marshal   : MarshalState
  service   : Per4 Service
  halt      : Option Halt
  policy    : Policy
  pictures  : Per4 Picture
  comps     : Per4 Comp
  dps       : Per4 DpLink
  /-- The streams on DPIN0 and DPIN1. -/
  streams   : List (Nat × StreamFmt)
  gangs     : Per4 Gang
  pair      : Pair
  /-- The ports KL0 and KL1, by number. -/
  links     : List (Nat × KlLink)
  /-- Messages sent over the ports, by port, oldest first. -/
  klOut     : List (Nat × List Byte)
  sync      : SyncChain
  /-- The descriptor of the digest that runs (R447). -/
  digest    : Option (List Byte)
  /-- Contexts whose replay log is enabled, each with its queues' next QSEQ (R448). -/
  replays   : List (Nat × List (Nat × Nat))
  /-- Attachment changes accepted for a tick (R30): DPIN0, DPIN1, KL0, KL1; tick and new owner set. -/
  attach    : Per4 (Option (Nat × Nat))
  chPend    : Per4 ChPending
  /-- Channels out of service by a host request (R42, R493), with the mode that took them out. -/
  outBy     : Per4 (Option Nat)
  /-- Unit images by UNIT_ID. -/
  images    : List (Nat × UnitImage)
  /-- An image being received over the dictionary (R482): from whom, and the bytes so far. -/
  receiving : Option (Req × List Byte)
  cores     : Per4 CoreSlots
  /-- The boot self-test of each field die is done (R477). -/
  tested    : Per4 Bool
  /-- RESET_N has risen since the reset (R473). -/
  released  : Bool
  /-- The read of the secure element's policy has ended: boot phase 4 (R474). -/
  policyRead : Bool
  /-- MARSHAL_STATE has been RECOVERY since reset (R487). -/
  recovered : Bool
  /-- The quote being signed (R487), without its signature. -/
  quoting   : Option (List Byte)
  power     : Power
  lend      : Per4 Lend
  /-- The data of the last read through BAR2; none where it was an Unsupported Request (R340). -/
  hostRead  : Option (List Byte)
  /-- IEEE 802.1AS time of the last message, in ns, with its cycle, once synchronised; the ns and cycles whose quotient is
  its rate; the link delay in ns (R344). -/
  asTime    : Nat
  asAt      : Option Nat
  asRate    : Nat × Nat
  asDelay   : Nat
  /-- The cycle at which the T1 port last defended its link-local address (R342). -/
  defended  : Option Nat
  observe   : Per4 Observe
  latched   : Per4 Latched
  traceBuf  : List TraceRec
  traceRing : Option TraceRing
  /-- The commands that wait, first in, first out. -/
  pending   : List Instr
  deriving DecidableEq, Repr

/-! ## Reset values -/

/-- The same value four times. -/
def Per4.all {α : Type} (a : α) : Per4 α := ⟨a, a, a, a⟩

/-- The reset windows of R63. -/
def resetWindows : List Nat :=
  [0x80000000, 0x9000039D, 0xA000050F, 0xB0000681, 0, 0, 0, 0] ++
  [0x80000000, 0, 0, 0, 0, 0, 0, 0] ++
  [0x80000000, 0, 0, 0, 0, 0, 0, 0] ++
  [0x80000000, 0, 0, 0, 0, 0, 0, 0]

/-- The active copy of PACERn at reset (R62, R63, R85). -/
def PacerCfg.reset (n : Nat) : PacerCfg :=
  { ctrl := 0x01F40000 + n * 0x4000000, period := 0x073A0000, unitMap := 0,
    windows := resetWindows }

/-- PACERn when the Pacer block leaves reset: at the edge that starts tick 0, whose length is the integer
part of the period, 1,850 (R53, R57). -/
def Pacer.reset (n : Nat) : Pacer :=
  { tick := 0, count := 0, edge := 0, len := 1850, lastLen := 1850, acc := 0, accPrev := 0,
    effPeriod := 0x073A0000, cfg := PacerCfg.reset n, pending := none, applyAt := 0,
    floors := [], following := false, transition := false, lock := .free, lockRun := 0, atLimit := false,
    aim := none, back := false, opened := false, wins := .all none, slots := [], program := none, change := .none }

/-- An empty attention log (R355, R364). -/
def AttnLog.reset : AttnLog := { newest := 0, acked := 0, first := 1, dropped := 0, entries := [] }

/-- Generation 0: no ranges and no window (R316). -/
def Gen.empty : Gen := { num := 0, addr := 0, count := 0, allocVa := 0, allocEn := false }

/-- The allocator without a pool (R322). -/
def Allocator.reset : Allocator :=
  { base := 0, chunks := 0, staged := none, asOf := 0, zeroed := [], ready := false, allocs := [], taken := [] }

/-- Observation at reset: the filter objects at their defaults (R516), nothing counted. -/
def Observe.reset : Observe :=
  { filter := { ctrl := 0x0F0008CA, types := 0, classes := 0x0F, ctx := 0xFFFF,
                watch := List.replicate 16 0xFFFF },
    lost := 0, drain := 0, split := [], closed := [], ticks := 0, target := 2250, stage := [],
    clear := false, marked := none, refd := none }

/-- No policy in force (R484). -/
def Policy.none : Policy :=
  { version := 0, flags := 0, owner := List.replicate 8 0, floors := List.replicate 8 0, allow := [],
    certFloor := 0 }

/-- A pipeline that has captured nothing (R198). -/
def Picture.reset : Picture :=
  { slots := [], newest := none, capturing := none, dropping := false, submit := [], bound := none, recs := [],
    reals := [], cut := 0, heldFor := 0, lastRow := 0, ofStart := 0, hotRows := [] }

/-- The caches of a channel before they are powered: empty and OFF (R310 table: CACHE_STATE 0). -/
def Caches.reset : Caches :=
  let c : CacheSlice := { phase := .off, lines := [], trackers := [] }
  { l2 := .all c, h0 := c, h1 := c }

/-- Core slots at reset (R495, R501): logical core i in slot i, slot 16 unnamed. -/
def CoreSlots.reset : CoreSlots := { map := List.range 16, state := List.replicate 16 0 ++ [1] }

/-- A bank without tables. -/
def CompBank.empty : CompBank := { lut := [], tcs := .all [] }

/-- A region without action. -/
def Region.reset : Region :=
  { active := false, begins := false, ends := false, cleared := false, matched := 0, crc := 0, store := 0, good := none, half := 0 }

/-- A composition pipe at reset: the default set (R266), FILL 0 (R276). -/
def Comp.reset : Comp :=
  { frame := none, snapped := false, force := none, bank := CompBank.empty, next := none, loading := none, loadAge := 0,
    idle := none, behind := none, fill := ⟨0, 0, 0⟩, blocked := [], cutOff := false, underran := false, video := none, prevRow := [],
    curRow := [], seg := none, segCrc := 0, sent := .idle, regions := List.replicate 16 Region.reset, readMax := 196608, readNext := 196608 }

/-- A display output at reset with DP_CTRL `c` (R300). -/
def DpLink.reset (c : Nat) : DpLink :=
  { cfg := { ctrl := c, hactive := 1920, hfront := 8, hsync := 44, hback := 228, vactive := 1080, vfront := 4, vsync := 5,
             vback := 36, lineTicks := 8, slices := 8, bpp := 192 },
    pending := none, attempts := 0, hpd := false, safe := false, vic := 0, marker := [], sdp := [] }

/-- The machine right after reset. -/
def State.reset : State :=
  { now := 0, readFault := none, fresh := 0, objs := [], octs := [], mem := [],
    pacers := ⟨Pacer.reset 0, Pacer.reset 1, Pacer.reset 2, Pacer.reset 3⟩,
    devLog := AttnLog.reset, vfLogs := [], raised := [], heldAttn := [], reply := 0, queuedOk := false, marshalQ := [], windows := [], t1Clients := [],
    segments := [], t1Out := [], arp := [], mboxes := [], pcieFns := [], underReset := [], barWait := [], ctxs := [], batons := [], queues := [],
    courses := [], launches := [], nextId := 0, runs := [], pubs := [], tags := [], holds := [], quadHolds := [], heats := [],
    spaces := [], caches := .all Caches.reset, ranges := [], owners := .all [], texCaches := .all (.all []),
    allocs := .all Allocator.reset, cmdStatus := [], marshal := .rom,
    service := ⟨.reduced, .offline, .offline, .offline⟩, halt := none, policy := Policy.none,
    pictures := .all Picture.reset, comps := .all Comp.reset,
    dps := ⟨DpLink.reset 0x80400180, DpLink.reset 0x00400180, DpLink.reset 0x00400180, DpLink.reset 0x00400180⟩, streams := [], gangs := .all { ctrl := 0, pending := none },
    pair := { own := [], heard := [], swap := none, frames := 0, clean := true, joining := false, promoted := none, downAt := none,
              swapped := none, mirrors := [], waits := [], effect := none },
    links := [], klOut := [],
    sync := { sent := none, out := none, mark := none, run := false, armed := false, start := false },
    digest := none, replays := [], attach := .all none,
    chPend := .all { svc := none, power := none, was := 0, subst := none, test := none, reset := none },
    outBy := .all none, images := [], receiving := none, cores := .all CoreSlots.reset, tested := .all false,
    released := false, policyRead := false, recovered := false, quoting := none,
    power := { p2 := .awake, window := false, woken := 0, latched := 0, release := 0, linger := 0, off := 0, reached := 0, vreq := 4, vreqAt := 0, hot := false,
               resets := [] },
    lend := .all { idle := 0, started := false, lending := false, backAt := none },
    hostRead := none, asTime := 0, asAt := none, asRate := (1, 1), asDelay := 0, defended := none, observe := .all Observe.reset,
    latched := .all { strictAll := false, cacheRes := 8, protect := [], pstate := 0, ready := false },
    traceBuf := [], traceRing := none, pending := [] }

end Sys2Proof.Machine
end

