-- ==== Sys2Proof/Machine/Ops.lean ====
section
/-! DEFINITION. The named operations over the state that every meaning uses: four-way values, sparse
lists, bytes and little-endian numbers, memory, and the retiring of a value the specification leaves
open. -/

namespace Sys2Proof.Machine

/-- The answer of every meaning. -/
abbrev Out := Host.Outcome State Fault Refusal

/-! ## Four-way values -/

/-- The value of channel (map, slot, port) `i`. -/
def Per4.get {α : Type} (p : Per4 α) (i : Fin 4) : α :=
  match i with
  | 0 => p.c0
  | 1 => p.c1
  | 2 => p.c2
  | 3 => p.c3

/-- `p` with the value of `i` replaced. -/
def Per4.set {α : Type} (p : Per4 α) (i : Fin 4) (a : α) : Per4 α :=
  match i with
  | 0 => { p with c0 := a }
  | 1 => { p with c1 := a }
  | 2 => { p with c2 := a }
  | 3 => { p with c3 := a }

/-- `p` with `f` applied to the value of `i`. -/
def Per4.mod {α : Type} (p : Per4 α) (i : Fin 4) (f : α → α) : Per4 α := p.set i (f (p.get i))

/-- A number as a channel; numbers above 3 wrap, so callers check first. -/
def toCh (n : Nat) : Fin 4 := ⟨n % 4, Nat.mod_lt _ (by decide)⟩

/-- The four channels in ascending order. -/
def chans : List (Fin 4) := [0, 1, 2, 3]

/-! ## Sparse lists -/

/-- The entry of key `k`. -/
def look {α : Type} : List (Nat × α) → Nat → Option α
  | [], _ => none
  | (a, b) :: t, k => if a = k then some b else look t k

/-- The list with key `k` set to `v`; keys rise strictly if they did before. -/
def put {α : Type} : List (Nat × α) → Nat → α → List (Nat × α)
  | [], k, v => [(k, v)]
  | (a, b) :: t, k, v =>
    if k < a then (k, v) :: (a, b) :: t
    else if k = a then (k, v) :: t
    else (a, b) :: put t k v

/-- The list without key `k`. -/
def del {α : Type} (m : List (Nat × α)) (k : Nat) : List (Nat × α) := m.filter (fun e => e.1 != k)

/-- The list with `f` applied to the entry of `k`, if there is one. -/
def adjust {α : Type} (m : List (Nat × α)) (k : Nat) (f : α → α) : List (Nat × α) :=
  m.map (fun e => if e.1 = k then (e.1, f e.2) else e)

/-- Whether the keys of a sparse list rise strictly. -/
def rising {α : Type} : List (Nat × α) → Bool
  | [] => true
  | [_] => true
  | (a, _) :: (b, y) :: t => decide (a < b) && rising ((b, y) :: t)

/-! ## Bytes and little-endian numbers (R7) -/

/-- The number a list of bytes spells, least significant byte first (R7). -/
def leNat : List Byte → Nat
  | [] => 0
  | b :: t => b.toNat + 256 * leNat t

/-- The `n` low bytes of `v`, least significant first (R7). -/
def toLE : Nat → Nat → List Byte
  | 0, _ => []
  | n + 1, v => BitVec.ofNat 8 v :: toLE n (v / 256)

/-- `len` bytes of `bs` from `off`, zero bytes beyond its end. -/
def slice (bs : List Byte) (off len : Nat) : List Byte :=
  let t := (bs.drop off).take len
  t ++ List.replicate (len - t.length) 0

/-- The unsigned field of `len` bytes at offset `off`. -/
def field (bs : List Byte) (off len : Nat) : Nat := leNat (slice bs off len)

/-- Whether all bytes of a field are zero (a reserved field, R22). -/
def reserved (bs : List Byte) (off len : Nat) : Bool := field bs off len = 0

/-- Bits [hi:lo] of a number (R8). -/
def bits (v hi lo : Nat) : Nat := (v / 2 ^ lo) % 2 ^ (hi - lo + 1)

/-- Bit `n` of a number. -/
def bit (v n : Nat) : Bool := v.testBit n

/-- `v` with bits [hi:lo] replaced by `x`. -/
def setBits (v hi lo x : Nat) : Nat :=
  v - bits v hi lo * 2 ^ lo + (x % 2 ^ (hi - lo + 1)) * 2 ^ lo

/-- The signed value of an n-bit field (R8). -/
def signed (n v : Nat) : Int := if v % 2 ^ n < 2 ^ (n - 1) then (v % 2 ^ n : Nat) else (v % 2 ^ n : Nat) - (2 ^ n : Nat)

/-- The n-bit two's complement code of an integer. -/
def unsigned (n : Nat) (v : Int) : Nat := (v % (2 ^ n : Nat)).toNat

/-- `a / b` rounded up. -/
def ceilDiv (a b : Nat) : Nat := (a + b - 1) / b

/-- `bs` with the bytes from `off` replaced by `v`, extended with zeros where it is too short. -/
def patch (bs : List Byte) (off : Nat) (v : List Byte) : List Byte :=
  slice bs 0 off ++ v ++ bs.drop (off + v.length)

/-- The indices 0 to n - 1. -/
def upto (n : Nat) : List Nat := List.range n

/-- The indices of the bits set in a mask of `n` bits. -/
def bitsOf (n v : Nat) : List Nat := (upto n).filter (fun i => v.testBit i)

/-! ## CRC-32 (R280) -/

/-- One bit of the reflected CRC-32 of IEEE 802.3. -/
def crcBit (r : BitVec 32) : BitVec 32 := if r.getLsbD 0 then (r >>> 1) ^^^ 0xEDB88320#32 else r >>> 1

/-- The CRC register after bytes; it starts at all ones. -/
def crcBytes (r : BitVec 32) (bs : List Byte) : BitVec 32 :=
  bs.foldl (fun r b => (upto 8).foldl (fun r _ => crcBit r) (r ^^^ b.setWidth 32)) r

/-- CRC-32 of bytes. -/
def crc32 (bs : List Byte) : BitVec 32 := crcBytes 0xFFFFFFFF#32 bs ^^^ 0xFFFFFFFF#32

/-! ## Memory (R159, R301) -/

/-- The key of host bus address `a` (R301: host memory is named by its bus address). -/
def hostBase : Nat := 2 ^ 64

/-- End of channel memory: device addresses at and above it name no memory (R301). -/
def devEnd : Nat := 0x400000000

/-- The byte at a memory key; a byte nothing has written reads 0 (DESIGN CHOICE, log entry 1). -/
def readCell (m : List Host.Cell) (a : Nat) : Byte := (look m a).getD 0

/-- Memory with one byte written; the canonical form lists no zero byte. -/
def writeCell (m : List Host.Cell) (a : Nat) (b : Byte) : List Host.Cell :=
  if b = 0 then del m a else put m a b

/-- Memory's canonical form: keys strictly rising, no entry 0. -/
def Memory.wf (m : List Host.Cell) : Bool := rising m && m.all (fun c => c.2 != 0)

/-- The byte at a key of the state's memory. -/
def State.byteAt (s : State) (a : Nat) : Byte := readCell s.mem a

/-- `n` bytes from key `a`. -/
def readMem (m : List Host.Cell) (a n : Nat) : List Byte := (upto n).map (fun i => readCell m (a + i))

/-- Bytes written from key `a` on. -/
def writeMem (m : List Host.Cell) (a : Nat) : List Byte → List Host.Cell
  | [] => m
  | b :: t => writeMem (writeCell m a b) (a + 1) t

/-- Every listed byte written. -/
def writeCells (m : List Host.Cell) (cs : List Host.Cell) : List Host.Cell :=
  cs.foldl (fun m c => writeCell m c.1 c.2) m

/-- `n` bytes from `a` set to zero. -/
def zeroMem (m : List Host.Cell) (a n : Nat) : List Host.Cell :=
  m.filter (fun c => c.1 < a || a + n ≤ c.1)

/-- `n` bytes of the state's memory. -/
def State.read (s : State) (a n : Nat) : List Byte := readMem s.mem a n

/-- An unsigned little-endian number of `n` bytes in memory. -/
def State.readNat (s : State) (a n : Nat) : Nat := leNat (s.read a n)

/-- The state with bytes written. -/
def State.write (s : State) (a : Nat) (bs : List Byte) : State := { s with mem := writeMem s.mem a bs }

/-- The channel whose memory holds device address `a` (R301). -/
def chanOf (a : Nat) : Fin 4 := toCh (a / 0x100000000)

/-! ## Values the specification leaves open -/

/-- The next free value (Config.freeValue) and the state that has used it. -/
def State.free64 (s : State) : BitVec 64 × State :=
  (Config.freeValue s.fresh, { s with fresh := s.fresh + 1 })

/-! ## Identifiers and small updates -/

/-- A fresh identifier of a track, run, launch or publication. -/
def State.newId (s : State) : Nat × State := (s.nextId, { s with nextId := s.nextId + 1 })

/-- The Pacer of a channel. -/
def State.pacer (s : State) (ch : Fin 4) : Pacer := s.pacers.get ch

/-- The state with a channel's Pacer replaced. -/
def State.setPacer (s : State) (ch : Fin 4) (p : Pacer) : State :=
  { s with pacers := s.pacers.set ch p }

/-- The tick number of a channel (R57). -/
def State.tick (s : State) (ch : Fin 4) : Nat := (s.pacer ch).tick

/-- The edges of a channel since reset, by which "the next edge" is told also where following changes the tick number (R58). -/
def State.edgeNo (s : State) (ch : Fin 4) : Nat := (s.pacer ch).count

/-- The domains of the links, composition and displays are in RET (R455, R462): from entry step E3 on, and until a return ends. -/
def State.linksOff (s : State) : Bool :=
  match s.power.p2 with
  | .entry n => 3 < n
  | .standby => true
  | .returning => true
  | _ => false

/-- The state with a queue stored. -/
def State.setQueue (s : State) (q : Nat) (x : Queue) : State := { s with queues := put s.queues q x }

/-- The state with a run stored. -/
def State.setRun (s : State) (r : Nat) (x : Run) : State := { s with runs := put s.runs r x }

/-- The state with a context stored. -/
def State.setCtx (s : State) (c : Nat) (x : Context) : State := { s with ctxs := put s.ctxs c x }

/-- The state with a baton stored. -/
def State.setBaton (s : State) (b : Nat) (x : Baton) : State := { s with batons := put s.batons b x }

/-- Apply a state change once for each item, in list order. -/
def forEach {α : Type} (l : List α) (f : State → α → State) (s : State) : State := l.foldl f s

end Sys2Proof.Machine
end

