-- ==== Sys2Proof/Machine/Objects.lean ====
section
/-! DEFINITION. The parameter dictionary's objects (R19 to R21, R364, R399, R517 and the object tables
of every chapter): the index map, each object's type, access right and default, the key under which a
numeric object is stored, and reading and writing one. -/

namespace Sys2Proof.Machine

/-- Object types (R20, R346). -/
inductive ObjTy where
  | u8 | u16 | u32 | u64 | i32 | bool | addr
  | octets (n : Nat)
  | string (n : Nat)
  deriving DecidableEq, Repr

/-- Access rights (R21). -/
inductive Access where
  | ro | rw | wo | rws | cmd
  deriving DecidableEq, Repr

/-- One row of an object table: subindex, type, access right and the default of instance 0. -/
structure ObjRow where
  sub  : Nat
  ty   : ObjTy
  acc  : Access
  dflt : Nat
  deriving DecidableEq, Repr

/-- An object's size in bytes (R346). -/
def ObjTy.size : ObjTy → Nat
  | .u8 | .bool => 1
  | .u16 => 2
  | .u32 | .i32 => 4
  | .u64 | .addr => 8
  | .octets n | .string n => n

/-- Whether an object is kept as octets rather than a number. -/
def ObjTy.isOctets : ObjTy → Bool
  | .octets _ | .string _ => true
  | _ => false

/-- The store key of object index:sub. -/
def key (index sub : Nat) : Nat := index * 256 + sub

/-- The store key of a requester's own staged value of an object (R369, R394): shared objects have
prefix 0, function f has prefix f + 1, a T1 client a prefix above 17 of its own. -/
def reqCode : Req → Nat
  | .fn f => f + 1
  | .t1 ip port => 18 + (ip * 65536 + port)

/-- The key of `k` as requester `who` sees it. -/
def own (who : Req) (k : Nat) : Nat := reqCode who * 0x1000000 + k

/-- The function with whose rights a requester acts (R352, R365): T1 clients act with PF0's. -/
def reqFn : Req → Nat
  | .fn f => f
  | .t1 _ _ => 0

/-- The requester whose log, counters and acknowledgements a request sees (R355, R364): T1 shares the
device log of PF0. -/
def reqLog : Req → Nat := reqFn

/-- The block base and instance number of an index, where the index map assigns it (R517, R518). -/
def blockOf (i : Nat) : Option (Nat × Nat) :=
  if i < 0x1000 then none
  else if i = 0x1000 || i = 0x1001 || i = 0x1003 || i = 0x1010 || i = 0x1020 || i = 0x1030 then some (i, 0)
  else if 0x1100 ≤ i && i < 0x1200 then some (0x1100, i - 0x1100)
  else if 0x1200 ≤ i && i < 0x1210 then some (0x1200, i - 0x1200)
  else if i = 0x1300 then some (i, 0)
  else if 0x1400 ≤ i && i < 0x1500 then some (0x1400, i - 0x1400)
  else if 0x1800 ≤ i && i < 0x2000 then some (0x1800, i - 0x1800)
  else if 0x2000 ≤ i && i < 0x2400 then
    let b := 0x2000 + i % 0x100
    if [0x2000, 0x2010, 0x2011, 0x2012, 0x2013, 0x2020, 0x2030].contains b
    then some (b, (i - 0x2000) / 0x100) else none
  else if 0x3000 ≤ i && i < 0x4000 then
    let o := i % 0x400
    let n := (i - 0x3000) / 0x400
    if [0x000, 0x100, 0x110, 0x120, 0x130, 0x200, 0x300, 0x310, 0x320, 0x360].contains o
    then some (0x3000 + o, n)
    else if o = 0x210 && n % 2 = 0 then some (0x3210, n)
    else if 0x340 ≤ o && o < 0x350 then some (0x3340, n * 16 + (o - 0x340))
    else none
  else if 0x4000 ≤ i && i < 0x4400 then
    let b := 0x4000 + i % 0x100
    if [0x4000, 0x4010, 0x4020].contains b then some (b, (i - 0x4000) / 0x100) else none
  else if 0x4800 ≤ i && i < 0x4900 then some (0x4800, i - 0x4800)
  else if i = 0x5000 then some (i, 0)
  else if i = 0x5100 || i = 0x5200 || i = 0x5300 || i = 0x5400 then some (0x5100, (i - 0x5100) / 0x100)
  else if 0x6000 ≤ i && i < 0x6400 then
    let b := 0x6000 + i % 0x100
    if b = 0x6000 || b = 0x6010 then some (b, (i - 0x6000) / 0x100) else none
  else if i = 0x7000 || i = 0x7100 || i = 0x7200 || i = 0x7300 then some (0x7000, (i - 0x7000) / 0x100)
  else if i = 0x8000 || i = 0x8100 then some (0x8000, (i - 0x8000) / 0x100)
  else if i = 0x9000 || i = 0x9010 || i = 0x9020 || i = 0x9030 || i = 0x9040 then some (i, 0)
  else if i = 0xA000 then some (i, 0)
  else if i = 0xA100 || i = 0xA200 || i = 0xA300 || i = 0xA400 then some (0xA100, (i - 0xA100) / 0x100)
  else if i = 0xB000 || i = 0xB100 then some (i, 0)
  else if 0xB200 ≤ i && i < 0xB300 then some (0xB200, i - 0xB200)
  else if i = 0xC000 || i = 0xC100 then some (0xC000, (i - 0xC000) / 0x100)
  else if i = 0xC200 then some (i, 0)
  else if 0xC300 ≤ i && i < 0xC304 then some (0xC300, i - 0xC300)
  else none

/-- The object table of a block. -/
def objRows (base : Nat) : List ObjRow :=
  match base with
  | 0x1000 => [
      ⟨0x01, (.string 16), .ro, 0⟩,
      ⟨0x02, (.string 16), .ro, 0⟩,
      ⟨0x03, .u8, .ro, 1⟩,
      ⟨0x04, (.string 16), .ro, 0⟩]
  | 0x1001 => [
      ⟨0x01, .u32, .ro, 0⟩,
      ⟨0x02, .u32, .ro, 0⟩,
      ⟨0x03, .u32, .rw, 0⟩,
      ⟨0x04, .u32, .ro, 1⟩,
      ⟨0x05, .u32, .ro, 0⟩,
      ⟨0x06, (.octets 6144), .ro, 0⟩]
  | 0x1003 => [
      ⟨0x01, (.octets 304), .ro, 0⟩,
      ⟨0x02, (.octets 304), .wo, 0⟩,
      ⟨0x03, .u32, .ro, 0⟩]
  | 0x1010 => [
      ⟨0x01, .u32, .ro, 0⟩,
      ⟨0x02, .u32, .ro, 0⟩,
      ⟨0x03, .u32, .ro, 0⟩]
  | 0x1020 => [
      ⟨0x01, (.octets 6), .rws, 0⟩,
      ⟨0x02, .u32, .rws, 0⟩,
      ⟨0x03, .u32, .rws, 4294901760⟩,
      ⟨0x04, .u32, .rws, 0⟩,
      ⟨0x05, .u8, .ro, 0⟩,
      ⟨0x06, .u32, .ro, 0⟩,
      ⟨0x07, .bool, .rw, 0⟩,
      ⟨0x08, .u8, .ro, 0⟩]
  | 0x1030 => [
      ⟨0x01, .u64, .ro, 0⟩,
      ⟨0x02, .u32, .ro, 0⟩,
      ⟨0x03, .u32, .ro, 0⟩]
  | 0x1100 => [
      ⟨0x01, .u32, .cmd, 0⟩,
      ⟨0x02, .u8, .ro, 0⟩,
      ⟨0x03, .u8, .ro, 0⟩,
      ⟨0x04, .u8, .ro, 0⟩,
      ⟨0x05, .u32, .ro, 0⟩,
      ⟨0x06, .u8, .cmd, 0⟩,
      ⟨0x07, .u8, .cmd, 0⟩,
      ⟨0x08, .u8, .cmd, 0⟩,
      ⟨0x09, (.octets 16), .ro, 0⟩,
      ⟨0x0A, .u16, .cmd, 0⟩,
      ⟨0x0B, .u16, .cmd, 0⟩,
      ⟨0x0C, .u32, .cmd, 0⟩]
  | 0x1200 => [
      ⟨0x01, .u16, .rw, 0⟩,
      ⟨0x02, .u16, .rw, 0⟩,
      ⟨0x03, .u16, .rw, 0⟩,
      ⟨0x04, .u16, .rw, 0⟩,
      ⟨0x05, .u64, .ro, 0⟩]
  | 0x1300 => [
      ⟨0x01, (.octets 131072), .ro, 0⟩,
      ⟨0x02, (.octets 524288), .ro, 0⟩,
      ⟨0x03, (.octets 16), .cmd, 0⟩,
      ⟨0x04, (.octets 8), .cmd, 0⟩,
      ⟨0x05, .u64, .ro, 0⟩]
  | 0x1400 => [
      ⟨0x01, .addr, .rw, 0⟩,
      ⟨0x02, .u16, .cmd, 0⟩,
      ⟨0x03, .u8, .cmd, 0⟩,
      ⟨0x04, .u8, .cmd, 0⟩,
      ⟨0x05, .u32, .ro, 0⟩,
      ⟨0x06, .u32, .ro, 0⟩,
      ⟨0x07, .u32, .ro, 0⟩]
  | 0x1800 => [
      ⟨0x01, .addr, .rw, 0⟩,
      ⟨0x02, .u32, .rw, 0⟩,
      ⟨0x03, .addr, .rw, 0⟩,
      ⟨0x04, .u16, .rw, 0⟩,
      ⟨0x05, .u32, .cmd, 0⟩,
      ⟨0x06, .u8, .cmd, 0⟩,
      ⟨0x07, .u32, .ro, 0⟩,
      ⟨0x08, .u32, .ro, 0⟩,
      ⟨0x09, .u64, .ro, 0⟩,
      ⟨0x0A, .u32, .ro, 0⟩]
  | 0x2000 => [
      ⟨0x01, .u32, .rw, 0⟩,
      ⟨0x02, .u32, .rw, 121241600⟩,
      ⟨0x03, .u32, .rw, 0⟩,
      ⟨0x04, .u8, .cmd, 0⟩,
      ⟨0x05, .u64, .ro, 0⟩,
      ⟨0x06, .u16, .ro, 1850⟩,
      ⟨0x07, .u16, .ro, 1850⟩]
  | 0x2010 => [
      ⟨0x01, .u32, .rw, 0⟩,
      ⟨0x02, .u32, .rw, 0⟩,
      ⟨0x03, .u32, .rw, 0⟩,
      ⟨0x04, .u32, .rw, 0⟩,
      ⟨0x05, .u32, .rw, 0⟩,
      ⟨0x06, .u32, .rw, 0⟩,
      ⟨0x07, .u32, .rw, 0⟩,
      ⟨0x08, .u32, .rw, 0⟩]
  | 0x2011 => [
      ⟨0x01, .u32, .rw, 0⟩,
      ⟨0x02, .u32, .rw, 0⟩,
      ⟨0x03, .u32, .rw, 0⟩,
      ⟨0x04, .u32, .rw, 0⟩,
      ⟨0x05, .u32, .rw, 0⟩,
      ⟨0x06, .u32, .rw, 0⟩,
      ⟨0x07, .u32, .rw, 0⟩,
      ⟨0x08, .u32, .rw, 0⟩]
  | 0x2012 => [
      ⟨0x01, .u32, .rw, 0⟩,
      ⟨0x02, .u32, .rw, 0⟩,
      ⟨0x03, .u32, .rw, 0⟩,
      ⟨0x04, .u32, .rw, 0⟩,
      ⟨0x05, .u32, .rw, 0⟩,
      ⟨0x06, .u32, .rw, 0⟩,
      ⟨0x07, .u32, .rw, 0⟩,
      ⟨0x08, .u32, .rw, 0⟩]
  | 0x2013 => [
      ⟨0x01, .u32, .rw, 0⟩,
      ⟨0x02, .u32, .rw, 0⟩,
      ⟨0x03, .u32, .rw, 0⟩,
      ⟨0x04, .u32, .rw, 0⟩,
      ⟨0x05, .u32, .rw, 0⟩,
      ⟨0x06, .u32, .rw, 0⟩,
      ⟨0x07, .u32, .rw, 0⟩,
      ⟨0x08, .u32, .rw, 0⟩]
  | 0x2020 => [
      ⟨0x01, .addr, .rw, 0⟩,
      ⟨0x02, .u64, .cmd, 0⟩,
      ⟨0x03, .u32, .ro, 0⟩,
      ⟨0x04, (.octets 32), .ro, 0⟩,
      ⟨0x05, .u32, .ro, 0⟩,
      ⟨0x06, .u64, .cmd, 0⟩]
  | 0x2030 => [
      ⟨0x01, .u64, .ro, 0⟩,
      ⟨0x02, .u64, .ro, 0⟩,
      ⟨0x03, .u64, .ro, 0⟩,
      ⟨0x04, .u64, .ro, 0⟩,
      ⟨0x05, .u32, .ro, 0⟩,
      ⟨0x06, .u32, .ro, 0⟩]
  | 0x3000 => [
      ⟨0x01, .u32, .ro, 1⟩]
  | 0x3100 => [
      ⟨0x01, .bool, .rw, 0⟩,
      ⟨0x02, .u64, .ro, 0⟩,
      ⟨0x03, .u32, .ro, 0⟩,
      ⟨0x04, .u32, .ro, 0⟩,
      ⟨0x05, .u64, .ro, 0⟩]
  | 0x3110 => [
      ⟨0x01, .u64, .ro, 0⟩,
      ⟨0x02, .u64, .ro, 0⟩,
      ⟨0x03, .u32, .ro, 0⟩,
      ⟨0x04, .u64, .ro, 0⟩]
  | 0x3120 => [
      ⟨0x01, .u64, .ro, 0⟩,
      ⟨0x02, .u64, .ro, 0⟩,
      ⟨0x03, .u64, .ro, 0⟩,
      ⟨0x04, .u64, .ro, 0⟩,
      ⟨0x05, .u64, .ro, 0⟩,
      ⟨0x06, .u64, .ro, 0⟩,
      ⟨0x07, .u64, .ro, 0⟩,
      ⟨0x08, .u32, .ro, 0⟩]
  | 0x3130 => [
      ⟨0x01, .u64, .ro, 0⟩,
      ⟨0x02, .u32, .ro, 0⟩,
      ⟨0x03, .u32, .ro, 0⟩,
      ⟨0x04, .u32, .ro, 0⟩,
      ⟨0x05, .u32, .ro, 0⟩,
      ⟨0x06, .u32, .ro, 0⟩,
      ⟨0x07, .u32, .ro, 0⟩,
      ⟨0x08, .u64, .ro, 0⟩,
      ⟨0x09, .u64, .ro, 0⟩,
      ⟨0x0A, .u64, .ro, 0⟩]
  | 0x3200 => [
      ⟨0x01, .addr, .rw, 0⟩,
      ⟨0x02, .u32, .ro, 0⟩,
      ⟨0x03, .u32, .ro, 0⟩,
      ⟨0x04, .u32, .ro, 0⟩,
      ⟨0x05, .u8, .ro, 0⟩,
      ⟨0x06, .u32, .ro, 0⟩,
      ⟨0x07, .u32, .ro, 0⟩,
      ⟨0x08, .u32, .ro, 0⟩,
      ⟨0x09, .u32, .ro, 0⟩,
      ⟨0x0A, .u32, .ro, 0⟩,
      ⟨0x0B, .u32, .ro, 0⟩,
      ⟨0x0C, .u32, .ro, 0⟩,
      ⟨0x0D, .u32, .ro, 0⟩,
      ⟨0x0E, .u8, .cmd, 0⟩]
  | 0x3210 => [
      ⟨0x01, .u32, .rw, 0⟩,
      ⟨0x02, .u64, .cmd, 0⟩,
      ⟨0x03, .u32, .ro, 0⟩]
  | 0x3300 => [
      ⟨0x01, .u8, .rw, 0⟩,
      ⟨0x02, .u16, .rw, 0⟩]
  | 0x3310 => [
      ⟨0x01, .u64, .ro, 0⟩,
      ⟨0x02, .u64, .ro, 0⟩,
      ⟨0x03, .u64, .ro, 0⟩,
      ⟨0x04, .u64, .ro, 0⟩,
      ⟨0x05, .u64, .ro, 0⟩,
      ⟨0x06, .u32, .rw, 2250⟩]
  | 0x3320 => [
      ⟨0x01, .u32, .ro, 0⟩,
      ⟨0x02, .u32, .ro, 0⟩,
      ⟨0x03, .u32, .ro, 0⟩,
      ⟨0x04, .u32, .ro, 0⟩]
  | 0x3340 => [
      ⟨0x01, .addr, .rw, 0⟩,
      ⟨0x02, .u8, .cmd, 0⟩,
      ⟨0x03, .u8, .cmd, 0⟩,
      ⟨0x04, .u8, .ro, 0⟩,
      ⟨0x05, .u8, .ro, 0⟩,
      ⟨0x06, .u64, .ro, 0⟩,
      ⟨0x07, .u64, .ro, 0⟩,
      ⟨0x08, .u64, .ro, 0⟩,
      ⟨0x09, .u64, .ro, 0⟩,
      ⟨0x0A, .u32, .ro, 0⟩,
      ⟨0x0B, .u32, .ro, 0⟩]
  | 0x3360 => [
      ⟨0x01, .u8, .rw, 0⟩,
      ⟨0x02, .u64, .cmd, 0⟩,
      ⟨0x03, .u32, .ro, 0⟩,
      ⟨0x04, .u8, .cmd, 0⟩,
      ⟨0x05, (.octets 16), .ro, 0⟩,
      ⟨0x06, (.octets 17), .ro, 0⟩,
      ⟨0x07, .u8, .rw, 0⟩,
      ⟨0x08, .u64, .cmd, 0⟩,
      ⟨0x09, .u8, .rw, 0⟩,
      ⟨0x0A, .u64, .cmd, 0⟩,
      ⟨0x0B, .u32, .ro, 0⟩,
      ⟨0x0C, .u16, .ro, 0⟩]
  | 0x4000 => [
      ⟨0x01, .u8, .ro, 0⟩,
      ⟨0x02, .u8, .cmd, 0⟩,
      ⟨0x03, .u16, .rw, 32⟩,
      ⟨0x04, .u8, .rw, 6⟩,
      ⟨0x05, .u8, .ro, 0⟩,
      ⟨0x06, .u8, .ro, 0⟩,
      ⟨0x07, .u64, .ro, 0⟩,
      ⟨0x08, .u32, .ro, 0⟩,
      ⟨0x09, .addr, .ro, 0⟩]
  | 0x4010 => [
      ⟨0x01, .u32, .rw, 63⟩,
      ⟨0x02, .u16, .ro, 0⟩,
      ⟨0x03, .u8, .rw, 8⟩,
      ⟨0x04, .u64, .ro, 0⟩,
      ⟨0x05, .u64, .ro, 0⟩,
      ⟨0x06, .u64, .ro, 0⟩,
      ⟨0x07, .u64, .ro, 0⟩]
  | 0x4020 => [
      ⟨0x01, .addr, .rw, 0⟩,
      ⟨0x02, .u32, .rw, 0⟩,
      ⟨0x03, .u8, .ro, 0⟩,
      ⟨0x04, .u32, .ro, 0⟩,
      ⟨0x05, .u64, .ro, 0⟩,
      ⟨0x06, .u32, .ro, 0⟩]
  | 0x4800 => [
      ⟨0x01, .addr, .rw, 0⟩,
      ⟨0x02, .u16, .rw, 0⟩,
      ⟨0x03, .addr, .rw, 0⟩,
      ⟨0x04, .u32, .rw, 0⟩,
      ⟨0x05, .u8, .cmd, 0⟩,
      ⟨0x06, .u32, .ro, 0⟩,
      ⟨0x07, .u32, .ro, 0⟩,
      ⟨0x08, .u32, .ro, 0⟩,
      ⟨0x09, .u16, .rw, 0⟩,
      ⟨0x0A, .u16, .rw, 0⟩,
      ⟨0x0B, .u16, .rw, 0⟩,
      ⟨0x0C, .u16, .rw, 0⟩,
      ⟨0x0D, .u16, .ro, 0⟩,
      ⟨0x0E, .u16, .ro, 0⟩,
      ⟨0x0F, .u16, .ro, 0⟩,
      ⟨0x10, .u16, .ro, 0⟩,
      ⟨0x11, .u8, .cmd, 0⟩]
  | 0x5000 => [
      ⟨0x01, .u8, .ro, 0⟩,
      ⟨0x02, .u8, .cmd, 0⟩,
      ⟨0x03, .u8, .rws, 0⟩,
      ⟨0x04, .u32, .rws, 9⟩,
      ⟨0x05, .u32, .ro, 0⟩,
      ⟨0x06, .u32, .ro, 0⟩,
      ⟨0x07, .u8, .ro, 0⟩,
      ⟨0x08, .u16, .cmd, 0⟩,
      ⟨0x09, .u16, .ro, 0⟩,
      ⟨0x0A, (.octets 32), .ro, 0⟩,
      ⟨0x0B, .u8, .ro, 0⟩,
      ⟨0x0C, .u16, .ro, 0⟩,
      ⟨0x0D, .u32, .rws, 85000⟩,
      ⟨0x0E, .u32, .rw, 540⟩,
      ⟨0x0F, .u64, .ro, 0⟩]
  | 0x5100 => [
      ⟨0x01, .u8, .cmd, 0⟩,
      ⟨0x02, .u8, .ro, 0⟩,
      ⟨0x03, .u8, .rws, 4⟩,
      ⟨0x04, .u8, .ro, 4⟩,
      ⟨0x05, .u8, .ro, 0⟩,
      ⟨0x06, .u32, .rws, 16250⟩,
      ⟨0x07, .u32, .ro, 0⟩,
      ⟨0x08, .u32, .ro, 0⟩]
  | 0x6000 => [
      ⟨0x01, .addr, .rw, 0⟩,
      ⟨0x02, .addr, .rw, 0⟩,
      ⟨0x03, .addr, .rw, 0⟩,
      ⟨0x04, (.octets 12), .rw, 0⟩,
      ⟨0x05, .u16, .rw, 203⟩,
      ⟨0x06, .u16, .rw, 1000⟩,
      ⟨0x07, .u32, .rw, 196608⟩,
      ⟨0x08, .addr, .ro, 0⟩,
      ⟨0x09, .u32, .ro, 0⟩,
      ⟨0x0A, .u32, .ro, 0⟩,
      ⟨0x0B, .u32, .ro, 0⟩,
      ⟨0x0C, .u32, .ro, 0⟩,
      ⟨0x0D, .u32, .ro, 0⟩,
      ⟨0x0E, (.octets 72854), .ro, 0⟩]
  | 0x6010 => [
      ⟨0x01, .u16, .ro, 0⟩,
      ⟨0x02, .u16, .cmd, 0⟩,
      ⟨0x03, .u32, .ro, 0⟩,
      ⟨0x04, (.octets 16), .ro, 0⟩,
      ⟨0x05, (.octets 64), .ro, 0⟩]
  | 0x7000 => [
      ⟨0x01, .u32, .rw, 0⟩,
      ⟨0x02, .u16, .rw, 1920⟩,
      ⟨0x03, .u16, .rw, 8⟩,
      ⟨0x04, .u16, .rw, 44⟩,
      ⟨0x05, .u16, .rw, 228⟩,
      ⟨0x06, .u16, .rw, 1080⟩,
      ⟨0x07, .u16, .rw, 4⟩,
      ⟨0x08, .u16, .rw, 5⟩,
      ⟨0x09, .u16, .rw, 36⟩,
      ⟨0x0A, .u8, .rw, 8⟩,
      ⟨0x0B, .u64, .cmd, 0⟩,
      ⟨0x0C, .u8, .ro, 0⟩,
      ⟨0x0D, .u32, .ro, 0⟩,
      ⟨0x0E, .u8, .rw, 8⟩,
      ⟨0x0F, .u16, .rw, 192⟩,
      ⟨0x10, .u8, .ro, 0⟩,
      ⟨0x11, .u32, .ro, 0⟩,
      ⟨0x12, (.octets 2048), .ro, 0⟩,
      ⟨0x13, .u8, .rw, 0⟩]
  | 0x8000 => [
      ⟨0x01, .u32, .rw, 1493172224⟩,
      ⟨0x02, (.octets 2048), .rw, 0⟩,
      ⟨0x03, .u8, .ro, 0⟩,
      ⟨0x04, .u64, .ro, 0⟩,
      ⟨0x05, .u8, .ro, 0⟩,
      ⟨0x06, .u32, .ro, 0⟩,
      ⟨0x07, .u8, .rw, 0⟩,
      ⟨0x08, .u64, .cmd, 0⟩,
      ⟨0x09, .u8, .ro, 0⟩]
  | 0x9000 => [
      ⟨0x01, .u32, .ro, 0⟩,
      ⟨0x02, .u8, .ro, 176⟩,
      ⟨0x03, (.octets 32), .ro, 0⟩,
      ⟨0x04, (.octets 1312), .ro, 0⟩,
      ⟨0x05, (.octets 32), .ro, 0⟩,
      ⟨0x06, .u8, .ro, 0⟩,
      ⟨0x07, .u32, .ro, 0⟩]
  | 0x9010 => [
      ⟨0x01, (.octets 1024), .wo, 0⟩,
      ⟨0x02, .u32, .ro, 0⟩,
      ⟨0x03, (.octets 1008), .ro, 0⟩,
      ⟨0x04, .u16, .rw, 0⟩,
      ⟨0x05, .u64, .cmd, 0⟩,
      ⟨0x06, .u16, .cmd, 0⟩]
  | 0x9020 => [
      ⟨0x01, (.octets 6344), .wo, 0⟩,
      ⟨0x02, .u32, .ro, 0⟩,
      ⟨0x03, .u32, .ro, 0⟩,
      ⟨0x04, (.octets 32), .ro, 0⟩,
      ⟨0x05, (.octets 8), .ro, 0⟩]
  | 0x9030 => [
      ⟨0x01, (.octets 32), .rw, 0⟩,
      ⟨0x02, .u8, .cmd, 0⟩,
      ⟨0x03, (.octets 3388), .ro, 0⟩]
  | 0x9040 => [
      ⟨0x01, (.octets 2048), .wo, 0⟩,
      ⟨0x02, .u8, .ro, 0⟩]
  | 0xA000 => [
      ⟨0x01, .u32, .rw, 251660490⟩,
      ⟨0x02, .u32, .rw, 0⟩,
      ⟨0x03, .u8, .rw, 15⟩,
      ⟨0x04, .u16, .rw, 65535⟩,
      ⟨0x05, (.octets 32), .rw, 0⟩,
      ⟨0x06, .u32, .rw, 0⟩,
      ⟨0x07, .u16, .rw, 19545⟩,
      ⟨0x08, .u8, .ro, 0⟩,
      ⟨0x09, .u32, .ro, 0⟩,
      ⟨0x0A, .u64, .ro, 0⟩,
      ⟨0x0B, .u64, .ro, 0⟩,
      ⟨0x0C, .u16, .ro, 0⟩]
  | 0xA100 => [
      ⟨0x01, .u32, .rw, 2250⟩,
      ⟨0x02, .u32, .ro, 0⟩,
      ⟨0x03, (.octets 2048), .ro, 0⟩,
      ⟨0x04, (.octets 65536), .ro, 0⟩,
      ⟨0x05, .u8, .cmd, 0⟩]
  | 0xB000 => [
      ⟨0x01, .u32, .rw, 134283264⟩,
      ⟨0x02, .u8, .cmd, 0⟩,
      ⟨0x03, .u64, .cmd, 0⟩,
      ⟨0x04, .u8, .ro, 0⟩,
      ⟨0x05, .u8, .ro, 0⟩,
      ⟨0x06, .u64, .ro, 0⟩,
      ⟨0x07, .u32, .ro, 0⟩,
      ⟨0x08, .u32, .ro, 0⟩,
      ⟨0x09, .u32, .ro, 0⟩,
      ⟨0x0A, .u32, .ro, 0⟩,
      ⟨0x0B, .u32, .ro, 0⟩]
  | 0xB100 => [
      ⟨0x01, .addr, .rw, 0⟩,
      ⟨0x02, .u8, .cmd, 0⟩,
      ⟨0x03, .u32, .ro, 0⟩]
  | 0xB200 => [
      ⟨0x01, .u8, .rw, 0⟩,
      ⟨0x02, .addr, .rw, 0⟩,
      ⟨0x03, .u32, .rw, 0⟩,
      ⟨0x04, .u64, .ro, 0⟩]
  | 0xC000 => [
      ⟨0x01, .u32, .rw, 536870912⟩,
      ⟨0x02, .u8, .ro, 0⟩,
      ⟨0x03, (.octets 16), .ro, 0⟩,
      ⟨0x04, (.octets 512), .rw, 0⟩,
      ⟨0x05, (.octets 256), .rw, 0⟩,
      ⟨0x06, .u8, .cmd, 0⟩,
      ⟨0x07, .u64, .ro, 0⟩,
      ⟨0x08, .u64, .ro, 0⟩,
      ⟨0x09, .u32, .ro, 0⟩,
      ⟨0x0A, .u32, .ro, 0⟩,
      ⟨0x0B, .u8, .rw, 1⟩,
      ⟨0x0C, .u64, .cmd, 0⟩,
      ⟨0x0D, .u8, .ro, 1⟩]
  | 0xC200 => [
      ⟨0x01, .u32, .rw, 536875008⟩,
      ⟨0x02, .u16, .ro, 0⟩,
      ⟨0x03, .u8, .cmd, 0⟩,
      ⟨0x04, .bool, .rw, 0⟩,
      ⟨0x05, .u64, .ro, 0⟩,
      ⟨0x06, .bool, .ro, 0⟩,
      ⟨0x07, .u8, .ro, 0⟩,
      ⟨0x08, .u32, .ro, 0⟩]
  | 0xC300 => [
      ⟨0x01, .u64, .ro, 0⟩,
      ⟨0x02, .u32, .ro, 0⟩,
      ⟨0x03, .u64, .ro, 0⟩,
      ⟨0x04, .u32, .ro, 0⟩]
  | _ => []

/-- The row of object index:sub and its instance number (R518). -/
def objRow (index sub : Nat) : Option (ObjRow × Nat) :=
  match blockOf index with
  | none => none
  | some (b, n) => ((objRows b).find? (fun r => r.sub = sub)).map (fun r => (r, n))

/-- Defaults that differ between instances of a block or that a register table gives. -/
def specialDefault (base n sub : Nat) : Option Nat :=
  if base = 0x1200 then
    if n = 0 then (if sub = 2 then some 16384 else if sub = 3 then some 256 else if sub = 4 then some 2048 else none)
    else none
  else if base = 0x2000 && sub = 1 then some (0x01F40000 + n * 0x4000000)
  else if 0x2010 ≤ base && base ≤ 0x2013 && 1 ≤ sub && sub ≤ 8 then
    some ((resetWindows.drop (8 * (base - 0x2010) + (sub - 1))).headD 0)
  else if base = 0x7000 && sub = 1 then some (if n = 0 then 0x80400180 else 0x00400180)
  else if base = 0x8000 && (sub = 7 || sub = 9) then some (n + 1)
  else none

/-- The value an object that nothing has changed reads as (log entry 2 for keys outside the map). -/
def objDefault (k : Nat) : Nat :=
  let index := (k / 256) % 65536
  let sub := k % 256
  match blockOf index with
  | none => 0
  | some (b, n) =>
    match specialDefault b n sub with
    | some v => v
    | none => (((objRows b).find? (fun r => r.sub = sub)).map ObjRow.dflt).getD 0

/-- The value of a numeric object. -/
def State.obj (s : State) (k : Nat) : Nat := (look s.objs k).getD (objDefault k)

/-- The state with a numeric object set; the store lists no object that stands at its default. -/
def State.setObj (s : State) (k v : Nat) : State :=
  { s with objs := if v = objDefault k then del s.objs k else put s.objs k v }

/-- A counter of `w` bits increased by `n`; it wraps at its width (DESIGN CHOICE, log entry 4). -/
def State.bump (s : State) (k n w : Nat) : State := s.setObj k ((s.obj k + n) % 2 ^ w)

/-- The octets of an object, `n` bytes, zero where nothing has been stored. -/
def State.oct (s : State) (k n : Nat) : List Byte := slice ((look s.octs k).getD []) 0 n

/-- The state with an octet object stored. -/
def State.setOct (s : State) (k : Nat) (v : List Byte) : State := { s with octs := put s.octs k v }

/-- The canonical form of the object store: keys strictly rising, no object at its default. -/
def Objects.wf (m : List (Nat × Nat)) : Bool := rising m && m.all (fun e => e.2 != objDefault e.1)

/-! ## Keys of the objects, by name -/

/-- PACER_CTRL. -/
def Obj.pacerCtrl (n : Nat) : Nat := key (0x2000 + 0x100 * n) 0x01
/-- PACER_PERIOD. -/
def Obj.pacerPeriod (n : Nat) : Nat := key (0x2000 + 0x100 * n) 0x02
/-- UNIT_MAP. -/
def Obj.unitMap (n : Nat) : Nat := key (0x2000 + 0x100 * n) 0x03
/-- APPLY. -/
def Obj.apply (n : Nat) : Nat := key (0x2000 + 0x100 * n) 0x04
/-- TICK_NUMBER. -/
def Obj.tickNumber (n : Nat) : Nat := key (0x2000 + 0x100 * n) 0x05
/-- TICK_LEN_LAST. -/
def Obj.tickLenLast (n : Nat) : Nat := key (0x2000 + 0x100 * n) 0x06
/-- L_CHK. -/
def Obj.lChk (n : Nat) : Nat := key (0x2000 + 0x100 * n) 0x07
/-- MAP0_WINDOW_0. -/
def Obj.map0Window0 (n : Nat) : Nat := key (0x2010 + 0x100 * n) 0x01
/-- MAP0_WINDOW_1. -/
def Obj.map0Window1 (n : Nat) : Nat := key (0x2010 + 0x100 * n) 0x02
/-- MAP0_WINDOW_2. -/
def Obj.map0Window2 (n : Nat) : Nat := key (0x2010 + 0x100 * n) 0x03
/-- MAP0_WINDOW_3. -/
def Obj.map0Window3 (n : Nat) : Nat := key (0x2010 + 0x100 * n) 0x04
/-- MAP0_WINDOW_4. -/
def Obj.map0Window4 (n : Nat) : Nat := key (0x2010 + 0x100 * n) 0x05
/-- MAP0_WINDOW_5. -/
def Obj.map0Window5 (n : Nat) : Nat := key (0x2010 + 0x100 * n) 0x06
/-- MAP0_WINDOW_6. -/
def Obj.map0Window6 (n : Nat) : Nat := key (0x2010 + 0x100 * n) 0x07
/-- MAP0_WINDOW_7. -/
def Obj.map0Window7 (n : Nat) : Nat := key (0x2010 + 0x100 * n) 0x08
/-- MAP1_WINDOW_0. -/
def Obj.map1Window0 (n : Nat) : Nat := key (0x2011 + 0x100 * n) 0x01
/-- MAP1_WINDOW_1. -/
def Obj.map1Window1 (n : Nat) : Nat := key (0x2011 + 0x100 * n) 0x02
/-- MAP1_WINDOW_2. -/
def Obj.map1Window2 (n : Nat) : Nat := key (0x2011 + 0x100 * n) 0x03
/-- MAP1_WINDOW_3. -/
def Obj.map1Window3 (n : Nat) : Nat := key (0x2011 + 0x100 * n) 0x04
/-- MAP1_WINDOW_4. -/
def Obj.map1Window4 (n : Nat) : Nat := key (0x2011 + 0x100 * n) 0x05
/-- MAP1_WINDOW_5. -/
def Obj.map1Window5 (n : Nat) : Nat := key (0x2011 + 0x100 * n) 0x06
/-- MAP1_WINDOW_6. -/
def Obj.map1Window6 (n : Nat) : Nat := key (0x2011 + 0x100 * n) 0x07
/-- MAP1_WINDOW_7. -/
def Obj.map1Window7 (n : Nat) : Nat := key (0x2011 + 0x100 * n) 0x08
/-- MAP2_WINDOW_0. -/
def Obj.map2Window0 (n : Nat) : Nat := key (0x2012 + 0x100 * n) 0x01
/-- MAP2_WINDOW_1. -/
def Obj.map2Window1 (n : Nat) : Nat := key (0x2012 + 0x100 * n) 0x02
/-- MAP2_WINDOW_2. -/
def Obj.map2Window2 (n : Nat) : Nat := key (0x2012 + 0x100 * n) 0x03
/-- MAP2_WINDOW_3. -/
def Obj.map2Window3 (n : Nat) : Nat := key (0x2012 + 0x100 * n) 0x04
/-- MAP2_WINDOW_4. -/
def Obj.map2Window4 (n : Nat) : Nat := key (0x2012 + 0x100 * n) 0x05
/-- MAP2_WINDOW_5. -/
def Obj.map2Window5 (n : Nat) : Nat := key (0x2012 + 0x100 * n) 0x06
/-- MAP2_WINDOW_6. -/
def Obj.map2Window6 (n : Nat) : Nat := key (0x2012 + 0x100 * n) 0x07
/-- MAP2_WINDOW_7. -/
def Obj.map2Window7 (n : Nat) : Nat := key (0x2012 + 0x100 * n) 0x08
/-- MAP3_WINDOW_0. -/
def Obj.map3Window0 (n : Nat) : Nat := key (0x2013 + 0x100 * n) 0x01
/-- MAP3_WINDOW_1. -/
def Obj.map3Window1 (n : Nat) : Nat := key (0x2013 + 0x100 * n) 0x02
/-- MAP3_WINDOW_2. -/
def Obj.map3Window2 (n : Nat) : Nat := key (0x2013 + 0x100 * n) 0x03
/-- MAP3_WINDOW_3. -/
def Obj.map3Window3 (n : Nat) : Nat := key (0x2013 + 0x100 * n) 0x04
/-- MAP3_WINDOW_4. -/
def Obj.map3Window4 (n : Nat) : Nat := key (0x2013 + 0x100 * n) 0x05
/-- MAP3_WINDOW_5. -/
def Obj.map3Window5 (n : Nat) : Nat := key (0x2013 + 0x100 * n) 0x06
/-- MAP3_WINDOW_6. -/
def Obj.map3Window6 (n : Nat) : Nat := key (0x2013 + 0x100 * n) 0x07
/-- MAP3_WINDOW_7. -/
def Obj.map3Window7 (n : Nat) : Nat := key (0x2013 + 0x100 * n) 0x08
/-- TP_ADDR. -/
def Obj.tpAddr (n : Nat) : Nat := key (0x2020 + 0x100 * n) 0x01
/-- TP_LOAD. -/
def Obj.tpLoad (n : Nat) : Nat := key (0x2020 + 0x100 * n) 0x02
/-- TP_STATUS. -/
def Obj.tpStatus (n : Nat) : Nat := key (0x2020 + 0x100 * n) 0x03
/-- TP_DIGEST. -/
def Obj.tpDigest (n : Nat) : Nat := key (0x2020 + 0x100 * n) 0x04
/-- TP_LATENCY. -/
def Obj.tpLatency (n : Nat) : Nat := key (0x2020 + 0x100 * n) 0x05
/-- TP_UNLOAD. -/
def Obj.tpUnload (n : Nat) : Nat := key (0x2020 + 0x100 * n) 0x06
/-- KILLS_CLASS1. -/
def Obj.killsClass1 (n : Nat) : Nat := key (0x2030 + 0x100 * n) 0x01
/-- KILLS_CLASS2. -/
def Obj.killsClass2 (n : Nat) : Nat := key (0x2030 + 0x100 * n) 0x02
/-- KILLS_CLASS3. -/
def Obj.killsClass3 (n : Nat) : Nat := key (0x2030 + 0x100 * n) 0x03
/-- KILLED_CYCLES. -/
def Obj.killedCycles (n : Nat) : Nat := key (0x2030 + 0x100 * n) 0x04
/-- OVERRUNS. -/
def Obj.overruns (n : Nat) : Nat := key (0x2030 + 0x100 * n) 0x05
/-- REFUSALS. -/
def Obj.refusals (n : Nat) : Nat := key (0x2030 + 0x100 * n) 0x06
/-- STRICT_ALL. -/
def Obj.strictAll (n : Nat) : Nat := key (0x3100 + 0x400 * n) 0x01
/-- REQ_SATURATIONS. -/
def Obj.reqSaturations (n : Nat) : Nat := key (0x3100 + 0x400 * n) 0x02
/-- ACC_BOUND_FAULTS. -/
def Obj.accBoundFaults (n : Nat) : Nat := key (0x3100 + 0x400 * n) 0x03
/-- VARYING_FAULTS. -/
def Obj.varyingFaults (n : Nat) : Nat := key (0x3100 + 0x400 * n) 0x04
/-- DEFERRED_OPS. -/
def Obj.deferredOps (n : Nat) : Nat := key (0x3100 + 0x400 * n) 0x05
/-- PUB_HOLDS. -/
def Obj.pubHolds (n : Nat) : Nat := key (0x3110 + 0x400 * n) 0x01
/-- PUB_HOLD_CYCLES. -/
def Obj.pubHoldCycles (n : Nat) : Nat := key (0x3110 + 0x400 * n) 0x02
/-- PUB_TABLE_WAITS. -/
def Obj.pubTableWaits (n : Nat) : Nat := key (0x3110 + 0x400 * n) 0x03
/-- APPEND_DROPS. -/
def Obj.appendDrops (n : Nat) : Nat := key (0x3110 + 0x400 * n) 0x04
/-- PIPE_ADDR. -/
def Obj.pipeAddr (n : Nat) : Nat := key (0x3200 + 0x400 * n) 0x01
/-- PIPE_STATUS. -/
def Obj.pipeStatus (n : Nat) : Nat := key (0x3200 + 0x400 * n) 0x02
/-- OFN. -/
def Obj.ofn (n : Nat) : Nat := key (0x3200 + 0x400 * n) 0x03
/-- SFN_LAST. -/
def Obj.sfnLast (n : Nat) : Nat := key (0x3200 + 0x400 * n) 0x04
/-- INPUT_STATE. -/
def Obj.inputState (n : Nat) : Nat := key (0x3200 + 0x400 * n) 0x05
/-- FRAME_REPEATS. -/
def Obj.frameRepeats (n : Nat) : Nat := key (0x3200 + 0x400 * n) 0x06
/-- SRC_GAPS. -/
def Obj.srcGaps (n : Nat) : Nat := key (0x3200 + 0x400 * n) 0x07
/-- TORN_FRAMES. -/
def Obj.tornFrames (n : Nat) : Nat := key (0x3200 + 0x400 * n) 0x08
/-- SRC_OVERRUN_DROPS. -/
def Obj.srcOverrunDrops (n : Nat) : Nat := key (0x3200 + 0x400 * n) 0x09
/-- CUTS. -/
def Obj.cuts (n : Nat) : Nat := key (0x3200 + 0x400 * n) 0x0A
/-- HOLDS. -/
def Obj.holds (n : Nat) : Nat := key (0x3200 + 0x400 * n) 0x0B
/-- ROW_REPEATS. -/
def Obj.rowRepeats (n : Nat) : Nat := key (0x3200 + 0x400 * n) 0x0C
/-- SEGMENT_FILLS. -/
def Obj.segmentFills (n : Nat) : Nat := key (0x3200 + 0x400 * n) 0x0D
/-- SRC_SUBMIT. -/
def Obj.srcSubmit (n : Nat) : Nat := key (0x3200 + 0x400 * n) 0x0E
/-- GANG_CTRL. -/
def Obj.gangCtrl (n : Nat) : Nat := key (0x3210 + 0x400 * n) 0x01
/-- GANG_APPLY. -/
def Obj.gangApply (n : Nat) : Nat := key (0x3210 + 0x400 * n) 0x02
/-- GANG_STATUS. -/
def Obj.gangStatus (n : Nat) : Nat := key (0x3210 + 0x400 * n) 0x03
/-- BEARING_EVALS. -/
def Obj.bearingEvals (n : Nat) : Nat := key (0x3120 + 0x400 * n) 0x01
/-- BEARING_REQUESTS. -/
def Obj.bearingRequests (n : Nat) : Nat := key (0x3120 + 0x400 * n) 0x02
/-- BEARING_CAND_SKIPS. -/
def Obj.bearingCandSkips (n : Nat) : Nat := key (0x3120 + 0x400 * n) 0x03
/-- LIST_DROPS. -/
def Obj.listDrops (n : Nat) : Nat := key (0x3120 + 0x400 * n) 0x04
/-- TRAVERSE_VISITS. -/
def Obj.traverseVisits (n : Nat) : Nat := key (0x3120 + 0x400 * n) 0x05
/-- TRAVERSE_QUERIES. -/
def Obj.traverseQueries (n : Nat) : Nat := key (0x3120 + 0x400 * n) 0x06
/-- TRAVERSE_LIMITS. -/
def Obj.traverseLimits (n : Nat) : Nat := key (0x3120 + 0x400 * n) 0x07
/-- HIER_FAULTS. -/
def Obj.hierFaults (n : Nat) : Nat := key (0x3120 + 0x400 * n) 0x08
/-- RASTER_PASSES. -/
def Obj.rasterPasses (n : Nat) : Nat := key (0x3130 + 0x400 * n) 0x01
/-- AUTO_BINNED. -/
def Obj.autoBinned (n : Nat) : Nat := key (0x3130 + 0x400 * n) 0x02
/-- AUTO_DIRECT. -/
def Obj.autoDirect (n : Nat) : Nat := key (0x3130 + 0x400 * n) 0x03
/-- DIRECT_FALLBACKS. -/
def Obj.directFallbacks (n : Nat) : Nat := key (0x3130 + 0x400 * n) 0x04
/-- POOL_GROWS. -/
def Obj.poolGrows (n : Nat) : Nat := key (0x3130 + 0x400 * n) 0x05
/-- POOL_GROW_FAILS. -/
def Obj.poolGrowFails (n : Nat) : Nat := key (0x3130 + 0x400 * n) 0x06
/-- SPLITS. -/
def Obj.splits (n : Nat) : Nat := key (0x3130 + 0x400 * n) 0x07
/-- RASTER_DROPPED. -/
def Obj.rasterDropped (n : Nat) : Nat := key (0x3130 + 0x400 * n) 0x08
/-- RESOLVE_SECTORS. -/
def Obj.resolveSectors (n : Nat) : Nat := key (0x3130 + 0x400 * n) 0x09
/-- RESOLVE_BLOCKS. -/
def Obj.resolveBlocks (n : Nat) : Nat := key (0x3130 + 0x400 * n) 0x0A
/-- SET_PTR_ADDR. -/
def Obj.setPtrAddr (n : Nat) : Nat := key (0x6000 + 0x100 * n) 0x01
/-- COVER_SET_PTR_ADDR. -/
def Obj.coverSetPtrAddr (n : Nat) : Nat := key (0x6000 + 0x100 * n) 0x02
/-- COVER_VRING_BASE. -/
def Obj.coverVringBase (n : Nat) : Nat := key (0x6000 + 0x100 * n) 0x03
/-- FILL. -/
def Obj.fill (n : Nat) : Nat := key (0x6000 + 0x100 * n) 0x04
/-- SDR_WHITE. -/
def Obj.sdrWhite (n : Nat) : Nat := key (0x6000 + 0x100 * n) 0x05
/-- HLG_PEAK. -/
def Obj.hlgPeak (n : Nat) : Nat := key (0x6000 + 0x100 * n) 0x06
/-- COMP_READ_MAX. -/
def Obj.compReadMax (n : Nat) : Nat := key (0x6000 + 0x100 * n) 0x07
/-- ACTIVE_SET. -/
def Obj.activeSet (n : Nat) : Nat := key (0x6000 + 0x100 * n) 0x08
/-- SET_LATE. -/
def Obj.setLate (n : Nat) : Nat := key (0x6000 + 0x100 * n) 0x09
/-- SET_REFUSALS. -/
def Obj.setRefusals (n : Nat) : Nat := key (0x6000 + 0x100 * n) 0x0A
/-- SET_ERROR. -/
def Obj.setError (n : Nat) : Nat := key (0x6000 + 0x100 * n) 0x0B
/-- LAYER_UNDERRUNS. -/
def Obj.layerUnderruns (n : Nat) : Nat := key (0x6000 + 0x100 * n) 0x0C
/-- HDCP_BLOCKS. -/
def Obj.hdcpBlocks (n : Nat) : Nat := key (0x6000 + 0x100 * n) 0x0D
/-- BUILTIN_TABLE. -/
def Obj.builtinTable (n : Nat) : Nat := key (0x6000 + 0x100 * n) 0x0E
/-- CLOSURE_STATUS. -/
def Obj.closureStatus (n : Nat) : Nat := key (0x6010 + 0x100 * n) 0x01
/-- CLOSURE_CLEAR. -/
def Obj.closureClear (n : Nat) : Nat := key (0x6010 + 0x100 * n) 0x02
/-- CLOSURE_MISMATCHES. -/
def Obj.closureMismatches (n : Nat) : Nat := key (0x6010 + 0x100 * n) 0x03
/-- CLOSURE_LAST. -/
def Obj.closureLast (n : Nat) : Nat := key (0x6010 + 0x100 * n) 0x04
/-- CLOSURE_CRC. -/
def Obj.closureCrc (n : Nat) : Nat := key (0x6010 + 0x100 * n) 0x05
/-- DP_CTRL. -/
def Obj.dpCtrl (n : Nat) : Nat := key (0x7000 + 0x100 * n) 0x01
/-- DP_HACTIVE. -/
def Obj.dpHactive (n : Nat) : Nat := key (0x7000 + 0x100 * n) 0x02
/-- DP_HFRONT. -/
def Obj.dpHfront (n : Nat) : Nat := key (0x7000 + 0x100 * n) 0x03
/-- DP_HSYNC. -/
def Obj.dpHsync (n : Nat) : Nat := key (0x7000 + 0x100 * n) 0x04
/-- DP_HBACK. -/
def Obj.dpHback (n : Nat) : Nat := key (0x7000 + 0x100 * n) 0x05
/-- DP_VACTIVE. -/
def Obj.dpVactive (n : Nat) : Nat := key (0x7000 + 0x100 * n) 0x06
/-- DP_VFRONT. -/
def Obj.dpVfront (n : Nat) : Nat := key (0x7000 + 0x100 * n) 0x07
/-- DP_VSYNC. -/
def Obj.dpVsync (n : Nat) : Nat := key (0x7000 + 0x100 * n) 0x08
/-- DP_VBACK. -/
def Obj.dpVback (n : Nat) : Nat := key (0x7000 + 0x100 * n) 0x09
/-- DP_LINE_TICKS. -/
def Obj.dpLineTicks (n : Nat) : Nat := key (0x7000 + 0x100 * n) 0x0A
/-- DP_APPLY. -/
def Obj.dpApply (n : Nat) : Nat := key (0x7000 + 0x100 * n) 0x0B
/-- DP_STATE. -/
def Obj.dpState (n : Nat) : Nat := key (0x7000 + 0x100 * n) 0x0C
/-- DP_RETRAINS. -/
def Obj.dpRetrains (n : Nat) : Nat := key (0x7000 + 0x100 * n) 0x0D
/-- DSC_SLICES. -/
def Obj.dscSlices (n : Nat) : Nat := key (0x7000 + 0x100 * n) 0x0E
/-- DSC_BPP. -/
def Obj.dscBpp (n : Nat) : Nat := key (0x7000 + 0x100 * n) 0x0F
/-- HDCP_STATE. -/
def Obj.hdcpState (n : Nat) : Nat := key (0x7000 + 0x100 * n) 0x10
/-- SINK_TILE. -/
def Obj.sinkTile (n : Nat) : Nat := key (0x7000 + 0x100 * n) 0x11
/-- SINK_INFO. -/
def Obj.sinkInfo (n : Nat) : Nat := key (0x7000 + 0x100 * n) 0x12
/-- PAIR_ID. -/
def Obj.pairId (n : Nat) : Nat := key (0x7000 + 0x100 * n) 0x13
/-- DPIN_CTRL. -/
def Obj.dpinCtrl (n : Nat) : Nat := key (0x8000 + 0x100 * n) 0x01
/-- DPIN_EDID. -/
def Obj.dpinEdid (n : Nat) : Nat := key (0x8000 + 0x100 * n) 0x02
/-- DPIN_STATE. -/
def Obj.dpinState (n : Nat) : Nat := key (0x8000 + 0x100 * n) 0x03
/-- DPIN_FORMAT. -/
def Obj.dpinFormat (n : Nat) : Nat := key (0x8000 + 0x100 * n) 0x04
/-- DPIN_HDCP. -/
def Obj.dpinHdcp (n : Nat) : Nat := key (0x8000 + 0x100 * n) 0x05
/-- DPIN_LINK_LOSSES. -/
def Obj.dpinLinkLosses (n : Nat) : Nat := key (0x8000 + 0x100 * n) 0x06
/-- ATTACH_TO. -/
def Obj.attachTo (n : Nat) : Nat := key (0x8000 + 0x100 * n) 0x07
/-- ATTACH_APPLY. -/
def Obj.attachApply (n : Nat) : Nat := key (0x8000 + 0x100 * n) 0x08
/-- ATTACH_OWNER. -/
def Obj.attachOwner (n : Nat) : Nat := key (0x8000 + 0x100 * n) 0x09
/-- MEM_STATE. -/
def Obj.memState (n : Nat) : Nat := key (0x4000 + 0x100 * n) 0x01
/-- MEM_RETRAIN. -/
def Obj.memRetrain (n : Nat) : Nat := key (0x4000 + 0x100 * n) 0x02
/-- TRACK_INTERVAL. -/
def Obj.trackInterval (n : Nat) : Nat := key (0x4000 + 0x100 * n) 0x03
/-- TRACK_LIMIT. -/
def Obj.trackLimit (n : Nat) : Nat := key (0x4000 + 0x100 * n) 0x04
/-- TRACK_DRIFT. -/
def Obj.trackDrift (n : Nat) : Nat := key (0x4000 + 0x100 * n) 0x05
/-- MEM_FLAGS. -/
def Obj.memFlags (n : Nat) : Nat := key (0x4000 + 0x100 * n) 0x06
/-- ECC_CORRECTED. -/
def Obj.eccCorrected (n : Nat) : Nat := key (0x4000 + 0x100 * n) 0x07
/-- ECC_UNCORRECTED. -/
def Obj.eccUncorrected (n : Nat) : Nat := key (0x4000 + 0x100 * n) 0x08
/-- ECC_LAST. -/
def Obj.eccLast (n : Nat) : Nat := key (0x4000 + 0x100 * n) 0x09
/-- CACHE_CTRL. -/
def Obj.cacheCtrl (n : Nat) : Nat := key (0x4010 + 0x100 * n) 0x01
/-- CACHE_STATE. -/
def Obj.cacheState (n : Nat) : Nat := key (0x4010 + 0x100 * n) 0x02
/-- CACHE_RES. -/
def Obj.cacheRes (n : Nat) : Nat := key (0x4010 + 0x100 * n) 0x03
/-- SC_HITS. -/
def Obj.scHits (n : Nat) : Nat := key (0x4010 + 0x100 * n) 0x04
/-- SC_MISSES. -/
def Obj.scMisses (n : Nat) : Nat := key (0x4010 + 0x100 * n) 0x05
/-- SC_STREAM_FILLS. -/
def Obj.scStreamFills (n : Nat) : Nat := key (0x4010 + 0x100 * n) 0x06
/-- SC_WRITEBACKS. -/
def Obj.scWritebacks (n : Nat) : Nat := key (0x4010 + 0x100 * n) 0x07
/-- ALLOC_BASE. -/
def Obj.allocBase (n : Nat) : Nat := key (0x4020 + 0x100 * n) 0x01
/-- ALLOC_CHUNKS. -/
def Obj.allocChunks (n : Nat) : Nat := key (0x4020 + 0x100 * n) 0x02
/-- ALLOC_STATE. -/
def Obj.allocState (n : Nat) : Nat := key (0x4020 + 0x100 * n) 0x03
/-- ALLOC_FREE. -/
def Obj.allocFree (n : Nat) : Nat := key (0x4020 + 0x100 * n) 0x04
/-- ALLOC_CALLS. -/
def Obj.allocCalls (n : Nat) : Nat := key (0x4020 + 0x100 * n) 0x05
/-- ALLOC_FAILS. -/
def Obj.allocFails (n : Nat) : Nat := key (0x4020 + 0x100 * n) 0x06
/-- AS_RT_ADDR. -/
def Obj.asRtAddr (n : Nat) : Nat := key (0x4800 + n) 0x01
/-- AS_RT_COUNT. -/
def Obj.asRtCount (n : Nat) : Nat := key (0x4800 + n) 0x02
/-- AS_ALLOC_VA. -/
def Obj.asAllocVa (n : Nat) : Nat := key (0x4800 + n) 0x03
/-- AS_FLAGS. -/
def Obj.asFlags (n : Nat) : Nat := key (0x4800 + n) 0x04
/-- AS_INSTALL. -/
def Obj.asInstall (n : Nat) : Nat := key (0x4800 + n) 0x05
/-- AS_STATUS. -/
def Obj.asStatus (n : Nat) : Nat := key (0x4800 + n) 0x06
/-- AS_GEN. -/
def Obj.asGen (n : Nat) : Nat := key (0x4800 + n) 0x07
/-- AS_ACK_GEN. -/
def Obj.asAckGen (n : Nat) : Nat := key (0x4800 + n) 0x08
/-- ALLOC_QUOTA_CH0. -/
def Obj.allocQuotaCh0 (n : Nat) : Nat := key (0x4800 + n) 0x09
/-- ALLOC_QUOTA_CH1. -/
def Obj.allocQuotaCh1 (n : Nat) : Nat := key (0x4800 + n) 0x0A
/-- ALLOC_QUOTA_CH2. -/
def Obj.allocQuotaCh2 (n : Nat) : Nat := key (0x4800 + n) 0x0B
/-- ALLOC_QUOTA_CH3. -/
def Obj.allocQuotaCh3 (n : Nat) : Nat := key (0x4800 + n) 0x0C
/-- ALLOC_USED_CH0. -/
def Obj.allocUsedCh0 (n : Nat) : Nat := key (0x4800 + n) 0x0D
/-- ALLOC_USED_CH1. -/
def Obj.allocUsedCh1 (n : Nat) : Nat := key (0x4800 + n) 0x0E
/-- ALLOC_USED_CH2. -/
def Obj.allocUsedCh2 (n : Nat) : Nat := key (0x4800 + n) 0x0F
/-- ALLOC_USED_CH3. -/
def Obj.allocUsedCh3 (n : Nat) : Nat := key (0x4800 + n) 0x10
/-- ALLOC_TRIM. -/
def Obj.allocTrim (n : Nat) : Nat := key (0x4800 + n) 0x11
/-- HEARTBEAT. -/
def Obj.heartbeat : Nat := key 0x1001 0x01
/-- ATTN_NEWEST. -/
def Obj.attnNewest : Nat := key 0x1001 0x02
/-- ATTN_ACK. -/
def Obj.attnAck : Nat := key 0x1001 0x03
/-- ATTN_FIRST. -/
def Obj.attnFirst : Nat := key 0x1001 0x04
/-- ATTN_DROPPED. -/
def Obj.attnDropped : Nat := key 0x1001 0x05
/-- ATTN_LOG. -/
def Obj.attnLog : Nat := key 0x1001 0x06
/-- PCIE_LINK. -/
def Obj.pcieLink : Nat := key 0x1010 0x01
/-- DOORBELL_DROPS. -/
def Obj.doorbellDrops : Nat := key 0x1010 0x02
/-- MB_OVERRUNS. -/
def Obj.mbOverruns : Nat := key 0x1010 0x03
/-- T1_MAC. -/
def Obj.t1Mac : Nat := key 0x1020 0x01
/-- T1_IPV4. -/
def Obj.t1Ipv4 : Nat := key 0x1020 0x02
/-- T1_NETMASK. -/
def Obj.t1Netmask : Nat := key 0x1020 0x03
/-- T1_GATEWAY. -/
def Obj.t1Gateway : Nat := key 0x1020 0x04
/-- T1_STATE. -/
def Obj.t1State : Nat := key 0x1020 0x05
/-- T1_ADDR. -/
def Obj.t1Addr : Nat := key 0x1020 0x06
/-- T1_AS_EN. -/
def Obj.t1AsEn : Nat := key 0x1020 0x07
/-- T1_AS_STATE. -/
def Obj.t1AsState : Nat := key 0x1020 0x08
/-- DICT_REQUESTS. -/
def Obj.dictRequests : Nat := key 0x1030 0x01
/-- DICT_DUPLICATES. -/
def Obj.dictDuplicates : Nat := key 0x1030 0x02
/-- DICT_DROPS. -/
def Obj.dictDrops : Nat := key 0x1030 0x03
/-- CTX_CREATE. -/
def Obj.ctxCreate (n : Nat) : Nat := key (0x1100 + n) 0x01
/-- CTX_STATE. -/
def Obj.ctxState (n : Nat) : Nat := key (0x1100 + n) 0x02
/-- CTX_OWNER. -/
def Obj.ctxOwner (n : Nat) : Nat := key (0x1100 + n) 0x03
/-- CTX_AS. -/
def Obj.ctxAs (n : Nat) : Nat := key (0x1100 + n) 0x04
/-- CTX_REFS. -/
def Obj.ctxRefs (n : Nat) : Nat := key (0x1100 + n) 0x05
/-- CTX_HOLD. -/
def Obj.ctxHold (n : Nat) : Nat := key (0x1100 + n) 0x06
/-- CTX_RELEASE. -/
def Obj.ctxRelease (n : Nat) : Nat := key (0x1100 + n) 0x07
/-- CTX_ABORT. -/
def Obj.ctxAbort (n : Nat) : Nat := key (0x1100 + n) 0x08
/-- CTX_FAULT. -/
def Obj.ctxFault (n : Nat) : Nat := key (0x1100 + n) 0x09
/-- CTX_BATON_CREATE. -/
def Obj.ctxBatonCreate (n : Nat) : Nat := key (0x1100 + n) 0x0A
/-- CTX_BATON_RELEASE. -/
def Obj.ctxBatonRelease (n : Nat) : Nat := key (0x1100 + n) 0x0B
/-- CTX_BATON_SHARE. -/
def Obj.ctxBatonShare (n : Nat) : Nat := key (0x1100 + n) 0x0C
/-- BATON_BASE. -/
def Obj.batonBase (n : Nat) : Nat := key (0x1200 + n) 0x01
/-- BATON_QUOTA. -/
def Obj.batonQuota (n : Nat) : Nat := key (0x1200 + n) 0x02
/-- CTX_QUOTA. -/
def Obj.ctxQuota (n : Nat) : Nat := key (0x1200 + n) 0x03
/-- QUEUE_QUOTA. -/
def Obj.queueQuota (n : Nat) : Nat := key (0x1200 + n) 0x04
/-- TENANT_USED. -/
def Obj.tenantUsed (n : Nat) : Nat := key (0x1200 + n) 0x05
/-- BATON_VALUES. -/
def Obj.batonValues : Nat := key 0x1300 0x01
/-- BATON_VIEW. -/
def Obj.batonView : Nat := key 0x1300 0x02
/-- BATON_SIGNAL. -/
def Obj.batonSignal : Nat := key 0x1300 0x03
/-- BATON_FAIL. -/
def Obj.batonFail : Nat := key 0x1300 0x04
/-- REGRESSIVE_SIGNALS. -/
def Obj.regressiveSignals : Nat := key 0x1300 0x05
/-- Q_BASE. -/
def Obj.qBase (n : Nat) : Nat := key (0x1800 + n) 0x01
/-- Q_ENTRIES. -/
def Obj.qEntries (n : Nat) : Nat := key (0x1800 + n) 0x02
/-- Q_RING. -/
def Obj.qRing (n : Nat) : Nat := key (0x1800 + n) 0x03
/-- Q_RING_ENTRIES. -/
def Obj.qRingEntries (n : Nat) : Nat := key (0x1800 + n) 0x04
/-- Q_CREATE. -/
def Obj.qCreate (n : Nat) : Nat := key (0x1800 + n) 0x05
/-- Q_DESTROY. -/
def Obj.qDestroy (n : Nat) : Nat := key (0x1800 + n) 0x06
/-- Q_STATUS. -/
def Obj.qStatus (n : Nat) : Nat := key (0x1800 + n) 0x07
/-- Q_RPTR. -/
def Obj.qRptr (n : Nat) : Nat := key (0x1800 + n) 0x08
/-- Q_LAP. -/
def Obj.qLap (n : Nat) : Nat := key (0x1800 + n) 0x09
/-- Q_RING_DROPS. -/
def Obj.qRingDrops (n : Nat) : Nat := key (0x1800 + n) 0x0A
/-- COURSE_ADDR. -/
def Obj.courseAddr (n : Nat) : Nat := key (0x1400 + n) 0x01
/-- COURSE_CREATE. -/
def Obj.courseCreate (n : Nat) : Nat := key (0x1400 + n) 0x02
/-- COURSE_PATCH. -/
def Obj.coursePatch (n : Nat) : Nat := key (0x1400 + n) 0x03
/-- COURSE_DESTROY. -/
def Obj.courseDestroy (n : Nat) : Nat := key (0x1400 + n) 0x04
/-- COURSE_VERSION. -/
def Obj.courseVersion (n : Nat) : Nat := key (0x1400 + n) 0x05
/-- COURSE_OLDEST. -/
def Obj.courseOldest (n : Nat) : Nat := key (0x1400 + n) 0x06
/-- COURSE_STATUS. -/
def Obj.courseStatus (n : Nat) : Nat := key (0x1400 + n) 0x07
/-- DISPLAY_CTX. -/
def Obj.displayCtx (n : Nat) : Nat := key (0x3300 + 0x400 * n) 0x01
/-- TP_BATON. -/
def Obj.tpBaton (n : Nat) : Nat := key (0x3300 + 0x400 * n) 0x02
/-- LAP_LAUNCH. -/
def Obj.lapLaunch (n : Nat) : Nat := key (0x3310 + 0x400 * n) 0x01
/-- LAP_BEARING. -/
def Obj.lapBearing (n : Nat) : Nat := key (0x3310 + 0x400 * n) 0x02
/-- LAP_TRAVERSE. -/
def Obj.lapTraverse (n : Nat) : Nat := key (0x3310 + 0x400 * n) 0x03
/-- LAP_RASTER. -/
def Obj.lapRaster (n : Nat) : Nat := key (0x3310 + 0x400 * n) 0x04
/-- LAP_COPY. -/
def Obj.lapCopy (n : Nat) : Nat := key (0x3310 + 0x400 * n) 0x05
/-- STALL_TICKS. -/
def Obj.stallTicks (n : Nat) : Nat := key (0x3310 + 0x400 * n) 0x06
/-- MB_ACK_TO_CH0. -/
def Obj.mbAckToCh0 (n : Nat) : Nat := key (0x3320 + 0x400 * n) 0x01
/-- MB_ACK_TO_CH1. -/
def Obj.mbAckToCh1 (n : Nat) : Nat := key (0x3320 + 0x400 * n) 0x02
/-- MB_ACK_TO_CH2. -/
def Obj.mbAckToCh2 (n : Nat) : Nat := key (0x3320 + 0x400 * n) 0x03
/-- MB_ACK_TO_CH3. -/
def Obj.mbAckToCh3 (n : Nat) : Nat := key (0x3320 + 0x400 * n) 0x04
/-- HEAT_ADDR of heat h of channel n. -/
def Obj.heatAddr (n h : Nat) : Nat := key (0x3340 + 0x400 * n + h) 0x01
/-- HEAT_CREATE of heat h of channel n. -/
def Obj.heatCreate (n h : Nat) : Nat := key (0x3340 + 0x400 * n + h) 0x02
/-- HEAT_DESTROY of heat h of channel n. -/
def Obj.heatDestroy (n h : Nat) : Nat := key (0x3340 + 0x400 * n + h) 0x03
/-- HEAT_STATE of heat h of channel n. -/
def Obj.heatState (n h : Nat) : Nat := key (0x3340 + 0x400 * n + h) 0x04
/-- HEAT_CTX of heat h of channel n. -/
def Obj.heatCtx (n h : Nat) : Nat := key (0x3340 + 0x400 * n + h) 0x05
/-- HEAT_STEPS of heat h of channel n. -/
def Obj.heatSteps (n h : Nat) : Nat := key (0x3340 + 0x400 * n + h) 0x06
/-- HEAT_JOINS of heat h of channel n. -/
def Obj.heatJoins (n h : Nat) : Nat := key (0x3340 + 0x400 * n + h) 0x07
/-- HEAT_LEAVES of heat h of channel n. -/
def Obj.heatLeaves (n h : Nat) : Nat := key (0x3340 + 0x400 * n + h) 0x08
/-- HEAT_DEFERRALS of heat h of channel n. -/
def Obj.heatDeferrals (n h : Nat) : Nat := key (0x3340 + 0x400 * n + h) 0x09
/-- HEAT_REFUSED of heat h of channel n. -/
def Obj.heatRefused (n h : Nat) : Nat := key (0x3340 + 0x400 * n + h) 0x0A
/-- HEAT_LEAVE_MISSES of heat h of channel n. -/
def Obj.heatLeaveMisses (n h : Nat) : Nat := key (0x3340 + 0x400 * n + h) 0x0B
/-- KL_CTRL. -/
def Obj.klCtrl (n : Nat) : Nat := key (0xC000 + 0x100 * n) 0x01
/-- KL_STATE. -/
def Obj.klState (n : Nat) : Nat := key (0xC000 + 0x100 * n) 0x02
/-- KL_PEER. -/
def Obj.klPeer (n : Nat) : Nat := key (0xC000 + 0x100 * n) 0x03
/-- KL_WINDOWS. -/
def Obj.klWindows (n : Nat) : Nat := key (0xC000 + 0x100 * n) 0x04
/-- KL_BATONS. -/
def Obj.klBatons (n : Nat) : Nat := key (0xC000 + 0x100 * n) 0x05
/-- KL_APPLY. -/
def Obj.klApply (n : Nat) : Nat := key (0xC000 + 0x100 * n) 0x06
/-- KL_FEC_CORRECTED. -/
def Obj.klFecCorrected (n : Nat) : Nat := key (0xC000 + 0x100 * n) 0x07
/-- KL_RETRIES. -/
def Obj.klRetries (n : Nat) : Nat := key (0xC000 + 0x100 * n) 0x08
/-- KL_DOWN_EVENTS. -/
def Obj.klDownEvents (n : Nat) : Nat := key (0xC000 + 0x100 * n) 0x09
/-- KL_IMPORT_DROPS. -/
def Obj.klImportDrops (n : Nat) : Nat := key (0xC000 + 0x100 * n) 0x0A
/-- ATTACH_TO. -/
def Obj.klAttachTo (n : Nat) : Nat := key (0xC000 + 0x100 * n) 0x0B
/-- ATTACH_APPLY. -/
def Obj.klAttachApply (n : Nat) : Nat := key (0xC000 + 0x100 * n) 0x0C
/-- ATTACH_OWNER. -/
def Obj.klAttachOwner (n : Nat) : Nat := key (0xC000 + 0x100 * n) 0x0D
/-- SYNC_CTRL. -/
def Obj.syncCtrl : Nat := key 0xC200 0x01
/-- SYNC_LOOP. -/
def Obj.syncLoop : Nat := key 0xC200 0x02
/-- START_LINE. -/
def Obj.startLine : Nat := key 0xC200 0x03
/-- START_ARM. -/
def Obj.startArm : Nat := key 0xC200 0x04
/-- START_LATCH. -/
def Obj.startLatch : Nat := key 0xC200 0x05
/-- START_VALID. -/
def Obj.startValid : Nat := key 0xC200 0x06
/-- DEVICE_INDEX. -/
def Obj.deviceIndex : Nat := key 0xC200 0x07
/-- SYNC_ERRORS. -/
def Obj.syncErrors : Nat := key 0xC200 0x08
/-- HL_CORRECTED. -/
def Obj.hlCorrected (n : Nat) : Nat := key (0xC300 + n) 0x01
/-- HL_UNCORRECTED. -/
def Obj.hlUncorrected (n : Nat) : Nat := key (0xC300 + n) 0x02
/-- RING_CORRECTED. -/
def Obj.ringCorrected (n : Nat) : Nat := key (0xC300 + n) 0x03
/-- RING_UNCORRECTED. -/
def Obj.ringUncorrected (n : Nat) : Nat := key (0xC300 + n) 0x04
/-- PAIR_CTRL. -/
def Obj.pairCtrl : Nat := key 0xB000 0x01
/-- PAIR_JOIN. -/
def Obj.pairJoin : Nat := key 0xB000 0x02
/-- PAIR_SWAP. -/
def Obj.pairSwap : Nat := key 0xB000 0x03
/-- PAIR_STATE. -/
def Obj.pairState : Nat := key 0xB000 0x04
/-- PAIR_ROLE. -/
def Obj.pairRole : Nat := key 0xB000 0x05
/-- PEER_OFFSET. -/
def Obj.peerOffset : Nat := key 0xB000 0x06
/-- PAIR_STATUS. -/
def Obj.pairStatus : Nat := key 0xB000 0x07
/-- DIVERGENCES. -/
def Obj.divergences : Nat := key 0xB000 0x08
/-- SHADOW_DIFFS. -/
def Obj.shadowDiffs : Nat := key 0xB000 0x09
/-- LATE_DATUMS. -/
def Obj.lateDatums : Nat := key 0xB000 0x0A
/-- PROMOTIONS. -/
def Obj.promotions : Nat := key 0xB000 0x0B
/-- DIGEST_DESC. -/
def Obj.digestDesc : Nat := key 0xB100 0x01
/-- DIGEST_RUN. -/
def Obj.digestRun : Nat := key 0xB100 0x02
/-- DIGEST_STATUS. -/
def Obj.digestStatus : Nat := key 0xB100 0x03
/-- REPLAY_CTRL. -/
def Obj.replayCtrl (n : Nat) : Nat := key (0xB200 + n) 0x01
/-- REPLAY_LOG. -/
def Obj.replayLog (n : Nat) : Nat := key (0xB200 + n) 0x02
/-- REPLAY_ENTRIES. -/
def Obj.replayEntries (n : Nat) : Nat := key (0xB200 + n) 0x03
/-- REPLAY_STEP. -/
def Obj.replayStep (n : Nat) : Nat := key (0xB200 + n) 0x04
/-- POWER_STATE. -/
def Obj.powerState : Nat := key 0x5000 0x01
/-- P2_ENTER. -/
def Obj.p2Enter : Nat := key 0x5000 0x02
/-- ENTRY_MODE. -/
def Obj.entryMode : Nat := key 0x5000 0x03
/-- WAKE_MASK. -/
def Obj.wakeMask : Nat := key 0x5000 0x04
/-- WAKE_CAUSE. -/
def Obj.wakeCause : Nat := key 0x5000 0x05
/-- ENTRY_ABORTS. -/
def Obj.entryAborts : Nat := key 0x5000 0x06
/-- RESET_CAUSE. -/
def Obj.resetCause : Nat := key 0x5000 0x07
/-- PAD_RELEASE. -/
def Obj.padRelease : Nat := key 0x5000 0x08
/-- PAD_LATCHED. -/
def Obj.padLatched : Nat := key 0x5000 0x09
/-- PD_STATE. -/
def Obj.pdState : Nat := key 0x5000 0x0A
/-- VRET_MODE. -/
def Obj.vretMode : Nat := key 0x5000 0x0B
/-- VRET_CURRENT. -/
def Obj.vretCurrent : Nat := key 0x5000 0x0C
/-- PACKAGE_LIMIT. -/
def Obj.packageLimit : Nat := key 0x5000 0x0D
/-- LEND_TICKS. -/
def Obj.lendTicks : Nat := key 0x5000 0x0E
/-- LENDS. -/
def Obj.lends : Nat := key 0x5000 0x0F
/-- CH_POWER. -/
def Obj.chPower (n : Nat) : Nat := key (0x5100 + 0x100 * n) 0x01
/-- CH_PSTATE. -/
def Obj.chPstate (n : Nat) : Nat := key (0x5100 + 0x100 * n) 0x02
/-- OPP_REQ. -/
def Obj.oppReq (n : Nat) : Nat := key (0x5100 + 0x100 * n) 0x03
/-- OPP_CUR. -/
def Obj.oppCur (n : Nat) : Nat := key (0x5100 + 0x100 * n) 0x04
/-- CLASS0_FLOOR. -/
def Obj.class0Floor (n : Nat) : Nat := key (0x5100 + 0x100 * n) 0x05
/-- CH_BUDGET. -/
def Obj.chBudget (n : Nat) : Nat := key (0x5100 + 0x100 * n) 0x06
/-- CH_LENT. -/
def Obj.chLent (n : Nat) : Nat := key (0x5100 + 0x100 * n) 0x07
/-- CH_BORROWED. -/
def Obj.chBorrowed (n : Nat) : Nat := key (0x5100 + 0x100 * n) 0x08
/-- BOOT_INFO. -/
def Obj.bootInfo : Nat := key 0x9000 0x01
/-- STEPPING. -/
def Obj.stepping : Nat := key 0x9000 0x02
/-- ROOT_DIGEST. -/
def Obj.rootDigest : Nat := key 0x9000 0x03
/-- DEVICE_ID_PUBKEY. -/
def Obj.deviceIdPubkey : Nat := key 0x9000 0x04
/-- ID_DIGEST. -/
def Obj.idDigest : Nat := key 0x9000 0x05
/-- ID_STATE. -/
def Obj.idState : Nat := key 0x9000 0x06
/-- MODEL_VERSION. -/
def Obj.modelVersion : Nat := key 0x9000 0x07
/-- IMAGE_CHUNK. -/
def Obj.imageChunk : Nat := key 0x9010 0x01
/-- IMAGE_STATUS. -/
def Obj.imageStatus : Nat := key 0x9010 0x02
/-- UNIT_TABLE. -/
def Obj.unitTable : Nat := key 0x9010 0x03
/-- UPDATE_TARGET. -/
def Obj.updateTarget : Nat := key 0x9010 0x04
/-- UPDATE_APPLY. -/
def Obj.updateApply : Nat := key 0x9010 0x05
/-- UPDATE_DISCARD. -/
def Obj.updateDiscard : Nat := key 0x9010 0x06
/-- POLICY_WRITE. -/
def Obj.policyWrite : Nat := key 0x9020 0x01
/-- POLICY_VERSION. -/
def Obj.policyVersion : Nat := key 0x9020 0x02
/-- POLICY_FLAGS. -/
def Obj.policyFlags : Nat := key 0x9020 0x03
/-- FLOORS. -/
def Obj.floors : Nat := key 0x9020 0x04
/-- OWNER_ID. -/
def Obj.ownerId : Nat := key 0x9020 0x05
/-- ATTEST_NONCE. -/
def Obj.attestNonce : Nat := key 0x9030 0x01
/-- ATTEST_RUN. -/
def Obj.attestRun : Nat := key 0x9030 0x02
/-- ATTEST_QUOTE. -/
def Obj.attestQuote : Nat := key 0x9030 0x03
/-- HDCP_KEYS. -/
def Obj.hdcpKeys : Nat := key 0x9040 0x01
/-- HDCP_KEY_STATE. -/
def Obj.hdcpKeyState : Nat := key 0x9040 0x02
/-- CH_SERVICE. -/
def Obj.chService (n : Nat) : Nat := key (0x3360 + 0x400 * n) 0x01
/-- CH_SERVICE_APPLY. -/
def Obj.chServiceApply (n : Nat) : Nat := key (0x3360 + 0x400 * n) 0x02
/-- CH_SERVICE_STATUS. -/
def Obj.chServiceStatus (n : Nat) : Nat := key (0x3360 + 0x400 * n) 0x03
/-- CH_RESET. -/
def Obj.chReset (n : Nat) : Nat := key (0x3360 + 0x400 * n) 0x04
/-- CORE_MAP. -/
def Obj.coreMap (n : Nat) : Nat := key (0x3360 + 0x400 * n) 0x05
/-- SLOT_STATE. -/
def Obj.slotState (n : Nat) : Nat := key (0x3360 + 0x400 * n) 0x06
/-- SUBST_LOGICAL. -/
def Obj.substLogical (n : Nat) : Nat := key (0x3360 + 0x400 * n) 0x07
/-- SUBST_APPLY. -/
def Obj.substApply (n : Nat) : Nat := key (0x3360 + 0x400 * n) 0x08
/-- TEST_TARGET. -/
def Obj.testTarget (n : Nat) : Nat := key (0x3360 + 0x400 * n) 0x09
/-- TEST_RUN. -/
def Obj.testRun (n : Nat) : Nat := key (0x3360 + 0x400 * n) 0x0A
/-- TEST_STATUS. -/
def Obj.testStatus (n : Nat) : Nat := key (0x3360 + 0x400 * n) 0x0B
/-- UNIT_HEALTH. -/
def Obj.unitHealth (n : Nat) : Nat := key (0x3360 + 0x400 * n) 0x0C
/-- TRACE_CTRL. -/
def Obj.traceCtrl : Nat := key 0xA000 0x01
/-- TRACE_TYPES. -/
def Obj.traceTypes : Nat := key 0xA000 0x02
/-- TRACE_CLASSES. -/
def Obj.traceClasses : Nat := key 0xA000 0x03
/-- TRACE_CTX. -/
def Obj.traceCtx : Nat := key 0xA000 0x04
/-- TRACE_WATCH. -/
def Obj.traceWatch : Nat := key 0xA000 0x05
/-- TRACE_DEST_IP. -/
def Obj.traceDestIp : Nat := key 0xA000 0x06
/-- TRACE_DEST_PORT. -/
def Obj.traceDestPort : Nat := key 0xA000 0x07
/-- TRACE_STATE. -/
def Obj.traceState : Nat := key 0xA000 0x08
/-- TRACE_SEQ. -/
def Obj.traceSeq : Nat := key 0xA000 0x09
/-- TRACE_LOST. -/
def Obj.traceLost : Nat := key 0xA000 0x0A
/-- TRACE_EXPORTED. -/
def Obj.traceExported : Nat := key 0xA000 0x0B
/-- TRACE_FILL. -/
def Obj.traceFill : Nat := key 0xA000 0x0C
/-- REPORT_TICKS. -/
def Obj.reportTicks (n : Nat) : Nat := key (0xA100 + 0x100 * n) 0x01
/-- REPORT_SEQ. -/
def Obj.reportSeq (n : Nat) : Nat := key (0xA100 + 0x100 * n) 0x02
/-- SPLIT_WINDOW. -/
def Obj.splitWindow (n : Nat) : Nat := key (0xA100 + 0x100 * n) 0x03
/-- SPLIT_STAGE. -/
def Obj.splitStage (n : Nat) : Nat := key (0xA100 + 0x100 * n) 0x04
/-- SPLIT_CLEAR. -/
def Obj.splitClear (n : Nat) : Nat := key (0xA100 + 0x100 * n) 0x05
/-- VENDOR. -/
def Obj.vendor : Nat := key 0x1000 0x01
/-- PRODUCT. -/
def Obj.product : Nat := key 0x1000 0x02
/-- DICT_VERSION. -/
def Obj.dictVersion : Nat := key 0x1000 0x03
/-- SERIAL. -/
def Obj.serial : Nat := key 0x1000 0x04
/-- CH_SUMMARY. -/
def Obj.chSummary (n : Nat) : Nat := key (0x3000 + 0x400 * n) 0x01
/-- RWS_SNAPSHOT. -/
def Obj.rwsSnapshot : Nat := key 0x1003 0x01
/-- RESTORE_WRITE. -/
def Obj.restoreWrite : Nat := key 0x1003 0x02
/-- RESTORE_STATUS. -/
def Obj.restoreStatus : Nat := key 0x1003 0x03

/-- The power state a channel is in (R452, R453): CH_PSTATE, or while a change waits for its edge the state before it. -/
def State.powerNow (s : State) (ch : Fin 4) : Nat :=
  if s.obj (Obj.chPstate ch) = 3 then (s.chPend.get ch).was else s.obj (Obj.chPstate ch)

end Sys2Proof.Machine
end

