-- ==== Sys2Proof/Machine/Flags.lean ====
section
/-! DEFINITION. The flags a command leaves for the host: attention logs (R355, R356), the Reply Status
Word (R353), reply codes and command status (R346, R351), the access gate (R352, R485), trace records
(R505 to R508) and the codes of R398. -/

namespace Sys2Proof.Machine

/-! ## Reply codes (R351) -/

def rcOk : Nat := 0
def rcUnknown : Nat := 1
def rcAccess : Nat := 2
def rcLength : Nat := 3
def rcRange : Nat := 4
def rcBusy : Nat := 5
def rcNotAuth : Nat := 6
def rcMalformed : Nat := 7

/-! ## Attention kinds (R355) -/

def atState : Nat := 0x8001
def atCount : Nat := 0x8002
def atMailbox : Nat := 0x8003
def atDone : Nat := 0x8004

/-- CHANNEL 0xFF: no channel. -/
def noCh : Nat := 0xFF

/-! ## Error codes (R398) -/

def eWcetWindow : Nat := 0x0101
def eMapSplit : Nat := 0x0102
def eWcetOverrun : Nat := 0x0103
def eTickOverrun : Nat := 0x0104
def eTpFormat : Nat := 0x0105
def eModel : Nat := 0x0106
def eLatency : Nat := 0x0107
def ePipeFormat : Nat := 0x0108
def eBlockView : Nat := 0x0201
def eAccCfg : Nat := 0x0202
def eAccBound : Nat := 0x0203
def eEpilogue : Nat := 0x0204
def eNlt : Nat := 0x0205
def eVarying : Nat := 0x0206
def eDefer : Nat := 0x0207
def eLaunchFormat : Nat := 0x0301
def eLaunchRes : Nat := 0x0302
def eIllegal : Nat := 0x0303
def eMisaligned : Nat := 0x0304
def eLocalRange : Nat := 0x0305
def eClusterRange : Nat := 0x0306
def eDepth : Nat := 0x0307
def eDivBarrier : Nat := 0x0308
def eDivMatrix : Nat := 0x0309
def eCommitFull : Nat := 0x030A
def eAtomicScope : Nat := 0x030B
def eAtomicUnsup : Nat := 0x030C
def eLockFull : Nat := 0x030D
def eSibling : Nat := 0x030E
def eAllocLimit : Nat := 0x030F
def eAppend : Nat := 0x0310
def eTranslation : Nat := 0x0401
def ePool : Nat := 0x0402
def eMemError : Nat := 0x0403
def eMemOffline : Nat := 0x0404
def eRangeTable : Nat := 0x0405
def eBearing : Nat := 0x0501
def eTraverse : Nat := 0x0502
def eList : Nat := 0x0503
def eHierarchy : Nat := 0x0504
def eRaster : Nat := 0x0505
def eSurface : Nat := 0x0506
def eResolve : Nat := 0x0507
def eCopy : Nat := 0x0508
def eComp : Nat := 0x0601
def eClosure : Nat := 0x0602
def eOwnerLost : Nat := 0x0701
def eCmdFormat : Nat := 0x0702
def eBatonAccess : Nat := 0x0703
def eCtxFaulted : Nat := 0x0704
def eCourseFormat : Nat := 0x0705
def eQueueClosed : Nat := 0x0706
def eHeat : Nat := 0x0801
def eImageFormat : Nat := 0x0D01
def eImageSignature : Nat := 0x0D02
def eImageRollback : Nat := 0x0D03
def ePolicy : Nat := 0x0D04
def eIdUnavailable : Nat := 0x0D05
def eUnitUnavailable : Nat := 0x0D06
def eTestAborted : Nat := 0x0D07

/-! ## Units in service (R492, R497) -/

/-- Windowed unit `u` (R59) of a channel is FAILED: only the fixed-function units 4 to 7 can be, by
UNIT_HEALTH bits [9:6] (R497, R501). -/
def State.unitFailed (s : State) (ch : Fin 4) (u : Nat) : Bool := 4 ≤ u && bit (s.obj (Obj.unitHealth ch)) (u + 2)

/-- The image record of a unit. -/
def State.unitImage (s : State) (u : Nat) : UnitImage :=
  (look s.images u).getD { running := none, staged := none, apply := none, needed := false }

/-- MODEL_VERSION of the running Marshal image (R82, R500). -/
def State.modelVersion (s : State) : Nat := ((s.unitImage 0).running.map Image.model).getD Config.modelVersion

/-- UNIT_ID of CORESETn, PACERn, COMPn, DPn, DPINi and KLi (R478). -/
def coresetId (ch : Nat) : Nat := 0x60 + ch
def pacerId (ch : Nat) : Nat := 0x10 + ch
def compId (ch : Nat) : Nat := 0x20 + ch
def dpId (ch : Nat) : Nat := 0x30 + ch
def dpinId (i : Nat) : Nat := 0x40 + i
def klId (i : Nat) : Nat := 0x50 + i

/-! ## Trace records -/

/-- The cycle within the current tick of a channel (R12, R57). -/
def State.cycle (s : State) (ch : Fin 4) : Nat := s.now - (s.pacer ch).edge

/-- The device timestamp of a channel at the present cycle (R12). The first cycle after a tick belongs to the next tick (R10),
also while its edge is still to be taken; a tick of transition ends with its leader's (R58). -/
def State.stamp (s : State) (ch : Fin 4) : Nat × Nat :=
  let p := s.pacer ch
  if !p.transition && p.len ≤ s.cycle ch then (p.tick + 1, s.cycle ch - p.len) else (p.tick, s.cycle ch)

/-- The service state of a channel. -/
def State.svc (s : State) (ch : Fin 4) : Service := s.service.get ch

/-- An OFFLINE channel forms only MARK, ATTN and STATE records (R515). -/
def State.formed (s : State) (type chan : Nat) : Bool :=
  4 ≤ chan || s.svc (toCh chan) ≠ .offline || type = 1 || type = 12 || type = 13

/-- The channel whose tick number stamps an event: its own, or channel 0's for none (R355, R505). -/
def stampCh (c : Nat) : Fin 4 := if c < 4 then toCh c else 0

/-- A trace record passes its channel's filter (R507). `ctx` is the record's context. -/
def tracePass (f : TraceFilter) (type chan cls ctx : Nat) : Bool :=
  bit f.ctrl 31 && (type = 0 || bit f.types type) && (chan = noCh || bit f.ctrl (24 + chan)) &&
  (type < 3 || 8 < type || (bit f.classes cls && (f.ctx = 0xFFFF || f.ctx = ctx)))

/-- Records the trace buffer holds at most (R508). -/
def traceRoom : Nat := 8192

/-- The order of a channel's records of one cycle (R507): ascending UNIT, then ascending TYPE. -/
def traceBefore (a b : TraceRec) : Bool :=
  a.chan = b.chan && a.tick = b.tick && a.cycle = b.cycle && a.unit * 32 + a.type < b.unit * 32 + b.type

/-- New records take their place before the newest of the buffer, given newest first, that they go before; the order of the
last of them counts. -/
def placeRecs (rs : List TraceRec) : List TraceRec → List TraceRec
  | [] => rs.reverse
  | x :: t => if rs.getLast?.any (fun r => traceBefore r x) then x :: placeRecs rs t else rs.reverse ++ x :: t

/-- Keep records, in the order of R507, with the next SEQs in that order (R505, R516). -/
def State.keep (s : State) (rs : List TraceRec) : State :=
  let buf := (placeRecs (rs.map (fun r => { r with kept := s.now })) s.traceBuf.reverse).reverse
  let first := s.obj Obj.traceSeq + 2 ^ 32 - s.traceBuf.length
  let s := s.bump Obj.traceSeq rs.length 32
  { s with traceBuf := buf.zipIdx.map (fun q => { q.1 with seq := (first + q.2) % 2 ^ 32 }) }

/-- Form a trace record (R505 to R508): it is filtered, dropped and counted where its capture queue or
the buffer is full, and otherwise kept, after a LOST record when some were dropped before it. Nothing is captured from
entry step E6 to the end of the return. -/
def State.emit (s : State) (type chan unit cls ctx arg0 arg1 : Nat) : State :=
  let ch := stampCh chan
  let o := s.observe.get ch
  let off := s.power.p2 = .entry 6 || s.power.p2 = .standby || s.power.p2 = .returning
  if off || !s.formed type chan || !tracePass o.filter type chan cls ctx then s
  else
    let used := (o.drain - s.now) / 4
    if 64 ≤ used || traceRoom < s.traceBuf.length + (if o.lost = 0 then 1 else 2) then
      { s with observe := s.observe.set ch { o with lost := o.lost + 1 } }.bump Obj.traceLost 1 64
    else
      let stamp : TraceRec :=
        { kept := 0, type := type, chan := chan, unit := unit, cls := cls, seq := 0, tick := (s.stamp ch).1,
          cycle := (s.stamp ch).2, arg0 := arg0 % 2 ^ 32, arg1 := arg1 % 2 ^ 64 }
      let s1 := { s with observe := s.observe.set ch { o with lost := 0, drain := max o.drain s.now + 4 } }
      s1.keep ((if o.lost = 0 then [] else [{ stamp with type := 0, unit := 0xFF, cls := 0, arg0 := o.lost, arg1 := 0 }]) ++ [stamp])

/-! ## Attention -/

/-- The order of events raised in one cycle (R355): ascending channel, those of no channel last, then INDEX, then SUB. -/
def attnBefore (a b : AttnEntry) : Bool :=
  if a.channel ≠ b.channel then a.channel < b.channel
  else if a.index ≠ b.index then a.index < b.index
  else a.sub < b.sub

/-- An event takes its place among those of its cycle (R355), after those it is not before. -/
def raiseIn (e : Nat × AttnEntry) : List (Nat × AttnEntry) → List (Nat × AttnEntry)
  | [] => [e]
  | x :: t => if attnBefore e.2 x.2 then e :: x :: t else x :: raiseIn e t

/-- An attention log with one more entry (R355, R356); `size` entries are retained. -/
def AttnLog.append (l : AttnLog) (size : Nat) (e : AttnEntry) : AttnLog :=
  let n := l.newest + 1
  let full := l.entries.length = size
  { newest := n, acked := l.acked,
    first := if full then l.first + 1 else l.first,
    dropped := if full && l.acked < l.first then l.dropped + 1 else l.dropped,
    entries := (({ e with seq := n } : AttnEntry) :: l.entries).take size }

/-- The attention log of a function: the device log for PF0 and T1, a VF's own otherwise (R355). -/
def State.logOf (s : State) (f : Nat) : AttnLog :=
  if f = 0 then s.devLog else (look s.vfLogs f).getD AttnLog.reset

/-- The state with a function's attention log replaced. -/
def State.setLog (s : State) (f : Nat) (l : AttnLog) : State :=
  if f = 0 then { s with devLog := l } else { s with vfLogs := put s.vfLogs f l }

/-- An attention entry for the object with key `k` (R355). -/
def State.attnEntry (s : State) (code chan k detail : Nat) : AttnEntry :=
  { seq := 0, code := code, channel := chan, index := (k / 256) % 65536, sub := k % 256, detail := detail % 2 ^ 32,
    tick := (s.stamp (stampCh chan)).1 }

/-- An entry is appended to the device log, with its ATTN record (R355, R506). -/
def State.logDevice (s : State) (e : AttnEntry) : State :=
  let s1 : State := { s with devLog := s.devLog.append 256 e }
  s1.emit 12 e.channel 0xFF 0 0 e.code s1.devLog.newest

/-- An entry is appended to the log of function `p.1` (R355). -/
def State.logOne (s : State) (p : Nat × AttnEntry) : State :=
  if p.1 = 0 then s.logDevice p.2 else s.setLog p.1 ((s.logOf p.1).append 64 p.2)

/-- The end of a cycle (R355): the events raised in it are appended to their logs together. What a dictionary request reads,
and the RSW, have them from then on. A request is executed in a cycle after that of the commands before it (DESIGN CHOICE, log
entry 123). -/
def State.endCycle (s : State) : State := forEach s.raised State.logOne { s with raised := [] }

/-- Time moved forward to `t`, where the present cycle ends; it never runs back. -/
def State.at (s : State) (t : Nat) : State := if t ≤ s.now then s else { s.endCycle with now := t }

/-- An event is to be logged at the end of its cycle, or is held while Marshal is being replaced (R491). -/
def State.note (s : State) (p : Nat × AttnEntry) : State :=
  if s.marshal = .updating then { s with heldAttn := s.heldAttn ++ [p] } else { s with raised := raiseIn p s.raised }

/-- "Raises attention" (R355): one entry in the device log, for the object with key `k`. -/
def State.attn (s : State) (code chan k detail : Nat) : State := s.note (0, s.attnEntry code chan k detail)

/-- Attention of an event whose source is a context of function `f`: the device log, and the log of a
VF that owns it (R355). -/
def State.attnFor (s : State) (f code chan k detail : Nat) : State :=
  let s1 := s.attn code chan k detail
  let e := s.attnEntry code chan k detail
  if f = 0 then s1 else s1.note (f, e)

/-- A STATE attention of an object's new value. -/
def State.attnState (s : State) (chan k : Nat) : State := s.attn atState chan k (s.obj k)

/-- Set a state object and raise STATE attention when it changes. -/
def State.setState (s : State) (chan k v : Nat) : State :=
  if s.obj k = v then s else (s.setObj k v).attnState chan k

/-! ## Service states and the Reply Status Word -/

/-- The code of a service state (R34). -/
def Service.code : Service → Nat
  | .offline => 0
  | .reduced => 1
  | .inService => 2
  | .covered => 3

/-- A channel's service state changes: a STATE record is formed, and attention raised (R34, R506). -/
def State.setSvc (s : State) (ch : Fin 4) (v : Service) : State :=
  let old := s.svc ch
  if old = v then s
  else
    let s1 := { s with service := s.service.set ch v }
    let s2 := s1.emit 13 ch 0xFF 0 0 (v.code + 4 * old.code) 0
    s2.attn atState ch (Obj.chSummary ch) v.code

/-- CH_STATE of the RSW (R353). -/
def State.chState (s : State) : Nat :=
  (s.svc 0).code + 4 * (s.svc 1).code + 16 * (s.svc 2).code + 64 * (s.svc 3).code

/-- The code of MARSHAL_STATE (R354). -/
def MarshalState.code : MarshalState → Nat
  | .rom => 1
  | .loading => 2
  | .running => 3
  | .updating => 4
  | .recovery => 5

/-- The Reply Status Word for a requester of function `f` with a reply code (R353). -/
def State.rsw (s : State) (f code : Nat) : Nat :=
  let l := s.logOf f
  (if l.newest = l.acked then 0 else 2 ^ 31) + (l.newest % 128) * 2 ^ 24 + s.chState * 2 ^ 16 +
  s.marshal.code * 2 ^ 12 + code * 2 ^ 8 + s.tick 0 % 256

/-! ## Replies and command status -/

/-- The request is answered with a code that refuses it: nothing else changes (R351). -/
def State.answer (s : State) (code : Nat) : State := { s with reply := code }

/-- The status a READ of a CMD object returns (R346): error code and state. -/
def cmdWord (err st : Nat) : Nat := err * 65536 + st * 4096

/-- The state with the status of a CMD object recorded. -/
def State.setCmd (s : State) (k err st : Nat) : State :=
  { s with cmdStatus := put s.cmdStatus k (cmdWord err st) }

/-- The channel that an object's key names in an attention entry (R355), or none. -/
def keyChan (k : Nat) : Nat :=
  let i := (k / 256) % 65536
  let page := i / 256 % 16
  if i / 4096 = 3 then (i - 0x3000) / 0x400
  else if [2, 4, 6, 7].contains (i / 4096) && page < 4 then page
  else if [5, 10].contains (i / 4096) && 1 ≤ page && page ≤ 4 then page - 1
  else noCh

/-- A CMD object's command has ended, in state `st` with an error code, and attention reports it (R346, R350). -/
def State.ended (s : State) (k err st : Nat) : State := (s.setCmd k err st).attn atDone (keyChan k) k (cmdWord err st)

/-- A CMD write refused with a reply code (R346, R351). -/
def State.refuse (s : State) (k code : Nat) : State := (s.answer code).setCmd k 0 3

/-- A CMD write accepted, its effect still to come. -/
def State.accept (s : State) (k : Nat) : State := (s.answer rcOk).setCmd k 0 1

/-- A CMD write whose effect is done. -/
def State.done (s : State) (k : Nat) : State := (s.answer rcOk).ended k 0 2

/-! ## Who may make a request -/

/-- A VF reaches the host port objects, the baton pool, and the contexts, courses and queues that are
FREE or that it owns (R352, R366). -/
def State.vfMay (s : State) (f index : Nat) : Bool :=
  if index = 0x1001 || index = 0x1010 || index = 0x1020 || index = 0x1030 || index = 0x1300 then true
  else
    let ctxOk (c : Nat) : Bool := match look s.ctxs c with | none => true | some x => x.owner = f
    match blockOf index with
    | some (0x1100, c) => ctxOk c
    | some (0x1400, k) => match look s.courses k with | none => true | some x => ctxOk x.ctx
    | some (0x1800, q) => match look s.queues q with | none => true | some x => ctxOk x.ctx
    | _ => false

/-- A T1 client is admitted by the policy in force (R352, R485). -/
def State.t1May (s : State) (ip : Nat) : Bool :=
  !bit s.policy.flags 2 ||
  s.policy.allow.any (fun e => e.2 != 0 && (BitVec.ofNat 32 ip &&& BitVec.ofNat 32 e.2) ==
    (BitVec.ofNat 32 e.1 &&& BitVec.ofNat 32 e.2))

/-- The device is in a pair's channel `ch` (R436): REQ_ROLE is not 0 and CH_MASK names the channel. -/
def State.inPair (s : State) (ch : Nat) : Bool :=
  let c := s.obj Obj.pairCtrl
  bits c 31 30 ≠ 0 && ch < 4 && bit c (22 + ch)

/-- The ticks by which timing decisions of a channel are deferred (R436): RELAY_TICKS in a pair, else 0. -/
def State.relay (s : State) (ch : Nat) : Nat := if s.inPair ch then bits (s.obj Obj.pairCtrl) 28 26 else 0

/-- A channel of a pair on which this device is the standby. -/
def State.standby (s : State) (ch : Nat) : Bool := s.inPair ch && s.obj Obj.pairRole = 2

/-- The channel and place of an object that a pair mirrors (R438). -/
def mirrorCh (k : Nat) : Option Nat :=
  let i := (k / 256) % 65536
  let sub := k % 256
  if 0x2000 ≤ i && i < 0x2400 && i % 0x100 ≤ 0x20 then some ((i - 0x2000) / 0x100)
  else if 0x3000 ≤ i && i < 0x4000 &&
    ((i % 0x400 = 0x100 && sub = 1) || i % 0x400 = 0x200 || i % 0x400 = 0x210) then some ((i - 0x3000) / 0x400)
  else if 0x6000 ≤ i && i < 0x6400 && (i % 0x100 = 0 || i % 0x100 = 0x10) then some ((i - 0x6000) / 0x100)
  else if 0x7000 ≤ i && i < 0x7400 && i % 0x100 = 0 then some ((i - 0x7000) / 0x100)
  else none

/-- A host write that the standby refuses (R438). -/
def State.standbyBars (s : State) (k : Nat) : Bool :=
  match mirrorCh k with
  | none => false
  | some c => s.standby c

/-- The device is neither entering P2 nor in it nor returning (R462 to R465). -/
def State.awake (s : State) : Bool :=
  match s.power.p2 with
  | .awake => true
  | .asked _ => true
  | _ => false

/-- Requests wait: Marshal is being replaced (R352, R491), or the device enters P2 or returns from it (R464). -/
def State.requestsWait (s : State) : Bool := s.marshal = .updating || !s.awake

/-- Edges until a write executed now takes effect where its effect waits for a tick edge (R438): the next one; in a pair
RELAY_TICKS more, which on the standby is the edge its MIRROR names. -/
def State.edgesToEffect (s : State) (ch : Fin 4) : Nat :=
  match s.pair.effect with
  | some t => max 1 (t - s.tick ch)
  | none => 1 + s.relay ch

/-- The effect of a write waits in the pair (R438). -/
def State.pairWait (s : State) (ch : Fin 4) (tick : Nat) (e : PairEffect) : State :=
  { s with pair := { s.pair with waits := s.pair.waits ++ [{ ch := ch.val, tick := tick, effect := e }] } }

/-- Takes a channel's waiting effects of one kind that have come (R438): those of its ticks so far, all of them outside a
pair. `pick` reads an effect of the kind. What is taken, and whether others of the kind go on waiting. -/
def State.takeWaits {α : Type} (s : State) (ch : Fin 4) (pick : PairEffect → Option α) : List α × Bool × State :=
  let mine (w : PairWait) : Bool := w.ch = ch.val && (pick w.effect).isSome
  let due (w : PairWait) : Bool := mine w && (!s.inPair ch || w.tick ≤ s.tick ch)
  let got := (s.pair.waits.filter due).filterMap (fun w => pick w.effect)
  let rest := s.pair.waits.filter (fun w => !due w)
  (got, rest.any mine, { s with pair := { s.pair with waits := rest } })

/-- A write of the active that it sends to the standby (R438): MIRROR with the written value and the tick `t` at which the
write takes effect there, where the write was accepted. It follows the DATUM of the present tick (R435). -/
def State.mirrored (s : State) (k : Nat) (v : List Byte) (t : Nat) (f : State → State) : State :=
  let s1 := f s
  match mirrorCh k with
  | none => s1
  | some c =>
    if s1.reply ≠ rcOk || s.requestsWait || !s.inPair c || s.obj Obj.pairRole ≠ 1 then s1
    else
      let m : KlMsg := { type := 6, vc := 0, cls := 0, arg := (k / 256) % 65536 * 256 + k % 256, arg64 := t, data := v }
      if s.obj (Obj.klState 0) = 2 || s.obj (Obj.klState 0) = 3 then { s1 with pair := { s1.pair with mirrors := s1.pair.mirrors ++ [(c, m)] } } else s1

/-- Objects served in MARSHAL_STATE ROM, LOADING and RECOVERY (R352, R500): the 0x1000 range and the
security objects R500 names. -/
def earlyObject (index sub : Nat) : Bool :=
  (0x1000 ≤ index && index < 0x2000) || index = 0x9000 || index = 0x9020 ||
  (index = 0x9010 && 1 ≤ sub && sub ≤ 3)

/-- The reply code with which a request is turned away before its object's own rules, or `rcOk`
(R352, R485, R518). A T1 request admitted when it was queued is served. -/
def State.gate (s : State) (who : Req) (index sub : Nat) : Nat :=
  match objRow index sub with
  | none => rcUnknown
  | some _ =>
    let allowed := match who with
      | .fn 0 => true
      | .fn f => s.vfMay f index
      | .t1 ip _ => s.queuedOk || s.t1May ip
    if !allowed then rcNotAuth
    else match s.marshal with
      | .running => rcOk
      | .updating => rcOk
      | _ => if earlyObject index sub then rcOk else rcBusy

/-- A write to a CMD object: the gate first (R352), then the object's own rule. A request that waits does nothing
yet. -/
def State.command (s : State) (who : Req) (k : Nat) (f : State → State) : State :=
  if s.requestsWait then s
  else match s.gate who ((k / 256) % 65536) (k % 256) with
  | 0 => if s.standbyBars k then s.refuse k rcBusy else f s
  | c => s.refuse k c

/-- A CMD object whose description reads "write 1" (R549). -/
def State.command1 (s : State) (who : Req) (k v : Nat) (f : State → State) : State :=
  s.command who k (fun s => if v = 1 then f s else s.refuse k rcRange)

/-- IEEE 802.1AS time at cycle `t`, while the port is synchronised or in HOLDOVER (R344): it runs on from the last message at
the last rate. -/
def State.asNow (s : State) (t : Nat) : Nat :=
  s.asTime + (t - s.asAt.getD t) * s.asRate.1 / s.asRate.2

/-- Every command but the return of power and clock acts only while the clocks run (R540, R543,
R547). -/
def clocked (s : State) (f : State → State) : Out :=
  match s.halt with
  | some _ => .next s
  | none => .next (f s)

end Sys2Proof.Machine
end

