-- ==== Sys2Proof/Machine/Translate.lean ====
section
/-! DEFINITION. Address translation (R316 to R321): generations, the range walk, the allocator window,
rights, and which memory an agent reaches (R302, R309, R337). -/

namespace Sys2Proof.Machine

/-! ## Coherence points (R157, R158) -/

/-- The channel of a coherence point. -/
def pointCh : CohPoint → Fin 4
  | .sc ch => ch
  | .l2 ch => ch

/-- The two filter bits of the 64-byte line of physical address `a` (R158). -/
def filterBits (a : Nat) : Nat × Nat :=
  (bits a 17 6, (BitVec.ofNat 12 (bits a 29 18) ^^^ BitVec.ofNat 12 (bits a 41 30)).toNat)

/-- A load of key `k` matches a filter when both of its bits are set (R158). -/
def filterHit (f : List Nat) (k : Nat) : Bool :=
  let b := filterBits k
  f.contains b.1 && f.contains b.2

/-- The filters open at a coherence point: those of sealed publications, of commands about to seal, and of
publications that a port receives for the memory of its owner set (R423). -/
def State.filtersAt (s : State) (pt : CohPoint) : List (List Nat) :=
  (s.links.map (fun e => if bit (s.obj (Obj.klAttachOwner e.1)) (pointCh pt) then (e.2.rxPubs.filter RxPub.opened).map RxPub.filter else [])).flatten ++
  (s.pubs.map (fun e => e.2.opens)).flatten.filterMap (fun o => if o.1 = pt then some o.2 else none) ++
  (s.runs.map (fun e => e.2.opens)).flatten.filterMap (fun o => if o.1 = pt then some o.2 else none)

/-- A load of key `k` is held (R157): from field die `d`, channel memory is read at the die's own L2 and another
channel's at that channel's system cache; from the hub, at the coherence points of the channel addressed. -/
def State.heldFrom (s : State) (d : Option (Fin 4)) (k : Nat) : Bool :=
  let n := chanOf k
  let pts := match d with
    | some ch => if n = ch then [CohPoint.l2 ch] else [CohPoint.sc n]
    | none => [.sc n, .l2 n]
  k < devEnd && pts.any (fun pt => (s.filtersAt pt).any (fun f => filterHit f k))

/-- A load of key `k` by a unit of field die `ch` is held (R157). -/
def State.isHeld (s : State) (ch : Fin 4) (k : Nat) : Bool := s.heldFrom (some ch) k

/-- What an access of key `k` that an open publication holds answers in place of an error code, which has 16 bits: its
command or group does not go on, and makes the access again (R157). -/
def heldCode (k : Nat) : Nat := 0x10000 + k

/-- The key an access is held at, where its answer says that it is held. -/
def heldAt (e : Nat) : Option Nat := if 0x10000 ≤ e then some (e - 0x10000) else none

/-- Translated pieces that a load by a unit of field die `ch` may read now, or the first one held. -/
def State.unheld (s : State) (ch : Fin 4) (ks : List (Nat × Nat)) : Except Nat (List (Nat × Nat)) :=
  match ks.find? (fun p => s.isHeld ch p.1) with
  | some p => .error (heldCode p.1)
  | none => .ok ks

/-! ## Address spaces -/

/-- Right bits of R317. -/
def rightR : Nat := 1
def rightW : Nat := 2
def rightA : Nat := 4

/-- The address space of a number; one that nothing has installed stands at generation 0 (R316). -/
def State.space (s : State) (k : Nat) : AddrSpace :=
  (look s.spaces k).getD
    { force := .all Gen.empty, newest := Gen.empty, prior := none, ack := 0, next := none, phase := .idle,
      trim := false, code := 0, failIdx := 0, passed := [], since := .all 0, empty := false, making := false, trimSel := [], trimRuns := [] }

/-- The state with an address space stored. -/
def State.setSpace (s : State) (k : Nat) (x : AddrSpace) : State := { s with spaces := put s.spaces k x }

/-- Whether the memory of a channel is in service (R309): MEM_STATE is TRAINED. -/
def State.memUp (s : State) (ch : Fin 4) : Bool := s.obj (Obj.memState ch) = 2

/-- The PCI Express configuration bits of a function (R337); both clear until the host sets them (PRESUMED, log
entry 8). -/
def State.pcieFn (s : State) (f : Nat) : PcieFn := (look s.pcieFns f).getD { busMaster := false, atomicEn := false }

/-- The descriptor at index `i` of the table at device address `a`. -/
def State.rangeAt (s : State) (a i : Nat) : RangeDesc :=
  let b := s.read (a + 32 * i) 32
  { start := field b 0 8, length := field b 8 8, pbase := field b 16 8, attr := field b 24 4,
    tail := field b 28 4 }

/-- The search of the walker of channel `ch` for the descriptor that holds `v` (R319), between `lo` and `hi` of the table at
`a`; the fuel bounds the probes. A probe of a line that an open publication holds waits (R157). -/
def State.walk (s : State) (ch : Fin 4) (a v : Nat) : Nat → Nat → Nat → Except Nat RangeDesc
  | 0, _, _ => .error eTranslation
  | fuel + 1, lo, hi =>
    if hi ≤ lo then .error eTranslation
    else
      let mid := (lo + hi) / 2
      let d := s.rangeAt a mid
      if s.isHeld ch (a + 32 * mid) then .error (heldCode (a + 32 * mid))
      else if v < d.start then s.walk ch a v fuel lo mid
      else if v < d.start + d.length then .ok d
      else s.walk ch a v fuel (mid + 1) hi

/-- The owner entry of the chunk that holds device address `pa` (R322, R324); 0, not owned, outside
every pool. -/
def State.ownerEntry (s : State) (pa : Nat) : Nat :=
  let al := s.allocs.get (chanOf pa)
  if al.base ≤ pa && pa < al.base + 65536 * al.chunks
  then s.readNat (al.base + 2 * ((pa - al.base) / 65536)) 2
  else 0

/-- Fields of an owner entry (R324). -/
def entryOwned (e : Nat) : Bool := bit e 8
def entryPrivate (e : Nat) : Bool := bit e 9
def entryAs (e : Nat) : Nat := bits e 7 0

/-- What translates an access: its address space and generation, the channel it is made from, the class
of its command, the function that owns its context, whether its agent reaches every channel (the copy
engine, R302), and the unit of the channel whose range cache serves it, where it has one (R319). -/
structure Xlat where
  asid   : Nat
  gen    : Gen
  ch     : Fin 4
  cls    : Nat
  fn     : Nat
  anyCh  : Bool
  unit   : Option Nat
  deriving DecidableEq, Repr

/-! ## The range caches (R319) -/

/-- Ways of a range cache, and entries of an owner cache. -/
def rangeWays : Nat := 64
def ownerWays : Nat := 256

/-- The address lies in the allocator window of a generation (R318). -/
def Gen.inWindow (g : Gen) (v : Nat) : Bool := g.allocEn && g.allocVa ≤ v && v < g.allocVa + 0x400000000

/-- The lines of the range cache of unit `u` of a channel. -/
def State.rangeCache (s : State) (ch : Fin 4) (u : Nat) : List (Nat × RangeLine) := (look s.ranges (32 * ch.val + u)).getD []

/-- A cached descriptor answers for `v` under an address space and generation (R319). -/
def RangeLine.serves (l : RangeLine) (x : Xlat) (v : Nat) : Bool :=
  l.asid = x.asid && l.gen = x.gen.num && l.desc.start ≤ v && v < l.desc.start + l.desc.length

/-- The descriptor for `v` in the range cache of an access's unit. -/
def State.cachedRange (s : State) (x : Xlat) (v : Nat) : Option RangeDesc :=
  x.unit.bind (fun u => ((s.rangeCache x.ch u).find? (fun e => e.2.serves x v)).map (fun e => e.2.desc))

/-- The descriptor that holds `v` (R319): from the range cache, else from the walker, which needs the table's memory (R309). -/
def State.rangeOf (s : State) (x : Xlat) (v : Nat) : Except Nat RangeDesc :=
  match s.cachedRange x v with
  | some d => .ok d
  | none => if x.gen.count ≠ 0 && !s.memUp (chanOf x.gen.addr) then .error eMemOffline else s.walk x.ch x.gen.addr v 13 0 x.gen.count

/-- Translation of virtual address `v` (R318, R320) for an access that needs the rights in `need`: the memory
key, whether the range is a STREAM range, and the range's rights, or the fault's code. -/
def State.translate (s : State) (x : Xlat) (v need : Nat) : Except Nat (Nat × Bool × Nat) :=
  if 2 ^ 48 ≤ v then .error eTranslation
  else
    let device (pa rights : Nat) (stream : Bool) : Except Nat (Nat × Bool × Nat) :=
      if devEnd ≤ pa then .error eTranslation
      else if (rights &&& need) ≠ need then .error eTranslation
      else if !x.anyCh && chanOf pa ≠ x.ch then .error eTranslation
      else if !s.memUp (chanOf pa) then .error eMemOffline
      else if x.cls ≠ 0 &&
          chans.any (fun c => (s.latched.get c).protect.any (fun r => r.1 < pa / 64 * 64 + 64 && pa / 64 * 64 < r.1 + r.2))
      then .error eTranslation
      else .ok (pa, stream, rights)
    if x.gen.inWindow v then
      let pa := v - x.gen.allocVa
      let e := s.ownerEntry pa
      if pa < devEnd && !s.memUp (chanOf pa) then .error eMemOffline else
      if !entryOwned e || entryAs e ≠ x.asid || entryPrivate e then .error eTranslation
      else device pa 7 false
    else match s.rangeOf x v with
      | .error e => .error e
      | .ok d =>
        let pa := d.pbase + (v - d.start)
        let rights := d.attr % 8
        if bits d.attr 5 4 = 0 then device pa rights (bit d.attr 6)
        else if (rights &&& need) ≠ need then .error eTranslation
        else if !(s.pcieFn x.fn).busMaster then .error eTranslation
        else .ok (hostBase + pa, bit d.attr 6, rights)

/-! ## What a lookup reads and fills (R319) -/

/-- The table addresses that the walker's search for `v` probes, in order. -/
def State.probes (s : State) (a v : Nat) : Nat → Nat → Nat → List Nat
  | 0, _, _ => []
  | fuel + 1, lo, hi =>
    if hi ≤ lo then []
    else
      let mid := (lo + hi) / 2
      let d := s.rangeAt a mid
      (a + 32 * mid) ::
        (if v < d.start then s.probes a v fuel lo mid
         else if v < d.start + d.length then []
         else s.probes a v fuel (mid + 1) hi)

/-- The device addresses a lookup of `v` makes the walker read (R319): the table's probes where the range cache misses, the
owner entry of a chunk of the window where the owner cache does. -/
def State.walkReads (s : State) (x : Xlat) (v : Nat) : List Nat :=
  if x.gen.inWindow v then
    let c := (v - x.gen.allocVa) / 65536
    let al := s.allocs.get (chanOf (65536 * c))
    if (s.owners.get x.ch).contains c || 65536 * c < al.base || al.base + 65536 * al.chunks ≤ 65536 * c then []
    else [al.base + 2 * ((65536 * c - al.base) / 65536)]
  else if (s.cachedRange x v).isSome || !s.memUp (chanOf x.gen.addr) then []
  else s.probes x.gen.addr v 13 0 x.gen.count

/-- A descriptor is looked up in a range cache: a hit sets its bit; a miss fills the lowest way whose bit is 0, after clearing
all bits where every one is 1 (R313). -/
def rangeFill (c : List (Nat × RangeLine)) (asid gen : Nat) (d : RangeDesc) : List (Nat × RangeLine) :=
  let same (x : RangeLine) : Bool := x.asid = asid && x.gen = gen && x.desc.start = d.start
  match c.find? (fun e => same e.2) with
  | some (w, x) => put c w { x with used := true }
  | none =>
    let free (c : List (Nat × RangeLine)) : Option Nat := (upto rangeWays).find? (fun w => (look c w).all (fun x => !x.used))
    let (w, c1) := match free c with
      | some w => (w, c)
      | none => (0, c.map (fun e => (e.1, { e.2 with used := false })))
    put c1 w { asid := asid, gen := gen, desc := d, used := true }

/-- The unit of an access looks up virtual address `v` (R319): a descriptor in its range cache, a chunk of the allocator
window in the owner cache of the channel's walker, whose replacement the specification leaves open (log entry 113). -/
def State.rangeLook (s : State) (x : Xlat) (v : Nat) : State :=
  if x.gen.inWindow v then
    let c := (v - x.gen.allocVa) / 65536
    { s with owners := s.owners.mod x.ch (fun l => (c :: l.filter (fun d => d != c)).take ownerWays) }
  else match x.unit, s.rangeOf x v with
    | some u, .ok d => { s with ranges := put s.ranges (32 * x.ch.val + u) (rangeFill (s.rangeCache x.ch u) x.asid x.gen.num d) }
    | _, _ => s

/-- The range caches of a channel's units that `f` names start empty. -/
def State.dropRanges (s : State) (ch : Fin 4) (f : Nat → Bool) : State :=
  { s with ranges := s.ranges.filter (fun e => !(e.1 / 32 = ch.val && f (e.1 % 32))) }

/-- The memory keys of `n` bytes from `v`, translated in naturally aligned pieces of 64 bytes (R318). -/
def State.translateSpan (s : State) (x : Xlat) (need : Nat) : Nat → Nat → Nat → Except Nat (List (Nat × Nat))
  | 0, _, _ => .ok []
  | fuel + 1, v, n =>
    if n = 0 then .ok []
    else
      let len := min n (64 - v % 64)
      match s.translate x v need with
      | .error e => .error e
      | .ok (k, _, _) =>
        match s.translateSpan x need fuel (v + len) (n - len) with
        | .error e => .error e
        | .ok rest => .ok ((k, len) :: rest)

/-- The keys of a span of `n` bytes from virtual address `v`, or the fault's code. -/
def State.span (s : State) (x : Xlat) (need v n : Nat) : Except Nat (List (Nat × Nat)) :=
  s.translateSpan x need (n / 64 + 2) v n

/-- The bytes of translated pieces. -/
def State.readKeys (s : State) (ks : List (Nat × Nat)) : List Byte :=
  (ks.map (fun p => s.read p.1 p.2)).flatten

/-- The bytes of a virtual span read with the R right. -/
def State.readV (s : State) (x : Xlat) (v n : Nat) : Except Nat (List Byte) :=
  (s.span x rightR v n).map s.readKeys

/-- The cells that write `bs` at translated pieces. -/
def cellsAt : List (Nat × Nat) → List Byte → List Host.Cell
  | [], _ => []
  | (k, n) :: t, bs => (upto n).map (fun i => (k + i, (bs.drop i).headD 0)) ++ cellsAt t (bs.drop n)

/-- The cells that write `bs` at virtual address `v` under the W right, or the fault's code. -/
def State.stageV (s : State) (x : Xlat) (v : Nat) (bs : List Byte) : Except Nat (List Host.Cell) :=
  (s.span x rightW v bs.length).map (fun ks => cellsAt ks bs)

/-- Staged bytes merged into a list of staged bytes: a later byte replaces an earlier one (R126). A staged
zero is a byte like any other. -/
def stage (cs new : List Host.Cell) : List Host.Cell := new.foldl (fun m c => put m c.1 c.2) cs

/-- The distinct 64-byte lines of staged bytes. -/
def linesOf (cs : List Host.Cell) : List Nat :=
  cs.foldl (fun l c => if l.head? = some (c.1 / 64) then l else (c.1 / 64) :: l) []

end Sys2Proof.Machine
end

