-- ==== Sys2Proof/Machine/Cache.lean ====
section
/-! DEFINITION. The caches (R159, R310 to R315): which slice serves an address, hits, fills, victims, stream
trackers, write-backs, and the lines an invalidation or a hand-over drops. Caches hold tags alone: every
read returns memory's published contents, because writes update every copy before they are acknowledged
(R159); the counters and states of a slice follow from the tags. -/

namespace Sys2Proof.Machine

/-- A slice of a channel's caches. -/
def Caches.get (c : Caches) : Slice → CacheSlice
  | .l2 i => c.l2.get i
  | .sc h => if h = 0 then c.h0 else c.h1

/-- The caches with a slice replaced. -/
def Caches.set (c : Caches) (sl : Slice) (x : CacheSlice) : Caches :=
  match sl with
  | .l2 i => { c with l2 := c.l2.set i x }
  | .sc h => if h = 0 then { c with h0 := x } else { c with h1 := x }

/-- A slice of a channel. -/
def State.cacheSlice (s : State) (ch : Fin 4) (sl : Slice) : CacheSlice := (s.caches.get ch).get sl

/-- The state with a slice replaced. -/
def State.setSlice (s : State) (ch : Fin 4) (sl : Slice) (x : CacheSlice) : State :=
  { s with caches := s.caches.mod ch (fun c => c.set sl x) }

/-- Ways and sets of a slice (R310). -/
def sliceWays : Slice → Nat
  | .l2 _ => 12
  | .sc _ => 16
def sliceSets : Slice → Nat
  | .l2 _ => 2048
  | .sc _ => 4096

/-- The set of a line (R310): address bits [18:8] in the die L2, [18:7] in the system cache. -/
def setOf (sl : Slice) (line : Nat) : Nat :=
  match sl with
  | .l2 _ => bits line 12 2
  | .sc _ => bits line 12 1

/-- Exclusive or of small numbers. -/
def xor2 (a b : Nat) : Nat := a ^^^ b

/-- The die L2 slice a line selects (R310): A[7:6] xor A[13:12] xor A[19:18]. -/
def l2Of (line : Nat) : Fin 4 := toCh (xor2 (xor2 (bits line 1 0) (bits line 7 6)) (bits line 13 12))

/-- The half-slice a line selects (R310): A[6] xor A[14] xor A[22]. -/
def halfOf (line : Nat) : Fin 2 := if xor2 (xor2 (bits line 0 0) (bits line 8 8)) (bits line 16 16) = 0 then 0 else 1

/-- CACHE_STATE code of a slice at tick `t` (R314, R315). -/
def SlicePhase.code (p : SlicePhase) (t : Nat) : Nat :=
  match p with
  | .off => 0
  | .invalidating => 1
  | .upAt e => if t < e then 1 else 2
  | .scanAt e => if t < e then 1 else 3
  | .backAt e => if t < e then 3 else 2
  | .departAt e => if t < e then 2 else 3
  | .drained => 3

/-- The slice holds its own addresses at tick `t` (R315). -/
def SlicePhase.serves (p : SlicePhase) (t : Nat) : Bool :=
  match p with
  | .upAt e => e ≤ t
  | .backAt e => e ≤ t
  | .departAt _ => true
  | .drained => true
  | _ => false

/-- A slice serves its addresses now. -/
def State.serves (s : State) (ch : Fin 4) (sl : Slice) : Bool := (s.cacheSlice ch sl).phase.serves (s.tick ch)

/-- The die L2 slices that may serve a line, in order (R315): its own, then the next ones modulo 4. -/
def l2Order (line : Nat) : List Slice := (upto 4).map (fun k => Slice.l2 (toCh ((l2Of line).val + k)))

/-- The half-slices that may serve a line, in order (R315). -/
def scOrder (line : Nat) : List Slice := let h := halfOf line; [Slice.sc h, Slice.sc (if h = 0 then 1 else 0)]

/-- The slice that serves a line in the die L2 of a channel (R315): its own, or the next one that serves. -/
def State.l2For (s : State) (ch : Fin 4) (line : Nat) : Option Slice := (l2Order line).find? (s.serves ch)

/-- The half-slice that serves a line (R315). -/
def State.scFor (s : State) (ch : Fin 4) (line : Nat) : Option Slice := (scOrder line).find? (s.serves ch)

/-- A slice's addresses are on their way back to it (R315): its partner scans, or has scanned, its tags for them. -/
def State.returning (s : State) (ch : Fin 4) (sl : Slice) : Bool :=
  match (s.cacheSlice ch sl).phase with
  | .scanAt e => e ≤ s.tick ch
  | .backAt e => s.tick ch < e
  | _ => false

/-- A line that slice `sl` serves will go to a returning slice (R315). -/
def State.moving (s : State) (ch : Fin 4) (order : List Slice) (sl : Slice) : Bool :=
  order.find? (fun x => s.serves ch x || s.returning ch x) ≠ some sl

/-- A slice accepts no new dirty data (R315): it departs. -/
def State.departing (s : State) (ch : Fin 4) (sl : Slice) : Bool :=
  match (s.cacheSlice ch sl).phase with
  | .departAt e => e ≤ s.tick ch
  | .drained => true
  | _ => false

/-- What an access of a slice did. -/
structure CacheHit where
  hit    : Bool
  stream : Bool
  wrote  : Bool
  deriving DecidableEq, Repr

/-- The ways a fill may take (R313): all for class 0, those above the reserved ones otherwise. -/
def eligible (sl : Slice) (res cls : Nat) : List Nat :=
  match sl with
  | .l2 _ => upto 12
  | .sc _ => if cls = 0 then upto 16 else (upto 16).filter (fun w => res ≤ w)

/-- The victim among eligible ways (R313), and the lines after the clearing of replacement bits. -/
def victim (c : CacheSlice) (set : Nat) (ws : List Nat) : Nat × CacheSlice :=
  let free (w : Nat) : Bool := match look c.lines (16 * set + w) with
    | none => true
    | some x => !x.used
  match ws.find? free with
  | some w => (w, c)
  | none => (ws.headD 0, { c with lines := ws.foldl (fun m w => adjust m (16 * set + w) (fun x => { x with used := false })) c.lines })

/-- A miss meets the stream trackers (R312): whether its fill is a streaming one, and the trackers then;
`room` trackers are held. The four misses that detect a stream lie in one 4 KB region; the stream may leave it. -/
def trackMiss (ts : List Tracker) (room port line now : Nat) : Bool × List Tracker :=
  match ts.find? (fun t => t.port = port && t.next = line && now ≤ t.last + 256 && (4 ≤ t.run || line % 64 ≠ 0)) with
  | some t => (4 ≤ t.run, { t with next := line + 1, run := t.run + 1, last := now } :: ts.filter (fun x => x != t))
  | none => (false, ({ port := port, next := line + 1, run := 1, last := now } :: ts.filter (fun x => x.port != port)).take room)

/-- An access of a line in a slice (R311 to R313): a hit sets its bit; a miss fills it, over a victim whose
dirty line is written back. A write to the system cache leaves the line dirty, unless it is written through; a line that
moves to a returning slice is written through and not filled (R315, log entry 105). -/
def CacheSlice.access (c : CacheSlice) (sl : Slice) (line asid cls res port now : Nat) (write stream through moves : Bool) :
    CacheSlice × CacheHit :=
  let set := setOf sl line
  let dirty := write && !through && !moves && (match sl with
    | .l2 _ => false
    | .sc _ => true)
  match (upto (sliceWays sl)).find? (fun w => (look c.lines (16 * set + w)).map (fun x => x.line) = some line) with
  | some w =>
    ({ c with lines := adjust c.lines (16 * set + w) (fun x => { x with used := true, dirty := x.dirty || dirty }) }, ⟨true, false, false⟩)
  | none =>
    let (follows, ts) := trackMiss c.trackers (match sl with
      | .l2 _ => 16
      | .sc _ => 32) port line now
    let st := stream || follows
    if moves then ({ c with trackers := ts }, ⟨false, false, false⟩)
    else
    let (w, c1) := victim c set (eligible sl res cls)
    let old := look c1.lines (16 * set + w)
    ({ c1 with trackers := ts, lines := put c1.lines (16 * set + w) { line := line, asid := asid, used := !st, dirty := dirty } },
     ⟨false, st, (old.map CacheLine.dirty).getD false⟩)

/-- An access of a half-slice, with its counters (R310 table). -/
def State.scAccess (s : State) (n : Fin 4) (line cls port : Nat) (write stream : Bool) : State :=
  match s.scFor n line with
  | none => s
  | some sl =>
    let (c, h) := (s.cacheSlice n sl).access sl line 0 cls (s.latched.get n).cacheRes port s.now write stream (s.departing n sl)
      (s.moving n (scOrder line) sl)
    let s1 := s.setSlice n sl c
    let s2 := if h.hit then s1.bump (Obj.scHits n) 1 64 else s1.bump (Obj.scMisses n) 1 64
    let s3 := if h.stream then s2.bump (Obj.scStreamFills n) 1 64 else s2
    if h.wrote then s3.bump (Obj.scWritebacks n) 1 64 else s3

/-- An access of a die L2 slice: the state, and whether it hit. -/
def State.l2Access (s : State) (n : Fin 4) (line asid cls port : Nat) (write stream : Bool) : State × Bool :=
  match s.l2For n line with
  | none => (s, false)
  | some sl =>
    let (c, h) := (s.cacheSlice n sl).access sl line asid cls 0 port s.now write stream false (s.moving n (l2Order line) sl)
    (s.setSlice n sl c, h.hit)

/-- A read of a line of memory by a unit of field die `ch` (R159, R310): channel memory of its own through
its L2 and then its system cache, another channel's at that channel's system cache, host memory in its own
L2 where the range grants neither W nor A and one command of the address space runs on the die. -/
def State.cacheRead (s : State) (ch : Fin 4) (asid cls port key rights : Nat) (stream : Bool) : State :=
  let line := key / 64
  if key < devEnd then
    let n := chanOf key
    if n = ch then
      let (s1, hit) := s.l2Access ch line 0 cls port false stream
      if hit then s1 else s1.scAccess n line cls port false stream
    else s.scAccess n line cls port false stream
  else if rights % 8 = rightR && (s.runs.filter (fun e => e.2.ch = ch.val && e.2.asid = asid)).length = 1
  then (s.l2Access ch line asid cls port false stream).1
  else s

/-- A write of a line of channel memory by unit `port` of class `cls` (R310, R311): by a unit of the channel's own die it
passes through the die L2 to the system cache; another agent's goes to the system cache, and a copy in the L2 is updated. -/
def State.cacheWrite (s : State) (own : Bool) (n : Fin 4) (cls port line : Nat) (stream : Bool) : State :=
  (if own then (s.l2Access n line 0 cls port true stream).1 else s).scAccess n line cls port true stream

/-- Device address `k` lies in a STREAM range of a generation (R312, R317). -/
def State.streamAt (s : State) (g : Gen) (k : Nat) : Bool :=
  (upto g.count).any (fun i =>
    let d := s.rangeAt g.addr i
    bits d.attr 5 4 = 0 && bit d.attr 6 && d.pbase ≤ k && k < d.pbase + d.length)

/-- Requester ports of the caches beside the units of the channel's die (R312): the host's, and the units of die `m` for
another channel's memory. -/
def hostPortNo : Nat := 8
def farPort (m : Fin 4) : Nat := 16 + m.val

/-- A write at memory key `k` beside the system cache, as the channel atomic unit makes it (R132, R310). -/
def State.cacheAtomic (s : State) (g : Gen) (cls port k : Nat) : State :=
  if k < devEnd then s.cacheWrite false (chanOf k) cls port (k / 64) (s.streamAt g k) else s

/-- The requester port of the hub's own agents, which write completion entries, heat records and frame records (log entry
140). -/
def hubPortNo : Nat := 9

/-- Bytes that a hub agent has written in channel memory pass the system cache, line by line (R310, R311). -/
def State.cacheCells (s : State) (cls : Nat) (cells : List Host.Cell) : State :=
  forEach (linesOf (cells.filter (fun c => c.1 < devEnd))).reverse (fun s l => s.cacheWrite false (chanOf (64 * l)) cls hubPortNo l false) s

/-- The host's access of a line through BAR2 (R310, R340): it has no class, and takes the ways of classes 1 to 3 (log
entry 92). -/
def State.cacheHost (s : State) (k : Nat) (write : Bool) : State := s.scAccess (chanOf k) (k / 64) 1 hostPortNo write false

/-- The die L2 of a channel drops the host lines of an address space (R153, R159). -/
def State.dropHostLines (s : State) (ch : Fin 4) (asid : Nat) : State :=
  forEach chans (fun s i =>
    let c := s.cacheSlice ch (.l2 i)
    s.setSlice ch (.l2 i) { c with lines := c.lines.filter (fun e => e.2.line * 64 < devEnd || e.2.asid != asid) }) s

/-- Dirty lines among those that satisfy a test are written to memory and counted, and leave the slice. -/
def State.flushLines (s : State) (ch : Fin 4) (sl : Slice) (f : CacheLine → Bool) : State :=
  let c := s.cacheSlice ch sl
  let n := (c.lines.filter (fun e => f e.2 && e.2.dirty)).length
  (s.setSlice ch sl { c with lines := c.lines.filter (fun e => !f e.2) }).bump (Obj.scWritebacks ch) n 64

/-- A slice's domain loses its power: the slice is OFF; or powers up without retention: it invalidates its tags (R314). -/
def State.powerSlice (s : State) (ch : Fin 4) (sl : Slice) (up : Bool) : State :=
  s.setSlice ch sl { phase := if up then .invalidating else .off, lines := [], trackers := [] }

end Sys2Proof.Machine
end

