-- ==== Sys2Proof/Machine/Operands.lean ====
section
/-! DEFINITION. Operand forms of the core instructions (R108, R115, R118, R125, R140): lane registers,
register pairs and quads, the widths a value has, active lanes, and finding and replacing a group. -/

namespace Sys2Proof.Machine

/-- The sparse key of register `r` of `lane`. -/
def regKey (lane r : Nat) : Nat := lane * 256 + r

/-- Register `r` of a lane; registers read 0 until written (R110, R115). -/
def Group.reg (g : Group) (lane r : Nat) : Word32 := (look g.regs (regKey lane r)).getD 0

/-- The group with one register of one lane written. -/
def Group.setReg (g : Group) (lane r : Nat) (v : Word32) : Group :=
  { g with regs := if v = 0 then del g.regs (regKey lane r) else put g.regs (regKey lane r) v }

/-- A register pair: the low word in `r`, the high word in `r + 1` (R118, R140). -/
def Group.pair (g : Group) (lane r : Nat) : Nat := (g.reg lane r).toNat + 2 ^ 32 * (g.reg lane (r + 1)).toNat

/-- `n` consecutive registers written from a little-endian number (R125). -/
def Group.setWords (g : Group) (lane r : Nat) : Nat → Nat → Group
  | 0, _ => g
  | n + 1, v => (g.setReg lane r (BitVec.ofNat 32 v)).setWords lane (r + 1) n (v / 2 ^ 32)

/-- `n` consecutive registers as a little-endian number. -/
def Group.words (g : Group) (lane r : Nat) : Nat → Nat
  | 0 => 0
  | n + 1 => (g.reg lane r).toNat + 2 ^ 32 * g.words lane (r + 1) n

/-- The lanes set in the active mask, ascending. -/
def Group.active (g : Group) : List Nat := bitsOf 32 g.mask.toNat

/-- The live lanes: those that have not executed EXIT (R119). -/
def Group.live (g : Group) : LaneMask := ~~~g.exited

/-- Whether every live lane is active (R123, R129). -/
def Group.converged (g : Group) : Bool := g.mask = g.live

/-- Apply `f` to the group once for each active lane, in ascending lane order. -/
def Group.eachLane (g : Group) (f : Group → Nat → Group) : Group := g.active.foldl f g

/-- Bits of an integer type (R86). -/
def tyBits : IntTy → Nat
  | .i8 => 8
  | .i16 => 16
  | .i32 => 32
  | .i64 => 64

/-- Registers an integer type uses: I64 is held in a pair (R118). -/
def tyRegs : IntTy → Nat
  | .i64 => 2
  | _ => 1

/-- The bits of an operand of type `ty` in register `r` of a lane (R86): the low bits of the register, or
the pair. -/
def Group.val (g : Group) (ty : IntTy) (lane r : Nat) : Nat :=
  match ty with
  | .i64 => g.pair lane r
  | t => (g.reg lane r).toNat % 2 ^ tyBits t

/-- The signed value of an operand. -/
def Group.sval (g : Group) (ty : IntTy) (lane r : Nat) : Int := signed (tyBits ty) (g.val ty lane r)

/-- Write a result of type `ty` to register `r` of a lane. An I8 or I16 result is sign-extended to its
32-bit register (DESIGN CHOICE, log entry 10). -/
def Group.setVal (g : Group) (ty : IntTy) (lane r : Nat) (v : Int) : Group :=
  match ty with
  | .i64 => g.setWords lane r 2 (unsigned 64 v)
  | t => g.setReg lane r (BitVec.ofInt 32 (signed (tyBits t) (unsigned (tyBits t) v)))

/-- Registers per thread of a launch body (R112). -/
def Run.regs (r : Run) : Nat := field r.body 0x1C 2

/-- Whether every register a form names lies below REGS (R118). -/
def regsOk (r : Run) (names : List (Nat × Nat)) : Bool := names.all (fun p => p.1 + p.2 ≤ r.regs)

/-- Launch body fields (R112). -/
def lbThreads (b : List Byte) : Nat := field b 0x12 2
def lbGridX (b : List Byte) : Nat := field b 0x14 2
def lbGridY (b : List Byte) : Nat := field b 0x16 2
def lbGridZ (b : List Byte) : Nat := field b 0x18 2
def lbCluster (b : List Byte) : Nat := field b 0x1A 1
def lbQuads (b : List Byte) : Nat := field b 0x1B 1
def lbBlsKb (b : List Byte) : Nat := field b 0x1E 2
def lbCommitKb (b : List Byte) : Nat := field b 0x20 2
def lbAllocMax (b : List Byte) : Nat := field b 0x22 2
def lbBlocks (b : List Byte) : Nat := lbGridX b * lbGridY b * lbGridZ b

/-- The block of a run with a linear index. -/
def Run.block (r : Run) (b : Nat) : Option Block := r.blocks.find? (fun x => x.index = b)

/-- The run with a block replaced. -/
def Run.setBlock (r : Run) (b : Block) : Run :=
  { r with blocks := r.blocks.map (fun x => if x.index = b.index then b else x) }

/-- The block with a group replaced. -/
def Block.setGroup (b : Block) (i : Nat) (g : Group) : Block := { b with groups := b.groups.set i g }

/-- The run, block and group an instruction command names, when the group exists and its block has not
committed. -/
def State.findGroup (s : State) (g : GroupRef) : Option (Run × Block × Group) :=
  match look s.runs g.run with
  | none => none
  | some r =>
    match r.block g.block with
    | none => none
    | some b =>
      if b.committed ≠ none then none
      else (b.groups[g.group]?).map (fun x => (r, b, x))

/-- The state with a run's block and group replaced. -/
def State.putGroup (s : State) (i : GroupRef) (r : Run) (b : Block) (g : Group) : State :=
  s.setRun i.run (r.setBlock (b.setGroup i.group g))

/-- The state with a run's block replaced. -/
def State.putBlock (s : State) (i : GroupRef) (r : Run) (b : Block) : State := s.setRun i.run (r.setBlock b)

/-- Byte at an offset of block-local storage (R110: reads 0 until written). -/
def Block.blsByte (b : Block) (off : Nat) : Byte := readCell b.bls off

/-- `n` bytes of block-local storage. -/
def Block.blsRead (b : Block) (off n : Nat) : List Byte := readMem b.bls off n

/-- Block-local storage with bytes written. -/
def Block.blsWrite (b : Block) (off : Nat) (bs : List Byte) : Block := { b with bls := writeMem b.bls off bs }

/-- A byte as the block's threads load it from global space: the block's staged value, or memory's
(R127). -/
def State.blockByte (s : State) (b : Block) (k : Nat) : Byte := (look b.staged k).getD (s.byteAt k)

/-- The number of `n` bytes a block's thread loads from key `k`. -/
def State.blockLoad (s : State) (b : Block) (k n : Nat) : Nat :=
  leNat ((upto n).map (fun i => s.blockByte b (k + i)))

/-! ## Lock tags (R145) -/

/-- The value of a tagged word. -/
def State.tagWord (s : State) (t : Tag) : Nat :=
  let n := if t.is64 then 8 else 4
  match t.home with
  | none => s.readNat t.addr n
  | some h => match (look s.runs t.run).bind (fun r => r.block h) with
    | none => 0
    | some b => leNat (b.blsRead t.addr n)

/-- Tags whose words hold 0 are removed (R145): any write that leaves a word 0 removes its tag. -/
def State.pruneTags (s : State) : State := { s with tags := s.tags.filter (fun t => s.tagWord t ≠ 0) }

/-- Bytes that a hub agent writes for a command of class `cls` at the keys of cells, beside the caches (R311), with the tags
of words they leave 0 removed. -/
def State.writeOut (s : State) (cls : Nat) (cells : List Host.Cell) : State :=
  (({ s with mem := writeCells s.mem cells } : State).cacheCells cls cells).pruneTags

end Sys2Proof.Machine
end

