-- ==== Sys2Proof/Machine/Allocator.lean ====
section
/-! DEFINITION. The device-side allocator (R322 to R328): the pool's metadata in channel memory, chunks,
placement, freeing, and the claims of units. -/

namespace Sys2Proof.Machine

/-- Chunks of metadata at the start of a pool of `n` chunks (R322). -/
def metaChunks (n : Nat) : Nat := ceilDiv (34 * n) 65536

/-- The owner entry of chunk `i` of channel `ch`'s pool. -/
def State.owner (s : State) (ch : Fin 4) (i : Nat) : Nat := s.readNat ((s.allocs.get ch).base + 2 * i) 2

/-- The state with a chunk's owner entry written (R324), which clears the owner caches (R319). -/
def State.setOwner (s : State) (ch : Fin 4) (i v : Nat) : State :=
  let s1 : State := { s with owners := .all [] }
  s1.write ((s.allocs.get ch).base + 2 * i) (toLE 2 v)

/-- An owner entry of address space `k` (R324). -/
def ownerWord (k : Nat) (priv : Bool) : Nat := k % 256 + 256 + (if priv then 512 else 0)

/-- The state with a channel's allocator replaced. -/
def State.setAlloc (s : State) (ch : Fin 4) (a : Allocator) : State := { s with allocs := s.allocs.set ch a }

/-- Chunks of the pool that are not metadata. -/
def Allocator.dataChunks (a : Allocator) : List Nat :=
  (upto a.chunks).filter (fun i => metaChunks a.chunks ≤ i)

/-- The chunk of a device address. -/
def Allocator.chunkOf (a : Allocator) (pa : Nat) : Nat := (pa - a.base) / 65536

/-- Whether a live allocation touches chunk `i`. -/
def Allocator.live (a : Allocator) (i : Nat) : Bool :=
  a.allocs.any (fun e => a.chunkOf e.1 ≤ i && i ≤ a.chunkOf (e.1 + e.2.size - 1))

/-- Chunk `i` is free in the pool: zeroed and owned by none (R323). -/
def State.chunkFree (s : State) (ch : Fin 4) (i : Nat) : Bool :=
  (s.allocs.get ch).zeroed.contains i && !entryOwned (s.owner ch i)

/-- A chunk a running trim of `k` has selected takes no allocations (R328). -/
def State.trimmed (s : State) (k : Nat) (ch : Fin 4) (i : Nat) : Bool := (s.space k).trimSel.contains (ch, i)

/-- Chunk `i` is owned by `k`, not PRIVATE, and takes allocations. -/
def State.chunkOwned (s : State) (k : Nat) (ch : Fin 4) (i : Nat) : Bool :=
  let e := s.owner ch i
  entryOwned e && entryAs e = k && !entryPrivate e && !s.trimmed k ch i

/-- A chunk free for `k` (R325). -/
def State.freeFor (s : State) (k : Nat) (ch : Fin 4) (i : Nat) : Bool :=
  s.chunkFree ch i || (s.chunkOwned k ch i && !(s.allocs.get ch).live i)

/-- Chunks `k` owns on a channel, PRIVATE included (ALLOC_USED). -/
def State.chunksUsed (s : State) (k : Nat) (ch : Fin 4) : Nat :=
  ((s.allocs.get ch).dataChunks.filter (fun i => entryOwned (s.owner ch i) && entryAs (s.owner ch i) = k)).length

/-- The chunk quota of `k` on a channel (ALLOC_QUOTA). -/
def State.quota (s : State) (k : Nat) (ch : Fin 4) : Nat := s.obj (key (0x4800 + k) (0x09 + ch.val))

/-- Whether [pa, pa + n) meets no live allocation. -/
def Allocator.clear (a : Allocator) (pa n : Nat) : Bool :=
  a.allocs.all (fun e => e.1 + e.2.size ≤ pa || pa + n ≤ e.1)

/-- The lowest address in chunk `i`, aligned to `al`, at which `n` free bytes lie within the chunk. -/
def Allocator.fit (a : Allocator) (i n al : Nat) : Option Nat :=
  let c := a.base + 65536 * i
  ((upto (65536 / max al 256)).map (fun j => c + j * max al 256)).find?
    (fun pa => pa + n ≤ c + 65536 && a.clear pa n)

/-- The first run of `n` consecutive chunks from `lo` on that satisfies `ok`, among starts listed. -/
def firstRun (n : Nat) (ok : Nat → Bool) (starts : List Nat) : Option Nat :=
  starts.find? (fun i => (upto n).all (fun j => ok (i + j)))

/-- Where an allocation of `n` bytes aligned to `al` goes for address space `k` (R325): its device
address. -/
def State.place (s : State) (k : Nat) (ch : Fin 4) (n al : Nat) : Option Nat :=
  let a := s.allocs.get ch
  let room := s.quota k ch - s.chunksUsed k ch
  if n ≤ 65536 then
    match (a.dataChunks.filter (s.chunkOwned k ch)).findSome? (fun i => a.fit i n al) with
    | some pa => some pa
    | none =>
      if room = 0 then none
      else (a.dataChunks.find? (s.chunkFree ch)).map (fun i => a.base + 65536 * i)
  else
    let c := ceilDiv n 65536
    let fresh (i : Nat) : Nat := ((upto c).filter (fun j => s.chunkFree ch (i + j))).length
    let starts := a.dataChunks.filter (fun i => i + c ≤ a.chunks && fresh i ≤ room)
    (firstRun c (s.freeFor k ch) starts).map (fun i => a.base + 65536 * i)

/-- Set or clear the granule bits of [pa, pa + n) in the pool's granule maps (R322). -/
def State.granules (s : State) (ch : Fin 4) (pa n : Nat) (on : Bool) : State :=
  let a := s.allocs.get ch
  forEach (upto (ceilDiv n 256)) (fun s j =>
    let g := (pa - a.base) / 256 + j
    let addr := a.base + 2 * a.chunks + g / 8
    let v := (s.byteAt addr).toNat
    s.write addr [BitVec.ofNat 8 (setBits v (g % 8) (g % 8) (if on then 1 else 0))]) s

/-- The bytes an allocation of `n` holds (R325): one above 64 KB, the remainder of its last chunk too. -/
def heldBytes (n : Nat) : Nat := if n ≤ 65536 then n else 65536 * ceilDiv n 65536

/-- Record an allocation at `pa` (R325): the chunks it covers pass to `k`, and the granules are taken. A command that has not
sealed has taken the chunks that were free (R326). -/
def State.allocate (s : State) (k : Nat) (ch : Fin 4) (pa n ctx : Nat) (prov : Option Nat) (kv : Bool) : State :=
  let a := s.allocs.get ch
  let n := heldBytes n
  let cover := (upto (a.chunkOf (pa + n - 1) - a.chunkOf pa + 1)).map (fun j => a.chunkOf pa + j)
  let took := cover.filter (s.chunkFree ch)
  let s1 := forEach took (fun s i => s.setOwner ch i (ownerWord k false)) s
  let rec' : Alloc := { size := n, asid := k, ctx := ctx, prov := prov, priv := false, kv := kv }
  let taken := match prov with
    | some run => a.taken ++ took.map (fun i => (run, i))
    | none => a.taken
  (s1.setAlloc ch { a with allocs := put a.allocs pa rec', taken := taken }).granules ch pa n true

/-- Remove the live allocation at `pa`; its granules become free and its chunks stay owned (R326). -/
def State.unalloc (s : State) (ch : Fin 4) (pa : Nat) : State :=
  let a := s.allocs.get ch
  match look a.allocs pa with
  | none => s
  | some x => (s.setAlloc ch { a with allocs := del a.allocs pa }).granules ch pa x.size false

/-- The chunks a run took are no longer its own. -/
def Allocator.forget (a : Allocator) (run : Nat) : Allocator := { a with taken := a.taken.filter (fun e => e.1 ≠ run) }

/-- Return every provisional allocation of a killed or faulted run (R70, R326): the chunks it took that hold no other allocation
go back to the pool without re-zeroing. -/
def State.giveBackRun (s : State) (ch : Fin 4) (run : Nat) : State :=
  let s1 := forEach ((s.allocs.get ch).allocs.filter (fun e => e.2.prov = some run)) (fun s e => s.unalloc ch e.1) s
  let a := s1.allocs.get ch
  let back := (a.taken.filter (fun e => e.1 = run && !a.live e.2)).map (·.2)
  (forEach back (fun s i => s.setOwner ch i 0) s1).setAlloc ch (a.forget run)

/-- A run's allocations stop being provisional at its seal (R136). -/
def State.keepAllocs (s : State) (ch : Fin 4) (run : Nat) : State :=
  let a := s.allocs.get ch
  s.setAlloc ch { a.forget run with allocs := a.allocs.map (fun e =>
    if e.2.prov = some run then (e.1, { e.2 with prov := none }) else e) }

/-- Release a chunk: no address space owns it, and it is free again once zeroed (R323, R327, R328). -/
def State.releaseChunk (s : State) (ch : Fin 4) (i : Nat) : State :=
  let s1 := s.setOwner ch i 0
  let a := s1.allocs.get ch
  s1.setAlloc ch { a with zeroed := a.zeroed.filter (fun j => j != i), taken := a.taken.filter (fun e => e.2 ≠ i) }

/-- A unit working for address space `k` under generation `g` claims `n` whole PRIVATE chunks (R327): the run of chunks
R325 gives an allocation of that size. The call is counted; a claim without a placement, or in memory out of service
(R309), answers its code. -/
def State.claim (s : State) (g : Gen) (k : Nat) (ch : Fin 4) (n : Nat) : Except Nat (List Nat) × State :=
  if n = 0 then (.ok [], s)
  else if !s.memUp ch then (.error eMemOffline, s)
  else
    let s1 := s.bump (Obj.allocCalls ch) 1 64
    match if g.allocEn then s1.place k ch (65536 * n) 256 else none with
    | none => (.error ePool, s1.bump (Obj.allocFails ch) 1 32)
    | some pa =>
      let l := (upto n).map (fun j => (s.allocs.get ch).chunkOf pa + j)
      (.ok l, forEach l (fun s i => s.setOwner ch i (ownerWord k true)) s1)

/-- Return PRIVATE chunks: zeroed and freed to the pool at once (R327). -/
def State.unclaim (s : State) (ch : Fin 4) (l : List Nat) : State :=
  forEach l (fun s i => s.releaseChunk ch i) s

end Sys2Proof.Machine
end

