-- ==== Sys2Proof/Machine/Work.lean ====
section
/-! DEFINITION. The shared operations of the work objects: baton signals and errors (R378 to R381),
retiring and completing commands in queue order (R372, R375, R382), context faults (R383), kills (R70),
abandonment of class 0 (R73), and the coherence points' filters and held loads (R157, R158). -/

namespace Sys2Proof.Machine

/-! ## Batons -/

/-- The error value of a baton (R378). -/
def errValue : Nat := 0xFFFFFFFFFFFFFFFF

/-- LAST_SIGNALLER of the baton view (R381). -/
def sigWord : Signaller → Nat
  | .none => 0
  | .queue q => 0x1000 + q
  | .host f => 0x2000 + f
  | .t1 => 0x2100
  | .program ch => 0x3000 + ch
  | .marshal => 0x4000

/-- A BATON record of a watched baton (R506, R514). -/
def State.watchBaton (s : State) (chan b : Nat) (sig : Signaller) (v : Nat) : State :=
  if (s.observe.get (stampCh chan)).filter.watch.contains b && b < 0xFFFF
  then s.emit 11 chan 0xFF 0 0 (b + sigWord sig * 65536) v else s

/-! ## Kister Link ports -/

def eLinkDown : Nat := 0x0B01

/-- A port at reset: no window, no baton entry. -/
def KlLink.reset : KlLink :=
  { windows := [], batons := [], pending := none, fails := 0, rxSeq := 0xFFF, rxPubs := [], rxSlots := [], owed := .all 0, txSeq := 0,
    replay := [] }

/-- A port's state. -/
def State.link (s : State) (p : Nat) : KlLink := (look s.links p).getD KlLink.reset

/-- The state with a port's state stored. -/
def State.setLink (s : State) (p : Nat) (l : KlLink) : State := { s with links := put s.links p l }

/-- A port is UP, at 16 or 8 lanes (R450). -/
def State.portUp (s : State) (p : Nat) : Bool := (s.obj (Obj.klState p) = 2 || s.obj (Obj.klState p) = 3) && !s.linksOff

/-- The channels of a port's owner set in force (R28). -/
def State.portSet (s : State) (p : Nat) : List (Fin 4) := chans.filter (fun c => bit (s.obj (Obj.klAttachOwner p)) c)

/-- The slots of a message (R417): its header slot and its data slots, the last of them filled with zeros. -/
def klSlots (m : KlMsg) : List Byte :=
  let n := ceilDiv m.data.length 16
  toLE 1 m.type ++ toLE 1 (m.vc % 4 + 4 * (m.cls % 4)) ++ toLE 1 n ++ toLE 1 0 ++ toLE 4 m.arg ++ toLE 8 m.arg64 ++ slice m.data 0 (16 * n)

/-- The data bytes of a flit (R416): TYPE and SEQ, ACK, CREDIT for `vc`, and 13 slots, with their CRC. -/
def flitBytes (type seq ack credit vc : Nat) (payload : List Byte) : List Byte :=
  let b := toLE 2 (seq % 4096 + type * 4096) ++ toLE 2 (ack % 4096) ++ toLE 2 (credit + 256 * vc) ++ slice payload 0 208
  b ++ toLE 4 (crc32 b).toNat

/-- The flit that a port sends next (R416, R418), of TYPE DATA or NAK: it acknowledges what was received intact and returns
the slots owed for the lowest virtual channel that is owed any. A DATA flit is kept until it is acknowledged, in a replay buffer of 512. -/
def State.sendFlit (s : State) (p type seq : Nat) (payload : List Byte) : State :=
  let l := s.link p
  let vc := ((chans.find? (fun c => 0 < l.owed.get c)).getD 0)
  let n := min (l.owed.get vc) 255
  let f := flitBytes type seq l.rxSeq n (if n = 0 then 0 else vc.val) payload
  let kept := if type = 1 then (l.replay ++ [f]).drop (l.replay.length - 511) else l.replay
  { s.setLink p { l with owed := l.owed.set vc (l.owed.get vc - n), replay := kept } with klOut := s.klOut ++ [(p, f)] }

/-- A message goes out on a port, from the start of a flit, over as many flits as its slots need (R417; log entry 126). -/
def State.sendKl (s : State) (p : Nat) (m : KlMsg) : State :=
  let b := klSlots m
  forEach (upto (ceilDiv b.length 208)) (fun s i =>
    let l := s.link p
    (s.setLink p { l with txSeq := (l.txSeq + 1) % 4096 }).sendFlit p 1 l.txSeq (slice b (208 * i) 208)) s

/-- The class of the command that signalled; a signal of no command carries class 0. -/
def State.sigClass (s : State) : Signaller → Nat
  | .queue q => ((look s.queues q).map Queue.cls).getD 0
  | _ => 0

/-- A signal applied to local baton `b` is forwarded by every enabled EXPORT entry of a port that is UP
(R425); an error value carries its code. -/
def State.forward (s : State) (b v code cls : Nat) : State :=
  if s.links = [] then s
  else forEach [0, 1] (fun s p =>
    if !s.portUp p then s
    else forEach (upto 64) (fun s i =>
      let e := field (s.link p).batons (4 * i) 4
      if bit e 31 && !bit e 28 && bits e 13 0 = b then
        s.sendKl p { type := 4, vc := 1, cls := cls, arg := bits e 27 14 + code * 65536, arg64 := v, data := [] }
      else s) s) s

/-- A signal of value `v` to baton `b` (R379), by `sig` on channel `chan` (0xFF for the host). -/
def State.signal (s : State) (b v : Nat) (sig : Signaller) (chan : Nat) : State :=
  match look s.batons b with
  | none => s
  | some x =>
    let t := s.tick (stampCh chan)
    let s1 := s.watchBaton chan b sig v
    if x.value < v && v < errValue then
      (s1.setBaton b { x with value := v, lastSig := sig, lastTick := t }).forward b v 0 (s.sigClass sig)
    else if v = x.value then (s1.setBaton b { x with lastSig := sig, lastTick := t }).forward b v 0 (s.sigClass sig)
    else s1.bump Obj.regressiveSignals 1 64

/-- A baton takes the error value with its record; one in error keeps what it has (R379, R381). `cls` is the class of the
command that failed, 0 where there is none (R417). -/
def State.failBaton (s : State) (b code origin detail cls : Nat) : State :=
  match look s.batons b with
  | none => s
  | some x =>
    if x.inError then s
    else (s.setBaton b { x with value := errValue, inError := true, errCode := code, errOrig := origin, errDet := detail }).forward
      b errValue code cls

/-- A wait for value `w` of baton `b` is satisfied (R378). -/
def State.waitMet (s : State) (c : Cmd) : Bool :=
  !c.waitEn || match look s.batons c.waitBaton with
    | none => true
    | some x => c.waitValue ≤ x.value

/-- The wait of a command is satisfied by the error value: the waited baton (R378). -/
def State.waitError (s : State) (c : Cmd) : Option Baton :=
  if !c.waitEn then none
  else match look s.batons c.waitBaton with
    | none => none
    | some x => if x.inError && x.value = errValue then some x else none

/-! ## Traces and counters of a command -/

/-- QID of R506. -/
def qid (q ctx op : Nat) : Nat := q + ctx * 65536 + op * 0x1000000

/-- The queue number an origin is traced under; a slot has none. -/
def State.originQueue (s : State) : Origin → Nat
  | .queue q _ => q
  | .node l _ => ((look s.launches l).map Launch.queue).getD 0xFFFF
  | .slot _ _ _ => 0xFFFF

/-- The lowest windowed unit of a unit mask (R59, R505). -/
def unitOf (m : Nat) : Nat := (bitsOf 8 m).headD 0xFF

/-- The unit mask of a command (R59): the quads a launch names, or its fixed-function unit. -/
def cmdUnits (eng : Nat) (c : Cmd) : Nat :=
  if eng = 0 then lbQuads c.body % 16
  else 2 ^ (3 + eng)

/-- Key of a channel's lap counter for an engine (R385). -/
def lapKey (ch eng : Nat) : Nat := key (0x3310 + 0x400 * ch) (eng + 1)

/-- Key of a class's kill counter (R70, R85). -/
def killKey (ch cls : Nat) : Nat := key (0x2030 + 0x100 * ch) cls

/-! ## Retiring and completing (R372, R375, R382) -/

/-- The function that owns a context. -/
def State.ctxFn (s : State) (c : Nat) : Nat := ((look s.ctxs c).map Context.owner).getD 0

/-- The address space of a context. -/
def State.ctxAs (s : State) (c : Nat) : Nat := ((look s.ctxs c).map Context.asid).getD 0

/-- What translates an engine's own accesses for a context on a channel, under the generation in force
there (R331): the copy engine reaches any channel's memory, another engine its own channel's (R302). -/
def State.ctxXlat (s : State) (c : Nat) (ch : Fin 4) (eng cls : Nat) : Xlat :=
  let k := s.ctxAs c
  { asid := k, gen := (s.space k).force.get ch, ch := ch, cls := cls, fn := s.ctxFn c, anyCh := eng = 4, unit := none }

/-- What translates the accesses of a queue's engine (R302, R371). -/
def State.queueXlat (s : State) (q : Queue) : Xlat := s.ctxXlat q.ctx (toCh q.ch) q.engine q.cls

/-- The bytes of a virtual span as a load of an engine reads them (R157). -/
def State.loadV (s : State) (x : Xlat) (v n : Nat) : Except Nat (List Byte) :=
  match s.span x rightR v n with
  | .error e => .error e
  | .ok ks => (s.unheld x.ch ks).map s.readKeys

/-- Loads of an agent meet open publications (R157): PUB_HOLDS counts each at the channel that holds it, once. What one held
load is, R165 does not say: here it is one memory key that one agent waits for, so each held lane of a group's LD counts
(DESIGN CHOICE, log entry 129). -/
def State.hold (s : State) (who : Holder) (die : Option (Fin 4)) (ks : List Nat) : State :=
  let mine := s.holds.filter (fun h => h.who = who)
  forEach (ks.filter (fun k => s.heldFrom die k && !mine.any (fun h => h.key = k))) (fun s k =>
    ({ s with holds := s.holds ++ [{ who := who, die := die, key := k, since := s.now }] } : State).bump (Obj.pubHolds (chanOf k)) 1 64) s

/-- What a completion meets that faults its context (R382, R383): nothing, or a ring whose range lacks a right, with the
baton of the command whose entry it was. -/
abbrev RingFault := Option (Option Nat)

/-- The completion entry of R382. -/
def ringEntry (rsw seq : Nat) (q : Nat) (c : Cmd) (e : Ending) : List Byte :=
  toLE 4 rsw ++ toLE 4 seq ++ toLE 2 e.status ++ toLE 2 e.code ++ toLE 2 q ++
  toLE 2 (if c.signalEn then c.sigBaton else 0xFFFF) ++
  toLE 8 (if e.code = 0 then c.sigValue else errValue) ++ toLE 8 c.user

/-- A completion entry at the queue's next SEQ has no place in the ring (R382). -/
def Queue.ringFull (q : Queue) : Bool := q.ringN < (q.nextSeq + 2 ^ 32 - q.consumed) % 2 ^ 32

/-- The virtual address of the queue's next completion entry (R382). -/
def Queue.entryAddr (q : Queue) : Nat := q.ring + 64 + 32 * (q.nextSeq % q.ringN)

/-- Write a command's completion entry (R382). -/
def State.ringWrite (s : State) (qn : Nat) (q : Queue) (c : Cmd) (e : Ending) : State × RingFault :=
  if !c.ring || q.ring = 0 then (s, none)
  else if !e.ran && q.ringFull then (s.setQueue qn { q with ringDrops := (q.ringDrops + 1) % 2 ^ 32 }, none)
  else
    match s.stageV (s.queueXlat q) q.entryAddr (ringEntry (s.rsw (s.ctxFn q.ctx) 0) q.nextSeq qn c e) with
    | .error _ => (s, some (if c.signalEn then some c.sigBaton else none))
    | .ok cells =>
      ((s.writeOut q.cls cells).setQueue qn { q with nextSeq := (q.nextSeq + 1) % 2 ^ 32 }, none)

/-- The replay record of a retired command (R448). -/
def replayRecord (step tick qn ch qseq : Nat) (c : Cmd) (e : Ending) : List Byte :=
  toLE 8 step ++ toLE 8 tick ++ toLE 2 qn ++ toLE 1 ch ++ toLE 1 c.op ++ toLE 4 qseq ++ toLE 8 c.addr ++
  toLE 8 (if e.code = 0 then c.sigValue else errValue) ++ toLE 8 c.seed ++ toLE 2 e.code ++ toLE 2 e.status ++
  toLE 4 c.gen ++ toLE 8 0

/-- A command of a context whose replay log is enabled retires (R448): it takes the next STEP, the tick, and its ordinal in
its queue. -/
def State.stampRetired (s : State) (qn : Nat) (q : Queue) (c : Cmd) : Cmd × State :=
  match look s.replays q.ctx, c.stamp with
  | some seqs, none =>
    let n := (look seqs qn).getD 0
    ({ c with stamp := some (s.obj (Obj.replayStep q.ctx), s.tick (toCh q.ch), n) },
     ({ s with replays := put s.replays q.ctx (put seqs qn (n + 1)) } : State).bump (Obj.replayStep q.ctx) 1 64)
  | _, _ => (c, s)

/-- The virtual address of replay record `step` of a context (R448). -/
def State.replayAddr (s : State) (c step : Nat) : Nat :=
  s.obj (Obj.replayLog c) + 64 + 64 * (step % s.obj (Obj.replayEntries c))

/-- The record of a retired command is written on the path of its completion (R448, R160). A record whose address fails
translation is not written (log entry 60). -/
def State.replayStep (s : State) (qn : Nat) (q : Queue) (c : Cmd) (e : Ending) : State :=
  let (c1, s1) := s.stampRetired qn q c
  match c1.stamp, look s.replays q.ctx with
  | some (step, tick, n), some _ =>
    (match s1.stageV (s1.queueXlat q) (s.replayAddr q.ctx step) (replayRecord step tick qn q.ch n c1 e) with
      | .error _ => s1
      | .ok cells => s1.writeOut q.cls cells)
  | _, _ => s1

/-- The completion signal and ring entry of one command (R375, R382), with its CMD_DONE record. A baton the
queue's own context owns takes E_OWNER_LOST only when the teardown ends (R387). -/
def State.complete (s : State) (qn : Nat) (c : Cmd) (e : Ending) : State × RingFault :=
  match look s.queues qn with
  | none => (s, none)
  | some q =>
    let ownLost := e.code = eOwnerLost && e.origin = none && ((look s.batons c.sigBaton).bind Baton.owner) = some q.ctx &&
      (look s.ctxs q.ctx).map Context.state = some .teardown
    let s1 :=
      if !c.signalEn || ownLost then s
      else if e.code = 0 then s.signal c.sigBaton c.sigValue (.queue qn) q.ch
      else s.failBaton c.sigBaton e.code (e.origin.getD c.sigBaton) e.detail q.cls
    let s2 := s1.emit 8 q.ch (unitOf (2 ^ (3 + q.engine))) q.cls q.ctx (qid qn q.ctx c.op)
                (if e.code = 0 then c.sigValue else errValue)
    (s2.replayStep qn q c e).ringWrite qn q c e

/-- The key at which an open publication holds the range walk of a completion's ring entry or replay record (R157). -/
def State.endingHeld (s : State) (qn : Nat) (c : Cmd) (e : Ending) : Option Nat :=
  match look s.queues qn with
  | none => none
  | some q =>
    let at' (v n : Nat) : Option Nat := match s.span (s.queueXlat q) rightW v n with
      | .error k => heldAt k
      | .ok _ => none
    let ring := if !c.ring || q.ring = 0 || (!e.ran && q.ringFull) then none else at' q.entryAddr 32
    ring.orElse (fun _ => if (look s.replays q.ctx).isNone then none
      else at' (s.replayAddr q.ctx ((c.stamp.map (·.1)).getD (s.obj (Obj.replayStep q.ctx)))) 64)

/-- The completion of one command, unless an open publication holds it (R157): none then. -/
def State.tryComplete (s : State) (qn : Nat) (c : Cmd) (e : Ending) : Option (State × RingFault) :=
  if (s.endingHeld qn c e).isSome then none else some (s.complete qn c e)

/-- The completion waits for the publication that holds it (R157). -/
def State.holdEnding (s : State) (qn : Nat) (c : Cmd) (e : Ending) : State :=
  s.hold (.queue qn) ((look s.queues qn).map (fun q => toCh q.ch)) (s.endingHeld qn c e).toList

/-- The nodes of a launch that have ended complete, lowest first, once every earlier command of the queue has (R375, R396;
the order among nodes that ended while they waited is the model's, log entry 130). -/
def State.endNodes (s : State) (qn l : Nat) : State × RingFault :=
  match look s.launches l with
  | none => (s, none)
  | some x => x.phases.zipIdx.foldl (fun (p : State × RingFault) n =>
      match n.1 with
      | .ended c e =>
        (match p.1.tryComplete qn c e with
        | none => (p.1.holdEnding qn c e, p.2)
        | some (s1, f) =>
          ({ s1 with launches := adjust s1.launches l (fun y => { y with phases := y.phases.set n.2 (.done e) }) }, p.2.orElse (fun _ => f)))
      | _ => p) (s, none)

/-- The commands of a queue that have not completed. -/
def State.setOrder (s : State) (qn : Nat) (l : List Track) : State :=
  { s with queues := adjust s.queues qn (fun q => { q with order := l }) }

/-- The launch of a queue that a track is. -/
def State.launchOf (s : State) (qn id : Nat) : Option Nat :=
  (s.launches.find? (fun e => e.2.queue = qn && e.2.track = id)).map (·.1)

/-- Complete the leading commands of a queue that have ended, in order (R375), then the nodes of a launch that has come to
lead it. -/
def State.drain (s : State) (qn : Nat) : List Track → State × RingFault
  | [] => (s.setOrder qn [], none)
  | t :: rest =>
    match t.outcome with
    | none =>
      (match s.launchOf qn t.id with
      | none => (s.setOrder qn (t :: rest), none)
      | some l => (s.setOrder qn (t :: rest)).endNodes qn l)
    | some e =>
      match s.tryComplete qn t.cmd e with
      | none => ((s.holdEnding qn t.cmd e).setOrder qn (t :: rest), none)
      | some (s1, f) =>
        let (s2, f2) := s1.drain qn rest
        (s2, f.orElse (fun _ => f2))

/-- A queue with the ending of one of its tracks recorded. -/
def Queue.ended (q : Queue) (id : Nat) (e : Ending) : Queue :=
  { q with order := q.order.map (fun t => if t.id = id then { t with outcome := some e } else t) }

/-- The lap counter of an engine and Q_LAP of the command's queue advance when a command of classes 1-3 retires; STALLED
clears on that engine (R385). -/
def State.lap (s : State) (ch eng : Nat) (qn : Nat) : State :=
  let s1 := s.bump (lapKey ch eng) 1 64
  { s1 with queues := s1.queues.map (fun e =>
      if e.2.ch = ch && e.2.engine = eng
      then (e.1, { e.2 with stalled := false, readyTicks := 0 })
      else e) |> fun m => adjust m qn (fun q => { q with lap := (q.lap + 1) % 2 ^ 64 }) }

/-- The queue whose head retires: the head leaves, and RPTR passes the entry when its buffer's last
command has retired (R370, R372). -/
def Queue.pop (q : Queue) (id : Nat) : Queue :=
  match q.head with
  | none => q
  | some h =>
    if h.track ≠ id then q
    else if q.bufBytes ≤ q.bufOff
      then { q with head := none, bufBytes := 0, bufOff := 0, rptr := (q.rptr + 1) % q.entries, readyTicks := 0 }
      else { q with head := none, readyTicks := 0 }

/-- The track of a retired command takes its place in the replay log (R448). -/
def State.stampTrack (s : State) (qn id : Nat) : State :=
  match look s.queues qn with
  | none => s
  | some q => match q.order.find? (fun t => t.id = id) with
    | none => s
    | some t =>
      let (c, s1) := s.stampRetired qn q t.cmd
      s1.setQueue qn { q with order := q.order.map (fun u => if u.id = id then { u with cmd := c } else u) }

/-- The head of a queue retires at its seal: its ending comes with its publication. -/
def State.retireSealed (s : State) (qn id : Nat) : State :=
  let s0 := s.stampTrack qn id
  match look s0.queues qn with
  | none => s0
  | some q => (s0.setQueue qn (q.pop id)).lap q.ch q.engine qn

/-- A command's ending becomes known; the queue's leading completions are applied. -/
def State.endTrack (s : State) (qn id : Nat) (e : Ending) : State × RingFault :=
  match look s.queues qn with
  | none => (s, none)
  | some q =>
    let q1 := q.ended id e
    (s.setQueue qn q1).drain qn q1.order

/-- A command retires without running or is stopped: it leaves the head and its ending is known. -/
def State.retire0 (s : State) (qn id : Nat) (e : Ending) : State × RingFault := (s.retireSealed qn id).endTrack qn id e

/-- The ending of a command that did not run. -/
def notRun (code : Nat) : Ending := { code := code, origin := none, detail := 0, status := 0, ran := false }

/-- A node of a course launch ends (R396): it completes once every earlier command of the queue has (R375). -/
def State.endNode (s : State) (l i : Nat) (c : Cmd) (e : Ending) : State × RingFault :=
  match look s.launches l with
  | none => (s, none)
  | some x =>
    match look s.queues x.queue with
    | none => (s, none)
    | some q =>
      let (c1, s1) := s.stampRetired x.queue q c
      ({ s1 with launches := put s1.launches l { x with phases := x.phases.set i (.ended c1 e) } } : State).drain x.queue q.order

/-- A node retires without sealing (R385, R396). -/
def State.retireNode (s : State) (l i : Nat) (c : Cmd) (e : Ending) : State × RingFault :=
  match look s.launches l with
  | none => (s, none)
  | some x =>
    let ch := ((look s.queues x.queue).map Queue.ch).getD 0
    (s.lap ch ((x.nodes[i]?.map CourseNode.engine).getD 0) x.queue).endNode l i c e

/-! ## Context faults (R383) -/

/-- Every fetched, unstarted or killed node of the launches of a queue ends with `code`; nodes not
fetched end silently. -/
def State.dropNodes (s : State) (code : Nat) (l : Nat × Launch) : State × RingFault :=
  (upto l.2.phases.length).foldl (fun (p : State × RingFault) (i : Nat) =>
    let s := p.1
    match (look s.launches l.1).bind (fun x => x.phases[i]?) with
    | some (.fetched h) =>
      (match h.phase with
       | .running _ => p
       | _ => let (s1, f) := s.retireNode l.1 i h.cmd (notRun code)
              (s1, p.2.orElse (fun _ => f)))
    | some .waiting =>
      ({ s with launches := adjust s.launches l.1 (fun x => { x with phases := x.phases.set i (.done (notRun code)) }) }, p.2)
    | _ => p) (s, none)

/-- Retire every unstarted command of a queue with `code` (R383, R387, R389): a head that is fetched or
killed, and the unstarted nodes of its course launch. -/
def State.dropUnstarted (s : State) (code qn : Nat) : State × RingFault :=
  match (look s.queues qn).bind Queue.head with
  | none => (s, none)
  | some h =>
    match h.phase with
    | .fetched | .killed => s.retire0 qn h.track (notRun code)
    | .running _ => (s, none)
    | .launched l => match look s.launches l with
      | none => (s, none)
      | some x => s.dropNodes code (l, x)

/-- The queues of a context. -/
def State.queuesOf (s : State) (c : Nat) : List Nat := (s.queues.filter (fun e => e.2.ctx = c)).map (·.1)

/-- Every baton a context owns and not in error takes the error value (R383, R387). -/
def State.failOwned (s : State) (c code : Nat) (origin : Option Nat) : State :=
  forEach (s.batons.filter (fun e => e.2.owner = some c)) (fun s e => s.failBaton e.1 code (origin.getD e.1) 0 0) s

/-- A context fault (R383): the context becomes FAULTED, its queues stop, its unstarted commands retire
with E_CONTEXT_FAULTED, its batons take the error value, CTX_FAULT records the code and attention is
raised. A context already FAULTED changes nothing; in TEARDOWN only an empty record is filled (R393).
The faulting command itself is the caller's. A ring that lacks a right when an unstarted command's entry is written is a
further fault, which changes nothing. -/
def State.contextFault (s : State) (c code qn ch : Nat) (baton : Option Nat) : State :=
  match look s.ctxs c with
  | none => s
  | some x =>
    let rec' : FaultRec := { code := code, queue := qn, chan := ch, tick := s.tick (stampCh ch) }
    match x.state with
    | .faulted => s
    | .teardown => if x.fault.code = 0 then s.setCtx c { x with fault := rec' } else s
    | .active =>
      let s1 := s.setCtx c { x with state := .faulted, fault := rec' }
      let s2 := { s1 with queues := s1.queues.map (fun e =>
                    if e.2.ctx = c then (e.1, { e.2 with stopped := true }) else e) }
      let s3 := forEach (s2.queuesOf c) (fun s q => (s.dropUnstarted eCtxFaulted q).1) s2
      let s4 := s3.failOwned c eCtxFaulted (some (baton.getD 0xFFFF))
      s4.attnFor x.owner code ch (Obj.ctxFault c) qn

/-- Handle a ring that failed translation (R382): the queue's context is faulted. -/
def State.ringFault (p : State × RingFault) (qn : Nat) : State :=
  match p.2, look p.1.queues qn with
  | some b, some q => p.1.contextFault q.ctx eTranslation qn q.ch b
  | _, _ => p.1

/-- A command retires with an ending; a ring fault is handled. -/
def State.retire (s : State) (qn id : Nat) (e : Ending) : State := State.ringFault (s.retire0 qn id e) qn

/-- The ending of a command that has published. -/
def State.finish (s : State) (qn id : Nat) (e : Ending) : State := State.ringFault (s.endTrack qn id e) qn

/-- End a command of any origin with an ending: a queue's track, or a node. -/
def State.endOrigin (s : State) (o : Origin) (c : Cmd) (e : Ending) : State :=
  match o with
  | .queue q t => s.retire q t e
  | .node l i => State.ringFault (s.retireNode l i c e) (s.originQueue o)
  | .slot _ _ _ => s

/-- Every unstarted command of a queue retires with `code`, and a ring fault is handled. -/
def State.dropQueue (s : State) (code qn : Nat) : State := State.ringFault (s.dropUnstarted code qn) qn

/-! ## Waits satisfied by the error value, course launches, and batons that become FREE -/

/-- The ending of a command whose wait was satisfied by a baton in error (R378). -/
def waitEnding (x : Baton) : Ending :=
  { code := x.errCode, origin := some x.errOrig, detail := x.errDet, status := 0, ran := false }

/-- One queue head whose wait is satisfied by the error value, and its baton. -/
def State.errorHead (s : State) : Option (Nat × Head × Baton) :=
  s.queues.findSome? (fun e => match e.2.head with
    | some h => if h.phase = .fetched then (s.waitError h.cmd).map (fun x => (e.1, h, x)) else none
    | none => none)

/-- One node whose wait is satisfied by the error value, and its baton. -/
def State.errorNode (s : State) : Option (Nat × Nat × Head × Baton) :=
  s.launches.findSome? (fun e => (e.2.phases.zipIdx).findSome? (fun p => match p.1 with
    | .fetched h => if h.phase = .fetched then (s.waitError h.cmd).map (fun x => (e.1, p.2, h, x)) else none
    | _ => none))

/-- Whether a node is over. -/
def nodeOver : NodePhase → Bool
  | .done _ => true
  | _ => false

/-- The ending of a finished launch: the code of the lowest-numbered failed node, or normal (R396). -/
def launchEnding (ps : List NodePhase) : Ending :=
  match ps.findSome? (fun p => match p with
    | .done e => if e.code = 0 then none else some e
    | _ => none) with
  | some e => { e with ran := true, status := 0 }
  | none => { code := 0, origin := none, detail := 0, status := 0, ran := true }

/-- What translates the accesses of a heat's admission and completion (R302, R404): those of the allocator front end, which
reach its own channel's memory. -/
def State.heatXlat (s : State) (c : Nat) (ch : Fin 4) : Xlat := s.ctxXlat c ch 0 2

/-- The key at which an open publication holds the access of STEP in a heat's record (R157). -/
def State.stepHeld (s : State) (k : Nat) : Option Nat :=
  match look s.heats k with
  | none => none
  | some h =>
    let x := s.heatXlat h.ctx (toCh (k / 16))
    match s.loadV x (h.addr + 0x20) 8, s.span x rightW (h.addr + 0x20) 8 with
    | .error e, _ => heldAt e
    | _, .error e => heldAt e
    | _, _ => none

/-- Launches whose nodes are all over, and that a heat's admission does not hold. -/
def State.overLaunches (s : State) : List (Nat × Launch) :=
  s.launches.filter (fun e => e.2.admitted && e.2.phases.all nodeOver)

/-- A launch that is over and whose STEP no publication holds. -/
def State.overLaunch (s : State) : Option (Nat × Launch) :=
  s.overLaunches.find? (fun e => ((e.2.heat.bind s.stepHeld)).isNone)

/-- Launches that are over wait with STEP where a publication holds it (R157). -/
def State.holdSteps (s : State) : State :=
  forEach s.overLaunches (fun s e => match e.2.heat with
    | none => s
    | some k => s.hold (.queue e.2.queue) (some (toCh (k / 16))) (s.stepHeld k).toList) s

/-- A step of a heat completes (R401): STEP of the heat record and HEAT_STEPS grow by one, and the heat is
IDLE again unless it is FAULTED. `k` is 16 × channel + heat. -/
def State.endStep (s : State) (k : Nat) : State :=
  match look s.heats k with
  | none => s
  | some h =>
    let ch := toCh (k / 16)
    let s1 := s.bump (Obj.heatSteps (k / 16) (k % 16)) 1 64
    let x := s.heatXlat h.ctx ch
    let s2 := match s.readV x (h.addr + 0x20) 8 with
      | .error _ => s1
      | .ok b => (match s.stageV x (h.addr + 0x20) (toLE 8 (leNat b + 1)) with
        | .error _ => s1
        | .ok cells => s1.writeOut 2 cells)
    let st := Obj.heatState (k / 16) (k % 16)
    if s.obj st = 2 then s2.setObj st 1 else s2

/-- The heat whose step a launch is becomes FAULTED (R409). -/
def State.faultHeat (s : State) (l : Nat) : State :=
  match (look s.launches l).bind Launch.heat with
  | none => s
  | some k => if (look s.heats k).isNone then s else s.setObj (Obj.heatState (k / 16) (k % 16)) 3

/-- A finished launch leaves, and its COURSE command ends (R396, R401). -/
def State.endLaunch (s : State) (l : Nat) (x : Launch) : State :=
  let s1 := match x.heat with
    | none => s
    | some k => s.endStep k
  ({ s1 with launches := del s1.launches l } : State).retire x.queue x.track (launchEnding x.phases)

/-- Let waits that the error value satisfies retire their commands, and finished launches complete,
until nothing changes (R378, R396); the fuel bounds the rounds. -/
def State.settleWaits : Nat → State → State
  | 0, s => s
  | n + 1, s =>
    match s.errorHead with
    | some (q, h, x) => State.settleWaits n (s.retire q h.track (waitEnding x))
    | none =>
      match s.errorNode with
      | some (l, i, h, x) => State.settleWaits n (s.endOrigin (.node l i) h.cmd (waitEnding x))
      | none =>
        match s.overLaunch with
        | some (l, x) => State.settleWaits n (s.endLaunch l x)
        | none => s

/-- The commands between fetch and completion: every track of every queue, and every node fetched or ended. -/
def State.liveCmds (s : State) : List Cmd :=
  (s.queues.map (fun e => e.2.order.map Track.cmd)).flatten ++
  (s.launches.map (fun e => e.2.phases.filterMap (fun p => match p with
    | .fetched h => some h.cmd
    | .ended c _ => some c
    | _ => none))).flatten

/-- Commands that wait: unstarted heads and nodes. -/
def State.waitingCmds (s : State) : List Cmd :=
  s.queues.filterMap (fun e => match e.2.head with
    | some h => if h.phase = .fetched then some h.cmd else none
    | none => none) ++
  (s.launches.map (fun e => e.2.phases.filterMap (fun p => match p with
    | .fetched h => if h.phase = .fetched then some h.cmd else none
    | _ => none))).flatten

/-- Batons without references become FREE (R390). -/
def State.reapBatons (s : State) : State :=
  { s with batons := s.batons.filter (fun e =>
      e.2.owner ≠ none || e.2.shares ≠ [] ||
      s.liveCmds.any (fun c => c.signalEn && c.sigBaton = e.1) ||
      s.waitingCmds.any (fun c => c.waitEn && c.waitBaton = e.1)) }

/-- A version of a course that is current or bound (R395). -/
def State.versionUsed (s : State) (k cur v : Nat) : Bool :=
  v = cur || s.launches.any (fun l => l.2.course = k && l.2.version = v)

/-- COURSE_OLDEST: the least version still bound or current (R395). -/
def State.courseOldest (s : State) (k : Nat) : Nat :=
  match look s.courses k with
  | none => 0
  | some c => (s.launches.filter (fun l => l.2.course = k)).foldl (fun m l => min m l.2.version) c.version

/-- Versions that have become unreferenced leave, each with attention (R395). -/
def State.reapVersions (s : State) : State :=
  forEach s.courses (fun s e =>
    let keep := e.2.versions.filter (fun v => s.versionUsed e.1 e.2.version v.1)
    let gone := e.2.versions.length - keep.length
    if gone = 0 then s
    else
      let s1 := { s with courses := put s.courses e.1 { e.2 with versions := keep } }
      forEach (upto gone) (fun s _ => s.attnFor (s.ctxFn e.2.ctx) atState noCh (Obj.courseOldest e.1) (s.courseOldest e.1)) s1) s

/-- Bring waits, launches and batons to rest after a change. -/
def State.settle (s : State) : State :=
  (State.settleWaits (s.queues.length + 2 * s.launches.length + (s.launches.map (fun e => e.2.phases.length)).sum) s).holdSteps.reapVersions.reapBatons

/-! ## Held loads (R157, R158, R165) -/

/-- The filter of a set of staged bytes for the memory of one channel: one pair of bits for each staged
line (R158). -/
def filterOf (cs : List Host.Cell) (ch : Fin 4) : List Nat :=
  let ls := linesOf (cs.filter (fun c => c.1 < devEnd && chanOf c.1 = ch))
  (ls.map (fun l => let f := filterBits (l * 64); [f.1, f.2])).flatten

/-- Held loads that are over leave, and PUB_HOLD_CYCLES takes their cycles (R165). -/
def State.endHolds (s : State) (ends : Hold → Bool) : State :=
  forEach (s.holds.filter ends) (fun s h => s.bump (Obj.pubHoldCycles (chanOf h.key)) (s.now - h.since) 64)
    { s with holds := s.holds.filter (fun h => !ends h) }

/-- The run a held load belongs to. -/
def Holder.runId : Holder → Option Nat
  | .group g => some g.run
  | .run id => some id
  | _ => none

/-- Publications open at a point, of class 0 and of the others: its own, and those ports receive for it (R423). -/
def State.openAt (s : State) (pt : CohPoint) (zero : Bool) : Nat :=
  (s.links.map (fun e => if bit (s.obj (Obj.klAttachOwner e.1)) (pointCh pt)
    then (e.2.rxPubs.filter (fun p => p.opened && (p.cls = 0) = zero)).length else 0)).sum +
  (s.pubs.filter (fun e => (e.2.cls = 0) = zero && e.2.opens.any (fun o => o.1 = pt))).length +
  (s.runs.filter (fun e => (e.2.cls = 0) = zero && e.2.opens.any (fun o => o.1 = pt))).length

/-- A point has an entry free for a publication of class `cls` (R158): it holds 64, 16 of them for class 0 alone. -/
def State.pointRoom (s : State) (pt : CohPoint) (cls : Nat) : Bool :=
  s.openAt pt true + s.openAt pt false < 64 && (cls = 0 || s.openAt pt false < 48)

/-- The coherence points of a channel's memory (R157): its system cache and, unless the channel is parked
(R453), its die L2. -/
def State.pointsOf (s : State) (n : Fin 4) : List CohPoint :=
  if s.powerNow n = 0 then [.sc n, .l2 n] else [.sc n]

/-- The OPENs that ports have received and no point had an entry for are accepted, in order, where every point of the
owner set's memory now has one (R158, R423). -/
def State.acceptRx (s : State) : State :=
  forEach (s.links.map (·.1)) (fun s p =>
    let pts := ((chans.filter (fun c : Fin 4 => bit (s.obj (Obj.klAttachOwner p)) c)).map s.pointsOf).flatten
    forEach (((s.link p).rxPubs.filter (fun x => !x.opened)).map RxPub.tag) (fun s tag =>
      let l := s.link p
      match l.rxPubs.find? (fun x => x.tag = tag && !x.opened) with
      | none => s
      | some x =>
        if pts.all (fun pt => s.pointRoom pt x.cls)
        then s.setLink p { l with rxPubs := l.rxPubs.map (fun y => if y.tag = tag then { y with opened := true } else y) }
        else s) s) s

/-- A group whose held load no filter holds any more receives its data (R157). -/
def State.wakeGroup (s : State) (ch : Fin 4) (b : Block) (g : Group) : Group :=
  match g.wait with
  | .load dst size lanes =>
    if lanes.any (fun p => s.isHeld ch p.2) then g
    else
      let g1 := lanes.foldl (fun g p => g.setWords p.1 dst ((size + 3) / 4) (s.blockLoad b p.2 size)) g
      { g1 with wait := .none }
  | _ => g

/-- The leading completions of a queue are tried again. -/
def State.redrain (s : State) (qn : Nat) : State :=
  match look s.queues qn with
  | none => s
  | some q => State.ringFault (s.drain qn q.order) qn

/-- Every held load that may complete does so (R157), and the OPENs that wait for an entry are accepted where one is free
(R158). -/
def State.releaseLoads (s : State) : State :=
  let s := if s.links = [] then s else s.acceptRx
  let free := s.holds.filter (fun h => !s.heldFrom h.die h.key)
  let s1 := ({ s with runs := s.runs.map (fun e => (e.1, { e.2 with blocks := e.2.blocks.map (fun b =>
      { b with groups := b.groups.map (s.wakeGroup (toCh e.2.ch) b) }) })) } : State).endHolds (fun h => !s.heldFrom h.die h.key)
  let qs := free.filterMap (fun h => match h.who with
    | .queue q => some q
    | _ => none)
  if qs = [] then s1 else (qs.foldl (fun s q => s.redrain q) s1).settle

/-! ## Ending a running command -/

/-- A window of a unit in the split counters (R511): key 8 u + k. -/
def State.splitEach (s : State) (ch : Fin 4) (units window : Nat) (f : SplitWin → SplitWin) : State :=
  let o := s.observe.get ch
  let zero : SplitWin := { owner := 0, backfill := 0, killed := 0, cycles := 0, starts := 0, seals := 0,
                           kills := 0, slack := 0xFFFFFFFF, lastSeal := none }
  let sp := (bitsOf 8 units).foldl (fun m u => put m (8 * u + window) (f ((look m (8 * u + window)).getD zero))) o.split
  { s with observe := s.observe.set ch { o with split := sp } }

/-- What commands do in a window is counted (R511); the windows of an OFFLINE channel count IDLE (R515). -/
def State.splitMod (s : State) (ch : Fin 4) (units window : Nat) (f : SplitWin → SplitWin) : State :=
  if s.svc ch = .offline then s else s.splitEach ch units window f

/-- A report of a channel closes at an edge (R511): SPLIT_WINDOW takes its values and counting starts anew. Where one
has closed at this edge already, nothing more closes (R515). -/
def State.closeReport (s : State) (ch : Fin 4) : State :=
  let o := s.observe.get ch
  if o.ticks = 0 then s
  else
    let o1 := { o with closed := o.split, split := [], ticks := 0, target := s.obj (Obj.reportTicks ch) }
    ({ s with observe := s.observe.set ch o1 } : State).bump (Obj.reportSeq ch) 1 32

/-- The class of the window a run occupies. -/
def Run.winCls (s : State) (r : Run) : Nat :=
  match (s.pacer (toCh r.ch)).wins.get (toCh r.map) with
  | some w => w.cls
  | none => r.cls

/-- Cycles a run has run at the state's time. -/
def Run.cyclesRun (s : State) (r : Run) : Nat := s.now - r.start

/-- A command that does not seal has forwarded nothing (R423): each port that was sent its OPEN is sent CLOSE, which ends
the filter there (log entry 98). -/
def State.closePeers (s : State) (id : Nat) (r : Run) : State :=
  (r.peerOpen.filter (fun p => p.2)).foldl (fun s p =>
    s.sendKl p.1 { type := 2, vc := 1, cls := r.cls, arg := id, arg64 := 0, data := [] }) s

/-- The allocations, chunks, tags and filters of a run that ends without sealing are given back (R70,
R145, R150, R327), its address space's host lines leave the die L2 (R159), and held loads go on. -/
def State.scrap (s : State) (id : Nat) (r : Run) : State :=
  let ch := toCh r.ch
  let s1 := s.giveBackRun ch id
  let s2 := match r.pass with
    | none => s1
    | some p => s1.unclaim ch (p.chunks ++ p.stageCh)
  let s3 := ({ s2 with runs := del s2.runs id, tags := s2.tags.filter (fun t => t.run != id) } : State).closePeers id r
  ((s3.endHolds (fun h => h.who.runId = some id)).dropHostLines ch r.asid).releaseLoads

/-- The head or node a run came from gets a phase. -/
def State.setPhase (s : State) (o : Origin) (ph : HeadPhase) : State :=
  match o with
  | .queue q _ => { s with queues := adjust s.queues q (fun x => { x with head := x.head.map (fun h => { h with phase := ph }) }) }
  | .node l i => { s with launches := adjust s.launches l (fun x =>
      { x with phases := x.phases.mapIdx (fun j p => if j = i then (match p with
          | .fetched h => .fetched { h with phase := ph }
          | p => p) else p) }) }
  | .slot _ _ _ => s

/-- The code with which a command whose queue or context has gone retires at a kill, if it does: its
context faulted (R383), torn down (R387), or its queue closing (R389). -/
def State.killCode (s : State) (r : Run) : Option Nat :=
  match (look s.ctxs r.ctx).map Context.state with
  | some .faulted => some eCtxFaulted
  | some .teardown => some eOwnerLost
  | _ =>
    match look s.queues (s.originQueue r.origin) with
    | some q => if q.closing then some eQueueClosed else none
    | none => none

/-- A kill (R70): staged outputs, tile memory and allocations go, the counters count it, and the command
returns to the head of its queue, or retires where it may not run again. -/
def State.kill (s : State) (id : Nat) : State :=
  match look s.runs id with
  | none => s
  | some r =>
    let ch := toCh r.ch
    let n := r.cyclesRun s
    let s1 := (s.bump (Obj.killedCycles ch) n 64).bump (killKey ch r.cls) 1 64
    let s2 := s1.splitMod ch r.units r.window (fun w => { w with killed := w.killed + n, kills := w.kills + 1 })
    let s3 := s2.emit 5 ch (unitOf r.units) r.cls r.ctx (qid (s.originQueue r.origin) r.ctx r.cmd.op) n
    let s4 := (s3.scrap id r).setPhase r.origin .killed
    match s.killCode r with
    | none => s4
    | some c => (s4.endOrigin r.origin r.cmd { (notRun c) with ran := true }).settle

/-- A class 0 command is abandoned (R73): nothing is published, OVERRUNS counts it, the error record of
the status baton takes the code with variant, map and window, and attention is raised. -/
def State.abandon (s : State) (id code : Nat) : State :=
  match look s.runs id with
  | none => s
  | some r =>
    let ch := toCh r.ch
    let (v, i) := match r.origin with | .slot _ v i => (v, i) | _ => (0, 0)
    let n := r.cyclesRun s
    let det := v * 256 + r.map * 64 + r.window * 8
    let s1 := s.bump (Obj.overruns ch) 1 32
    let s2 := match (s.pacer ch).program with
      | none => s1
      | some p => { s1 with batons := adjust s1.batons p.baton (fun b =>
          { b with errCode := code, errOrig := p.baton, errDet := det }) }
    let s3 := s2.splitMod ch r.units r.window (fun w => { w with killed := w.killed + n })
    let s4 := s3.emit 10 ch (unitOf r.units) 0 r.ctx (i + v * 65536 + r.map * 2 ^ 20 + r.window * 2 ^ 22) code
    let p := s4.pacer ch
    let s5 := s4.setPacer ch { p with slots := p.slots.set i .abandoned }
    (s5.scrap id r).attn code ch (Obj.overruns ch) (s5.obj (Obj.overruns ch))

/-- A fault of a running command (R150, R201): class 0 is abandoned with the code; classes 1-3 stop, the
context is faulted, and the command's completion baton takes the code with ERR_DETAIL `det`. -/
def State.stopRun (s : State) (id code det : Nat) : State :=
  match look s.runs id with
  | none => s
  | some r =>
    let ch := toCh r.ch
    let s0 := if code = eAccBound then s.bump (Obj.accBoundFaults ch) 1 32
              else if code = eVarying && r.cls ≠ 0 then s.bump (Obj.varyingFaults ch) 1 32
              else if code = eHierarchy then s.bump (Obj.hierFaults ch) 1 32 else s
    if r.cls = 0 then s0.abandon id code
    else
      let q := s.originQueue r.origin
      let n := r.cyclesRun s
      let s1 := s0.splitMod ch r.units r.window (fun w => { w with killed := w.killed + n })
      let s2 := s1.emit 7 ch (unitOf r.units) r.cls r.ctx (qid q r.ctx r.cmd.op) code
      let s3 := match r.origin with
        | .node l _ => (s2.scrap id r).faultHeat l
        | _ => s2.scrap id r
      let s4 := if r.cmd.signalEn then s3.failBaton r.cmd.sigBaton code r.cmd.sigBaton det r.cls else s3
      let s5 := s4.contextFault r.ctx code q ch (if r.cmd.signalEn then some r.cmd.sigBaton else none)
      (s5.endOrigin r.origin r.cmd { (notRun code) with ran := true }).settle

/-- An access of a running command gives `e`: held by an open publication, it waits and is made again (R157); otherwise
the command stops with that code. -/
def State.faultRun (s : State) (id e : Nat) : State :=
  match heldAt e with
  | some k => s.hold (.run id) ((look s.runs id).map (fun r => toCh r.ch)) [k]
  | none => s.stopRun id e 0

/-- `faultRun` for an instruction of a group: a held access is the group's, which issues the instruction again (R157). -/
def State.faultGroup (s : State) (g : GroupRef) (e : Nat) : State :=
  match heldAt e with
  | some k => s.hold (.group g) ((look s.runs g.run).map (fun r => toCh r.ch)) [k]
  | none => s.stopRun g.run e 0

/-- A command that has started is refused (R67, R229): it ends with the code, and its context goes on. -/
def State.refuseRun (s : State) (id code : Nat) : State :=
  match look s.runs id with
  | none => s
  | some r =>
    if r.cls = 0 then s.abandon id code
    else ((s.scrap id r).endOrigin r.origin r.cmd { (notRun code) with ran := true }).settle

end Sys2Proof.Machine
end

