-- ==== Sys2Proof/Machine/Issue.lean ====
section
/-! DEFINITION. What every core instruction shares (R116, R118 to R124, R129, R150): issuing for a group,
moving past the instruction with reconvergence, faulting the command, and letting barriers and commits
complete. -/

namespace Sys2Proof.Machine

/-- The group pops reconvergence entries while its running lanes stand at the top entry's reconv address
or none of its lanes runs (R119). -/
def Group.reconverge : List StackEntry → Group → Group
  | [], g => { g with stack := [] }
  | e :: t, g =>
    if g.pc = e.reconv ∨ g.mask = 0 then
      Group.reconverge t { g with pc := e.addr, mask := e.mask &&& ~~~g.exited, calls := e.calls }
    else { g with stack := e :: t }

/-- The group at `pc` after an instruction has issued. -/
def Group.goto (g : Group) (pc : Nat) : Group :=
  Group.reconverge g.stack { g with pc := pc, issued := g.issued + 1 }

/-- The group past an instruction of 64 bits (R108). -/
def Group.next (g : Group) : Group := g.goto (g.pc + 8)

/-- An instruction of a group (R118): nothing happens unless the group exists, waits for nothing and has
an active lane; a register at or above REGS faults. `names` lists the registers named, each with how many
it takes. -/
def issue (s : State) (i : GroupRef) (names : List (Nat × Nat)) (f : Run → Block → Group → State) : State :=
  match s.findGroup i with
  | none => s
  | some (r, b, g) =>
    if g.wait ≠ .none || g.mask = 0 then s
    else if !regsOk r names then s.faultGroup i eIllegal
    else f r b g

/-- An instruction that changes only its group's registers. -/
def issueRegs (s : State) (i : GroupRef) (names : List (Nat × Nat)) (f : Group → Group) : State :=
  issue s i names (fun r b g => s.putGroup i r b (f g).next)

/-- Blocks of a launch in the cluster of block `b` (R114). -/
def Run.clusterOf (r : Run) (b : Nat) : List Block :=
  let c := max (lbCluster r.body) 1
  r.blocks.filter (fun x => x.index / c = b / c)

/-- A group with no live lanes. -/
def Group.dead (g : Group) : Bool := g.exited = 0xFFFFFFFF

/-- The block barrier `n` completes when every group of the block waits at it or is dead (R123). -/
def Block.barrier (b : Block) (n : Nat) : Block :=
  if b.groups.all (fun g => g.dead || g.wait = .barB n)
  then { b with groups := b.groups.map (fun g => if g.wait = .barB n then { g with wait := .none } else g) }
  else b

/-- The block ends when every group with live lanes waits at COMMIT or all are dead (R129): its threads
end. Tile slots are discarded (R144). -/
def Block.finish (b : Block) : Block :=
  if b.committed ≠ none then b
  else if b.groups.all (fun g => g.dead || match g.wait with | .commit _ => true | _ => false) then
    let st := b.groups.foldl (fun a g => match g.wait with | .commit n => some n | _ => a) none
    { b with committed := some st, groups := b.groups.map (fun g =>
        { g with exited := 0xFFFFFFFF, mask := 0, wait := .none, tiles := .all none }) }
  else b

/-- The cluster barrier completes when every group of the cluster's blocks waits at it or is dead
(R124). -/
def Run.clusterBarrier (r : Run) (b : Nat) : Run :=
  let cl := r.clusterOf b
  let c := max (lbCluster r.body) 1
  if cl.length = c && cl.all (fun x => x.groups.all (fun g => g.dead || g.wait = .barC)) then
    { r with blocks := r.blocks.map (fun x =>
        if x.index / c = b / c
        then { x with groups := x.groups.map (fun g => if g.wait = .barC then { g with wait := .none } else g) }
        else x) }
  else r

/-- The launch has staged everything when its last block has committed (R130); its status is that of the
highest block that executed COMMIT (R129). -/
def Run.launchDone (r : Run) : Run :=
  let done := r.blocks.filter (fun b => b.committed ≠ none)
  if done.length = lbBlocks r.body && r.eng = .launch then
    { r with finished := true,
             status := (done.foldl (fun (a : Nat × Nat) b => match b.committed with
               | some (some st) => if a.1 ≤ b.index + 1 then (b.index + 1, st) else a
               | _ => a) (0, 0)).2 }
  else r

/-- The storage of block `h` is free again (R109, R130): every block of its cluster has committed. -/
def Run.freed (r : Run) (h : Nat) : Bool :=
  let cl := r.clusterOf h
  cl.length = max (lbCluster r.body) 1 && cl.all (fun x => x.committed ≠ none)

/-- After a group of block `b` has arrived, exited or committed: barriers, the block's end, the cluster
barrier and the launch's end. Tags of words in storage that is freed are removed (R145). -/
def State.arrive (s : State) (id : Nat) (r : Run) (b : Block) : State :=
  let b1 := (upto 16).foldl (fun b n => b.barrier n) b
  let r1 := ((r.setBlock b1.finish).clusterBarrier b.index).launchDone
  ({ s with tags := s.tags.filter (fun t => t.run ≠ id || !(t.home.any r1.freed)) } : State).setRun id r1

end Sys2Proof.Machine
end

