-- ==== Sys2Proof/Machine/Control.lean ====
section
/-! DEFINITION. The control instructions and the special registers (R115, R118 to R122). -/

namespace Sys2Proof.Machine

/-- The mask of a list of lanes. -/
def maskOf (ls : List Nat) : LaneMask := BitVec.ofNat 32 (ls.map (fun l => 2 ^ l)).sum

/-- Distinct targets of the active lanes, in ascending order of the lowest lane that holds each, with
their lanes (R120). -/
def groupTargets : List (Nat × Nat) → List (Nat × List Nat)
  | [] => []
  | (l, t) :: rest =>
    let tail := groupTargets rest
    match tail.find? (fun e => e.1 = t) with
    | some e => (t, l :: e.2) :: tail.filter (fun x => x.1 ≠ t)
    | none => (t, [l]) :: tail

/-- The group after a divergence (R119, R120): the reconvergence entry, then the later paths with the next
one on top, and the first path running. -/
def Group.diverge (g : Group) (reconv : Nat) (first : Nat × List Nat) (rest : List (Nat × List Nat)) (calls : List Nat) : Group :=
  let later := rest.map (fun t => { reconv := reconv, addr := t.1, mask := maskOf t.2, calls := calls : StackEntry })
  let g1 := { g with stack := later ++ ({ reconv := reconv, addr := reconv, mask := g.mask, calls := g.calls : StackEntry } :: g.stack),
                     mask := maskOf first.2, calls := calls }
  g1.goto first.1

/-- A branch whose active lanes go to `paths`, the first running first (R119, R120, R122). `calls` is the
call list on the new path. -/
def branch (s : State) (i : GroupRef) (r : Run) (b : Block) (g : Group) (mr : Bool) (reconv : Nat)
    (paths : List (Nat × List Nat)) (calls : List Nat) : State :=
  match paths with
  | [] => s
  | [p] => s.putGroup i r b ({ g with calls := calls }.goto p.1)
  | p :: rest =>
    if mr then s.faultGroup i eDivMatrix
    else if 32 < g.stack.length + 1 + rest.length then s.faultGroup i eDepth
    else s.putGroup i r b (g.diverge reconv p rest calls)

/-- BRA p, target, reconv (R119): the lanes where p is not 0 take the branch; the others run first. -/
def execBra (g : GroupRef) (mr : Bool) (p target reconv : Nat) (s : State) : Out :=
  clocked s fun s => issue s g [(p, 1)] (fun r b x =>
    let taken := x.active.filter (fun l => x.reg l p ≠ 0)
    let fall := x.active.filter (fun l => x.reg l p = 0)
    let paths := (if fall = [] then [] else [(x.pc + 8, fall)]) ++ (if taken = [] then [] else [(target, taken)])
    branch s g r b x mr reconv paths x.calls)

/-- BRX (R120): the targets are 64-bit addresses in register pairs. -/
def execBrx (g : GroupRef) (mr : Bool) (reg reconv : Nat) (s : State) : Out :=
  clocked s fun s => issue s g [(reg, 2)] (fun r b x =>
    branch s g r b x mr reconv (groupTargets (x.active.map (fun l => (l, x.pair l reg)))) x.calls)

/-- CALL (R118, R120): the address of the next instruction joins the call list; an indirect call whose
lanes differ runs one target at a time. -/
def execCall (g : GroupRef) (mr : Bool) (target : CallTarget) (reconv : Nat) (s : State) : Out :=
  clocked s fun s =>
    let names := match target with | .direct _ => [] | .indirect reg => [(reg, 2)]
    issue s g names (fun r b x =>
      let paths := match target with
        | .direct a => [(a, x.active)]
        | .indirect reg => groupTargets (x.active.map (fun l => (l, x.pair l reg)))
      branch s g r b x mr reconv paths ((x.pc + 8) :: x.calls))

/-- RET (R118): the group goes on at the newest address of its call list. With no call outstanding the
address is a free value of the RET's own (log entry 14). -/
def execRet (g : GroupRef) (s : State) : Out :=
  clocked s fun s => issue s g [] (fun r b x =>
    match x.calls with
    | a :: t => s.putGroup g r b ({ x with calls := t }.goto a)
    | [] => s.putGroup g r b (x.goto (Config.emptyReturn x.pc).toNat))

/-- EXIT (R119, R122, R129): the active lanes are live no longer. -/
def execExit (g : GroupRef) (mr : Bool) (s : State) : Out :=
  clocked s fun s => issue s g [] (fun r b x =>
    let gone := x.exited ||| x.mask
    if mr && gone ≠ 0xFFFFFFFF then s.faultGroup g eDivMatrix
    else
      let x1 := { x with exited := gone, mask := 0 }.next
      s.arrive g.run r (b.setGroup g.group x1))

/-- The block number BLOCK_ID and its kin read: a fragment group's block reads 0 (R234). -/
def blockNo (b : Block) (g : Group) : Nat := if g.frag.isSome then 0 else b.index

/-- The value of a special register for a lane, where it is one number (R115, R234). -/
def specialValue (i : GroupRef) (r : Run) (b : Block) (g : Group) (l : Nat) : SpecialReg → Option Nat
  | .lane => some l
  | .group => some i.group
  | .blockX => some (blockNo b g % lbGridX r.body)
  | .blockY => some (blockNo b g / lbGridX r.body % lbGridY r.body)
  | .blockZ => some (blockNo b g / lbGridX r.body / lbGridY r.body)
  | .blockId => some (blockNo b g)
  | .gridX => some (lbGridX r.body)
  | .gridY => some (lbGridY r.body)
  | .gridZ => some (lbGridZ r.body)
  | .clusterId => some (blockNo b g / max (lbCluster r.body) 1)
  | .clusterRank => some (blockNo b g % max (lbCluster r.body) 1)
  | .logicalCore => some (16 * r.ch + b.core)
  | .channel => some r.ch
  | .context => some r.ctx
  | .cls => some r.cls
  | .strict => some (if r.strict then 1 else 0)
  | .clock => none
  | .pixX => g.frag.map (fun f => (f.pix[l]?.getD (0, 0)).1)
  | .pixY => g.frag.map (fun f => (f.pix[l]?.getD (0, 0)).2)
  | .primId => g.frag.map Fragment.prim
  | .bary => g.frag.map (fun f => f.bary[l]?.getD 0)
  | .front => g.frag.map (fun f => if f.front then 1 else 0)

/-- Registers a special register is read into: CLOCK gives the tick number in a pair and the cycle in a
third register (log entry 15). -/
def specialRegs : SpecialReg → Nat
  | .clock => 3
  | _ => 1

/-- READ_SPECIAL_REGISTER (R104, R115, R118). A fragment register outside a fragment group is not a defined
instruction. -/
def execReadSpecialRegister (g : GroupRef) (sr : SpecialReg) (d : Nat) (now : Nat) (s : State) : Out :=
  clocked s fun s =>
    let s := s.at now
    issue s g [(d, specialRegs sr)] (fun r b x =>
      match sr with
      | .clock =>
        if r.strict then s.faultGroup g eVarying
        else
          let ch := toCh r.ch
          s.putGroup g r b (x.eachLane (fun y l =>
            (y.setWords l d 2 (s.tick ch)).setReg l (d + 2) (BitVec.ofNat 32 (s.cycle ch)))).next
      | _ =>
        if x.active.all (fun l => (specialValue g r b x l sr).isSome) then
          s.putGroup g r b (x.eachLane (fun y l =>
            y.setReg l d (BitVec.ofNat 32 ((specialValue g r b x l sr).getD 0)))).next
        else s.faultGroup g eIllegal)

end Sys2Proof.Machine
end

