-- ==== Sys2Proof/Machine/Access.lean ====
section
/-! DEFINITION. How a group reaches memory (R109, R125 to R128, R141, R235): the commit buffer, global,
block-local, cluster and render-tile accesses, and errors of a read (R308, R415). -/

namespace Sys2Proof.Machine

/-- The unit a run's access comes from, for its range cache (R319): the slot of the core, or the engine. -/
def State.unitNo (s : State) (r : Run) (core : Option Nat) : Option Nat :=
  match core, r.eng with
  | some c, _ => some ((s.cores.get (toCh r.ch)).map[c]?.getD c)
  | none, .bearing => some 17
  | none, .traverse => some 18
  | none, .raster => some 19
  | none, .copy => some 20
  | none, _ => none

/-- What translates a run's accesses (R331: the generation it started under), from core `core` or its engine. -/
def State.runXlat (s : State) (r : Run) (core : Option Nat := none) : Xlat :=
  { asid := r.asid, gen := r.gen, ch := toCh r.ch, cls := r.cls, fn := s.ctxFn r.ctx, anyCh := r.eng = .copy, unit := s.unitNo r core }

/-! ## The commit buffer -/

/-- Bytes of a core's commit buffer in use (R126): 80 for each distinct line its blocks stage, 16 for each
operation they defer. -/
def Run.commitUse (r : Run) (core : Nat) (extra : List Host.Cell) : Nat :=
  let bs := r.blocks.filter (fun b => b.core = core)
  let cells := bs.foldl (fun m b => stage m b.staged) []
  let mine := bs.map Block.index
  let defers := (r.defers.filter (fun d => mine.contains d.block && d.kind ≠ .free)).length
  80 * (linesOf (stage cells extra)).length + 16 * defers

/-- The commit buffer of a core of a launch, in bytes (R109, R112). -/
def Run.commitRoom (r : Run) : Nat := lbCommitKb r.body * 1024

/-- Stage bytes for a block (R126); the flag tells that the core's buffer is full. -/
def Run.stageBlock (r : Run) (b : Block) (cells : List Host.Cell) : Option (Run × Block) :=
  if r.commitRoom < r.commitUse b.core cells then none
  else
    let b1 := { b with staged := stage b.staged cells }
    some (r.setBlock b1, b1)

/-- Operations a command has deferred so far (R106). -/
def Run.deferCount (r : Run) : Nat := (r.defers.filter (fun d => d.kind ≠ .free)).length

/-! ## Errors of a read -/

/-- Errors a read met are counted and recorded, and attention is raised for an uncorrectable one (R308,
R415): those of a memory interface at the channel of the memory, those of the package's links at channel `ch`. -/
def State.noteEcc (s : State) (ch : Fin 4) (e : Ecc) : State :=
  match e.via with
  | .mem =>
    let s1 := forEach (e.corrected.filter (· < devEnd)) (fun s a => s.bump (Obj.eccCorrected (chanOf a)) 1 64) s
    match e.bad with
    | none => s1
    | some a =>
      let n := if a < devEnd then chanOf a else ch
      ((s1.bump (Obj.eccUncorrected n) 1 32).setObj (Obj.eccLast n) a).attn eMemError n (Obj.eccUncorrected n) a
  | .hub =>
    let s1 := s.bump (Obj.hlCorrected ch) e.corrected.length 64
    match e.bad with
    | none => s1
    | some a => (s1.bump (Obj.hlUncorrected ch) 1 32).attn eMemError ch (Obj.hlUncorrected ch) a
  | .ring =>
    let s1 := s.bump (Obj.ringCorrected ch) e.corrected.length 64
    match e.bad with
    | none => s1
    | some a => (s1.bump (Obj.ringUncorrected ch) 1 32).attn eMemError ch (Obj.ringUncorrected ch) a

/-- The reads of a running command meet errors (R308): they are counted, and an uncorrectable one stops the command;
otherwise it goes on. -/
def readsMeet (s : State) (run : Nat) (e : Ecc) (f : State → State) : State :=
  let s1 := s.noteEcc (((look s.runs run).map (fun r => toCh r.ch)).getD 0) e
  if e.bad ≠ none then s1.faultRun run eMemError else f s1

/-! ## Loads and the caches -/

/-- Accesses of virtual addresses `vs` through port `port` are looked up (R319), once for each granule of 256 bytes; what the
walker reads for them passes the caches (R310). -/
def State.lookAll (s : State) (x : Xlat) (port : Nat) (vs : List Nat) : State :=
  let first := vs.foldl (fun (l : List Nat) v => if l.any (fun q => q / 256 = v / 256) then l else l ++ [v]) []
  forEach first (fun s v => (forEach (s.walkReads x v) (fun s k => s.cacheRead x.ch 0 x.cls port k rightR false) s).rangeLook x v) s

/-- Loads from virtual addresses `vs` through port `port` are looked up (R319) and reach the caches once for each line, in
order (R310). -/
def State.touchVia (s : State) (x : Xlat) (port : Nat) (vs : List Nat) : State :=
  let hits := vs.filterMap (fun v => match s.translate x v rightR with
    | .ok p => some p
    | .error _ => none)
  let first := hits.foldl (fun (l : List (Nat × Bool × Nat)) p => if l.any (fun q => q.1 / 64 = p.1 / 64) then l else l ++ [p]) []
  forEach first (fun s p => s.cacheRead x.ch x.asid x.cls port p.1 p.2.2 p.2.1) (s.lookAll x port vs)

/-- A run's accesses of virtual addresses `vs` from core `core`, or from its engine, are looked up (R319). -/
def State.lookups (s : State) (r : Run) (core : Option Nat) (vs : List Nat) : State :=
  s.lookAll (s.runXlat r core) (unitOf r.units) vs

/-- A run's loads from core `core`, or from its engine, reach the caches (R310). -/
def State.touchLoads (s : State) (r : Run) (core : Option Nat) (vs : List Nat) : State :=
  s.touchVia (s.runXlat r core) (unitOf r.units) vs

/-- The addresses of the naturally aligned pieces of at most 64 bytes of a span (R318). -/
def pieces (v n : Nat) : List Nat :=
  ((upto (n / 64 + 2)).map (fun i => if i = 0 then v else 64 * (v / 64 + i))).filter (fun a => a < v + n)

/-- Spans of virtual addresses, each an address and a length, are read through the caches. -/
def State.touchSpans (s : State) (r : Run) (core : Option Nat) (l : List (Nat × Nat)) : State :=
  s.touchLoads r core (l.map (fun p => pieces p.1 p.2)).flatten

/-! ## Spaces -/

/-- Whether an offset range lies in a block's block-local storage (R125). -/
def Run.inBls (r : Run) (off n : Nat) : Bool := off + n ≤ lbBlsKb r.body * 1024

/-- The block of rank `rank` in the cluster of block `b` (R114). -/
def Run.rankBlock (r : Run) (b : Block) (rank : Nat) : Option Block :=
  let c := max (lbCluster r.body) 1
  r.block (b.index / c * c + rank)

/-- Key of a byte of a pixel in a render tile: target, row, column, byte (R235). -/
def pixKey (target x y byte : Nat) : Nat := ((target * 65536 + y) * 65536 + x) * 8 + byte

/-- A .T access of `n` bytes by a lane: the render-tile key, or the fault (R118, R235). -/
def tileKey (p : Option Pass) (f : Option Fragment) (lane off n : Nat) (store : Bool) : Except Nat Nat :=
  match p, f with
  | some p, some f =>
    let target := bits off 31 29
    let byte := bits off 2 0
    let w := p.widths[target]?.getD 0
    if off % n ≠ 0 then .error eMisaligned
    else if bits off 28 3 ≠ 0 || w = 0 || w < byte + n || (store && target = 4) then .error eLocalRange
    else
      let q := f.pix[lane]?.getD (0, 0)
      .ok (pixKey target q.1 q.2 byte)
  | _, _ => .error eLocalRange

/-- The first error of a list of results, or all results. -/
def allOk {α : Type} : List (Except Nat α) → Except Nat (List α)
  | [] => .ok []
  | .error e :: _ => .error e
  | .ok a :: t =>
    match allOk t with
    | .error e => .error e
    | .ok l => .ok (a :: l)

/-- The memory keys of a global access of `n` bytes by each active lane, the address in a register pair:
alignment first (R118), then translation (R318). -/
def State.laneKeys (s : State) (r : Run) (core : Nat) (g : Group) (a n need : Nat) : Except Nat (List (Nat × Nat)) :=
  allOk (g.active.map (fun l =>
    let v := g.pair l a
    if v % n ≠ 0 then .error eMisaligned
    else match s.translate (s.runXlat r (some core)) v need with
      | .error e => .error e
      | .ok (k, _, _) => .ok (l, k)))

/-- Offsets of a block-local style access of each active lane (R125). -/
def laneOffs (r : Run) (g : Group) (a n : Nat) : Except Nat (List (Nat × Nat)) :=
  allOk (g.active.map (fun l =>
    let off := (g.reg l a).toNat
    if off % n ≠ 0 then .error eMisaligned
    else if !r.inBls off n then .error eLocalRange
    else .ok (l, off)))

/-! ## Matrix operands -/

/-- `n` bytes a matrix instruction reads for block `b`: from global memory under the R right with the
block's staged bytes in place, or from the block's own block-local storage (R127, R138). -/
def State.mread (s : State) (r : Run) (b : Block) (sp : MSpace) (a n : Nat) : Except Nat (List Byte) :=
  match sp with
  | .blockLocal => if r.inBls a n then .ok (b.blsRead a n) else .error eLocalRange
  | .global =>
    match s.span (s.runXlat r (some b.core)) rightR a n with
    | .error e => .error e
    | .ok ks => .ok ((ks.map (fun p => (upto p.2).map (fun i => s.blockByte b (p.1 + i)))).flatten)

/-- Write `bs` for block `b`: staged in global space (R126), direct in block-local space (R143). -/
def State.mwrite (s : State) (r : Run) (b : Block) (sp : MSpace) (a : Nat) (bs : List Byte) : Except Nat (Run × Block) :=
  match sp with
  | .blockLocal =>
    if r.inBls a bs.length then
      let b1 := b.blsWrite a bs
      .ok (r.setBlock b1, b1)
    else .error eLocalRange
  | .global =>
    match s.stageV (s.runXlat r (some b.core)) a bs with
    | .error e => .error e
    | .ok cells =>
      match r.stageBlock b cells with
      | none => .error eCommitFull
      | some p => .ok p

end Sys2Proof.Machine
end

