-- ==== Sys2Proof/Machine/LoadStore.lean ====
section
/-! DEFINITION. Loads, stores and the constant space (R125 to R128, R235), fences (R153), barriers (R123,
R124), allocator calls (R135, R136), COMMIT (R129) and block start (R114, R115). -/

namespace Sys2Proof.Machine

/-- Registers an access of `n` bytes uses (R125). -/
def accessRegs (n : Nat) : Nat := if n = 16 then 4 else if n = 8 then 2 else 1

/-- The access sizes of R125. -/
def accessSize (n : Nat) : Bool := n = 1 || n = 2 || n = 4 || n = 8 || n = 16

/-- The number of `n` bytes of a lane's registers. -/
def Group.data (g : Group) (lane r n : Nat) : Nat := g.words lane r (accessRegs n) % 2 ^ (8 * n)

/-- LD (R125 to R128, R308). A global load that an open publication's filter matches waits for its CLOSE
(R157). -/
def execLd (g : GroupRef) (sp : Space) (size d a rank : Nat) (ecc : Ecc) (s : State) : Out :=
  clocked s fun s =>
    issue s g [(d, accessRegs size), (a, if sp = .global then 2 else 1)] (fun r b x =>
      let put' (s : State) (vals : List (Nat × Nat)) : State :=
        s.putGroup g r b (vals.foldl (fun y p => y.setWords p.1 d (accessRegs size) p.2) x).next
      if !accessSize size then s.faultGroup g eIllegal
      else match sp with
      | .blockLocal =>
        match laneOffs r x a size with
        | .error e => s.faultGroup g e
        | .ok l => put' s (l.map (fun p => (p.1, leNat (b.blsRead p.2 size))))
      | .cluster =>
        match r.rankBlock b rank with
        | none => s.faultGroup g eClusterRange
        | some home =>
          if max (lbCluster r.body) 1 ≤ rank then s.faultGroup g eClusterRange
          else match laneOffs r x a size with
          | .error e => s.faultGroup g e
          | .ok l => put' s (l.map (fun p => (p.1, leNat (home.blsRead p.2 size))))
      | .renderTile =>
        match allOk (x.active.map (fun l => (tileKey r.pass x.frag l (x.reg l a).toNat size false).map (fun k => (l, k)))) with
        | .error e => s.faultGroup g e
        | .ok l => put' s (l.map (fun p => (p.1, leNat (readMem ((r.pass.map Pass.pix).getD []) p.2 size))))
      | .global =>
        match s.laneKeys r b.core x a size rightR with
        | .error e => s.faultGroup g e
        | .ok l =>
          let ch := toCh r.ch
          readsMeet s g.run ecc (fun s1 =>
            if l.any (fun p => s.isHeld ch p.2) then
              (s1.hold (.group g) (some ch) (l.map (·.2))).putGroup g r b { x.next with wait := .load d size l }
            else put' (s1.touchLoads r (some b.core) (x.active.map (fun l => x.pair l a))) (l.map (fun p => (p.1, s.blockLoad b p.2 size)))))

/-- ST (R125, R126, R128): tile memory is written in place, a global store is staged. -/
def execSt (g : GroupRef) (sp : Space) (size v a rank : Nat) (s : State) : Out :=
  clocked s fun s =>
    issue s g [(v, accessRegs size), (a, if sp = .global then 2 else 1)] (fun r b x =>
      let local' (home : Block) : State :=
        match laneOffs r x a size with
        | .error e => s.faultGroup g e
        | .ok l =>
          let h1 := l.foldl (fun h p => h.blsWrite p.2 (toLE size (x.data p.1 v size))) home
          let r1 := r.setBlock h1
          let b1 := (r1.block b.index).getD b
          (s.putGroup g r1 b1 x.next).pruneTags
      if !accessSize size then s.faultGroup g eIllegal
      else match sp with
      | .blockLocal => local' b
      | .cluster =>
        match r.rankBlock b rank with
        | none => s.faultGroup g eClusterRange
        | some home => if max (lbCluster r.body) 1 ≤ rank then s.faultGroup g eClusterRange else local' home
      | .renderTile =>
        match allOk (x.active.map (fun l => (tileKey r.pass x.frag l (x.reg l a).toNat size true).map (fun k => (l, k)))) with
        | .error e => s.faultGroup g e
        | .ok l =>
          let p1 := r.pass.map (fun p => { p with pix := l.foldl (fun m q => writeMem m q.2 (toLE size (x.data q.1 v size))) p.pix })
          s.putGroup g { r with pass := p1 } b x.next
      | .global =>
        match s.laneKeys r b.core x a size rightW with
        | .error e => s.faultGroup g e
        | .ok l =>
          let cells := (l.map (fun p => (upto size).map (fun i =>
            (p.2 + i, ((toLE size (x.data p.1 v size)).drop i).headD 0)))).flatten
          match r.stageBlock b cells with
          | none => s.faultGroup g eCommitFull
          | some (r1, b1) => (s.lookups r (some b.core) (x.active.map (fun l => x.pair l a))).putGroup g r1 b1 x.next)

/-- CONSTANT_LOAD (R115, R125, R157): the parameter block at PARAM_ADDR, read with the R right. -/
def execConstantLoad (g : GroupRef) (size d a : Nat) (ecc : Ecc) (s : State) : Out :=
  clocked s fun s =>
    issue s g [(d, accessRegs size), (a, 1)] (fun r b x =>
      if !accessSize size then s.faultGroup g eIllegal
      else
        let base := field r.body 0x08 8
        let limit := field r.body 0x10 2
        match allOk (x.active.map (fun l =>
            let off := (x.reg l a).toNat
            if off % size ≠ 0 then .error eMisaligned
            else if limit < off + size then .error eLocalRange
            else (s.loadV (s.runXlat r (some b.core)) (base + off) size).map (fun bs => (l, leNat bs)))) with
        | .error e => s.faultGroup g e
        | .ok vals => readsMeet s g.run ecc (fun s1 =>
            (s1.touchLoads r (some b.core) (x.active.map (fun l => base + (x.reg l a).toNat))).putGroup g r b
              (vals.foldl (fun y p => y.setWords p.1 d (accessRegs size) p.2) x).next))

/-! ## Fences and barriers -/

/-- A fence moves the group on (R153): in this model every access of a group is performed in program
order, so a fence finds nothing outstanding (log entry 16). -/
def fenceStep (s : State) (g : GroupRef) : State := issueRegs s g [] id

/-- FENCE.G (R153). -/
def execFenceG (g : GroupRef) (s : State) : Out := clocked s fun s => fenceStep s g
/-- FENCE.B (R153). -/
def execFenceB (g : GroupRef) (s : State) : Out := clocked s fun s => fenceStep s g
/-- FENCE.C (R153). -/
def execFenceC (g : GroupRef) (s : State) : Out := clocked s fun s => fenceStep s g
/-- FENCE.D (R153). -/
def execFenceD (g : GroupRef) (s : State) : Out := clocked s fun s => fenceStep s g

/-- FENCE.S (R153, R159): as FENCE.D, and the die L2 drops its host lines. -/
def execFenceS (g : GroupRef) (s : State) : Out :=
  clocked s fun s => issue s g [] (fun r b x => (s.putGroup g r b x.next).dropHostLines (toCh r.ch) r.asid)

/-- BAR.B n (R123): every live lane must be active; the group waits until the barrier completes. -/
def execBarB (g : GroupRef) (n : Nat) (s : State) : Out :=
  clocked s fun s => issue s g [] (fun r b x =>
    if 16 ≤ n then s.faultGroup g eIllegal
    else if !x.converged then s.faultGroup g eDivBarrier
    else s.arrive g.run r (b.setGroup g.group { x.next with wait := .barB n }))

/-- BAR.C (R124). -/
def execBarC (g : GroupRef) (s : State) : Out :=
  clocked s fun s => issue s g [] (fun r b x =>
    if !x.converged then s.faultGroup g eDivBarrier
    else s.arrive g.run r (b.setGroup g.group { x.next with wait := .barC }))

/-- COMMIT s (R129); in a fragment group it is not a defined instruction (R234). -/
def execCommit (g : GroupRef) (status : Nat) (s : State) : Out :=
  clocked s fun s => issue s g [] (fun r b x =>
    if x.frag ≠ none then s.faultGroup g eIllegal
    else if !x.converged then s.faultGroup g eDivBarrier
    else s.arrive g.run r (b.setGroup g.group { x.next with wait := .commit (status % 65536) }))

/-! ## Allocator calls -/

/-- Size and alignment of an allocator call are in range (R135). -/
def allocArgs (size align : Nat) : Bool :=
  256 ≤ size && size ≤ 2 ^ 32 && size % 256 = 0 &&
  (upto 9).any (fun i => align = 256 * 2 ^ i)

/-- One lane's allocation (R325): its virtual address, or 0 where it cannot be placed. -/
def State.allocOne (s : State) (r : Run) (id size align : Nat) : Nat × State :=
  let ch := toCh r.ch
  let s1 := s.bump (Obj.allocCalls ch) 1 64
  let fail : Nat × State := (0, s1.bump (Obj.allocFails ch) 1 32)
  if !r.gen.allocEn then fail
  else match s1.place r.asid ch size align with
    | none => fail
    | some pa => (r.gen.allocVa + pa, s1.allocate r.asid ch pa size r.ctx (some id) false)

/-- The lanes of an allocator call in ascending order (R135): their addresses, or none where ALLOC.F meets
a failure. -/
def State.allocLanes (s : State) (r : Run) (id size align : Nat) (must : Bool) : List Nat → Option (List (Nat × Nat)) × State
  | [] => (some [], s)
  | l :: t =>
    let (v, s1) := s.allocOne r id size align
    if must && v = 0 then (none, s1)
    else
      match s1.allocLanes r id size align must t with
      | (none, s2) => (none, s2)
      | (some vs, s2) => (some ((l, v) :: vs), s2)

/-- ALLOC and ALLOC.F (R135, R308): `size` and `align` are the group's operands, `d` a register pair. A call is
one instruction of one lane (log entry 17). -/
def allocCall (s : State) (g : GroupRef) (d size align : Nat) (must : Bool) (ecc : Ecc) : State :=
  issue s g [(d, 2)] (fun r _ x =>
    if !allocArgs size align then s.faultGroup g eIllegal
    else if lbAllocMax r.body < r.calls + x.active.length then s.faultGroup g eAllocLimit
    else if !s.memUp (toCh r.ch) then s.faultGroup g eMemOffline
    else readsMeet s g.run ecc (fun s =>
      let r1 := { r with calls := r.calls + x.active.length }
      match (s.setRun g.run r1).allocLanes r1 g.run size align must x.active with
      | (none, s1) => s1.faultGroup g ePool
      | (some vs, s1) =>
        match s1.findGroup g with
        | none => s1
        | some (r2, b2, x2) =>
          s1.putGroup g r2 b2 (vs.foldl (fun y p => y.setWords p.1 d 2 p.2) x2).next))

/-- ALLOC (R135). -/
def execAlloc (g : GroupRef) (d size align : Nat) (ecc : Ecc) (s : State) : Out :=
  clocked s fun s => allocCall s g d size align false ecc

/-- ALLOC.F (R135). -/
def execAllocF (g : GroupRef) (d size align : Nat) (ecc : Ecc) (s : State) : Out :=
  clocked s fun s => allocCall s g d size align true ecc

/-- What the lanes of an instruction do to the state in turn (R132), up to the first that faults: what the lanes before it
have done remains (R133, R150). -/
def eachLane {α : Type} (f : State → α → Except Nat State) : List α → State → State × Option Nat
  | [], s => (s, none)
  | l :: t, s =>
    match f s l with
    | .error e => (s, some e)
    | .ok s1 => eachLane f t s1

/-- FREE of one lane's address (R136): at once for an allocation of the same command, otherwise deferred to
the seal; an address that starts no live allocation of the context faults, and so does the key-value memory of a heat's
sequence, which no kernel frees (R407, log entry 131). A second FREE, in the same command, of an allocation whose FREE is
deferred faults too, though the allocation lives until the seal (DESIGN CHOICE, log entry 133). -/
def State.freeOne (s : State) (i : GroupRef) (r : Run) (x : Group) (a : Nat) (l : Nat) : Except Nat State :=
  let v := x.pair l a
  let ch := toCh r.ch
  if !r.gen.allocEn || v < r.gen.allocVa then .error eTranslation
  else
    let pa := v - r.gen.allocVa
    match look (s.allocs.get ch).allocs pa with
    | none => .error eTranslation
    | some al =>
      if al.ctx ≠ r.ctx || al.kv then .error eTranslation
      else if al.prov = some i.run then .ok (s.unalloc ch pa)
      else match look s.runs i.run with
        | none => .ok s
        | some r' =>
          if r'.defers.any (fun d => d.kind = .free && d.addr = pa) then .error eTranslation
          else .ok (s.setRun i.run { r' with defers := r'.defers ++
            [{ block := i.block, group := i.group, lane := l, seq := x.issued, kind := .free, addr := pa, home := none, value := 0, entry := 0 }] })

/-- FREE (R136, R308, R309): the active lanes in ascending order, the address in a register pair. -/
def execFree (g : GroupRef) (a : Nat) (ecc : Ecc) (s : State) : Out :=
  clocked s fun s => issue s g [(a, 2)] (fun r _ x =>
    if !s.memUp (toCh r.ch) then s.faultGroup g eMemOffline
    else readsMeet s g.run ecc (fun s =>
      match eachLane (fun s l => s.freeOne g r x a l) x.active s with
      | (s1, some e) => s1.faultGroup g e
      | (s1, none) =>
        match s1.findGroup g with
        | none => s1
        | some (r2, b2, x2) => s1.putGroup g r2 b2 x2.next))

/-! ## Blocks -/

/-- Resident blocks a core may hold (R113). -/
def resLimit (body : List Byte) (rtKb : Nat) : Nat :=
  let t := max (lbThreads body) 1
  let regs := max (field body 0x1C 2) 1
  let bls := lbBlsKb body
  min (1024 / t) (min (65536 / (t * regs)) (if bls = 0 then 32 else (1792 - lbCommitKb body - rtKb) / bls))

/-- The quads a mask names, ascending (R114). -/
def quadsOf (m : Nat) : List Nat := bitsOf 4 m

/-- The core, by logical index in the die, that runs rank `k` of cluster `c` (R114). -/
def placeCore (body : List Byte) (c k : Nat) : Nat :=
  let qs := quadsOf (lbQuads body)
  let nq := max qs.length 1
  let cl := max (lbCluster body) 1
  4 * (qs[c % nq]?.getD 0) + cl * ((c / nq) % (4 / cl)) + k

/-- The blocks of a run resident on a core: those of clusters that have not wholly committed (R109,
R130). -/
def Run.resident (r : Run) (core : Nat) : Nat :=
  (r.blocks.filter (fun b => b.core = core && (r.clusterOf b.index).any (fun x => x.committed = none))).length

/-- A group of a block that starts: every lane at ENTRY with registers 0 (R115). -/
def startGroup (entry : Nat) : Group :=
  { regs := [], mask := 0xFFFFFFFF, exited := 0, pc := entry, stack := [], calls := [], wait := .none,
    tiles := .all none, issued := 0, frag := none }

/-- A block that starts (R110, R115). -/
def startBlock (body : List Byte) (index core : Nat) : Block :=
  { index := index, core := core, bls := [], staged := [], committed := none,
    groups := List.replicate (lbThreads body / 32) (startGroup (field body 0 8)) }

/-- BLOCK_START (R114): the core's next cluster of the launch starts when each of its blocks can, in
ascending order. -/
def execBlockStart (run : Nat) (core : Nat) (s : State) : Out :=
  clocked s fun s =>
    match look s.runs run with
    | none => s
    | some r =>
      let body := r.body
      let cl := max (lbCluster body) 1
      let n := lbBlocks body / cl
      let started (c : Nat) : Bool := r.blocks.any (fun b => b.index / cl = c)
      let mine (c : Nat) : Bool := (upto cl).any (fun k => placeCore body c k = core)
      if r.eng ≠ .launch || r.finished then s
      else match (upto n).find? (fun c => mine c && !started c) with
      | none => s
      | some c =>
        if (upto cl).all (fun k => r.resident (placeCore body c k) < resLimit body 0) then
          s.setRun run { r with nextBlk := r.nextBlk + cl,
                                blocks := r.blocks ++ (upto cl).map (fun k => startBlock body (c * cl + k) (placeCore body c k)) }
        else s

end Sys2Proof.Machine
end

