-- ==== Sys2Proof/Machine/Atomic.lean ====
section
/-! DEFINITION. Atomics (R131 to R133), their strict-order forms (R104, R106), lock tags and sibling waits
(R145 to R147), and APPEND.G (R163, R164). -/

namespace Sys2Proof.Machine

/-- Bytes of an atomic's word (R131). -/
def AtomBytes (f : AtomForm) : Nat := if f.is64 then 8 else 4

/-- Scope pairings of R131. -/
def atomScopeOk : Space → Scope → Bool
  | .blockLocal, .group => true
  | .blockLocal, .block => true
  | .cluster, .cluster => true
  | .global, .device => true
  | .global, .system => true
  | _, _ => false

/-- Where an atomic's word lies: a memory key, or an offset of a block's storage. -/
inductive WordAt where
  | mem (k : Nat)
  | bls (home off : Nat)
  deriving DecidableEq, Repr

/-- The address part of a word's place. -/
def WordAt.addr : WordAt → Nat
  | .mem k => k
  | .bls _ off => off

/-- The block whose storage holds a word, if it is not in memory. -/
def WordAt.home : WordAt → Option Nat
  | .mem _ => none
  | .bls h _ => some h

/-- The words of the active lanes, or the fault: alignment, range and rights (R118, R125, R131, R318). Of host memory, R133
gives the device-scope forms; an atomic of another scope there is none of R133's (R318, log entry 90). -/
def State.atomWords (s : State) (r : Run) (b : Block) (g : Group) (f : AtomForm) (hostOk : Bool) : Except Nat (List (Nat × WordAt)) :=
  let n := AtomBytes f
  match f.space with
  | .blockLocal => (laneOffs r g f.addr n).map (fun l => l.map (fun p => (p.1, .bls b.index p.2)))
  | .cluster =>
    match r.rankBlock b f.rank with
    | none => .error eClusterRange
    | some h =>
      if max (lbCluster r.body) 1 ≤ f.rank then .error eClusterRange
      else (laneOffs r g f.addr n).map (fun l => l.map (fun p => (p.1, .bls h.index p.2)))
  | .renderTile => .error eAtomicScope
  | .global =>
    match s.laneKeys r b.core g f.addr n rightA with
    | .error e => .error e
    | .ok l =>
      let host := l.any (fun p => hostBase ≤ p.2)
      if host && f.scope ≠ .device then .error eTranslation
      else if host && (!hostOk || !(s.pcieFn (s.ctxFn r.ctx)).atomicEn) then .error eAtomicUnsup
      else .ok (l.map (fun p => (p.1, .mem p.2)))

/-- The words an atomic reads, or the first that an open publication holds (R155, R157). -/
def State.unheldWords (s : State) (ch : Fin 4) (ws : List (Nat × WordAt)) : Except Nat (List (Nat × WordAt)) :=
  match ws.findSome? (fun p => match p.2 with
    | .mem k => if s.isHeld ch k then some k else none
    | .bls _ _ => none) with
  | some k => .error (heldCode k)
  | none => .ok ws

/-- The value of a word. -/
def State.wordVal (s : State) (run n : Nat) : WordAt → Nat
  | .mem k => s.readNat k n
  | .bls h off => match (look s.runs run).bind (fun r => r.block h) with
    | none => 0
    | some b => leNat (b.blsRead off n)

/-- The state with a word written (R132): in channel memory by the atomic unit, beside the system cache (R310). -/
def State.setWord (s : State) (run n : Nat) (w : WordAt) (v : Nat) : State :=
  match w with
  | .mem k =>
    match look s.runs run with
    | none => s
    | some r => (s.write k (toLE n v)).cacheAtomic r.gen r.cls (unitOf r.units) k
  | .bls h off =>
    match look s.runs run with
    | none => s
    | some r => match r.block h with
      | none => s
      | some b => s.setRun run (r.setBlock (b.blsWrite off (toLE n v)))

/-- Write a lane's destination register with a prior value. -/
def State.setDst (s : State) (i : GroupRef) (f : AtomForm) (lane v : Nat) : State :=
  match s.findGroup i with
  | none => s
  | some (r, b, g) => s.putGroup i r b (g.setWords lane f.dst (if f.is64 then 2 else 1) v)

/-- Write one register of a lane. -/
def State.setLane (s : State) (i : GroupRef) (lane reg v : Nat) : State :=
  match s.findGroup i with
  | none => s
  | some (r, b, g) => s.putGroup i r b (g.setReg lane reg (BitVec.ofNat 32 v))

/-- The group moves past its instruction. -/
def State.pass (s : State) (i : GroupRef) : State :=
  match s.findGroup i with
  | none => s
  | some (r, b, g) => s.putGroup i r b g.next

/-- Registers an atomic form names. -/
def atomRegs (f : AtomForm) (fetch : Bool) (vals : List Nat) : List (Nat × Nat) :=
  let n := if f.is64 then 2 else 1
  [(f.addr, if f.space = .global then 2 else 1)] ++ vals.map (fun v => (v, n)) ++ (if fetch then [(f.dst, n)] else [])

/-- Register operand of an atomic. -/
def Group.atomVal (g : Group) (f : AtomForm) (l r : Nat) : Nat :=
  if f.is64 then g.pair l r else (g.reg l r).toNat

/-- The addresses of an atomic in global memory are looked up (R319). -/
def State.atomLook (s : State) (r : Run) (b : Block) (x : Group) (f : AtomForm) : State :=
  if f.space = .global then s.lookups r (some b.core) (x.active.map (fun l => x.pair l f.addr)) else s

/-- An atomic (R131, R132): scope, strict order (R104), then each active lane in ascending order reads the
word, writes `op old lane` and, in a fetch form, returns the prior value. -/
def atomic (s : State) (i : GroupRef) (f : AtomForm) (fetch hostOk : Bool) (vals : List Nat)
    (op : Group → Nat → Nat → Nat) : State :=
  issue s i (atomRegs f fetch vals) (fun r b x =>
    if !atomScopeOk f.space f.scope then s.faultGroup i eAtomicScope
    else if fetch && r.strict && f.scope ≠ .group then s.faultGroup i eVarying
    else match (s.atomWords r b x f hostOk).bind (s.unheldWords (toCh r.ch)) with
    | .error e => s.faultGroup i e
    | .ok ws => readsMeet s i.run f.ecc (fun s =>
      let n := AtomBytes f
      let s := s.atomLook r b x f
      let s1 := ws.foldl (fun s p =>
        let old := s.wordVal i.run n p.2
        let s' := s.setWord i.run n p.2 (op x p.1 old % 2 ^ (8 * n))
        if fetch then s'.setDst i f p.1 old else s') s
      (s1.pass i).pruneTags))

/-- The signed value of a word of an atomic. -/
def atomSigned (f : AtomForm) (v : Nat) : Int := signed (8 * AtomBytes f) v

/-- ATOM ADD (R131, R133). -/
def execAtomAdd (g : GroupRef) (f : AtomForm) (v : Nat) (s : State) : Out :=
  clocked s fun s => atomic s g f f.fetch f.fetch [v] (fun x l old => old + x.atomVal f l v)

/-- ATOM SUB (R131). -/
def execAtomSub (g : GroupRef) (f : AtomForm) (v : Nat) (s : State) : Out :=
  clocked s fun s => atomic s g f f.fetch false [v] (fun x l old => old + 2 ^ (8 * AtomBytes f) - x.atomVal f l v)

/-- ATOM MIN (R131). -/
def execAtomMin (g : GroupRef) (f : AtomForm) (sgn : Bool) (v : Nat) (s : State) : Out :=
  clocked s fun s => atomic s g f f.fetch false [v] (fun x l old =>
    let w := x.atomVal f l v
    if sgn then (if atomSigned f w < atomSigned f old then w else old) else min old w)

/-- ATOM MAX (R131). -/
def execAtomMax (g : GroupRef) (f : AtomForm) (sgn : Bool) (v : Nat) (s : State) : Out :=
  clocked s fun s => atomic s g f f.fetch false [v] (fun x l old =>
    let w := x.atomVal f l v
    if sgn then (if atomSigned f old < atomSigned f w then w else old) else max old w)

/-- ATOM AND (R131). -/
def execAtomAnd (g : GroupRef) (f : AtomForm) (v : Nat) (s : State) : Out :=
  clocked s fun s => atomic s g f f.fetch false [v] (fun x l old => Nat.land old (x.atomVal f l v))

/-- ATOM OR (R131). -/
def execAtomOr (g : GroupRef) (f : AtomForm) (v : Nat) (s : State) : Out :=
  clocked s fun s => atomic s g f f.fetch false [v] (fun x l old => Nat.lor old (x.atomVal f l v))

/-- ATOM XOR (R131). -/
def execAtomXor (g : GroupRef) (f : AtomForm) (v : Nat) (s : State) : Out :=
  clocked s fun s => atomic s g f f.fetch false [v] (fun x l old => Nat.xor old (x.atomVal f l v))

/-- ATOM EXCH (R131, R133): always returns the prior value. -/
def execAtomExch (g : GroupRef) (f : AtomForm) (v : Nat) (s : State) : Out :=
  clocked s fun s => atomic s g f true true [v] (fun x l _ => x.atomVal f l v)

/-- ATOM CAS (R131, R133): always returns the prior value. -/
def execAtomCas (g : GroupRef) (f : AtomForm) (cmp v : Nat) (s : State) : Out :=
  clocked s fun s => atomic s g f true true [cmp, v] (fun x l old =>
    if old = x.atomVal f l cmp then x.atomVal f l v else old)

/-- A saturating sum or difference of two n-bit signed values (R86). -/
def satVal (n : Nat) (sub : Bool) (a b : Nat) : Nat :=
  let v := if sub then signed n a - signed n b else signed n a + signed n b
  unsigned n (max (-(2 ^ (n - 1) : Nat)) (min v ((2 ^ (n - 1) : Nat) - 1)))

/-- A saturating atomic deferred to the seal (R104, R106): one operation of each active lane. -/
def deferAtomic (s : State) (i : GroupRef) (f : AtomForm) (sub : Bool) (v : Nat) (r : Run) (b : Block) (x : Group)
    (ws : List (Nat × WordAt)) : State :=
  let ds := ws.map (fun p =>
    { block := b.index, group := i.group, lane := p.1, seq := x.issued,
      kind := if sub then .ssub f.is64 else .sadd f.is64,
      home := p.2.home, addr := p.2.addr, value := x.atomVal f p.1 v, entry := 0 : Defer })
  let r1 := { r with defers := r.defers ++ ds }
  if 65536 < r1.deferCount then s.faultGroup i eDefer
  else if r1.commitRoom < r1.commitUse b.core [] then s.faultGroup i eCommitFull
  else s.putGroup i r1 b x.next

/-- ATOM SADD and SSUB (R104, R131): on arrival outside strict order; in strict order a non-returning one is deferred to the
seal, and a fetch form runs at group scope and faults above it. -/
def saturating (s : State) (i : GroupRef) (f : AtomForm) (sub : Bool) (v : Nat) : State :=
  let now' (s : State) : State :=
    atomic s i f f.fetch false [v] (fun x l old => satVal (8 * AtomBytes f) sub old (x.atomVal f l v))
  match s.findGroup i with
  | none => s
  | some (r0, _, _) =>
    if !r0.strict || f.fetch || !atomScopeOk f.space f.scope then now' s
    else issue s i (atomRegs f false [v]) (fun r b x =>
      match s.atomWords r b x f false with
      | .error e => s.faultGroup i e
      | .ok ws => deferAtomic (s.atomLook r b x f) i f sub v r b x ws)

/-- ATOM SADD (R104). -/
def execAtomSadd (g : GroupRef) (f : AtomForm) (v : Nat) (s : State) : Out :=
  clocked s fun s => saturating s g f false v

/-- ATOM SSUB (R104). -/
def execAtomSsub (g : GroupRef) (f : AtomForm) (v : Nat) (s : State) : Out :=
  clocked s fun s => saturating s g f true v

/-! ## Locks -/

/-- The unit that applies an atomic on a word (R132, R145). The tag of a lock word in host memory, whose unit the rule leaves
open, is held by the atomic unit of the command's own channel and counts against its 1,024 (DESIGN CHOICE, log entry 132). -/
def unitAt (r : Run) : WordAt → TagUnit
  | .mem _ => .channel (toCh r.ch)
  | .bls h _ => .core (toCh r.ch) (((r.block h).map Block.core).getD 0)

/-- Tags a unit holds at most (R145). -/
def tagRoom : TagUnit → Nat
  | .channel _ => 1024
  | .core _ _ => 64

/-- Whether a tag is on a word of a run. -/
def tagOn (run : Nat) (w : WordAt) (t : Tag) : Bool :=
  match w with
  | .mem k => t.home = none && t.addr = k
  | .bls h off => t.run = run && t.home = some h && t.addr = off

/-- One lane's lock attempt (R145, R146): `acquire` tells from the prior value whether it succeeds, `new`
what the word then holds where it is written. -/
def State.lockOne (s : State) (i : GroupRef) (f : AtomForm) (r : Run) (b : Block) (now : Nat) (lane : Nat) (w : WordAt)
    (acquire : Nat → Bool) (v : Nat) (swaps : Bool) : Except Nat State :=
  let n := AtomBytes f
  let old := s.wordVal i.run n w
  let u := unitAt r w
  let others := s.tags.filter (fun t => !tagOn i.run w t)
  let s1 : Except Nat State :=
    if acquire old then
      if tagRoom u ≤ (others.filter (fun t => t.unit = u)).length then .error eLockFull
      else
        let s' := s.setWord i.run n w v
        let tag : Tag :=
          { unit := u, addr := w.addr, home := w.home, is64 := f.is64, run := i.run, ctx := r.ctx,
            core := b.core, block := i.block, group := i.group, lane := lane, t0 := none, further := false }
        .ok { s' with tags := others ++ [tag] }
    else
      let s' := if swaps then s.setWord i.run n w v else s
      .ok { s' with tags := s'.tags.map (fun t =>
          if tagOn i.run w t && t.ctx = r.ctx && t.core = b.core && t.run = i.run && t.block = i.block && t.group = i.group
          then match t.t0 with
            | none => { t with t0 := some now }
            | some t0 => if t0 < now && now ≤ t0 + 4096 then { t with further := true } else t
          else t) }
  s1.map (fun s2 => s2.setDst i f lane old)

/-- A lock instruction (R145): as the atomic it is, with tagging, lane by lane. -/
def lockOp (s : State) (i : GroupRef) (f : AtomForm) (vals : List Nat) (now : Nat) (swaps : Bool)
    (acquire : Group → Nat → Nat → Bool) (v : Nat) : State :=
  let s := s.at now
  issue s i (atomRegs f true vals) (fun r b x =>
    if !atomScopeOk f.space f.scope then s.faultGroup i eAtomicScope
    else if r.strict && f.scope ≠ .group then s.faultGroup i eVarying
    else match (s.atomWords r b x f true).bind (s.unheldWords (toCh r.ch)) with
    | .error e => s.faultGroup i e
    | .ok ws => readsMeet s i.run f.ecc (fun s =>
      let s := s.atomLook r b x f
      match eachLane (fun s p => s.lockOne i f r b s.now p.1 p.2 (acquire x p.1) (x.atomVal f p.1 v) swaps) ws s with
      | (s1, some e) => s1.faultGroup i e
      | (s1, none) => (s1.pass i).pruneTags))

/-- ATOM EXCH.LOCK (R145): tags the word where it finds 0; the exchange is made either way. -/
def execAtomExchLock (g : GroupRef) (f : AtomForm) (v : Nat) (now : Nat) (s : State) : Out :=
  clocked s fun s => lockOp s g f [v] now true (fun _ _ old => old = 0) v

/-- ATOM CAS.LOCK (R145, R146). -/
def execAtomCasLock (g : GroupRef) (f : AtomForm) (cmp v : Nat) (now : Nat) (s : State) : Out :=
  clocked s fun s => lockOp s g f [cmp, v] now false (fun x l old => old = x.atomVal f l cmp) v

/-- ATOM UNLOCK (R131, R145): writes 0, and the tag goes. -/
def execAtomUnlock (g : GroupRef) (f : AtomForm) (s : State) : Out :=
  clocked s fun s => atomic s g f false false [] (fun _ _ _ => 0)

/-- A holding's record expires (R146): a further sibling failure faults the context with E_SIBLING_WAIT; otherwise the record
is dropped. After that the next sibling-failed attempt on the same holding starts a new record; the rule speaks of the first
attempt alone (DESIGN CHOICE, log entry 135). -/
def State.expireTag (s : State) (t : Tag) : State :=
  let s1 := { s with tags := s.tags.map (fun x => if x = t then { x with t0 := none, further := false } else x) }
  let s2 := s1.at ((t.t0.getD 0) + 4096)
  if t.further then s2.faultRun t.run eSibling else s2

/-- The tag whose record began first. -/
def firstTag : List Tag → Option Tag
  | [] => none
  | t :: l => match firstTag l with
    | none => some t
    | some u => if u.t0.getD 0 < t.t0.getD 0 then some u else some t

/-- SIBLING_WAIT_EXPIRY (R146): at T0 + 4,096 cycles of a holding's record it expires. Of several records of one unit and
offset, in the storage of different blocks, the one whose T0 came first expires first. -/
def execSiblingWaitExpiry (u : TagUnit) (addr : Nat) (s : State) : Out :=
  clocked s fun s =>
    match firstTag (s.tags.filter (fun t => t.unit = u && t.addr = addr && t.t0 ≠ none)) with
    | none => s
    | some t => s.expireTag t

/-! ## APPEND.G -/

/-- The list descriptor of R163 as it lies in memory. A CAPACITY outside 1 to 16,777,216, for which the rule names no code,
breaks it like a reserved field: E_APPEND_FORMAT (DESIGN CHOICE, log entry 134). -/
def appendOk (d : List Byte) : Bool :=
  field d 0x14 1 ≤ 1 && reserved d 0x15 11 && field d 0x00 8 % 64 = 0 &&
  1 ≤ field d 0x08 4 && field d 0x08 4 ≤ 16777216

/-- Place one value in a list (R164): its index, or 0xFFFF_FFFF where the list is full. `keys` gives the
memory key of an entry. -/
def State.appendOne (s : State) (desc v : Nat) (entryKey : Nat) : Nat × State :=
  let d := s.read desc 32
  let count := field d 0x0C 4
  let es := if field d 0x14 1 = 1 then 8 else 4
  if count < field d 0x08 4 then
    (count, (s.write (desc + 0x0C) (toLE 4 (count + 1))).write entryKey (toLE es v))
  else
    (0xFFFFFFFF, (s.write (desc + 0x10) (toLE 4 (field d 0x10 4 + 1))).bump (Obj.appendDrops (chanOf desc)) 1 64)

/-- The virtual address of the next free entry of a list. -/
def State.entryAddr (s : State) (desc : Nat) : Nat :=
  let d := s.read desc 32
  field d 0 8 + (if field d 0x14 1 = 1 then 8 else 4) * field d 0x0C 4

/-- The memory key of the next free entry of a list, or the fault its translation gives (R163: the W
right). A full list needs none. -/
def State.appendKey (s : State) (x : Xlat) (desc : Nat) : Except Nat Nat :=
  let d := s.read desc 32
  if field d 0x0C 4 < field d 0x08 4 then (s.translate x (s.entryAddr desc) rightW).map (fun p => p.1) else .ok 0

/-- The entry that an append wrote at key `k` passes the system cache (R310, R311); a dropped value (index 0xFFFF_FFFF) wrote
none. -/
def State.cacheEntry (s : State) (g : Gen) (cls port i k : Nat) : State := if i = 0xFFFFFFFF then s else s.cacheAtomic g cls port k

/-- APPEND.G (R163, R164): `desc` is the descriptor's address in a register pair, `v` the value's register
and `d` the register that takes the index. -/
def execAppendG (g : GroupRef) (desc v d : Nat) (ecc : Ecc) (s : State) : Out :=
  clocked s fun s => issue s g [(desc, 2), (v, 2), (d, 1)] (fun r b x =>
    let xl := s.runXlat r (some b.core)
    let at' (l : Nat) : Except Nat (Nat × Nat) :=
      let a := x.pair l desc
      if a % 32 ≠ 0 then .error eMisaligned
      else match s.translate xl a rightA with
        | .error e => .error e
        | .ok (k, _, _) =>
          if hostBase ≤ k then .error eAtomicUnsup
          else if s.isHeld xl.ch k then .error (heldCode k)
          else if !appendOk (s.read k 32) then .error eAppend
          else .ok (l, k)
    match allOk (x.active.map at') with
    | .error e => s.faultGroup g e
    | .ok ls => readsMeet s g.run ecc (fun s =>
      let value (l k : Nat) : Nat := if field (s.read k 32) 0x14 1 = 1 then x.pair l v else (x.reg l v).toNat
      if r.strict then
        let ds := ls.map (fun p =>
          { block := b.index, group := g.group, lane := p.1, seq := x.issued, kind := .append, home := none, addr := p.2,
            value := value p.1 p.2, entry := 0 : Defer })
        let r1 := { r with defers := r.defers ++ ds }
        if 65536 < r1.deferCount then s.faultGroup g eDefer
        else if r1.commitRoom < r1.commitUse b.core [] then s.faultGroup g eCommitFull
        else s.putGroup g r1 b x.next
      else
        let s := s.lookups r (some b.core) (x.active.map (fun l => x.pair l desc))
        match eachLane (fun s p => (s.appendKey xl p.2).map (fun k =>
            let (i, s1) := (s.lookups r (some b.core) [s.entryAddr p.2]).appendOne p.2 (value p.1 p.2) k
            ((s1.cacheAtomic r.gen r.cls (unitOf r.units) p.2).cacheEntry r.gen r.cls (unitOf r.units) i k).setLane g p.1 d i)) ls s with
        | (s1, some e) => (if (heldAt e).isSome then s else s1).faultGroup g e
        | (s1, none) => (s1.pass g).pruneTags))

end Sys2Proof.Machine
end

