-- ==== Sys2Proof/Machine/Matrix.lean ====
section
/-! DEFINITION. The matrix unit (R86 to R100, R138 to R144): block views, accumulator tiles, tile records
and the epilogue. Where a view, a descriptor, a record, a vector or a table is read from or written to is
the operand `sp` of the instruction, one space for all of them (DESIGN CHOICE, log entries 18 and 136). -/

namespace Sys2Proof.Machine

/-! ## Exact rounding (R86, R87) -/

/-- v / 2^s rounded to nearest, ties to even (R86). -/
def rne (v : Int) (s : Nat) : Int :=
  if s = 0 then v
  else
    let q := v / (2 ^ s : Nat)
    let r := v - q * (2 ^ s : Nat)
    let h : Int := (2 ^ (s - 1) : Nat)
    if h < r || (r = h && q % 2 = 1) then q + 1 else q

/-- `v` held at exponent `e`, expressed at exponent `t` (R86). -/
def align (v e t : Int) : Int :=
  if t ≤ e then v * (2 ^ (e - t).toNat : Nat) else rne v (t - e).toNat

/-- `v` limited to a range. -/
def clamp (lo hi v : Int) : Int := max lo (min v hi)

/-! ## Block formats and views (R88 to R90) -/

/-- Elements per block (R88). -/
def fmtLen (f : Nat) : Nat := if f = 2 then 16 else 32
/-- Bits per element (R88). -/
def viewBits (f : Nat) : Nat := if f = 0 then 4 else if f = 1 then 8 else 16
/-- Element bytes per block (R88). -/
def fmtBytes (f : Nat) : Nat := if f = 0 then 16 else 32
/-- W of R88. -/
def fmtW (f : Nat) : Int := if f = 0 then 11 else if f = 1 then 19 else 34

/-- Element `i` of a block's element bytes (R89). -/
def elemOf (f : Nat) (bs : List Byte) (i : Nat) : Int :=
  if f = 0 then
    let b := field bs (i / 2) 1
    signed 4 (if i % 2 = 0 then b % 16 else b / 16)
  else if f = 1 then signed 8 (field bs i 1)
  else signed 16 (field bs (2 * i) 2)

/-- The element bytes of a block (R89). -/
def elemBytes (f : Nat) (es : List Int) : List Byte :=
  if f = 0 then
    (upto 16).map (fun i => BitVec.ofNat 8
      (unsigned 4 (es[2 * i]?.getD 0) + 16 * unsigned 4 (es[2 * i + 1]?.getD 0)))
  else if f = 1 then es.map (fun e => BitVec.ofNat 8 (unsigned 8 e))
  else (es.map (fun e => toLE 2 (unsigned 16 e))).flatten

/-- Blocks per row of a view (R90). -/
def View.blocks (v : View) : Nat := ceilDiv v.cols (fmtLen v.fmt)

/-- A view record (R90); `scalar` is the element size of a scalar view, 0 for a block view. ROWS and COLS outside the
table's range, which R90 names in no refusal, are refused with E_BLOCK_VIEW as well, and SSTRIDE of a scalar view, which
has no blocks, is not checked (DESIGN CHOICE, log entry 93). A FMT above 2 gives a row no size to check: the instruction
finds that it is not the tile's or the output's. -/
def viewOf (bs : List Byte) (sp : MSpace) (scalar : Nat) : Except Nat View :=
  let v : View :=
    { ebase := field bs 0 8, sbase := field bs 8 8, rows := field bs 0x10 4, cols := field bs 0x14 4,
      estride := field bs 0x18 4, sstride := field bs 0x1C 2, fmt := field bs 0x1E 1, sp := sp }
  let common := field bs 0x1F 1 = 0 && v.ebase % 32 = 0 && v.estride % 32 = 0 &&
    1 ≤ v.rows && v.rows ≤ 16777216 && 1 ≤ v.cols && v.cols ≤ 1048576
  let own :=
    if scalar = 0 then 2 < v.fmt || (v.blocks * fmtBytes v.fmt ≤ v.estride && v.blocks ≤ v.sstride)
    else v.cols * scalar ≤ v.estride
  if common && own then .ok v else .error eBlockView

/-- `n` bytes read for a matrix instruction; a line that an open publication holds is waited for (R157). An operand for which
the specification gives no alignment (a view record, BIAS, MUL) is read at any address, without E_MISALIGNED (R118, DESIGN
CHOICE, log entry 137). -/
def State.matRead (s : State) (r : Run) (b : Block) (sp : MSpace) (a n : Nat) : Except Nat (List Byte) :=
  match sp with
  | .blockLocal => s.mread r b sp a n
  | .global =>
    match s.span (s.runXlat r (some b.core)) rightR a n with
    | .error e => .error e
    | .ok ks => match s.unheld (toCh r.ch) ks with
      | .error e => .error e
      | .ok _ => s.mread r b sp a n

/-- What a matrix instruction writes in global space, as spans of address and length, is looked up (R319). -/
def State.lookWrites (s : State) (r : Run) (b : Block) (sp : MSpace) (l : List (Nat × Nat)) : State :=
  if sp = .global then s.lookups r (some b.core) (l.map (fun p => pieces p.1 p.2)).flatten else s

/-- The view record at address `a` (R90). -/
def State.viewAt (s : State) (r : Run) (b : Block) (sp : MSpace) (a scalar : Nat) : Except Nat View :=
  match s.matRead r b sp a 32 with
  | .error e => .error e
  | .ok bs => viewOf bs sp scalar

/-- The exponent of block `k` of row `i` of a view (R90, R141). -/
def State.viewExp (s : State) (r : Run) (b : Block) (v : View) (i k : Nat) : Except Nat Int :=
  if v.rows ≤ i || v.blocks ≤ k then .ok (-128)
  else (s.matRead r b v.sp (v.sbase + i * v.sstride + k) 1).map (fun bs => signed 8 (leNat bs))

/-- The elements and exponent of block `k` of row `i` of a view (R90, R141). -/
def State.viewBlock (s : State) (r : Run) (b : Block) (v : View) (i k : Nat) : Except Nat (List Int × Int) :=
  let n := fmtLen v.fmt
  if v.rows ≤ i || v.blocks ≤ k then .ok (List.replicate n 0, -128)
  else
    match s.viewExp r b v i k with
    | .error e => .error e
    | .ok x =>
      (s.matRead r b v.sp (v.ebase + i * v.estride + k * fmtBytes v.fmt) (fmtBytes v.fmt)).map (fun bs =>
        ((upto n).map (fun j => if v.cols ≤ k * n + j then 0 else elemOf v.fmt bs j), x))

/-! ## ACC_CFG (R91) -/

def accMode (c : Nat) : Nat := bits c 31 30
def accFmt (c : Nat) : Nat := bits c 29 28
def accClog (c : Nat) : Nat := bits c 27 22
def accMbound (c : Nat) : Int := signed 9 (bits c 21 13)

/-- ACC_CFG holds no reserved value (R91). -/
def accOk (c : Nat) : Bool :=
  accMode c ≤ 1 && accFmt c ≤ 2 && accClog c ≤ 40 && bits c 12 0 = 0 && c < 2 ^ 32 &&
  accMbound c ≠ 255 && (accMode c = 1 || accMbound c = 0)

/-- The tile's bound M (R92). -/
def Tile.bound (t : Tile) : Int := t.eAcc - fmtW (accFmt t.cfg) - (accClog t.cfg : Int) + 62

/-! ## Fragments (R140) -/

/-- Lane and first register of element (i, j), element number 16 i + j (R140). -/
def elemPlace (f e : Nat) : Nat × Nat := (2 * (e / 16) + e % 16 / 8, f + 2 * (e % 8))

/-- Element `e` of the fragment at `f`. -/
def Group.fragElem (g : Group) (f e : Nat) : Int :=
  let p := elemPlace f e
  signed 64 (g.pair p.1 p.2)

/-- The 256 elements of a fragment in row order. -/
def Group.fragment (g : Group) (f : Nat) : List Int := (upto 256).map (g.fragElem f)

/-- A fragment written. -/
def Group.setFragment (g : Group) (f : Nat) (vs : List Int) : Group :=
  vs.zipIdx.foldl (fun g p =>
    let q := elemPlace f p.2
    g.setWords q.1 q.2 2 (unsigned 64 p.1)) g

/-- A value is in the signed 64-bit range (R94). -/
def fits64 (v : Int) : Bool := -(2 ^ 63 : Nat) ≤ v && v < (2 ^ 63 : Nat)

/-! ## The instructions -/

/-- What a matrix instruction reads: space, address and length of each span. -/
abbrev Spans := List (MSpace × Nat × Nat)

/-- The rows of 16 from `i0` that lie in a view. -/
def View.rowsFrom (v : View) (i0 : Nat) : List Nat := ((upto 16).map (fun i => i0 + i)).filter (fun i => i < v.rows)

/-- The exponents of 16 rows that an open reads over an extent (R92, R141). -/
def View.expSpans (v : View) (i0 k0 n : Nat) : Spans :=
  if v.blocks ≤ k0 || n = 0 then []
  else (v.rowsFrom i0).map (fun i => (v.sp, v.sbase + i * v.sstride + k0, min n (v.blocks - k0)))

/-- The exponents and elements of block `k` of 16 rows that a step reads (R142). -/
def View.blockSpans (v : View) (i0 k : Nat) : Spans :=
  if v.blocks ≤ k then []
  else ((v.rowsFrom i0).map (fun i =>
    [(v.sp, v.sbase + i * v.sstride + k, 1), (v.sp, v.ebase + i * v.estride + k * fmtBytes v.fmt, fmtBytes v.fmt)])).flatten

/-- A matrix instruction of a group (R138, R139): slots below 4, all 32 lanes active. A held operand leaves
it to be issued again (R157); an uncorrectable error in what it reads stops it (R308); its global reads pass through the
caches (R310). -/
def matrix (s : State) (i : GroupRef) (slots : List Nat) (ecc : Ecc)
    (f : State → Run → Block → Group → Except Nat (State × Spans)) : State :=
  issue s i [] (fun r b g =>
    if slots.any (fun t => 4 ≤ t) then s.faultGroup i eIllegal
    else if g.mask ≠ 0xFFFFFFFF then s.faultGroup i eDivMatrix
    else readsMeet s i.run ecc (fun s => match f s r b g with
      | .ok (s1, spans) => s1.touchSpans r (some b.core) ((spans.filter (fun p => p.1 = .global)).map (·.2))
      | .error e => s.faultGroup i e))

/-- The reads of an instruction that reads no memory meet no error. -/
def noEcc : Ecc := { corrected := [], bad := none, via := .mem }

/-- The tile in a slot. -/
def Group.tile (g : Group) (t : Nat) : Except Nat Tile :=
  match g.tiles.get (toCh t) with
  | none => .error eAccCfg
  | some x => .ok x

/-- The group with a slot set. -/
def Group.setTile (g : Group) (t : Nat) (x : Option Tile) : Group := { g with tiles := g.tiles.set (toCh t) x }

/-- A fragment base is legal (R140). -/
def fragOk (r : Run) (f : Nat) : Bool := f % 16 = 0 && f + 15 < r.regs

/-- The two views of a tile that opens (R90, R91, R141). -/
def State.openViews (s : State) (r : Run) (b : Block) (g : Group) (t f cfg va vb : Nat) (sp : MSpace) :
    Except Nat (View × View) :=
  if !fragOk r f then .error eIllegal
  else if (g.tiles.get (toCh t)).isSome then .error eAccCfg
  else if !accOk cfg then .error eAccCfg
  else match s.viewAt r b sp va 0, s.viewAt r b sp vb 0 with
    | .error e, _ => .error e
    | _, .error e => .error e
    | .ok x, .ok y =>
      if x.fmt ≠ accFmt cfg || y.fmt ≠ accFmt cfg then .error eAccCfg else .ok (x, y)

/-- The largest exponent of the 16 rows from `i0` of a view over an extent (R92, R141). -/
def State.scan (s : State) (r : Run) (b : Block) (v : View) (i0 k0 n : Nat) : Except Nat Int :=
  let last := if v.blocks ≤ k0 then 1 else if v.blocks < k0 + n then v.blocks - k0 + 1 else n
  (allOk ((upto 16).map (fun i =>
    (allOk ((upto last).map (fun k => s.viewExp r b v (i0 + i) (k0 + k)))).map (fun l => l.foldl max (-128))))).map
    (fun l => l.foldl max (-128))

/-- MOPEN (R91, R92, R138, R141). -/
def execMopen (g : GroupRef) (t f cfg va vb : Nat) (sp : MSpace) (i0 j0 k0 n : Nat) (ecc : Ecc) (s : State) : Out :=
  clocked s fun s => matrix s g [t] ecc (fun s r b x =>
    match s.openViews r b x t f cfg va vb sp with
    | .error e => .error e
    | .ok (a, c) =>
      if accMode cfg = 0 && n = 0 then .error eAccCfg
      else
        let m : Except Nat Int :=
          if accMode cfg = 1 then .ok (accMbound cfg)
          else match s.scan r b a i0 k0 n, s.scan r b c j0 k0 n with
            | .error e, _ => .error e
            | _, .error e => .error e
            | .ok p, .ok q => .ok (p + q)
        m.map (fun m =>
          let tile : Tile :=
            { frag := f, cfg := cfg, va := a, vb := c, i0 := i0, j0 := j0, k0 := k0, n := n,
              eAcc := m + fmtW (accFmt cfg) + (accClog cfg : Int) - 62, count := 0 }
          (s.putGroup g r b ((x.setFragment f (List.replicate 256 0)).setTile t (some tile)).next,
           [(sp, va, 32), (sp, vb, 32)] ++ (if accMode cfg = 1 then [] else a.expSpans i0 k0 n ++ c.expSpans j0 k0 n))))

/-- A tile record as read (R95): values, ACC_CFG, E_ACC and COUNT. -/
structure TileRec where
  vals  : List Int
  cfg   : Nat
  eAcc  : Int
  count : Nat
  deriving DecidableEq, Repr

/-- The tile record at an address (R95). -/
def State.tileRec (s : State) (r : Run) (b : Block) (sp : MSpace) (a : Nat) : Except Nat TileRec :=
  if a % 16 ≠ 0 then .error eAccCfg
  else match s.matRead r b sp a 2064 with
    | .error e => .error e
    | .ok bs =>
      let cfg := field bs 0x800 4
      if !accOk cfg || !reserved bs 0x806 2 || !reserved bs 0x80C 4 then .error eAccCfg
      else .ok { vals := (upto 256).map (fun e => signed 64 (field bs (8 * e) 8)), cfg := cfg,
                 eAcc := signed 16 (field bs 0x804 2), count := field bs 0x808 4 }

/-- MRESUME (R95, R138, R141): `cfg` is the ACC_CFG the instruction opens the slot with (log entry 19). -/
def execMresume (g : GroupRef) (t f recAddr cfg va vb : Nat) (sp : MSpace) (i0 j0 k0 n : Nat) (ecc : Ecc) (s : State) : Out :=
  clocked s fun s => matrix s g [t] ecc (fun s r b x =>
    match s.openViews r b x t f cfg va vb sp with
    | .error e => .error e
    | .ok (a, c) =>
      match s.tileRec r b sp recAddr with
      | .error e => .error e
      | .ok q =>
        if q.cfg ≠ cfg then .error eAccCfg
        else
          let tile : Tile :=
            { frag := f, cfg := cfg, va := a, vb := c, i0 := i0, j0 := j0, k0 := k0, n := n,
              eAcc := q.eAcc, count := q.count }
          .ok (s.putGroup g r b ((x.setFragment f q.vals).setTile t (some tile)).next,
               [(sp, va, 32), (sp, vb, 32), (sp, recAddr, 2064)]))

/-- The block product of two blocks (R91). -/
def blockDot (a b : List Int) : Int := (List.zipWith (· * ·) a b).foldl (· + ·) 0

/-- One element of a step (R91, R93, R94, R142): the new value or the fault. -/
def stepElem (t : Tile) (old : Int) (a b : List Int × Int) : Except Nat Int :=
  let e := a.2 + b.2
  if accMode t.cfg = 0 && t.bound < e then .error eAccCfg
  else if accMode t.cfg = 1 && accMbound t.cfg < e then .error eAccBound
  else
    let v := old + align (blockDot a.1 b.1) e t.eAcc
    if fits64 v then .ok v else .error eAccBound

/-- MSTEP (R91, R93, R142). -/
def execMstep (g : GroupRef) (t k : Nat) (ecc : Ecc) (s : State) : Out :=
  clocked s fun s => matrix s g [t] ecc (fun s r b x =>
    match x.tile t with
    | .error e => .error e
    | .ok q =>
      if k < q.k0 || q.k0 + q.n ≤ k then .error eAccCfg
      else if 2 ^ accClog q.cfg < q.count + 1 then .error eAccBound
      else
        match allOk ((upto 16).map (fun i => s.viewBlock r b q.va (q.i0 + i) k)),
              allOk ((upto 16).map (fun j => s.viewBlock r b q.vb (q.j0 + j) k)) with
        | .error e, _ => .error e
        | _, .error e => .error e
        | .ok as, .ok bs =>
          let zero : List Int × Int := ([], 0)
          (allOk ((upto 256).map (fun e =>
            stepElem q (x.fragElem q.frag e) (as[e / 16]?.getD zero) (bs[e % 16]?.getD zero)))).map (fun vs =>
              (s.putGroup g r b ((x.setFragment q.frag vs).setTile t (some { q with count := q.count + 1 })).next,
               q.va.blockSpans q.i0 k ++ q.vb.blockSpans q.j0 k)))

/-- Merge values at exponent `e2` with `count2` into a tile with `vals` (R96): the tile and its values. -/
def mergeInto (q : Tile) (vals : List Int) (cfg2 : Nat) (e2 : Int) (count2 : Nat) (vals2 : List Int) :
    Except Nat (Tile × List Int) :=
  if accMode q.cfg ≠ accMode cfg2 || accFmt q.cfg ≠ accFmt cfg2 || accClog q.cfg ≠ accClog cfg2 ||
     (accMode q.cfg = 1 && accMbound q.cfg ≠ accMbound cfg2) then .error eAccCfg
  else if 2 ^ accClog q.cfg < q.count + count2 then .error eAccBound
  else
    let e := max q.eAcc e2
    let vs := List.zipWith (fun a b => align a q.eAcc e + align b e2 e) vals vals2
    if vs.all fits64 then .ok ({ q with eAcc := e, count := q.count + count2 }, vs) else .error eAccBound

/-- MMERGE t, u (R96, R138). -/
def execMmerge (g : GroupRef) (t u : Nat) (s : State) : Out :=
  clocked s fun s => matrix s g [t, u] noEcc (fun s r b x =>
    match x.tile t, x.tile u with
    | .error e, _ => .error e
    | _, .error e => .error e
    | .ok p, .ok q =>
      (mergeInto p (x.fragment p.frag) q.cfg q.eAcc q.count (x.fragment q.frag)).map (fun m =>
        (s.putGroup g r b (((x.setFragment p.frag m.2).setTile t (some m.1)).setTile u none).next, [])))

/-- MMERGER t, rec (R95, R96). -/
def execMmerger (g : GroupRef) (t recAddr : Nat) (sp : MSpace) (ecc : Ecc) (s : State) : Out :=
  clocked s fun s => matrix s g [t] ecc (fun s r b x =>
    match x.tile t with
    | .error e => .error e
    | .ok p =>
      match s.tileRec r b sp recAddr with
      | .error e => .error e
      | .ok q =>
        (mergeInto p (x.fragment p.frag) q.cfg q.eAcc q.count q.vals).map (fun m =>
          (s.putGroup g r b ((x.setFragment p.frag m.2).setTile t (some m.1)).next, [(sp, recAddr, 2064)])))

/-- A tile record's bytes (R95). A COUNT of 2^32 or more, which merges reach where CLOG is above 32, keeps its low 32 bits:
the field has no more, and the specification says nothing of it (DESIGN CHOICE, log entry 94). -/
def recBytes (q : Tile) (vals : List Int) : List Byte :=
  (vals.map (fun v => toLE 8 (unsigned 64 v))).flatten ++ toLE 4 q.cfg ++ toLE 2 (unsigned 16 q.eAcc) ++
  toLE 2 0 ++ toLE 4 q.count ++ toLE 4 0

/-- MSAVE t, rec (R95). -/
def execMsave (g : GroupRef) (t recAddr : Nat) (sp : MSpace) (s : State) : Out :=
  clocked s fun s => matrix s g [t] noEcc (fun s r b x =>
    match x.tile t with
    | .error e => .error e
    | .ok q =>
      if recAddr % 16 ≠ 0 then .error eAccCfg
      else (s.mwrite r b sp recAddr (recBytes q (x.fragment q.frag))).map (fun p =>
        (((s.lookWrites r b sp [(recAddr, 2064)]).putGroup g p.1 p.2 x.next).pruneTags, [])))

/-- MCLOSE t (R138, R141). -/
def execMclose (g : GroupRef) (t : Nat) (s : State) : Out :=
  clocked s fun s => matrix s g [t] noEcc (fun s r b x => .ok (s.putGroup g r b (x.setTile t none).next, []))

/-! ## Nonlinear tables (R100) -/

/-- A nonlinear table (R100). -/
structure Nlt where
  g    : Nat
  xe   : Int
  ye   : Int
  sh1  : Nat
  sh2  : Nat
  segs : List Byte
  deriving DecidableEq, Repr

/-- The nonlinear table at an address (R100). -/
def State.nltAt (s : State) (r : Run) (b : Block) (sp : MSpace) (a : Nat) : Except Nat Nlt :=
  if a % 16 ≠ 0 then .error eNlt
  else match s.matRead r b sp a 16 with
    | .error e => .error e
    | .ok h =>
      let g := field h 4 1
      if field h 0 4 ≠ 0x51544C4E || g < 4 || 8 < g || 31 < field h 7 1 || 31 < field h 8 1 || !reserved h 9 7
      then .error eNlt
      else (s.matRead r b sp (a + 16) (12 * 2 ^ g)).map (fun bs =>
        { g := g, xe := signed 8 (field h 5 1), ye := signed 8 (field h 6 1), sh1 := field h 7 1,
          sh2 := field h 8 1, segs := bs })

/-- The value of a table at X, before and after its clamp (R100). -/
def Nlt.eval (n : Nlt) (x : Int) : Int × Int :=
  let u := (x + 32768).toNat
  let g := u / 2 ^ (16 - n.g)
  let t : Int := (u % 2 ^ (16 - n.g) : Nat)
  let c (k : Nat) : Int := signed 32 (field n.segs (12 * g + 4 * k) 4)
  let y := c 0 + rne ((c 1 + rne (c 2 * t) n.sh2) * t) n.sh1
  (y, clamp (-32768) 32767 y)

/-! ## Epilogue (R97 to R99, R143) -/

/-- The epilogue descriptor (R97). -/
structure Epi where
  fmt   : Nat
  flags : Nat
  eb    : Int
  mexp  : Int
  oexp  : Int
  smax  : Int
  bias  : Nat
  mul   : Nat
  nlt   : Nat
  deriving DecidableEq, Repr

/-- The epilogue descriptor at an address (R97). An OUT_EXP other than the 0 its table gives block outputs counts as a
reserved value (DESIGN CHOICE, log entry 95). -/
def State.epiAt (s : State) (r : Run) (b : Block) (sp : MSpace) (a : Nat) : Except Nat Epi :=
  if a % 32 ≠ 0 then .error eEpilogue
  else match s.matRead r b sp a 32 with
    | .error e => .error e
    | .ok d =>
      let f := field d 0 1
      if 5 < f || 7 < field d 1 1 || !reserved d 7 1 || (f ≤ 2 && field d 4 2 ≠ 0) then .error eEpilogue
      else .ok { fmt := f, flags := field d 1 1, eb := signed 8 (field d 2 1), mexp := signed 8 (field d 3 1),
                 oexp := signed 16 (field d 4 2), smax := signed 8 (field d 6 1), bias := field d 8 8,
                 mul := field d 0x10 8, nlt := field d 0x18 8 }

/-- A clamp that counts when it changes a value (R98). -/
def countClamp (lo hi v : Int) : Int × Nat := let c := clamp lo hi v; (c, if c = v then 0 else 1)

/-- Steps 1 to 3 of R98 for one element: V and the clamps that changed a value. -/
def epiElem (d : Epi) (eAcc : Int) (n : Option Nlt) (v bias mul : Int) : Int × Nat :=
  let (t, c1) :=
    if bit d.flags 0 then
      let (w, c) := countClamp (-(2 ^ 70 : Nat)) (2 ^ 70 : Nat) (align bias d.eb eAcc)
      (v + w, c)
    else (v, 0)
  let (u, eu) := if bit d.flags 1 then (t * mul, eAcc + d.mexp) else (t, eAcc)
  match n with
  | none => (u, c1)
  | some tb =>
    let (x, c2) := countClamp (-32768) 32767 (align u eu tb.xe)
    let (y, w) := tb.eval x
    (w, c1 + c2 + if w = y then 0 else 1)

/-- The exponent of a tile's values at step 4 (R98). -/
def epiExp (d : Epi) (eAcc : Int) (n : Option Nlt) : Int :=
  match n with
  | some t => t.ye
  | none => if bit d.flags 1 then eAcc + d.mexp else eAcc

/-- Steps 1 to 3 of R98 for a tile: 256 values, their exponent and the clamps. -/
def State.epiTile (s : State) (r : Run) (b : Block) (sp : MSpace) (d : Epi) (n : Option Nlt) (x : Group) (q : Tile) :
    Except Nat (List Int × Int × Nat) :=
  let vec (on : Bool) (a sz : Nat) : Except Nat (List Int) :=
    if on then (s.matRead r b sp (a + sz * q.j0) (16 * sz)).map (fun bs =>
      (upto 16).map (fun j => signed (8 * sz) (field bs (sz * j) sz)))
    else .ok []
  match vec (bit d.flags 0) d.bias 4, vec (bit d.flags 1) d.mul 2 with
  | .error e, _ => .error e
  | _, .error e => .error e
  | .ok bi, .ok mu =>
    let es := (upto 256).map (fun e =>
      epiElem d q.eAcc n (x.fragElem q.frag e) (bi[e % 16]?.getD 0) (mu[e % 16]?.getD 0))
    .ok (es.map (·.1), epiExp d q.eAcc n, (es.map (·.2)).sum)

/-- The bit length of a number. -/
def bitLength (m : Nat) : Nat := if m = 0 then 0 else Nat.log2 m + 1

/-- A block output (R99): the elements, the exponent and the clamps; `live` columns lie below COLS. -/
def requant (n : Nat) (smax ev : Int) (vs : List Int) (live : Nat) : List Int × Int × Nat :=
  let vl := vs.take live
  let m := (vl.map Int.natAbs).foldl max 0
  if m = 0 then (vs.map (fun _ => 0), -128, 0)
  else
    let s0 := ev + (bitLength m : Int) - ((n : Int) - 1)
    let s := clamp (-128) smax s0
    let lim : Int := (2 ^ (n - 1) : Nat) - 1
    let es := vl.map (fun v => countClamp (-lim) lim (align v ev s))
    (es.map (·.1) ++ List.replicate (vs.length - live) 0, s,
      (es.map (·.2)).sum + if s = s0 then 0 else 1)

/-- Bits of a scalar output format (R97). -/
def scalarBits (f : Nat) : Nat := if f = 3 then 8 else if f = 4 then 16 else 32

/-- The writes of one row of a block output (R143): its element bytes and its exponent byte. A block at an index beyond the
row has only columns at COLS and above, so it is written as zeros with exponent −128 where R90 places it (R99; DEDUCED,
log entry 96). -/
def blockRow (d : Epi) (vo : View) (row bo : Nat) (ev : Int) (vs : List Int) : List (Nat × List Byte) × Nat :=
  let n := fmtLen vo.fmt
  let (es, e, c) := requant (viewBits vo.fmt) d.smax ev vs (min n (vo.cols - bo * n))
  ([(vo.ebase + row * vo.estride + bo * fmtBytes vo.fmt, elemBytes vo.fmt es),
    (vo.sbase + row * vo.sstride + bo, [BitVec.ofNat 8 (unsigned 8 e)])], c)

/-- The writes of one row of a scalar output (R99, R143). -/
def scalarRow (d : Epi) (vo : View) (row bo : Nat) (ev : Int) (vs : List Int) : List (Nat × List Byte) × Nat :=
  let n := scalarBits d.fmt
  let lim : Int := (2 ^ (n - 1) : Nat)
  let es := (vs.take (vo.cols - 16 * bo)).map (fun v => countClamp (-lim) (lim - 1) (align v ev d.oexp))
  ([(vo.ebase + row * vo.estride + 16 * bo * (n / 8), (es.map (fun p => toLE (n / 8) (unsigned n p.1))).flatten)],
    (es.map (·.2)).sum)

/-- Row `i` of a tile's 256 values. -/
def tileRow (vs : List Int) (i : Nat) : List Int := (vs.drop (16 * i)).take 16

/-- The values of an epilogue by row, their exponent and the clamps of steps 1 to 3: one tile, or the pair
of a B4 or B8 output at the lower exponent (R143). -/
def State.epiValues (s : State) (r : Run) (b : Block) (sp : MSpace) (d : Epi) (x : Group) (t : Nat) :
    Except Nat (List (List Int) × Int × Nat) :=
  match x.tile t with
  | .error e => .error e
  | .ok p =>
    let n : Except Nat (Option Nlt) := if bit d.flags 2 then (s.nltAt r b sp d.nlt).map some else .ok none
    match n with
    | .error e => .error e
    | .ok n =>
      if d.fmt ≤ 1 then
        match x.tile (t + 1) with
        | .error e => .error e
        | .ok q =>
          if p.i0 ≠ q.i0 || q.j0 ≠ p.j0 + 16 then .error eEpilogue
          else match s.epiTile r b sp d n x p, s.epiTile r b sp d n x q with
            | .error e, _ => .error e
            | _, .error e => .error e
            | .ok (v1, e1, c1), .ok (v2, e2, c2) =>
              let ev := min e1 e2
              .ok ((upto 16).map (fun i =>
                    (tileRow v1 i).map (fun v => align v e1 ev) ++ (tileRow v2 i).map (fun v => align v e2 ev)),
                  ev, c1 + c2)
      else
        (s.epiTile r b sp d n x p).map (fun q => ((upto 16).map (tileRow q.1), q.2.1, q.2.2))

/-- Apply the writes of a matrix instruction in order. -/
def State.mwrites (s : State) (sp : MSpace) : Run → Block → List (Nat × List Byte) → Except Nat (Run × Block)
  | r, b, [] => .ok (r, b)
  | r, b, w :: t =>
    if w.2 = [] then s.mwrites sp r b t
    else match s.mwrite r b sp w.1 w.2 with
      | .error e => .error e
      | .ok (r1, b1) => s.mwrites sp r1 b1 t

/-- The spans an epilogue reads: descriptor, output view, table and vectors (R97, R100). -/
def epiSpans (d : Epi) (desc vo : Nat) (sp : MSpace) (ts : List Tile) (n : Option Nlt) : Spans :=
  [(sp, desc, 32), (sp, vo, 32)] ++ (n.toList.map (fun q => (sp, d.nlt, 16 + q.segs.length))) ++
  (ts.map (fun q => (if bit d.flags 0 then [(sp, d.bias + 4 * q.j0, 64)] else []) ++
    (if bit d.flags 1 then [(sp, d.mul + 2 * q.j0, 32)] else []))).flatten

/-- MEPI (R97 to R99, R143). The clamps of steps 1 and 3 count for every element of the tile, those of step 4 for what is
written (DESIGN CHOICE, log entry 97). One memory space serves all its operands, as for the other matrix instructions: the
specification leaves open how a space is named, and operands of mixed spaces cannot be named here (DESIGN CHOICE, log entries
18 and 136). -/
def execMepi (g : GroupRef) (t desc vo : Nat) (sp : MSpace) (io bo : Nat) (ecc : Ecc) (s : State) : Out :=
  clocked s fun s => matrix s g [t] ecc (fun s r b x =>
    match s.epiAt r b sp desc with
    | .error e => .error e
    | .ok d =>
      if d.fmt ≤ 1 && t % 2 = 1 then .error eEpilogue
      else match s.viewAt r b sp vo (if d.fmt ≤ 2 then 0 else scalarBits d.fmt / 8) with
      | .error e => .error e
      | .ok v =>
        match s.epiValues r b sp d x t with
        | .error e => .error e
        | .ok (rows, ev, c) =>
          if d.fmt ≤ 2 && v.fmt ≠ d.fmt then .error eEpilogue
          else
            let outs := (rows.zipIdx.filter (fun p => io + p.2 < v.rows)).map (fun p =>
              if d.fmt ≤ 2 then blockRow d v (io + p.2) bo ev p.1 else scalarRow d v (io + p.2) bo ev p.1)
            (s.mwrites sp r b (outs.map (·.1)).flatten).map (fun p =>
              let n := c + (outs.map (·.2)).sum
              let tiles := [x.tiles.get (toCh t)] ++ (if d.fmt ≤ 1 then [x.tiles.get (toCh (t + 1))] else [])
              let table := if bit d.flags 2 then (s.nltAt r b sp d.nlt).toOption else none
              let s1 := s.lookWrites r b sp ((outs.map (·.1)).flatten.map (fun w => (w.1, w.2.length)))
              (((s1.putGroup g p.1 p.2 x.next).bump (Obj.reqSaturations (toCh r.ch)) n 64).pruneTags,
               epiSpans d desc vo sp (tiles.filterMap id) table)))

end Sys2Proof.Machine
end

