-- ==== Sys2Proof/Machine/Pacer.lean ====
section
/-! DEFINITION. Pacers and windows (R52 to R77): checking lengths, window maps, APPLY and its effect,
following, the lock source's loss and return, and the opening and closing of windows. -/

namespace Sys2Proof.Machine

/-! ## Fields of the Pacer registers (R62) -/

def ctrlLockSrc (c : Nat) : Nat := bits c 30 28
def ctrlFollow (c : Nat) : Nat := bits c 27 26
def ctrlRange (c : Nat) : Nat := bits c 25 16
def periodField (p : Nat) : Nat := bits p 28 0
def winEn (w : Nat) : Bool := bit w 31
def winBackfill (w : Nat) : Bool := bit w 30
def winClass (w : Nat) : Nat := bits w 29 28
def winStart (w : Nat) : Nat := bits w 13 0

/-- L_CHK of a control word and a period (R56). -/
def lChkOf (ctrl period : Nat) : Nat :=
  if ctrlLockSrc ctrl = 0 then periodField period / 65536
  else periodField period * (1000000 - ctrlRange ctrl) / (65536 * 1000000)

/-- The channel whose period and lock settings a Pacer runs on: its leader's while it follows (R58). -/
def State.paceOf (s : State) (ch : Fin 4) : Fin 4 :=
  if (s.pacer ch).following then toCh (ctrlFollow (s.pacer ch).cfg.ctrl) else ch

/-- L_CHK of a channel (R56). -/
def State.lChk (s : State) (ch : Fin 4) : Nat :=
  let c := (s.pacer (s.paceOf ch)).cfg
  lChkOf c.ctrl c.period

/-- The window registers of map `m`. -/
def mapRegs (ws : List Nat) (m : Nat) : List Nat := (ws.drop (8 * m)).take 8

/-- A map meets R60; the last enabled window is measured to `l`. -/
def mapValid (regs : List Nat) (l : Nat) : Bool :=
  let en := regs.takeWhile winEn
  let starts := en.map winStart
  let ends := starts.drop 1 ++ [l]
  match starts with
  | 0 :: _ => (regs.drop en.length).all (fun w => !winEn w) &&
      (starts.zip ends).all (fun p => p.1 + 32 ≤ p.2)
  | _ => false

/-- Window `k` of a map's registers in a tick of `len` cycles: START and end (R61), where it is
enabled. -/
def windowSpan (regs : List Nat) (k len : Nat) : Option (Nat × Nat) :=
  match regs[k]? with
  | none => none
  | some w =>
    if !winEn w then none
    else match regs[k + 1]? with
      | some w1 => if winEn w1 then some (winStart w, winStart w1) else some (winStart w, len)
      | none => some (winStart w, len)

/-- The map of windowed unit `u` (R59). -/
def unitMapOf (um u : Nat) : Nat := bits um (2 * u + 1) (2 * u)

/-- The units a map serves, as a mask. -/
def mapUnits (um m : Nat) : Nat := ((upto 8).map (fun u => if unitMapOf um u = m then 2 ^ u else 0)).sum

/-- The longest window of class `c` in a map, the last measured to `l` (R66). -/
def largestWindow (regs : List Nat) (c l : Nat) : Nat :=
  ((upto 8).map (fun k => match windowSpan regs k l with
    | some (a, e) => if winClass (regs[k]?.getD 0) = c then e - a else 0
    | none => 0)).foldl max 0

/-! ## Gangs (R35) -/

/-- The members of the gang set a leader's GANG_CTRL names. -/
def gangSet (leader : Fin 4) (ctrl : Nat) : List (Fin 4) :=
  match bits ctrl 31 30, leader with
  | 1, 0 => [0, 1]
  | 1, 2 => [2, 3]
  | 2, 0 => [0, 1, 2, 3]
  | _, _ => []

/-- The gang in force that a channel belongs to, its leader first; none for an independent channel. -/
def State.gangOf (s : State) (ch : Fin 4) : List (Fin 4) :=
  let a := gangSet 0 (s.gangs.get 0).ctrl
  let b := gangSet 2 (s.gangs.get 2).ctrl
  if a.contains ch then a else if b.contains ch then b else []

/-- The owner set a channel stands in: its gang, or itself (R28). -/
def State.ownerSet (s : State) (ch : Fin 4) : List (Fin 4) :=
  match s.gangOf ch with
  | [] => [ch]
  | l => l

/-- The leader of a channel's owner set. -/
def State.leaderOf (s : State) (ch : Fin 4) : Fin 4 := (s.ownerSet ch).headD ch

/-- The gang a channel will belong to once the accepted GANG_APPLYs have taken effect; none for an independent channel. -/
def State.gangNext (s : State) (ch : Fin 4) : List (Fin 4) :=
  let at' (l : Fin 4) : List (Fin 4) := gangSet l (((s.gangs.get l).pending.map (·.2)).getD (s.gangs.get l).ctrl)
  if (at' 0).contains ch then at' 0 else if (at' 2).contains ch then at' 2 else []

/-- The channels of a mask. -/
def maskChans (v : Nat) : List (Fin 4) := chans.filter (fun c => bit v c)

/-- A mask of channels as a set bitmap. -/
def chansMask (l : List (Fin 4)) : Nat := (chans.map (fun (c : Fin 4) => if l.contains c then 2 ^ c.val else 0)).sum

/-- A channel set is an owner set (R28): none, a single channel, or a gang in force. -/
def State.isOwner (s : State) (v : Nat) : Bool :=
  v = 0 || (maskChans v).length = 1 || [0, 2].any (fun l => gangSet l (s.gangs.get l).ctrl = maskChans v)

/-- A leader's arrangement in force at tick `t`: the one accepted for it or an earlier tick, none where a TP_UNLOAD has
dissolved it by then (R81, R197), or the present one. -/
def State.ctrlAt (s : State) (l : Fin 4) (t : Nat) : Nat :=
  let g := s.gangs.get l
  match g.pending.filter (fun p => p.1 ≤ t), (s.pacer l).change with
  | some (_, v), _ => v
  | none, .unload u => if u ≤ t then 0 else g.ctrl
  | none, _ => g.ctrl

/-- A channel is out of service by request, or a request accepted for it will take it out. -/
def State.goingOut (s : State) (m : Fin 4) : Bool :=
  (s.outBy.get m).isSome || (s.chPend.get m).svc.any (fun x => x.mode ≠ 0)

/-! ## Edges (R74) -/

/-- A channel stands at its tick edge (R74): no window of the tick has opened, so no command of classes 1 to 3 runs. -/
def State.atEdge (s : State) (ch : Fin 4) : Bool := !(s.pacer ch).opened

/-- An accepted APPLY of a channel is due (R62). -/
def State.applyDue (s : State) (ch : Fin 4) : Bool := (s.pacer ch).pending.isSome && (s.pacer ch).applyAt ≤ s.edgeNo ch

/-- A GANG_APPLY accepted for a tick that has come is due, and names the channel in its old or its new set (R197). -/
def State.gangDue (s : State) (ch : Fin 4) : Bool :=
  [0, 2].any (fun l => (s.gangs.get l).pending.any (fun p =>
    p.1 ≤ s.tick l && (l = ch || (gangSet l p.2).contains ch || (gangSet l (s.gangs.get l).ctrl).contains ch)))

/-- An accepted DP_APPLY of a channel is due (R287). -/
def State.dpDue (s : State) (ch : Fin 4) : Bool := (s.dps.get ch).pending.any (fun p => p.1 ≤ s.tick ch)

/-- An installation or trim of an address space that is PENDING is due on a channel: an edge has come since (R328, R331). -/
def State.spaceDue (s : State) (ch : Fin 4) (x : AddrSpace) : Bool :=
  x.phase = .pending && !x.passed.contains ch.val && x.since.get ch < s.edgeNo ch

/-- A staged pool is due: an edge has come since it was staged (R322). -/
def State.poolDue (s : State) (ch : Fin 4) : Bool := (s.allocs.get ch).staged.isSome && (s.allocs.get ch).asOf < s.edgeNo ch

/-- A park or gate is due: an edge has come since it was accepted (R453). -/
def State.parkDue (s : State) (ch : Fin 4) : Bool := (s.chPend.get ch).power.any (fun p => p.1 ≠ 0 && p.2 < s.edgeNo ch)

/-- A self-test is due (R496). -/
def State.testDue (s : State) (ch : Fin 4) : Bool :=
  bits (s.obj (Obj.testStatus ch)) 15 12 = 1 && (s.chPend.get ch).test.any (fun p => p.1 ≤ s.tick ch)

/-- The Pacer whose ticks a list of channels counts in, and whether all of them stand at one edge (R28, R30). -/
def State.rootOf (s : State) (sets : List (Fin 4)) : Fin 4 := (sets.map s.paceOf).headD 0
def State.oneEdge (s : State) (sets : List (Fin 4)) : Bool := sets.all (fun c => (s.pacer c).edge = (s.pacer (s.rootOf sets)).edge)

/-- A change of attachment that names the channel in its old or its new set is due (R30): its tick has come for the sets,
and they share the edge. -/
def State.attachDue (s : State) (ch : Fin 4) : Bool :=
  ([(0, Obj.attachOwner 0), (1, Obj.attachOwner 1), (2, Obj.klAttachOwner 0), (3, Obj.klAttachOwner 1)] : List (Fin 4 × Nat)).any (fun u =>
    (s.attach.get u.1).any (fun p =>
      let sets := maskChans (s.obj u.2) ++ maskChans p.2
      sets.contains ch && p.1 ≤ s.tick (s.rootOf sets) && s.oneEdge sets))

/-- A service change that names the channel's owner set is due (R34, R493): the states of every member may change with it. -/
def State.svcDue (s : State) (ch : Fin 4) : Bool :=
  chans.any (fun l => (s.chPend.get l).svc.any (fun x => x.t ≤ s.tick l && (s.ownerSet l).contains ch))

/-- The edge of a teardown is due on a channel (R387): an edge has come since the context's host references went. -/
def State.teardownDue (s : State) (ch : Fin 4) (x : Context) : Bool :=
  x.state = .teardown && !x.edges.contains ch.val && x.since.get ch < s.edgeNo ch

/-- Accepted link tables are due: the owner set's next edge has come (R422). -/
def State.tablesDue (s : State) (ch : Fin 4) : Bool :=
  s.links.any (fun e =>
    let set := maskChans (s.obj (Obj.klAttachOwner e.1))
    set.contains ch && e.2.pending.any (fun p => p.1 < s.edgeNo (set.headD 0)))

/-- The cycle at which the mark that carried START was sent by the head or arrived at a follower (R431). -/
def State.startMark (s : State) : Option Nat :=
  if !s.sync.start then none
  else match bits (s.obj Obj.syncCtrl) 31 30 with
    | 1 => s.sync.sent
    | 2 => s.sync.mark.map (·.1)
    | _ => none

/-- The edge that a START mark places has come (R431). -/
def State.startDue (s : State) : Bool := s.startMark.any (fun u => u < (s.pacer 0).edge)

/-- RELAY_TICKS. -/
def State.relayTicks (s : State) : Nat := bits (s.obj Obj.pairCtrl) 28 26

/-- The oldest tick of a channel whose datum has not come and whose applying edge is here (R441). -/
def State.missing (s : State) (ch : Fin 4) : Option Nat :=
  (s.pair.own.find? (fun o => o.ch = ch.val && o.shadow && o.tick + s.relayTicks ≤ s.tick ch &&
    !s.pair.heard.any (fun d => d.ch = ch.val && d.tick = o.tick))).map Decision.tick

/-- Decisions of a channel of a pair are to be applied at this edge (R436). -/
def State.relayDue (s : State) (ch : Fin 4) : Bool :=
  s.inPair ch && (s.pair.own ++ s.pair.heard).any (fun d => d.ch = ch.val && d.tick + s.relayTicks ≤ s.tick ch)

/-- A change of roles in a pair is due on its channels (R441, R443): the tick of an accepted swap has come, KL0 of a
standby went DOWN before the present edge, or a standby misses the datum of the applying edge. -/
def State.roleDue (s : State) (ch : Fin 4) : Bool :=
  let mask := maskChans (bits (s.obj Obj.pairCtrl) 25 22)
  let t := s.tick (mask.headD 0)
  mask.contains ch &&
  ((s.obj Obj.pairRole = 1 && s.obj Obj.pairState = 2 && s.portUp 0 && s.pair.swap.any (fun u => u ≤ t)) ||
   (s.obj Obj.pairRole = 2 && (s.pair.downAt.any (fun u => u < t) || mask.any (fun m => (s.missing m).isSome))))

/-- The channel at whose edges the domain PD(112 + u) goes OFF (R456): the unit's own, and for DPIN and KL the lowest of its
owner set, channel 0 for a unit without one. -/
def State.unitChan (s : State) (u : Nat) : Fin 4 :=
  if u < 8 then toCh u
  else (maskChans (s.obj (if u < 10 then Obj.attachOwner (u - 8) else Obj.klAttachOwner (u - 10)))).headD 0

/-- The kind of a unit (R478). -/
def unitKind (u : Nat) : Nat := u / 16

/-- The channel whose ticks an apply of a unit counts (R489): the leader of the owner set of a port or input. -/
def State.applyCh (s : State) (u : Nat) : Fin 4 :=
  if u = 0 then 0
  else if unitKind u = 4 then (maskChans (s.obj (Obj.attachOwner (u % 16)))).headD 0
  else if unitKind u = 5 then (maskChans (s.obj (Obj.klAttachOwner (u % 16)))).headD 0
  else toCh (u % 16)

/-- The tick of an eligible apply point of a unit for tick `t` has come (R489, R499): for COMP and DP an output frame start. -/
def State.applyReady (s : State) (u t : Nat) : Bool :=
  let c := s.applyCh u
  s.awake && t ≤ s.tick c && ((unitKind u ≠ 2 && unitKind u ≠ 3) || (s.comps.get c).frame = some (s.tick c))

/-- The apply point of an image falls on this edge of the channel (R489). -/
def State.imageDue (s : State) (ch : Fin 4) : Bool :=
  s.images.any (fun e => s.applyCh e.1 = ch && e.2.staged.isSome && e.2.apply.any (s.applyReady e.1))

/-- The open report of a channel has its length: it closes at this edge (R511). -/
def State.reportDue (s : State) (ch : Fin 4) : Bool := (s.observe.get ch).target ≤ (s.observe.get ch).ticks && 0 < (s.observe.get ch).ticks

/-- A unit's domain goes OFF at this edge of the channel (R456). -/
def State.offDue (s : State) (ch : Fin 4) : Bool := (upto 12).any (fun u => bit s.power.off u && s.unitChan u = ch)

/-- The entry to P2 starts at this edge of channel 0 (R462). -/
def State.entryDue (s : State) : Bool :=
  match s.power.p2 with
  | .asked t => decide (t < s.edgeNo 0)
  | _ => false

/-- A change that is taken at a tick edge is due on a channel (R30, R62, R74, R79, R81, R197, R287, R322, R328, R331, R387, R422, R431, R441,
R443, R453, R456, R462, R489, R511, R493, R495, R496): no window opens before it has been taken. -/
def State.edgeDue (s : State) (ch : Fin 4) : Bool :=
  s.applyDue ch || s.applyDue (s.paceOf ch) || s.gangDue ch ||
  (match (s.pacer ch).change with
   | .none => false
   | .checking t _ _ _ _ => t ≠ 0 && t ≤ s.tick ch
   | .waiting t _ => t ≤ s.tick ch
   | .unload t => t ≤ s.tick ch) ||
  s.svcDue ch || (s.chPend.get ch).subst.any (fun x => x.1 ≤ s.tick ch) || s.dpDue ch ||
  s.poolDue ch || s.parkDue ch || s.testDue ch || s.attachDue ch || s.spaces.any (fun e => s.spaceDue ch e.2) ||
  s.ctxs.any (fun e => s.teardownDue ch e.2) || s.tablesDue ch || (ch = 0 && (s.startDue || s.entryDue)) || s.roleDue ch || s.offDue ch || s.imageDue ch || s.reportDue ch

/-! ## Slots in their windows (R78, R82) -/

/-- The window of a slot in a configuration, with its class, where it is enabled; the last one measured to
`l`. -/
def slotWindow (c : PacerCfg) (l : Nat) (x : Slot) : Option (Nat × Nat × Nat) :=
  let regs := mapRegs c.windows (unitMapOf c.unitMap x.unit)
  (windowSpan regs x.window l).map (fun w => (w.1, w.2, winClass (regs[x.window]?.getD 0)))

/-- Every slot lies in an enabled class 0 window and depends on none in a later window (R82). -/
def slotsFit (c : PacerCfg) (l : Nat) (v : List Slot) : Bool :=
  v.all (fun x => match slotWindow c l x with
    | none => false
    | some (a, _, cl) => cl = 0 && [x.dep0, x.dep1].all (fun d => d = 0 || match (v[d - 1]?).bind (slotWindow c l) with
      | none => false
      | some (b, _, _) => b ≤ a))

/-! ## The longest path (R82) -/

/-- seal[s] of a variant's slots, each from the start of its own window, in slot order: a slot starts at the greatest of
free[unit] in its window and the seal[] of its dependencies, and takes its cost of the timing model (R82). -/
def sealTimes (v : List Slot) (costs : List Nat) : List Nat :=
  (v.zip costs).foldl (fun (done : List Nat) p =>
    let x := p.1
    let free := (v.zip done).foldl (fun m q => if q.1.unit = x.unit && q.1.window = x.window then max m q.2 else m) 0
    let dep (d : Nat) : Nat := if d = 0 then 0 else done[d - 1]?.getD 0
    done ++ [max free (max (dep x.dep0) (dep x.dep1)) + p.2]) []

/-- The first class 0 window of a variant, in map and window order, that its slots overrun (R82). -/
def overrunAt (c : PacerCfg) (l : Nat) (v : List Slot) (ends : List Nat) : Option (Nat × Nat) :=
  ((upto 32).map (fun i => (i / 8, i % 8))).find? (fun mw =>
    (v.zip ends).any (fun p => unitMapOf c.unitMap p.1.unit = mw.1 && p.1.window = mw.2 &&
      match slotWindow c l p.1 with
      | some (a, e, _) => e - a < p.2
      | none => false))

/-- The variants with the costs of their slots, cut from the timing model's list. -/
def costLists : List (List Slot) → List Nat → List (List Slot × List Nat)
  | [], _ => []
  | v :: t, cs => (v, cs.take v.length ++ List.replicate (v.length - cs.length) 0) :: costLists t (cs.drop v.length)

/-- The variants with seal[s] of their slots, from the timing model's costs of all slots in order (R82). -/
def sealLists (vs : List (List Slot)) (costs : List Nat) : List (List Slot × List Nat) :=
  (costLists vs costs).map (fun v => (v.1, sealTimes v.1 v.2))

/-- The first variant and class 0 window that its slots overrun (R82). -/
def overrunIn (c : PacerCfg) (l : Nat) (vs : List (List Slot × List Nat)) : Option (Nat × Nat × Nat) :=
  vs.zipIdx.findSome? (fun v => (overrunAt c l v.1.1 v.1.2).map (fun w => (v.2, w)))

/-! ## APPLY (R62, R58, R83) -/

/-- The staged copy of a Pacer's registers (R62). -/
def State.stagedCfg (s : State) (ch : Fin 4) : PacerCfg :=
  { ctrl := s.obj (Obj.pacerCtrl ch), period := s.obj (Obj.pacerPeriod ch), unitMap := s.obj (Obj.unitMap ch),
    windows := (upto 32).map (fun i => s.obj (key (0x2010 + 0x100 * ch + i / 8) (i % 8 + 1))) }

/-- FOLLOW_CH of a configuration; PACER0 follows none (R58). -/
def followOf (ch : Fin 4) (c : PacerCfg) : Fin 4 := if ch = 0 then 0 else toCh (ctrlFollow c.ctrl)

/-- Field ranges of the staged period and lock settings (R62). -/
def cfgFieldsOk (c : PacerCfg) : Bool :=
  0x01F40000 ≤ periodField c.period && periodField c.period ≤ 0x1F400000 &&
  ctrlRange c.ctrl ≤ 1000 && ctrlLockSrc c.ctrl ≤ 4

/-- A program or a program change is in hand on a channel (R58, R80). -/
def State.programInHand (s : State) (ch : Fin 4) : Bool :=
  (s.pacer ch).program.isSome || (s.pacer ch).change ≠ .none

/-- The cycle of a Pacer's edge number `n` (R62), its ticks taken as long as the present one. -/
def Pacer.edgeOf (p : Pacer) (n : Nat) : Nat := p.edge + (n - p.count) * p.len

/-- The configuration a Pacer runs on at cycle `e` (R58): the accepted one from its edge on. -/
def Pacer.cfgAt (p : Pacer) (e : Nat) : PacerCfg :=
  match p.pending with
  | some q => if p.edgeOf p.applyAt ≤ e then q else p.cfg
  | none => p.cfg

/-- The configuration a channel's Pacer will run on once what is accepted has taken effect, and its L_CHK (R56, R75). -/
def State.cfgNext (s : State) (ch : Fin 4) : PacerCfg := (s.pacer ch).pending.getD (s.pacer ch).cfg
def State.lChkNext (s : State) (ch : Fin 4) : Nat :=
  let c := s.cfgNext (followOf ch (s.cfgNext ch))
  lChkOf c.ctrl c.period

/-- A channel's active program and the one that waits for its tick. -/
def State.programsOf (s : State) (ch : Fin 4) : List Program :=
  (s.pacer ch).program.toList ++ (match (s.pacer ch).change with
    | .waiting _ p => [p]
    | _ => [])

/-- The Pacers whose ticks a channel's period sets: its own and those that follow it (R58). -/
def State.pacedBy (s : State) (ch : Fin 4) : List (Fin 4) :=
  chans.filter (fun m => m = ch || followOf m (s.pacer m).cfg = ch)

/-- The active and the waiting programs of the channels whose ticks a change of a channel's Pacer sets, each with the
configuration its channel has under it. -/
def State.programsUnder (s : State) (ch : Fin 4) (c : PacerCfg) : List (Program × PacerCfg) :=
  ((s.pacedBy ch).map (fun m => (s.programsOf m).map (fun p => (p, if m = ch then c else s.cfgNext m)))).flatten

/-- The figures of the timing model under which a program fits its windows and its latency bound (R82). -/
def Program.holds (p : Program) (c : PacerCfg) (l : Nat) (m : ModelFigures) : Bool :=
  p.variants.all (slotsFit c l) && (overrunIn c l (sealLists p.variants m.slotCost)).isNone && m.latency ≤ p.latency

/-- The load check under staged values (R62, R82, R83): each program lies in enabled class 0 windows that no seal[] of it
overruns, with the figures that the timing model has for it, one entry of `ms` for each program in the order of
`programsUnder`. A program without figures has not passed. -/
def State.programsHold (s : State) (ch : Fin 4) (c : PacerCfg) (l : Nat) (ms : List ModelFigures) : Bool :=
  (s.programsUnder ch c).zipIdx.all (fun q => match ms[q.2]? with
    | some m => q.1.1.holds q.1.2 l m
    | none => false)

/-- The timing model's figures for an APPLY that comes as a dictionary request, which carries none: free values. -/
def State.freeFigures (s : State) (ch : Fin 4) : List ModelFigures :=
  (s.programsUnder ch (s.stagedCfg ch)).zipIdx.map (fun q =>
    let f := Config.figure s.fresh q.2
    { latency := f 0, floorOpp := f 1 % 7, slotCost := (upto (q.1.1.variants.map List.length).sum).map (fun j => f (j + 2)) })

/-- The lowest OPP of each channel's active program, as the load check of an APPLY found it (R83). -/
def State.floorsUnder (s : State) (ch : Fin 4) (ms : List ModelFigures) : List (Fin 4 × Nat) :=
  let heads := ((s.pacedBy ch).map (fun m => (s.programsOf m).zipIdx.map (fun q => (m, q.2 = 0 && (s.pacer m).program.isSome)))).flatten
  (heads.zip ms).filterMap (fun q => if q.1.2 then some (q.1.1, q.2.floorOpp) else none)

/-- A channel leaves the Pacer of the gang it belongs to, or will belong to, which R37 does not let it (log entry 84). -/
def State.leavesGang (s : State) (ch f : Fin 4) : Bool :=
  [s.gangOf ch, s.gangNext ch].any (fun g => g ≠ [] && f ≠ g.headD ch)

/-- The staged copy passes APPLY's checks (R58, R60, R62, R83); `ms` are the timing model's figures for the programs
under it. -/
def State.applyOk (s : State) (ch : Fin 4) (c : PacerCfg) (ms : List ModelFigures) : Bool :=
  let f := followOf ch c
  let own := s.pacer ch
  let lead := (s.pacer f).cfgAt (own.edgeOf (own.count + s.edgesToEffect ch))
  let pace := if f = ch then c else lead
  let l := lChkOf pace.ctrl pace.period
  let starts := f ≠ ch && followOf ch own.cfg ≠ f
  cfgFieldsOk c && (upto 4).all (fun m => mapValid (mapRegs c.windows m) l) &&
  f.val ≤ ch.val && (f = ch || followOf f lead = f) && !(starts && s.programInHand ch) && !s.leavesGang ch f &&
  s.programsHold ch c l ms

/-- The state with a channel's staged copy accepted for its next edge (R62), or in a pair for the edge RELAY_TICKS
later (R438). -/
def State.stageApply (s : State) (ch : Fin 4) (c : PacerCfg) (floors : List (Fin 4 × Nat)) : State :=
  s.setPacer ch { s.pacer ch with pending := some c, applyAt := s.edgeNo ch + s.edgesToEffect ch, floors := floors }

/-- A gang member's configuration with the staged period and lock settings (R62). -/
def withPace (old new : PacerCfg) : PacerCfg :=
  { old with ctrl := setBits (setBits old.ctrl 30 28 (ctrlLockSrc new.ctrl)) 25 16 (ctrlRange new.ctrl),
             period := new.period }

/-- APPLY (R62, R83). On the leader of a gang it also applies the period and lock settings of every member. `ms` are
the timing model's figures for the programs of the channels on this Pacer under the staged values. An APPLY accepted before
an accepted one has taken effect takes its place (DESIGN CHOICE, log entry 127). -/
def opApply (who : Req) (ch : Fin 4) (v : Nat) (ms : List ModelFigures) (s : State) : State :=
  let k := Obj.apply ch
  s.mirrored k (toLE 1 v) (s.tick ch + 1 + s.relay ch) fun s => s.command1 who k v (fun s =>
    let c := s.stagedCfg ch
    let others := if s.leaderOf ch = ch then (s.gangOf ch).filter (· ≠ ch) else []
    if !s.applyOk ch c ms || !others.all (fun m => cfgFieldsOk (s.stagedCfg m)) then s.refuse k rcRange
    else
      let s1 := s.stageApply ch c (s.floorsUnder ch ms)
      (forEach others (fun s m =>
        let base := (s.pacer m).pending.getD (s.pacer m).cfg
        s.stageApply m (withPace base (s.stagedCfg m)) []) s1).accept k)

/-- APPLY (R62). -/
def execApply (who : Req) (ch : Fin 4) (v : Nat) (ms : List ModelFigures) (s : State) : Out :=
  clocked s (opApply who ch v ms)

/-! ## Lock states (R54, R55) -/

/-- LOCK_STATE code. -/
def lockCode : LockState → Nat
  | .free => 0
  | .acquiring => 1
  | .locked => 2
  | .hold => 3

/-- The source LOCK_SRC names is present (R55): a stream on the video input, synchronised 802.1AS time,
or, for SYNC_IN, marks that arrive, which the HOLD state itself reports. -/
def State.lockPresent (s : State) (src : Nat) (ch : Fin 4) : Bool :=
  if src = 1 || src = 2 then
    s.obj (Obj.dpinState (src - 1)) = 3 && s.obj (Obj.inputState ch) ≠ 2 && s.obj (Obj.inputState ch) ≠ 3
  else if src = 3 then s.obj Obj.t1AsState = 2
  else true

/-- PACER0 leaves LOCKED: START_VALID clears (R431), and a standby's pair becomes DIVERGED (R439). -/
def State.unlocked (s : State) (ch : Fin 4) (was : LockState) : State :=
  if ch ≠ 0 || was ≠ .locked || (s.pacer ch).lock = .locked then s
  else
    let s1 := s.setObj Obj.startValid 0
    if s.obj Obj.pairRole = 2 && (s.obj Obj.pairState = 1 || s.obj Obj.pairState = 2) then s1.setObj Obj.pairState 3 else s1

/-- LOCK_SOURCE_LOST (R54, R55): the trim is held, LOCK_STATE is HOLD, and attention is raised. -/
def lockLost (ch : Fin 4) (s : State) : State :=
  let p := s.pacer ch
  if ctrlLockSrc p.cfg.ctrl = 0 || p.lock = .hold || p.lock = .free then s
  else ((s.setPacer ch { p with lock := .hold, lockRun := 0, back := false }).attn atState ch (Obj.pacerCtrl ch) 3).unlocked ch p.lock

/-- LOCK_SOURCE_LOST (R54, R55). -/
def execLockSourceLost (ch : Fin 4) (s : State) : Out := clocked s (lockLost ch)

/-- LOCK_SOURCE_RETURN (R55): a lost source that is present again; from the next edge the Pacer acquires toward the target
in force before the loss. While INPUT_STATE is LOST or MISMATCH the trim stays held (R177). -/
def execLockSourceReturn (ch : Fin 4) (s : State) : Out :=
  clocked s fun s =>
    let p := s.pacer ch
    let src := ctrlLockSrc p.cfg.ctrl
    if src = 0 || p.lock ≠ .hold || !s.lockPresent src ch then s
    else s.setPacer ch { p with back := true }

/-! ## The effect of APPLY and following (R58, R62) -/

/-- The length of a tick that starts with a period and an accumulator, and the accumulator then (R53). -/
def tickLength (period acc : Nat) : Nat × Nat :=
  let f := acc + period % 65536
  (period / 65536 + f / 65536, f % 65536)

/-- The effective period of new settings: the nominal one where a period or a lock setting has changed, or
following has ended (log entry 21). -/
def newPeriod (old new : PacerCfg) (followed : Bool) (eff : Nat) : Nat :=
  if !followed && periodField old.period = periodField new.period && ctrlLockSrc old.ctrl = ctrlLockSrc new.ctrl &&
     ctrlRange old.ctrl = ctrlRange new.ctrl
  then eff else periodField new.period

/-- CLASS0_FLOOR of the active programs on a channel's period, as the load check of an APPLY found them (R83, log
entry 85). -/
def State.setFloors (s : State) (floors : List (Fin 4 × Nat)) : State :=
  forEach floors (fun s f => if (s.pacer f.1).program.isSome then s.setObj (Obj.class0Floor f.1) f.2 else s) s

/-- The Pacers that follow a channel. -/
def State.followers (s : State) (ch : Fin 4) : List (Fin 4) :=
  chans.filter (fun m => m ≠ ch && (s.pacer m).following && s.paceOf m = ch)

/-- A Pacer without a lock of its own: a follower's lock settings have no effect (R58), so it reads FREE (log entry 128). -/
def Pacer.unlock (p : Pacer) : Pacer := { p with lock := .free, lockRun := 0, atLimit := false, aim := none, back := false }

/-- A Pacer that starts to follow the Pacer `q` at an edge of it (R58): it takes its tick number and tick length. -/
def Pacer.follow (p q : Pacer) : Pacer :=
  { p.unlock with tick := q.tick, len := q.len, following := true, transition := false }

/-- The lock of a Pacer on settings that take effect with `c` (R55): LOCK_STATE goes on where LOCK_SRC was in effect before,
and otherwise acquires, or holds where the source is absent (log entry 86). -/
def State.lockUnder (s : State) (ch : Fin 4) (p : Pacer) (c : PacerCfg) : Pacer :=
  let src := ctrlLockSrc c.ctrl
  if src = ctrlLockSrc p.cfg.ctrl && !p.following then p
  else { p.unlock with lock := if src = 0 then .free else if s.lockPresent src ch then .acquiring else .hold }

/-- PACER_APPLY_EFFECT (R62, R58, R74): at the edge after its acceptance the staged copy becomes active. Its followers take
a leader's new tick length. A new leader's following starts at once where its edge falls in the same
cycle, and otherwise after a transition tick; what comes to the leader at or before that cycle comes first (R75). -/
def applyEffect (ch : Fin 4) (s : State) : State :=
  let p := s.pacer ch
  match p.pending with
  | none => s
  | some c =>
    let f := followOf ch c
    let q := s.pacer f
    let was := followOf ch p.cfg
    let goesOn := f ≠ ch && f = was && (p.following || p.transition)
    if p.count < p.applyAt || !s.atEdge ch || (f ≠ ch && !goesOn && (q.edge + q.len ≤ p.edge || s.applyDue f)) then s
    else
      let eff := newPeriod p.cfg c (p.following || p.transition) p.effPeriod
      let done (x : State) : State := ((x.ended (Obj.apply ch) 0 2).setFloors p.floors).closeReport ch
      let new (x : Pacer) : Pacer := { x with cfg := c, pending := none, floors := [] }
      let p1 := new (s.lockUnder ch p c)
      if f = ch then
        let (len, acc) := tickLength eff p.accPrev
        let s1 := s.setPacer ch { p1 with following := false, transition := false, effPeriod := eff, len := len, acc := acc }
        done (forEach (s.followers ch) (fun s m => s.setPacer m { s.pacer m with len := len }) s1)
      else if goesOn then done (s.setPacer ch (new p))
      else
        if q.edge = p.edge then done (s.setPacer ch (p1.follow q))
        else done (s.setPacer ch { p1 with transition := true, len := q.edge + q.len - p.edge })

/-- PACER_APPLY_EFFECT (R62). -/
def execPacerApplyEffect (ch : Fin 4) (s : State) : Out := clocked s (fun s => (applyEffect ch s).unlocked ch (s.pacer ch).lock)

/-! ## Windows (R61, R78) -/

/-- The variant of tick `t` of a program frame (R78). -/
def variantAt : List (Nat × Nat) → Nat → Nat
  | [], _ => 0
  | (v, c) :: rest, t => if t < c then v else variantAt rest (t - c)

/-- The program frame's tick at which a channel stands. -/
def State.frameTick (s : State) (ch : Fin 4) (p : Program) : Nat := (s.tick ch - p.start) % p.frameTicks

/-- The variant that runs in the channel's present tick. -/
def State.curVariant (s : State) (ch : Fin 4) (p : Program) : Nat := variantAt p.runs (s.frameTick ch p)

/-- The slots of the channel's present variant; none while the channel is out of service and its program
inactive (R493). -/
def State.curSlots (s : State) (ch : Fin 4) : List Slot :=
  match (if (s.outBy.get ch).isSome then none else (s.pacer ch).program) with
  | none => []
  | some p => (p.variants[s.curVariant ch p]?).getD []

/-- Whether a run has sealed or may not be killed: it is gone from the runs once sealed. The runs of a map
of a channel. -/
def State.runsIn (s : State) (ch : Fin 4) (map : Nat) : List Nat :=
  (s.runs.filter (fun e => e.2.ch = ch.val && e.2.map = map)).map (·.1)

/-- A command stopped at WCET' (R72): its context is faulted with E_WCET_OVERRUN, and it does not restart.
A raster pass that waits for its pool is one more case of it (R243). -/
def State.overrun (s : State) (id : Nat) : State := s.faultRun id eWcetOverrun

/-- The close of a window for the runs in it (R70, R72, R73): class 0 is abandoned; a run that reaches WCET'
at this cycle overruns; any other is killed. -/
def State.closeRun (s : State) (id : Nat) : State :=
  match look s.runs id with
  | none => s
  | some r =>
    if r.cls = 0 then s.abandon id eTickOverrun
    else if r.wcet ≤ r.cyclesRun s then s.overrun id
    else s.kill id

/-- The cycles of an open window until `stop` go to its owner or to backfill (R511); the slack of each unit
is what follows its last seal (log entry 22). -/
def State.countWindow (s : State) (ch : Fin 4) (map : Nat) (w : OpenWindow) : State :=
  s.splitEach ch (mapUnits (s.pacer ch).cfg.unitMap map) w.index (fun x =>
    { x with cycles := x.cycles + (w.stop - w.start),
             slack := match x.lastSeal with
               | some c => min x.slack (w.stop - c)
               | none => x.slack,
             lastSeal := none })

/-- A dispatched slot that never started is abandoned at the close of its window (R73), with
E_UNIT_UNAVAILABLE where its unit is FAILED (R498). -/
def State.missSlot (s : State) (ch : Fin 4) (map window v i u : Nat) : State :=
  let code := if s.unitFailed ch u then eUnitUnavailable else eTickOverrun
  let s1 := s.bump (Obj.overruns ch) 1 32
  let s2 := match (s.pacer ch).program with
    | none => s1
    | some g => { s1 with batons := adjust s1.batons g.baton (fun b =>
        { b with errCode := code, errOrig := g.baton, errDet := v * 256 + map * 64 + window * 8 }) }
  let s3 := s2.emit 10 ch u 0 (((s.pacer ch).program.map Program.ctx).getD 0)
    (i + v * 65536 + map * 2 ^ 20 + window * 2 ^ 22) code
  let p := s3.pacer ch
  (s3.setPacer ch { p with slots := p.slots.set i .abandoned }).attn code ch (Obj.overruns ch)
    (s3.obj (Obj.overruns ch))

/-- Close the open window of a map: its runs, then the slots that were dispatched in it and never
started (R73, R78). `v` and `slots` are the variant whose slots were dispatched and its slots. -/
def closeMap (ch : Fin 4) (map v : Nat) (slots : List Slot) (s : State) : State :=
  match (s.pacer ch).wins.get (toCh map) with
  | none => s
  | some w =>
    let s1 := forEach (s.runsIn ch map) State.closeRun s
    let s2 := s1.countWindow ch map w
    let p := s2.pacer ch
    let late := (p.slots.zipIdx.filter (fun q => q.1 = .waiting &&
      match slots[q.2]? with
      | some sl => sl.window = w.index && unitMapOf p.cfg.unitMap sl.unit = map
      | none => false)).map (·.2)
    let s3 := forEach late (fun s i => s.missSlot ch map w.index v i ((slots[i]?.map Slot.unit).getD 0)) s2
    let p3 := s3.pacer ch
    (s3.setPacer ch { p3 with wins := p3.wins.set (toCh map) none }).settle

/-- The number of the channel's present variant. -/
def State.variantNow (s : State) (ch : Fin 4) : Nat := ((s.pacer ch).program.map (s.curVariant ch)).getD 0

/-- WINDOW_CLOSE (R70, R73). -/
def execWindowClose (ch : Fin 4) (map : Nat) (s : State) : Out :=
  clocked s fun s =>
    if 4 ≤ map then s
    else match (s.pacer ch).wins.get (toCh map) with
    | none => s
    | some w => closeMap ch map (s.variantNow ch) (s.curSlots ch) (s.at ((s.pacer ch).edge + w.stop))

/-- The cycle at which the window a run occupies closes. -/
def State.windowEnd (s : State) (r : Run) : Nat :=
  let p := s.pacer (toCh r.ch)
  p.edge + ((p.wins.get (toCh r.map)).map OpenWindow.stop).getD p.len

/-- WCET_OVERRUN (R72): WCET' cycles after its start a command of classes 1 to 3 that has not sealed is
stopped. Where its window closes before that cycle it is killed there instead (R70). -/
def execWcetOverrun (run : Nat) (s : State) : Out :=
  clocked s fun s =>
    match look s.runs run with
    | none => s
    | some r => if r.cls = 0 || s.windowEnd r < r.start + r.wcet then s else (s.at (r.start + r.wcet)).overrun run

end Sys2Proof.Machine
end

