-- ==== Sys2Proof/Machine/Bearing.lean ====
section
/-! DEFINITION. What the fixed-function engines share (R199 to R201, R216), and the Bearing engine (R202 to
R214): samples, costs, the search, motion records, refinement and occlusion. -/

namespace Sys2Proof.Machine

/-! ## Engine commands -/

/-- `n` bytes an engine command, or a core's texture read, reads under the R right (R200); a held line is waited for (R157). -/
def State.eread (s : State) (r : Run) (v n : Nat) (core : Option Nat := none) : Except Nat (List Byte) :=
  s.loadV (s.runXlat r core) v n

/-- What an engine command has done when its last output is staged: the staged bytes, what its seal adds
to counters, the blocks it adds to the cut accumulator, and the virtual spans it has read and written. -/
structure EngineOut where
  cells  : List Host.Cell
  tally  : List (Nat × Nat)
  cut    : Nat
  reads  : List (Nat × Nat)
  writes : List (Nat × Nat)
  deriving DecidableEq, Repr

/-- Stage every write of a list, a later one over an earlier one. -/
def State.stageAll (s : State) (r : Run) : List (Nat × List Byte) → Except Nat (List Host.Cell)
  | [] => .ok []
  | w :: t =>
    match s.stageV (s.runXlat r) w.1 w.2 with
    | .error e => .error e
    | .ok c => (s.stageAll r t).map (fun d => stage c d)

/-- The spans that a list of writes covers. -/
def spansOf (l : List (Nat × List Byte)) : List (Nat × Nat) := l.map (fun w => (w.1, w.2.length))

/-- Spans of virtual addresses, each an address and a length, that a run writes are looked up (R319). -/
def State.lookSpans (s : State) (r : Run) (l : List (Nat × Nat)) : State :=
  s.lookups r none (l.map (fun p => pieces p.1 p.2)).flatten

/-- A running engine command works to its end (R200, R201): what it reads passes the caches, in the order its outcome lists
(R310, log entry 70), and what it writes is looked up (R319). A held line leaves the command waiting (R157);
an uncorrectable read error or another fault stops it (R308). -/
def engineRow (s : State) (id : Nat) (ok : Run → Bool) (ecc : Ecc) (f : Run → Except Nat EngineOut) : State :=
  match look s.runs id with
  | none => s
  | some r =>
    if r.finished || !ok r then s
    else
      readsMeet s id ecc (fun s1 => match f r with
        | .error e => s1.faultRun id e
        | .ok o => ((s1.touchSpans r none o.reads).lookSpans r o.writes).setRun id
            { r with staged := o.cells, tally := o.tally, cut := o.cut, finished := true })

/-! ## Work lists (R216) -/

/-- A work list descriptor. -/
structure WorkList where
  desc  : Nat
  base  : Nat
  cap   : Nat
  count : Nat
  deriving DecidableEq, Repr

/-- The work list at a descriptor's address; its items have the size `es` names (R216). -/
def State.workList (s : State) (r : Run) (a es : Nat) : Except Nat WorkList :=
  if a % 32 ≠ 0 then .error eList
  else match s.eread r a 32 with
    | .error e => .error e
    | .ok d =>
      if field d 0 8 % 64 ≠ 0 || field d 8 4 = 0 || 65536 < field d 8 4 || field d 0x14 1 ≠ es || !reserved d 0x15 11
      then .error eList
      else .ok { desc := a, base := field d 0 8, cap := field d 8 4, count := field d 0x0C 4 }

/-- What a command reads of a work list: its descriptor, and `n` of its items of `size` bytes. -/
def WorkList.spans (w : WorkList) (size n : Nat) : List (Nat × Nat) := [(w.desc, 32), (w.base, size * n)]

/-- The writes that fill a work list with items in order: the items that fit, COUNT and DROPPED, and how
many did not fit; `extra` items are counted as dropped besides. -/
def listWrites (w : WorkList) (size : Nat) (items : List (List Byte)) (extra : Nat) : List (Nat × List Byte) × Nat :=
  let kept := items.take w.cap
  let drop := (items.length - kept.length) + extra
  (kept.zipIdx.map (fun p => (w.base + size * p.2, p.1)) ++
    [(w.desc + 0x0C, toLE 4 kept.length), (w.desc + 0x10, toLE 4 drop)], drop)

/-! ## The Bearing command body (R214) -/

/-- Geometry of a level: its first stored row, its stored rows and its width (R202). -/
structure Level where
  y0 : Nat
  h  : Nat
  w  : Nat
  deriving DecidableEq, Repr

/-- The geometry of level `l` of a body. -/
def levelOf (b : List Byte) (l : Nat) : Level :=
  let w0 := field b 0x10 2
  let r0 := field b 0x12 2
  let h0 := field b 0x14 2
  let y0 := r0 / 2 ^ l
  { y0 := y0, h := ceilDiv (r0 + h0) (2 ^ l) - y0, w := ceilDiv w0 (2 ^ l) }

/-- Bytes of an entry of a command's output field (R208). -/
def entrySize (mode level : Nat) : Nat := if mode = 0 && 1 ≤ level then 4 else 8

/-- The check of a Bearing body at fetch for a command of class `cls` (R199, R200, R213, R214): 0 or the
code it is refused with. -/
def bearingCheck (b : List Byte) (cls : Nat) : Nat :=
  let mode := field b 0 1
  let lvl := field b 1 1
  let fl := field b 2 1
  let lv := levelOf b lvl
  let rowLo := field b 0x16 2
  let rowHi := field b 0x18 2
  let colLo := field b 0x1A 2
  let colHi := field b 0x1C 2
  let out0 := field b 0x4C 2
  let outN := field b 0x4E 2
  let usesAB := mode ≤ 1
  let usesPar := (mode = 0 && lvl < 3) || mode = 2
  let used (on : Bool) (a : Nat) : Bool := if on then field b a 8 ≠ 0 else field b a 8 = 0
  let ranges := mode ≤ 2 && (if mode = 0 then lvl ≤ 3 else lvl = 0) && fl ≤ 7 && field b 3 1 ≤ 8 &&
    1 ≤ field b 4 1 && field b 4 1 ≤ 32 && 1 ≤ field b 5 1 && field b 5 1 ≤ 16 &&
    1 ≤ field b 6 1 && field b 6 1 ≤ 2 && field b 7 1 ≤ 63 && field b 9 1 = 0 &&
    64 ≤ field b 0x10 2 && field b 0x10 2 ≤ 7680 && field b 0x10 2 % 8 = 0 && field b 0x12 2 ≤ 4312 &&
    8 ≤ field b 0x14 2 && field b 0x14 2 ≤ 4320 && field b 0x12 2 + field b 0x14 2 ≤ 4320 &&
    rowLo < rowHi && colLo < colHi && field b 0x1E 2 ≤ 255 && field b 0x20 8 % 64 = 0 && field b 0x30 8 % 64 = 0 &&
    field b 0x40 8 % 8 = 0 && field b 0x48 4 % 8 = 0 && 1 ≤ outN && outN ≤ 540
  let rules := out0 ≤ rowLo && rowHi ≤ out0 + outN && colHi ≤ ceilDiv lv.w 8 &&
    entrySize mode lvl * ceilDiv lv.w 8 ≤ field b 0x48 4 &&
    (!bit fl 2 || (mode = 0 && lvl = 0)) && (!bit fl 0 || (cls = 0 && mode = 0 && lvl = 0)) &&
    used usesAB 0x20 && used usesAB 0x28 && used usesAB 0x30 && used usesAB 0x38 && used true 0x40 &&
    used usesPar 0x50 && used (bit fl 2) 0x60 &&
    (mode = 1 || (field b 0x68 8 = 0 && field b 0x70 8 = 0 && field b 0x78 8 = 0))
  let n := (rowHi - rowLo) * (colHi - colLo)
  let most := (if mode = 2 then 2 * n else entrySize mode lvl * n) + (if bit fl 2 then 16 * n else 0)
  if !ranges || !rules then eBearing else if 524288 < most then eCommitFull else 0

/-! ## Samples and costs (R202 to R204) -/

/-- A coordinate held to [lo, lo + n). -/
def edgeClamp (lo n : Nat) (v : Int) : Nat := (clamp lo ((lo + n : Nat) - 1) v).toNat

/-- Stored row `i` of level `l` of frame A (`fb` false) or B (R202): its address and length. -/
def planeRow (b : List Byte) (fb : Bool) (l i : Nat) : Nat × Nat :=
  let g := levelOf b l
  if l = 0 then (field b (if fb then 0x30 else 0x20) 8 + 2 * g.w * i, 2 * g.w)
  else
    let off := ((upto l).filter (fun k => 1 ≤ k)).foldl (fun a k => a + (levelOf b k).w * (levelOf b k).h) 0
    (field b (if fb then 0x38 else 0x28) 8 + off + g.w * i, g.w)

/-- Rows of both frames at level `l`. -/
def planeRows (b : List Byte) (l : Nat) : List (Nat × Nat) :=
  let n := (levelOf b l).h
  (upto n).map (planeRow b false l) ++ (upto n).map (planeRow b true l)

/-- Sample (y, x) of level `l` of frame A (`fb` false) or B, with edges replicated (R202). -/
def State.sample (s : State) (r : Run) (b : List Byte) (fb : Bool) (l : Nat) (y x : Int) : Except Nat Nat :=
  let g := levelOf b l
  let yy := edgeClamp g.y0 g.h y
  let xx := edgeClamp 0 g.w x
  if l = 0 then
    (s.eread r ((planeRow b fb l (yy - g.y0)).1 + 2 * xx) 2).map (fun v => min 255 (rne (leNat v) (field b 3 1)).toNat)
  else (s.eread r ((planeRow b fb l (yy - g.y0)).1 + xx) 1).map leNat

/-- The sample of frame B at a position in quarter pixels of level `l` (R206); whole positions need no
interpolation. -/
def State.sampleQ (s : State) (r : Run) (b : List Byte) (l : Nat) (qy qx : Int) : Except Nat Nat := do
  let y := qy / 4
  let x := qx / 4
  let fy := qy % 4
  let fx := qx % 4
  if fy = 0 ∧ fx = 0 then s.sample r b true l y x
  else
    let p00 ← s.sample r b true l y x
    let p10 ← s.sample r b true l y (x + 1)
    let p01 ← s.sample r b true l (y + 1) x
    let p11 ← s.sample r b true l (y + 1) (x + 1)
    return (rne ((4 - fx) * (4 - fy) * p00 + fx * (4 - fy) * p10 + (4 - fx) * fy * p01 + fx * fy * p11) 4).toNat

/-- The eight neighbours of a pixel in raster order (R204). -/
def neighbours : List (Int × Int) := [(-1, -1), (-1, 0), (-1, 1), (0, -1), (0, 1), (1, -1), (1, 0), (1, 1)]

/-- The census signature of a pixel through a sample function: per neighbour, whether it is less (R204). -/
def census (f : Int → Int → Except Nat Nat) (y x : Int) : Except Nat (List Bool) := do
  let c ← f y x
  neighbours.mapM (fun d => do
    let v ← f (y + d.1) (x + d.2)
    return decide (v < c))

/-- CENSUS_W × H + S of a block for the vector (vx, vy) in quarter pixels (R204). -/
def State.matchCost (s : State) (r : Run) (b : List Byte) (l br bc : Nat) (vx vy : Int) : Except Nat Nat := do
  let fa (y x : Int) : Except Nat Nat := s.sample r b false l y x
  let ft (y x : Int) : Except Nat Nat := s.sampleQ r b l (4 * y + vy) (4 * x + vx)
  let parts ← (upto 64).mapM (fun i => do
    let y : Int := (8 * br + i / 8 : Nat)
    let x : Int := (8 * bc + i % 8 : Nat)
    let a ← fa y x
    let t ← ft y x
    let ca ← census fa y x
    let ct ← census ft y x
    return ((a : Int) - t).natAbs + field b 7 1 * ((ca.zip ct).filter (fun p => p.1 != p.2)).length)
  return parts.sum

/-- Whether block (r, c), displaced by whole pixels, lies in a level's stored rows and columns (R203). -/
def blockIn (g : Level) (br bc : Nat) (vx vy : Int) : Bool :=
  let y : Int := (8 * br : Nat) + vy
  let x : Int := (8 * bc : Nat) + vx
  decide ((g.y0 : Int) ≤ y) && decide (y + 8 ≤ (g.y0 + g.h : Nat)) && decide (0 ≤ x) && decide (x + 8 ≤ (g.w : Nat))

/-! ## Search (R205, R206) -/

/-- The predictors of a block (R205). -/
def State.predictors (s : State) (r : Run) (b : List Byte) (l br bc : Nat) : Except Nat (List (Int × Int)) :=
  if l = 3 then .ok [(0, 0)]
  else do
    let g := levelOf b (l + 1)
    let row0 := field b 0x5C 2
    let rows := field b 0x5E 2
    let pr := br / 2
    let pc := bc / 2
    let qs : List (Int × Int) := [(pr, pc), (pr, (pc : Int) - 1), (pr, pc + 1), ((pr : Int) - 1, pc), (pr + 1, pc)]
    let ok := qs.filter (fun q => decide (0 ≤ q.1) && decide (0 ≤ q.2) && blockIn g q.1.toNat q.2.toNat 0 0 &&
      row0 ≤ q.1.toNat && q.1.toNat < row0 + rows)
    let vs ← ok.mapM (fun q => do
      let e ← s.eread r (field b 0x50 8 + (q.1.toNat - row0) * field b 0x58 4 + 4 * q.2.toNat) 4
      return (2 * signed 16 (field e 0 2), 2 * signed 16 (field e 2 2)))
    return (0, 0) :: vs

/-- A range of integers from −n to n. -/
def span2 (n : Nat) : List Int := (upto (2 * n + 1)).map (fun (i : Nat) => (i : Int) - (n : Int))

/-- The source rows of the members of a channel's owner set that are out of service without cover (R41): first and end. -/
def State.missingRows (s : State) (ch : Fin 4) : List (Nat × Nat) :=
  match (s.pacer ch).program.bind Program.pipe with
  | none => []
  | some d =>
    let os := s.ownerSet ch
    (os.zipIdx.filter (fun p => s.outBy.get p.1 = some 3)).map (fun p =>
      let h := field d.bytes 0x0A 2
      (p.2 * h / os.length, (p.2 + 1) * h / os.length))

/-- Vector `vy` takes block row `br` of level `l` into a missing stripe (R41): the class 0 commands of the pipeline drop such
candidates, but for the vector 0. -/
def intoMissing (miss : List (Nat × Nat)) (l br : Nat) (v : Int × Int) : Bool :=
  let y : Int := ((8 * br : Nat) + v.2) * 2 ^ l
  v ≠ (0, 0) && miss.any (fun p => decide (y < (p.2 : Int)) && decide ((p.1 : Int) < y + 8 * 2 ^ l))

/-- The missing stripes a running command heeds. -/
def State.missingFor (s : State) (r : Run) : List (Nat × Nat) := if r.cmd.cls = 0 then s.missingRows (toCh r.ch) else []

/-- The candidate vectors of a block with the least penalty each (R204, R205, R41). -/
def candidates (miss : List (Nat × Nat)) (b : List Byte) (l br bc : Nat) (preds : List (Int × Int)) : List ((Int × Int) × Nat) :=
  let dx := if l = 3 then field b 4 1 else field b 6 1
  let dy := if l = 3 then field b 5 1 else field b 6 1
  let g := levelOf b l
  let mx := field b 4 1 * 2 ^ (3 - l)
  let my := field b 5 1 * 2 ^ (3 - l)
  let all := (preds.map (fun p => ((span2 dy).map (fun y => (span2 dx).map (fun x =>
    ((p.1 + x, p.2 + y), field b 8 1 * (x.natAbs + y.natAbs))))).flatten)).flatten
  let ok := all.filter (fun c => c.1.1.natAbs ≤ mx && c.1.2.natAbs ≤ my && blockIn g br bc c.1.1 c.1.2 && !intoMissing miss l br c.1)
  ok.foldl (fun acc c =>
    if acc.any (fun d => d.1 = c.1) then acc.map (fun d => if d.1 = c.1 then (d.1, min d.2 c.2) else d)
    else acc ++ [c]) []

/-- Whether (cost, vector) `a` is chosen before `b` (R206). -/
def better (a b : Nat × (Int × Int)) : Bool :=
  let na := a.2.1.natAbs + a.2.2.natAbs
  let nb := b.2.1.natAbs + b.2.2.natAbs
  a.1 < b.1 || (a.1 = b.1 && (na < nb || (na = nb && (decide (a.2.2 < b.2.2) ||
    (decide (a.2.2 = b.2.2) && decide (a.2.1 < b.2.1))))))

/-- The choice of R206 among evaluated vectors. -/
def best (l : List (Nat × (Int × Int))) : Nat × (Int × Int) :=
  match l with
  | [] => (0, (0, 0))
  | h :: t => t.foldl (fun a c => if better c a then c else a) h

/-- The quarter-pel stage around an integer best (R206): the vector in quarter pixels. The integer best
itself takes part at PEN = 0 (DEDUCED, log entry 23). -/
def State.quarter (s : State) (r : Run) (b : List Byte) (br bc : Nat) (v : Int × Int) : Except Nat (Int × Int) := do
  let offs := ((span2 3).map (fun y => (span2 3).map (fun x => (4 * v.1 + x, 4 * v.2 + y)))).flatten
  let l ← offs.mapM (fun q => do
    let c ← s.matchCost r b 0 br bc q.1 q.2
    return (c, q))
  return (best l).2

/-- The blocks of a command's range in ascending (row, column) order. -/
def rangeBlocks (b : List Byte) : List (Nat × Nat) :=
  let rows := (upto (field b 0x18 2)).filter (fun i => field b 0x16 2 ≤ i)
  let cols := (upto (field b 0x1C 2)).filter (fun i => field b 0x1A 2 ≤ i)
  (rows.map (fun i => cols.map (fun j => (i, j)))).flatten

/-- The address of a block's entry of the output field (R208). -/
def outAddr (b : List Byte) (size br bc : Nat) : Nat :=
  field b 0x40 8 + (br - field b 0x4C 2) * field b 0x48 4 + size * bc

/-- A request item (R210) for a block of frame A. -/
def State.requestItem (s : State) (r : Run) (b : List Byte) (br bc : Nat) : Except Nat (List Byte) := do
  let px ← (upto 64).mapM (fun i => s.sample r b false 0 (8 * br + i / 8 : Nat) (8 * bc + i % 8 : Nat))
  let val (i : Nat) : Int := (px[i]?.getD 0 : Nat)
  let sum (f : Nat → Int) : Int := (upto 64).foldl (fun a i => a + f i * val i) 0
  let mean := rne (sum (fun _ => 1)) 6
  let gx := rne (sum (fun i => if 4 ≤ i % 8 then 1 else -1)) 5
  let gy := rne (sum (fun i => if 4 ≤ i / 8 then 1 else -1)) 5
  return toLE 2 bc ++ toLE 2 br ++ toLE 2 (unsigned 16 mean) ++ toLE 2 (unsigned 16 gx) ++
    toLE 2 (unsigned 16 gy) ++ toLE 2 (field b 0x1E 2) ++ toLE 4 0

/-- What SEARCH finds for one block: the entry's bytes, a request item, the evaluations and the
confidence. -/
structure BlockFound where
  at'   : Nat
  bytes : List Byte
  item  : Option (List Byte)
  evals : Nat
  conf  : Nat
  row   : Nat
  deriving DecidableEq, Repr

/-- SEARCH of one block (R205 to R210). -/
def State.searchBlock (s : State) (r : Run) (b : List Byte) (br bc : Nat) : Except Nat BlockFound := do
  let l := field b 1 1
  let preds ← s.predictors r b l br bc
  let cs := candidates (s.missingFor r) b l br bc preds
  let ev ← cs.mapM (fun c => do
    let m ← s.matchCost r b l br bc (4 * c.1.1) (4 * c.1.2)
    return (m + c.2, c.1))
  let (c1, v) := best ev
  if 1 ≤ l then
    return { at' := outAddr b 4 br bc, bytes := toLE 2 (unsigned 16 v.1) ++ toLE 2 (unsigned 16 v.2), item := none,
             evals := cs.length, conf := 0, row := br }
  else
    let far := ev.filter (fun e => 2 ≤ max (e.2.1 - v.1).natAbs (e.2.2 - v.2).natAbs)
    let c2 := match far with
      | [] => c1
      | h :: t => t.foldl (fun a e => min a e.1) h.1
    let k := field b 0x0A 2
    let conf := if c2 + k = 0 then 0 else 255 * (c2 - c1) / (c2 + k)
    let beyond := field b 0x0E 2 < c1 || 8 * field b 4 1 - 8 < v.1.natAbs || 8 * field b 5 1 - 8 < v.2.natAbs
    let qpel := bit (field b 2 1) 1
    let q ← if qpel then s.quarter r b br bc v else pure (4 * v.1, 4 * v.2)
    let item ← if beyond && bit (field b 2 1) 2 then (s.requestItem r b br bc).map some else pure none
    return { at' := outAddr b 8 br bc,
             bytes := toLE 2 (unsigned 16 q.1) ++ toLE 2 (unsigned 16 q.2) ++ toLE 1 conf ++ toLE 1 0 ++
               toLE 1 (if beyond then 1 else 0) ++ toLE 1 (min 255 (c1 / 256)),
             item := item, evals := cs.length + (if qpel then 48 else 0), conf := conf, row := br }

/-! ## The cut accumulator (R180, R186, R213) -/

/-- Source rows a channel owns under a pipeline descriptor (R170): first and end. -/
def State.ownedRows (s : State) (ch : Fin 4) (d : PipeDesc) : Nat × Nat :=
  let os := s.ownerSet ch
  let g := os.length
  let k := (os.findIdx? (· = ch)).getD 0
  let h := field d.bytes 0x0A 2
  (k * h / g, (k + 1) * h / g)

/-- The blocks among `l` (block row, confidence) that count toward a cut (R213): in block rows the member
owns, with a confidence below CUT_CONF of the active descriptor. -/
def State.cutBlocks (s : State) (r : Run) (l : List (Nat × Nat)) : Nat :=
  match (s.pacer (toCh r.ch)).program.bind Program.pipe with
  | none => 0
  | some d =>
    let (lo, hi) := s.ownedRows (toCh r.ch) d
    (l.filter (fun p => lo ≤ 8 * p.1 && 8 * p.1 < hi && p.2 < field d.bytes 0x32 1)).length

/-! ## The commands -/

/-- The class and mode of a running Bearing command. -/
def bearingMode (m : Nat) (r : Run) : Bool := r.eng = .bearing && r.cmd.op = 2 && field r.cmd.body 0 1 = m

/-- Rows of the field at 0x50 of a body: `n` rows of entries of `size` bytes, `pitch` apart. -/
def fieldRows (b : List Byte) (pitch n size : Nat) (w : Nat) : List (Nat × Nat) :=
  (upto n).map (fun i => (field b 0x50 8 + i * pitch, size * ceilDiv w 8))

/-- The outcome of SEARCH (R205 to R210, R213, R216). -/
def State.search (s : State) (r : Run) : Except Nat EngineOut := do
  let b := r.cmd.body
  let lst ← if bit (field b 2 1) 2 then (s.workList r (field b 0x60 8) 0).map some else pure none
  let g := levelOf b (field b 1 1)
  let found ← ((rangeBlocks b).filter (fun q => blockIn g q.1 q.2 0 0)).mapM (fun q => s.searchBlock r b q.1 q.2)
  let items := found.filterMap BlockFound.item
  let (lw, drop) := match lst with
    | none => ([], 0)
    | some w => listWrites w 16 items 0
  let cells ← s.stageAll r (found.map (fun f => (f.at', f.bytes)) ++ lw)
  return { cells := cells,
           tally := [(Obj.bearingEvals r.ch, (found.map BlockFound.evals).sum),
                     (Obj.bearingRequests r.ch, items.length - drop), (Obj.listDrops r.ch, drop)],
           cut := if bit (field b 2 1) 0 then s.cutBlocks r (found.map (fun f => (f.row, f.conf))) else 0,
           reads := (match lst with | some w => w.spans 16 0 | none => []) ++ planeRows b (field b 1 1) ++
             (if field b 1 1 < 3 then fieldRows b (field b 0x58 4) (field b 0x5E 2) 4 (levelOf b (field b 1 1 + 1)).w else []),
           writes := spansOf (found.map (fun f => (f.at', f.bytes)) ++ lw) }

/-- BEARING_SEARCH (R205). -/
def execBearingSearch (run : Nat) (ecc : Ecc) (s : State) : Out :=
  clocked s fun s => engineRow s run (bearingMode 0) ecc s.search

/-- The candidates a REFINE's lists name: block column, block row and vector, list by list in item order
(R211). -/
def State.candItems (s : State) (r : Run) : List Nat → Except Nat (List (Nat × Nat × (Int × Int)))
  | [] => .ok []
  | a :: t => do
    let rest ← s.candItems r t
    if a = 0 then return rest
    else
      let w ← s.workList r a 1
      let mine ← (upto w.count).mapM (fun i => do
        let d ← s.eread r (w.base + 32 * i) 32
        return (upto (min 4 (field d 4 1))).map (fun j =>
          (field d 0 2, field d 2 2, (signed 16 (field d (8 + 4 * j) 2), signed 16 (field d (10 + 4 * j) 2)))))
      return mine.flatten ++ rest

/-- What REFINE reads of the lists it names. -/
def State.candSpans (s : State) (r : Run) (l : List Nat) : List (Nat × Nat) :=
  ((l.filter (· ≠ 0)).map (fun a => match s.workList r a 1 with
    | .ok w => w.spans 32 w.count
    | .error _ => [])).flatten

/-- REFINE of one block (R211): the record to write, the candidates skipped and the evaluations. -/
def State.refineBlock (s : State) (r : Run) (b : List Byte) (cands : List (Nat × Nat × (Int × Int))) (br bc : Nat) :
    Except Nat ((Nat × List Byte) × Nat × Nat) := do
  let a := outAddr b 8 br bc
  let rec' ← s.eread r a 8
  let cur : Int × Int := ((signed 16 (field rec' 0 2)).tdiv 4, (signed 16 (field rec' 2 2)).tdiv 4)
  let g := levelOf b 0
  let named := (cands.filter (fun c => c.1 = bc && c.2.1 = br)).map (fun c => c.2.2)
  let ok := named.filter (fun v => blockIn g br bc v.1 v.2 && !intoMissing (s.missingFor r) 0 br v)
  let cc ← s.matchCost r b 0 br bc (4 * cur.1) (4 * cur.2)
  let ev ← ok.mapM (fun v => do
    let c ← s.matchCost r b 0 br bc (4 * v.1) (4 * v.2)
    return (c, v))
  let win := ev.foldl (fun (w : Option (Nat × (Int × Int))) e =>
    if e.1 < (w.map (·.1)).getD cc then some e else w) none
  let skips := named.length - ok.length
  match win with
  | none => return ((a, rec'), skips, 1 + ok.length)
  | some (c, v) =>
    let qpel := bit (field b 2 1) 1
    let q ← if qpel then s.quarter r b br bc v else pure (4 * v.1, 4 * v.2)
    let conf := 255 * (cc - c) / (cc + field b 0x0A 2)
    let fl := setBits (setBits (field rec' 6 1) 0 0 0) 1 1 1
    return ((a, toLE 2 (unsigned 16 q.1) ++ toLE 2 (unsigned 16 q.2) ++ toLE 1 conf ++ slice rec' 5 1 ++ toLE 1 fl ++
      toLE 1 (min 255 (c / 256))), skips, 1 + ok.length + (if qpel then 48 else 0))

/-- The outcome of REFINE (R211). -/
def State.refine (s : State) (r : Run) : Except Nat EngineOut := do
  let b := r.cmd.body
  let cands ← s.candItems r [field b 0x68 8, field b 0x70 8, field b 0x78 8]
  let g := levelOf b 0
  let res ← ((rangeBlocks b).filter (fun q => blockIn g q.1 q.2 0 0)).mapM (fun q => s.refineBlock r b cands q.1 q.2)
  let cells ← s.stageAll r (res.map (·.1))
  return { cells := cells,
           tally := [(Obj.bearingEvals r.ch, (res.map (fun p => p.2.2)).sum),
                     (Obj.bearingCandSkips r.ch, (res.map (fun p => p.2.1)).sum)], cut := 0,
           reads := s.candSpans r [field b 0x68 8, field b 0x70 8, field b 0x78 8] ++ spansOf (res.map (·.1)) ++ planeRows b 0,
           writes := spansOf (res.map (·.1)) }

/-- BEARING_REFINE (R211). -/
def execBearingRefine (run : Nat) (ecc : Ecc) (s : State) : Out :=
  clocked s fun s => engineRow s run (bearingMode 1) ecc s.refine

/-- OCCLUDE of one block (R212): its OCC and FLAGS bytes. -/
def State.occludeBlock (s : State) (r : Run) (b : List Byte) (br bc : Nat) : Except Nat (Nat × List Byte) := do
  let a := outAddr b 8 br bc
  let rec' ← s.eread r a 8
  let mx := signed 16 (field rec' 0 2)
  let my := signed 16 (field rec' 2 2)
  let c' := (((8 * bc + 4) * 4 : Nat) + mx) / 32
  let r' := (((8 * br + 4) * 4 : Nat) + my) / 32
  let row0 := field b 0x4C 2
  let g := levelOf b 0
  if c' < 0 ∨ (ceilDiv g.w 8 : Nat) ≤ c' ∨ (ceilDiv (g.y0 + g.h) 8 : Nat) ≤ r' ∨ r' < row0 ∨ (row0 + field b 0x4E 2 : Nat) ≤ r' then
    return (a + 5, [255, BitVec.ofNat 8 (setBits (field rec' 6 1) 3 3 1)])
  else
    let p ← s.eread r (field b 0x50 8 + (r'.toNat - row0) * field b 0x48 4 + 8 * c'.toNat) 4
    let d := (mx + signed 16 (field p 0 2)).natAbs + (my + signed 16 (field p 2 2)).natAbs
    return (a + 5, [BitVec.ofNat 8 (min 255 (d * field b 0x0C 2 / 256)), BitVec.ofNat 8 (setBits (field rec' 6 1) 3 3 1)])

/-- The outcome of OCCLUDE (R212). -/
def State.occlude (s : State) (r : Run) : Except Nat EngineOut := do
  let ws ← (rangeBlocks r.cmd.body).mapM (fun q => s.occludeBlock r r.cmd.body q.1 q.2)
  let cells ← s.stageAll r ws
  let b := r.cmd.body
  return { cells := cells, tally := [], cut := 0,
           reads := (rangeBlocks b).map (fun q => (outAddr b 8 q.1 q.2, 8)) ++ fieldRows b (field b 0x48 4) (field b 0x4E 2) 8 (levelOf b 0).w,
           writes := spansOf ws }

/-- BEARING_OCCLUDE (R212). -/
def execBearingOcclude (run : Nat) (ecc : Ecc) (s : State) : Out :=
  clocked s fun s => engineRow s run (bearingMode 2) ecc s.occlude

end Sys2Proof.Machine
end

