-- ==== Sys2Proof/Machine/Sha3.lean ====
section
/-! DEFINITION. SHA3-256 (FIPS 202), which the digests of R78, R447, R474 and later chapters name, and the SHAKE functions that
ML-DSA uses (R481). The 25 lanes of the state stand in a list, lane (x, y) at 5 y + x. -/

namespace Sys2Proof.Machine

/-- A lane of the Keccak state. -/
abbrev Lane64 := BitVec 64

/-- Lane (x, y), coordinates modulo 5. -/
def lane (a : List Lane64) (x y : Nat) : Lane64 := a[5 * (y % 5) + x % 5]?.getD 0

/-- A state built lane by lane. -/
def lanes (f : Nat → Nat → Lane64) : List Lane64 := (upto 25).map (fun i => f (i % 5) (i / 5))

/-- Rotation offsets of the step rho, by lane. -/
def rhoOffsets : List Nat :=
  [0, 1, 62, 28, 27, 36, 44, 6, 55, 20, 3, 10, 43, 25, 39, 41, 45, 15, 21, 8, 18, 2, 61, 56, 14]

/-- Round constants of the step iota. -/
def iotaConstants : List Lane64 :=
  [0x0000000000000001, 0x0000000000008082, 0x800000000000808A, 0x8000000080008000,
   0x000000000000808B, 0x0000000080000001, 0x8000000080008081, 0x8000000000008009,
   0x000000000000008A, 0x0000000000000088, 0x0000000080008009, 0x000000008000000A] ++
  [0x000000008000808B, 0x800000000000008B, 0x8000000000008089, 0x8000000000008003,
   0x8000000000008002, 0x8000000000000080, 0x000000000000800A, 0x800000008000000A,
   0x8000000080008081, 0x8000000000008080, 0x0000000080000001, 0x8000000080008008]

/-- One round of Keccak-f[1600]. -/
def keccakRound (a : List Lane64) (rc : Lane64) : List Lane64 :=
  let c (x : Nat) : Lane64 := (upto 5).foldl (fun v y => v ^^^ lane a x y) 0
  let t := lanes (fun x y => lane a x y ^^^ c (x + 4) ^^^ (c (x + 1)).rotateLeft 1)
  let r := t.zipWith (fun v n => v.rotateLeft n) rhoOffsets
  let p := lanes (fun x y => lane r (x + 3 * y) x)
  let q := lanes (fun x y => lane p x y ^^^ (~~~ lane p (x + 1) y &&& lane p (x + 2) y))
  match q with
  | [] => []
  | h :: tl => (h ^^^ rc) :: tl

/-- Keccak-f[1600]. -/
def keccakF (a : List Lane64) : List Lane64 := iotaConstants.foldl keccakRound a

/-- Absorb one block of `r` bytes. -/
def absorb (r : Nat) (a : List Lane64) (bs : List Byte) : List Lane64 :=
  keccakF (a.zipIdx.map (fun p => if p.2 < r / 8 then p.1 ^^^ BitVec.ofNat 64 (field bs (8 * p.2) 8) else p.1))

/-- Absorb padded blocks; the fuel is the number of blocks. -/
def absorbAll (r : Nat) : Nat → List Lane64 → List Byte → List Lane64
  | 0, a, _ => a
  | n + 1, a, bs => absorbAll r n (absorb r a (bs.take r)) (bs.drop r)

/-- The message with its padding to blocks of `r` bytes: the suffix `d`, zeros and a last bit. -/
def spongePad (r : Nat) (d : Byte) (m : List Byte) : List Byte :=
  let k := r - m.length % r
  if k = 1 then m ++ [d + 0x80] else m ++ [d] ++ List.replicate (k - 2) 0 ++ [0x80]

/-- The state after a message has been absorbed. -/
def sponge (r : Nat) (d : Byte) (m : List Byte) : List Lane64 :=
  let p := spongePad r d m
  absorbAll r (p.length / r) (List.replicate 25 0) p

/-- The bytes of the first `n` lanes of a state. -/
def laneBytes (n : Nat) (a : List Lane64) : List Byte := ((a.take n).map (fun v => toLE 8 v.toNat)).flatten

/-- SHA3-256 of a message. -/
def sha3 (m : List Byte) : List Byte := laneBytes 4 (sponge 136 0x06 m)

/-- Blocks of `r` bytes squeezed from a state. -/
def squeeze (r : Nat) : Nat → List Lane64 → List Byte
  | 0, _ => []
  | n + 1, a => laneBytes (r / 8) a ++ squeeze r n (keccakF a)

/-- `n` bytes of SHAKE128 of a message. -/
def shake128 (n : Nat) (m : List Byte) : List Byte := (squeeze 168 (n / 168 + 1) (sponge 168 0x1F m)).take n

/-- `n` bytes of SHAKE256 of a message. -/
def shake256 (n : Nat) (m : List Byte) : List Byte := (squeeze 136 (n / 136 + 1) (sponge 136 0x1F m)).take n

end Sys2Proof.Machine
end

