-- ==== Sys2Proof/Machine/MlDsa.lean ====
section
/-! DEFINITION. ML-DSA-44 (FIPS 204), by which images, certificates, policies and quotes are signed and the device identity is
derived (R481, R486, R487). The algorithms are the standard's (log entry 148). A polynomial is its list of 256 coefficients,
each below the modulus. -/

namespace Sys2Proof.Machine.MlDsa

/-- The modulus q, and the figures of ML-DSA-44: gamma1, gamma2, beta, tau, omega and the rows and columns of A. -/
def q : Nat := 8380417
def gamma1 : Nat := 131072
def gamma2 : Nat := 95232
def beta : Nat := 78
def tau : Nat := 39
def omega : Nat := 80
def dim : Nat := 4

/-- Coefficients of a polynomial. -/
abbrev Poly := List Nat

/-- Entry by entry: sum, difference and product. -/
def add (a b : Poly) : Poly := a.zipWith (fun x y => (x + y) % q) b
def sub (a b : Poly) : Poly := a.zipWith (fun x y => (x + q - y) % q) b
def mul (a b : Poly) : Poly := a.zipWith (fun x y => x * y % q) b

/-- The distance of a coefficient from 0 modulo q. -/
def size (x : Nat) : Nat := min x (q - x)

/-- Every coefficient of every polynomial is nearer to 0 than `n`. -/
def below (n : Nat) (v : List Poly) : Bool := v.all (fun p => p.all (fun x => size x < n))

/-! ## The transform -/

/-- The powers of zeta = 1753, a 512th root of 1. -/
def zetas : List Nat := (upto 512).map (fun k => 1753 ^ k % q)
def zeta (k : Nat) : Nat := zetas[k % 512]?.getD 0

/-- The eight bits of a number in reverse order. -/
def bitRev (n : Nat) : Nat := ((upto 8).map (fun i => n / 2 ^ i % 2 * 2 ^ (7 - i))).sum

/-- The number theoretic transform: the values at the odd powers of zeta, in bit-reversed order. -/
def ntt (w : Poly) : Poly := (upto 256).map (fun i => w.foldr (fun c v => (c + zeta (2 * bitRev i + 1) * v) % q) 0)

/-- Its inverse; 8,347,681 is the inverse of 256. -/
def invNtt (w : Poly) : Poly :=
  (upto 256).map (fun j => 8347681 * ((w.zipIdx.map (fun p => p.1 * zeta ((2 * bitRev p.2 + 1) * (512 - j)))).sum % q) % q)

/-- A row of transformed polynomials times a vector of them. -/
def dot (a v : List Poly) : Poly := (a.zipWith mul v).foldl add (List.replicate 256 0)

/-- The product of a matrix and a vector, the vector and the result untransformed. -/
def apply (a : List (List Poly)) (v : List Poly) : List Poly := let n := v.map ntt; a.map (fun r => invNtt (dot r n))

/-- A polynomial times each of a vector. -/
def scale (c : Poly) (v : List Poly) : List Poly := let n := ntt c; v.map (fun p => invNtt (mul n (ntt p)))

/-! ## Packing -/

/-- The 256 numbers of `w` bits that bytes hold. -/
def unpack (w : Nat) (b : List Byte) : List Nat := let n := leNat b; (upto 256).map (fun k => n / 2 ^ (w * k) % 2 ^ w)

/-- Numbers of `w` bits in bytes. -/
def pack (w : Nat) (l : List Nat) : List Byte := toLE (32 * w) ((l.zipIdx.map (fun p => p.1 % 2 ^ w * 2 ^ (w * p.2))).sum)

/-- Coefficients packed as a difference from gamma1, in 18 bits. -/
def unpackZ (b : List Byte) : Poly := (unpack 18 b).map (fun v => (gamma1 + q - v) % q)
def packZ (p : Poly) : List Byte := pack 18 (p.map (fun x => (gamma1 + q - x) % q))

/-- The `i`-th of equal parts of `n` bytes from `off`. -/
def part (b : List Byte) (off n i : Nat) : List Byte := slice b (off + n * i) n

/-! ## Sampling -/

/-- The first 256 numbers below q among three-byte candidates. -/
def rejectNtt (b : List Byte) : Poly :=
  (((upto (b.length / 3)).map (fun i => field b (3 * i) 3 % 2 ^ 23)).filter (· < q)).take 256

/-- The matrix A, transformed. Six blocks hold enough candidates but for a chance without weight. -/
def expandA (rho : List Byte) : List (List Poly) :=
  (upto dim).map (fun r => (upto dim).map (fun s => rejectNtt (shake128 1008 (rho ++ toLE 1 s ++ toLE 1 r))))

/-- The first 256 coefficients from -2 to 2 among half bytes. -/
def rejectSmall (b : List Byte) : Poly :=
  ((((b.map (fun x => [x.toNat % 16, x.toNat / 16])).flatten).filter (· < 15)).take 256).map (fun v => (q + 2 - v % 5) % q)

/-- The `i`-th polynomial of the secret vectors. -/
def expandS (rho : List Byte) (i : Nat) : Poly := rejectSmall (shake256 544 (rho ++ toLE 2 i))

/-- The places of the signs of a challenge: a byte beyond place `i` is passed over. -/
def ballFrom (signs : Nat) : List Byte → Nat → Poly → Poly
  | [], _, p => p
  | b :: t, i, p =>
    if 256 ≤ i then p
    else if i < b.toNat then ballFrom signs t i p
    else
      let sign := if bit signs (i + tau - 256) then q - 1 else 1
      ballFrom signs t (i + 1) ((p.set i (p[b.toNat]?.getD 0)).set b.toNat sign)

/-- The challenge polynomial of a seed: tau coefficients are 1 or -1. -/
def inBall (seed : List Byte) : Poly :=
  let s := shake256 272 seed
  ballFrom (field s 0 8) (s.drop 8) (256 - tau) (List.replicate 256 0)

/-! ## Rounding and hints -/

/-- High part, and whether the low part is positive, of a coefficient (Decompose). -/
def decompose (r : Nat) : Nat × Int :=
  let m := r % (2 * gamma2)
  let r0 : Int := if gamma2 < m then (m : Int) - (2 * gamma2 : Nat) else m
  if (r : Int) - r0 = (q - 1 : Nat) then (0, r0 - 1) else ((((r : Int) - r0) / (2 * gamma2 : Nat)).toNat, r0)

/-- The high part corrected by a hint. -/
def useHint (h : Bool) (r : Nat) : Nat :=
  let (r1, r0) := decompose r
  if !h then r1 else if 0 < r0 then (r1 + 1) % 44 else (r1 + 43) % 44

/-- High parts of a vector, packed. -/
def packHigh (v : List (List Nat)) : List Byte := (v.map (pack 6)).flatten

/-- The hints of a signature: for each polynomial the places, strictly rising; none where they are malformed. -/
def hints (y : List Byte) : Option (List (List Nat)) :=
  let ends := (y.drop omega).map (fun x => x.toNat)
  let first (i : Nat) : Nat := if i = 0 then 0 else ends[i - 1]?.getD 0
  let last (i : Nat) : Nat := ends[i]?.getD 0
  let places (i : Nat) : List Nat := ((y.drop (first i)).take (last i - first i)).map (fun x => x.toNat)
  let rises (l : List Nat) : Bool := (l.zip (l.drop 1)).all (fun p => p.1 < p.2)
  if (upto dim).all (fun i => first i ≤ last i && last i ≤ omega && rises (places i)) &&
     (((y.take omega).drop (last (dim - 1))).all (· = 0))
  then some ((upto dim).map places) else none

/-! ## The algorithms -/

/-- The message that is signed: a message under its context string, without prehash. -/
def framed (context message : List Byte) : List Byte := toLE 1 0 ++ toLE 1 context.length ++ context ++ message

/-- Whether a signature over a message under a context string verifies with a public key. -/
def verify (context key message signature : List Byte) : Bool :=
  let rho := key.take 32
  let t1 := (upto dim).map (fun i => (unpack 10 (part key 32 320 i)).map (fun v => v * 2 ^ 13 % q))
  let seed := signature.take 32
  let z := (upto dim).map (fun i => unpackZ (part signature 32 576 i))
  match hints (signature.drop 2336) with
  | none => false
  | some h =>
    let mu := shake256 64 (shake256 64 key ++ framed context message)
    let w := (apply (expandA rho) z).zipWith sub (scale (inBall seed) t1)
    let w1 := w.zipWith (fun p hs => p.zipIdx.map (fun x => useHint (hs.contains x.2) x.1)) h
    key.length = 1312 && signature.length = 2420 && below (gamma1 - beta) z && shake256 32 (mu ++ packHigh w1) = seed

/-- A key pair's parts: the public key, K, the secret vectors, and the low bits of t. -/
structure KeyPair where
  pk : List Byte
  k  : List Byte
  s1 : List Poly
  s2 : List Poly
  t0 : List Poly
  deriving DecidableEq, Repr

/-- The key pair of a seed. -/
def keyGen (xi : List Byte) : KeyPair :=
  let s := shake256 128 (xi ++ toLE 1 dim ++ toLE 1 dim)
  let rho := s.take 32
  let s1 := (upto dim).map (expandS (slice s 32 64))
  let s2 := (upto dim).map (fun i => expandS (slice s 32 64) (i + dim))
  let t := (apply (expandA rho) s1).zipWith add s2
  let high (x : Nat) : Nat := (x + 4095) / 8192
  { pk := rho ++ (t.map (fun p => pack 10 (p.map high))).flatten, k := slice s 96 32, s1 := s1, s2 := s2,
    t0 := t.map (fun p => p.map (fun x => (x + q - high x * 8192 % q) % q)) }

/-- The hints that a signature carries, in 84 bytes. -/
def packHints (h : List (List Nat)) : List Byte :=
  let all := h.flatten
  all.map (BitVec.ofNat 8) ++ List.replicate (omega - all.length) 0 ++ (upto dim).map (fun i => BitVec.ofNat 8 (h.take (i + 1)).flatten.length)

/-- A signature over `mu`, trying masks from number `kappa`; `fuel` bounds the tries. -/
def signFrom (kp : KeyPair) (mu mask : List Byte) : Nat → Nat → List Byte
  | 0, _ => []
  | fuel + 1, kappa =>
    let y := (upto dim).map (fun r => unpackZ (shake256 576 (mask ++ toLE 2 (kappa + r))))
    let w := apply (expandA (kp.pk.take 32)) y
    let seed := shake256 32 (mu ++ packHigh (w.map (fun p => p.map (fun x => (decompose x).1))))
    let c := inBall seed
    let z := y.zipWith add (scale c kp.s1)
    let r := w.zipWith sub (scale c kp.s2)
    let ct0 := scale c kp.t0
    let low := r.all (fun p => p.all (fun x => (decompose x).2.natAbs < gamma2 - beta))
    let h := (r.zipWith add ct0).zipWith (fun a b => ((upto 256).filter (fun i =>
      (decompose (a[i]?.getD 0)).1 ≠ (decompose (b[i]?.getD 0)).1))) r
    if below (gamma1 - beta) z && low && below gamma2 ct0 && h.flatten.length ≤ omega then seed ++ (z.map packZ).flatten ++ packHints h
    else signFrom kp mu mask fuel (kappa + dim)

/-- A signature over a message under a context string, with 32 random bytes (the hedged variant). FIPS 204 lets an
implementation end after 814 tries. -/
def sign (kp : KeyPair) (random context message : List Byte) : List Byte :=
  let mu := shake256 64 (shake256 64 kp.pk ++ framed context message)
  signFrom kp mu (shake256 64 (kp.k ++ random ++ mu)) 814 0

end Sys2Proof.Machine.MlDsa
end

