-- ==== Sys2Proof/Machine/Traverse.lean ====
section
/-! DEFINITION. The Traverse unit (R217 to R224, R255): hierarchies, exact ray tests, the walk, patch
search, its commands and shader queries. -/

namespace Sys2Proof.Machine

/-! ## Exact fractions (R219) -/

/-- A fraction with a positive denominator. -/
structure Frac where
  num : Int
  den : Nat
  deriving DecidableEq, Repr

/-- The fraction a / b, b not 0. -/
def mkFrac (a b : Int) : Frac := if 0 < b then ⟨a, b.toNat⟩ else ⟨-a, (-b).toNat⟩

def Frac.le (a b : Frac) : Bool := a.num * b.den ≤ b.num * a.den
def Frac.lt (a b : Frac) : Bool := a.num * b.den < b.num * a.den
def Frac.max (a b : Frac) : Frac := if a.le b then b else a
def Frac.min (a b : Frac) : Frac := if a.le b then a else b

/-- A fraction rounded to the nearest integer, ties to even (R87, R219). -/
def Frac.round (a : Frac) : Int :=
  let q := a.num / (a.den : Int)
  let r := a.num - q * a.den
  if (a.den : Int) < 2 * r || (2 * r = a.den && q % 2 = 1) then q + 1 else q

/-- A fraction times a natural number. -/
def Frac.times (a : Frac) (n : Nat) : Frac := ⟨a.num * n, a.den⟩

/-! ## Vectors -/

/-- A point or vector in world units. -/
structure Vec3 where
  x : Int
  y : Int
  z : Int
  deriving DecidableEq, Repr

def Vec3.sub (a b : Vec3) : Vec3 := ⟨a.x - b.x, a.y - b.y, a.z - b.z⟩
def Vec3.dot (a b : Vec3) : Int := a.x * b.x + a.y * b.y + a.z * b.z
def Vec3.cross (a b : Vec3) : Vec3 := ⟨a.y * b.z - a.z * b.y, a.z * b.x - a.x * b.z, a.x * b.y - a.y * b.x⟩

/-- Three signed 32-bit coordinates at an offset. -/
def vecI32 (bs : List Byte) (o : Nat) : Vec3 :=
  ⟨signed 32 (field bs o 4), signed 32 (field bs (o + 4) 4), signed 32 (field bs (o + 8) 4)⟩

/-- Three signed 16-bit coordinates at an offset. -/
def vecI16 (bs : List Byte) (o : Nat) : Vec3 :=
  ⟨signed 16 (field bs o 2), signed 16 (field bs (o + 2) 2), signed 16 (field bs (o + 4) 2)⟩

/-! ## Hierarchies (R217, R218) -/

/-- A hierarchy header. -/
structure Hier where
  addr  : Nat
  kind  : Nat
  depth : Nat
  size  : Nat
  root  : Nat
  deriving DecidableEq, Repr

/-- The hierarchy at an address, of the kind its walk needs (R217, R218). -/
def State.hierAt (s : State) (r : Run) (a kind : Nat) : Except Nat Hier :=
  if a % 64 ≠ 0 then .error eHierarchy
  else match s.eread r a 64 with
    | .error e => .error e
    | .ok h =>
      if field h 0 4 ≠ 0x49485254 || field h 4 1 ≠ kind || field h 5 1 = 0 || 32 < field h 5 1 ||
         !reserved h 6 2 || !reserved h 0x10 48 then .error eHierarchy
      else .ok { addr := a, kind := kind, depth := field h 5 1, size := field h 8 4, root := field h 0x0C 4 }

/-- A child of a box node: its slot, its box and where it leads. -/
structure Child where
  lo   : Vec3
  hi   : Vec3
  leaf : Bool
  idx  : Nat
  deriving DecidableEq, Repr

/-- The valid children of the box node at index `i`, in slot order (R217, R218). -/
def State.boxNode (s : State) (r : Run) (h : Hier) (i : Nat) : Except Nat (List Child) :=
  if h.size ≤ i then .error eHierarchy
  else match s.eread r (h.addr + 64 * i) 128 with
    | .error e => .error e
    | .ok n =>
      let valid := bitsOf 8 (field n 1 1)
      let u (k o : Nat) : Nat := field n (0x10 + 6 * k + o) 1
      if field n 0 1 ≠ 0 || !reserved n 0x60 32 ||
         valid.any (fun k => u k 3 < u k 0 || u k 4 < u k 1 || u k 5 < u k 2) then .error eHierarchy
      else
        let o := vecI32 n 4
        let e := 2 ^ field n 3 1
        .ok (valid.map (fun k =>
          { lo := ⟨o.x + (u k 0 * e : Nat), o.y + (u k 1 * e : Nat), o.z + (u k 2 * e : Nat)⟩,
            hi := ⟨o.x + ((u k 3 + 1) * e : Nat), o.y + ((u k 4 + 1) * e : Nat), o.z + ((u k 5 + 1) * e : Nat)⟩,
            leaf := bit (field n 2 1) k, idx := field n (0x40 + 4 * k) 4 }))

/-- A triangle of a leaf. -/
structure Tri where
  v0   : Vec3
  v1   : Vec3
  v2   : Vec3
  prim : Nat
  deriving DecidableEq, Repr

/-- The triangles of the leaf at index `i` (R217, R218). -/
def State.triLeaf (s : State) (r : Run) (h : Hier) (i : Nat) : Except Nat (List Tri) :=
  if h.size ≤ i then .error eHierarchy
  else match s.eread r (h.addr + 64 * i) 64 with
    | .error e => .error e
    | .ok n =>
      if field n 0 1 ≠ 1 || field n 1 1 = 0 || 2 < field n 1 1 || !reserved n 2 1 || !reserved n 0x3C 4 then .error eHierarchy
      else
        let o := vecI32 n 4
        let e : Int := (2 ^ field n 3 1 : Nat)
        let pt (k : Nat) : Vec3 := let v := vecI16 n k; ⟨o.x + v.x * e, o.y + v.y * e, o.z + v.z * e⟩
        .ok ((upto (field n 1 1)).map (fun k =>
          { v0 := pt (0x10 + 18 * k), v1 := pt (0x16 + 18 * k), v2 := pt (0x1C + 18 * k), prim := field n (0x34 + 4 * k) 4 }))

/-- A patch of a leaf. -/
structure Patch where
  f : Vec3
  x : Nat
  y : Nat
  deriving DecidableEq, Repr

/-- The patches of the leaf at index `i` (R217, R218). -/
def State.patchLeaf (s : State) (r : Run) (h : Hier) (i : Nat) : Except Nat (List Patch) :=
  if h.size ≤ i then .error eHierarchy
  else match s.eread r (h.addr + 64 * i) 64 with
    | .error e => .error e
    | .ok n =>
      let c := field n 1 1
      if field n 0 1 ≠ 2 || c = 0 || 4 < c || !reserved n 2 14 ||
         (upto c).any (fun k => !reserved n (0x1A + 12 * k) 2) then .error eHierarchy
      else .ok ((upto c).map (fun k =>
        { f := vecI16 n (0x10 + 12 * k), x := field n (0x16 + 12 * k) 2, y := field n (0x18 + 12 * k) 2 }))

/-! ## Rays (R219, R220) -/

/-- A ray query (R219). -/
structure Ray where
  o     : Vec3
  d     : Vec3
  flags : Nat
  tmin  : Nat
  tmax  : Nat
  limit : Nat
  bad   : Bool
  deriving DecidableEq, Repr

/-- A ray query record; `cap` is a further limit on its visits (R222). -/
def rayOf (q : List Byte) (cap : Nat) : Ray :=
  let d := vecI16 q 0x0C
  { o := vecI32 q 0, d := d, flags := field q 0x12 1, tmin := field q 0x14 4, tmax := field q 0x18 4,
    limit := min (field q 0x1C 2) cap,
    bad := d = ⟨0, 0, 0⟩ || 7 < field q 0x12 1 || !reserved q 0x13 1 || !reserved q 0x1E 2 }

def Ray.t0 (r : Ray) : Frac := ⟨r.tmin, 65536⟩
def Ray.t1 (r : Ray) : Frac := ⟨r.tmax, 65536⟩

/-- A range of t narrowed by a + b t ≥ 0; none where it is empty. -/
def cutRange (rg : Option (Frac × Frac)) (a b : Int) : Option (Frac × Frac) :=
  match rg with
  | none => none
  | some (lo, hi) =>
    let out :=
      if b = 0 then (if a < 0 then none else some (lo, hi))
      else if 0 < b then some (lo.max (mkFrac (-a) b), hi)
      else some (lo, hi.min (mkFrac (-a) b))
    match out with
    | none => none
    | some (l, h) => if l.le h then some (l, h) else none

/-- The box test (R219): the entry t, clamped below at TMIN. -/
def Ray.box (q : Ray) (lo hi : Vec3) : Option Frac :=
  let axis (rg : Option (Frac × Frac)) (o d l h : Int) : Option (Frac × Frac) := cutRange (cutRange rg (o - l) d) (h - o) (-d)
  let start := if q.t0.le q.t1 then some (q.t0, q.t1) else none
  (axis (axis (axis start q.o.x q.d.x lo.x hi.x) q.o.y q.d.y lo.y hi.y) q.o.z q.d.z lo.z hi.z).map (·.1)

/-- A hit: t, the triangle's number and the weights of v1 and v2. -/
structure Hit where
  t    : Frac
  prim : Nat
  u    : Int
  v    : Int
  deriving DecidableEq, Repr

/-- The triangle test (R219): the least t of the range at which the ray meets the closed triangle, in its
plane too where the ray lies in it. -/
def Ray.tri (q : Ray) (t : Tri) : Option Hit :=
  let n := (t.v1.sub t.v0).cross (t.v2.sub t.v0)
  let nn := n.dot n
  let nd := n.dot q.d
  if nn = 0 then none
  else if (bit q.flags 1 && 0 < nd) || (bit q.flags 2 && nd < 0) then none
  else
    let edge (a b : Vec3) : Int × Int := (n.dot ((b.sub a).cross (q.o.sub a)), n.dot ((b.sub a).cross q.d))
    let w0 := edge t.v1 t.v2
    let w1 := edge t.v2 t.v0
    let w2 := edge t.v0 t.v1
    let c := n.dot (t.v0.sub q.o)
    let start := if q.t0.le q.t1 then some (q.t0, q.t1) else none
    let plane := cutRange (cutRange start (-c) nd) c (-nd)
    match cutRange (cutRange (cutRange plane w0.1 w0.2) w1.1 w1.2) w2.1 w2.2 with
    | none => none
    | some (e, _) =>
      let weight (w : Int × Int) : Int := (mkFrac (w.1 * e.den + w.2 * e.num) (e.den * nn) |>.times 32768).round
      some { t := e, prim := t.prim, u := weight w1, v := weight w2 }

/-- The better of two hits (R220): the least t, then the lowest PRIM_ID, then the one met first. -/
def betterHit (old : Option Hit) (h : Hit) : Option Hit :=
  match old with
  | none => some h
  | some o => if h.t.lt o.t || (h.t.le o.t && o.t.le h.t && h.prim < o.prim) then some h else some o

/-- Where a walk is to go next: index, leaf, box levels above it, entry t. -/
structure Todo where
  idx   : Nat
  leaf  : Bool
  level : Nat
  t     : Frac
  deriving DecidableEq, Repr

/-- A list entry placed before the first later one: ascending entry t, ties in slot order (R220). -/
def insertTodo (x : Todo) : List Todo → List Todo
  | [] => [x]
  | h :: t => if x.t.lt h.t then x :: h :: t else h :: insertTodo x t

/-- A ray walk's answer: the hit, the visits made, whether the limit ended it, and the nodes read. -/
structure WalkOut where
  hit    : Option Hit
  visits : Nat
  limit  : Bool
  nodes  : List (Nat × Nat)
  deriving DecidableEq, Repr

/-- The bytes of the node a visit reads (R217). -/
def Hier.node (h : Hier) (x : Todo) : Nat × Nat := (h.addr + 64 * x.idx, if x.leaf then 64 else 128)

/-- A walk that has read a node before. -/
def WalkOut.after (n : Nat × Nat) (o : WalkOut) : WalkOut := { o with nodes := n :: o.nodes }

/-- The walk of R220; `left` counts the visits still allowed. The visit that reaches NODE_LIMIT ends the
walk with LIMIT set (DEDUCED, log entry 24). -/
def State.rayWalk (s : State) (r : Run) (h : Hier) (q : Ray) : Nat → List Todo → Option Hit → Nat → Except Nat WalkOut
  | 0, _, best, n => .ok { hit := best, visits := n, limit := true, nodes := [] }
  | left + 1, todo, best, n =>
    let anyHit := bit q.flags 0
    match todo.dropWhile (fun x => !anyHit && match best with | some b => b.t.lt x.t | none => false) with
    | [] => .ok { hit := best, visits := n, limit := false, nodes := [] }
    | x :: rest =>
      if x.leaf then
        match s.triLeaf r h x.idx with
        | .error e => .error e
        | .ok ts =>
          let hits := ts.filterMap q.tri
          match anyHit, hits with
          | true, k :: _ => .ok { hit := some k, visits := n + 1, limit := left = 0, nodes := [h.node x] }
          | _, _ => (s.rayWalk r h q left rest (hits.foldl betterHit best) (n + 1)).map (WalkOut.after (h.node x))
      else if h.depth < x.level then .error eHierarchy
      else match s.boxNode r h x.idx with
        | .error e => .error e
        | .ok cs =>
          let kids := (cs.filterMap (fun c => (q.box c.lo c.hi).map (fun t =>
            { idx := c.idx, leaf := c.leaf, level := x.level + 1, t := t : Todo }))).foldl (fun l k => insertTodo k l) []
          (s.rayWalk r h q left (kids ++ rest) best (n + 1)).map (WalkOut.after (h.node x))

/-- The answer to a ray query (R219, R220): the result record, visits, whether the limit ended it, and what was read of the
hierarchy. -/
def State.rayAnswer (s : State) (r : Run) (hier : Nat) (q : Ray) : Except Nat (List Byte × Nat × Bool × List (Nat × Nat)) :=
  let word (st : Nat) (h : Option Hit) : List Byte :=
    match h with
    | none => toLE 1 st ++ toLE 15 0
    | some x => toLE 4 st ++ toLE 4 (unsigned 32 (x.t.times 65536).round) ++ toLE 4 x.prim ++
        toLE 2 (unsigned 16 x.u) ++ toLE 2 (unsigned 16 x.v)
  if q.bad then .ok (word 3 none, 0, false, [])
  else if q.tmax < q.tmin then .ok (word 0 none, 0, false, [])
  else match s.hierAt r hier 0 with
    | .error e => .error e
    | .ok h =>
      (s.rayWalk r h q q.limit [{ idx := h.root, leaf := false, level := 1, t := q.t0 }] none 0).map (fun o =>
        (word ((if o.hit.isSome then 1 else 0) + (if o.limit then 4 else 0)) o.hit, o.visits, o.limit, (hier, 64) :: o.nodes))

/-! ## The Traverse command body (R222) -/

/-- The check of a Traverse body at fetch (R199, R222): 0 or the code it is refused with. -/
def traverseCheck (b : List Byte) : Nat :=
  let mode := field b 0 1
  let common := mode ≤ 1 && field b 3 1 = 0 && reserved b 0x12 6 && reserved b 0x30 16 && 1 ≤ field b 8 2 &&
    field b 0x18 8 % 64 = 0
  let own :=
    if mode = 0 then
      field b 1 1 = 0 && field b 2 1 = 0 && 1 ≤ field b 4 4 && field b 4 4 ≤ 16384 && reserved b 0x0A 8 &&
      field b 0x20 8 % 32 = 0 && field b 0x28 8 % 16 = 0
    else
      1 ≤ field b 1 1 && field b 1 1 ≤ 4 && field b 2 1 ≤ 2 && field b 4 4 = 0 && field b 0x0A 2 ≤ 7679 &&
      field b 0x0C 2 ≤ 4319 && field b 0x0E 2 + 8 ≤ field b 0x10 2 && field b 0x10 2 ≤ 4320
  if common && own then 0 else eTraverse

/-- The mode of a running Traverse command. -/
def traverseMode (m : Nat) (r : Run) : Bool := r.eng = .traverse && r.cmd.op = 3 && field r.cmd.body 0 1 = m

/-- The outcome of RAYS (R220, R222). -/
def State.rays (s : State) (r : Run) : Except Nat EngineOut := do
  let b := r.cmd.body
  let res ← (upto (field b 4 4)).mapM (fun i => do
    let q ← s.eread r (field b 0x20 8 + 32 * i) 32
    s.rayAnswer r (field b 0x18 8) (rayOf q (field b 8 2)))
  let cells ← s.stageAll r (res.zipIdx.map (fun p => (field b 0x28 8 + 16 * p.2, p.1.1)))
  return { cells := cells, cut := 0,
           tally := [(Obj.traverseVisits r.ch, (res.map (fun p => p.2.1)).sum), (Obj.traverseQueries r.ch, res.length),
                     (Obj.traverseLimits r.ch, (res.filter (fun p => p.2.2.1)).length)],
           reads := (field b 0x20 8, 32 * res.length) :: (res.map (fun p => p.2.2.2)).flatten,
           writes := [(field b 0x28 8, 16 * res.length)] }

/-- TRAVERSE_RAYS (R220). -/
def execTraverseRays (run : Nat) (ecc : Ecc) (s : State) : Out :=
  clocked s fun s => engineRow s run (traverseMode 0) ecc s.rays

/-! ## Patch search (R221) -/

/-- A patch that qualifies: DIST, Y, X and its vector. -/
structure Found where
  dist : Nat
  y    : Nat
  x    : Nat
  vx   : Int
  vy   : Int
  deriving DecidableEq, Repr

/-- The order in which qualifying patches are kept (R221). -/
def Found.before (a b : Found) : Bool :=
  a.dist < b.dist || (a.dist = b.dist && (a.y < b.y || (a.y = b.y && a.x < b.x)))

/-- A patch placed among those kept. -/
def insertFound (x : Found) : List Found → List Found
  | [] => [x]
  | h :: t => if x.before h then x :: h :: t else h :: insertFound x t

/-- A patch as a candidate of a request (R221), where it qualifies. -/
def qualifies (b req : List Byte) (p : Patch) : Option Found :=
  let f := vecI16 req 4
  let tol := field req 0x0A 2
  let dm := (p.f.x - f.x).natAbs
  let dx := (p.f.y - f.y).natAbs
  let dy := (p.f.z - f.z).natAbs
  let vx := (p.x : Int) - (8 * field req 0 2 : Nat)
  let vy := (p.y : Int) - (8 * field req 2 2 : Nat)
  if dm ≤ tol && dx ≤ tol && dy ≤ tol && field b 0x0E 2 ≤ p.y && p.y + 8 ≤ field b 0x10 2 &&
     vx.natAbs ≤ field b 0x0A 2 && vy.natAbs ≤ field b 0x0C 2
  then some { dist := dm + dx + dy, y := p.y, x := p.x, vx := vx, vy := vy } else none

/-- A request's feature box meets a child's box (R221). -/
def overlaps (req : List Byte) (c : Child) : Bool :=
  let f := vecI16 req 4
  let tol : Int := field req 0x0A 2
  let ax (v lo hi : Int) : Bool := lo ≤ v + tol && v - tol ≤ hi
  ax f.x c.lo.x c.hi.x && ax f.y c.lo.y c.hi.y && ax f.z c.lo.z c.hi.z

/-- A patch walk's answer: the patches kept, the visits, whether the limit ended it, and the nodes read. -/
structure PatchOut where
  kept   : List Found
  visits : Nat
  limit  : Bool
  nodes  : List (Nat × Nat)
  deriving DecidableEq, Repr

/-- A walk that has read a node before. -/
def PatchOut.after (n : Nat × Nat) (o : PatchOut) : PatchOut := { o with nodes := n :: o.nodes }

/-- The walk of a request (R221). -/
def State.patchWalk (s : State) (r : Run) (h : Hier) (b req : List Byte) :
    Nat → List Todo → List Found → Nat → Except Nat PatchOut
  | 0, _, l, n => .ok ⟨l, n, true, []⟩
  | _ + 1, [], l, n => .ok ⟨l, n, false, []⟩
  | left + 1, x :: rest, l, n =>
    if x.leaf then
      match s.patchLeaf r h x.idx with
      | .error e => .error e
      | .ok ps => (s.patchWalk r h b req left rest
          (((ps.filterMap (qualifies b req)).foldl (fun l f => insertFound f l) l).take (field b 1 1)) (n + 1)).map (PatchOut.after (h.node x))
    else if h.depth < x.level then .error eHierarchy
    else match s.boxNode r h x.idx with
      | .error e => .error e
      | .ok cs =>
        let kids := (cs.filter (overlaps req)).map (fun c => { idx := c.idx, leaf := c.leaf, level := x.level + 1, t := ⟨0, 1⟩ : Todo })
        (s.patchWalk r h b req left (kids ++ rest) l (n + 1)).map (PatchOut.after (h.node x))

/-- A candidate item (R221). -/
def candItem (b req : List Byte) (l : List Found) (limit : Bool) : List Byte :=
  let vecs := (l.map (fun f => toLE 2 (unsigned 16 f.vx) ++ toLE 2 (unsigned 16 f.vy))).flatten
  let dists := (l.map (fun f => toLE 2 f.dist)).flatten
  slice req 0 4 ++ toLE 1 l.length ++ toLE 1 (field b 2 1) ++ toLE 1 (if limit then 1 else 0) ++ toLE 1 0 ++
  slice vecs 0 16 ++ slice dists 0 8

/-- An item placed in ascending (BY, BX) order, after equal ones (R216). -/
def insertItem (x : List Byte) : List (List Byte) → List (List Byte)
  | [] => [x]
  | h :: t =>
    let k (i : List Byte) : Nat := field i 2 2 * 65536 + field i 0 2
    if k x < k h then x :: h :: t else h :: insertItem x t

/-- Requests a PATCH command processes at most (R221). -/
def patchRequests : Nat := 8192

/-- The outcome of PATCH (R216, R221). -/
def State.patches (s : State) (r : Run) : Except Nat EngineOut := do
  let b := r.cmd.body
  let inl ← s.workList r (field b 0x20 8) 0
  let outl ← s.workList r (field b 0x28 8) 1
  let n := min inl.count patchRequests
  let res ← (upto n).mapM (fun i => do
    let req ← s.eread r (inl.base + 16 * i) 16
    let h ← s.hierAt r (field b 0x18 8) 1
    let o ← s.patchWalk r h b req (field b 8 2) [{ idx := h.root, leaf := false, level := 1, t := ⟨0, 1⟩ }] [] 0
    return (req, o))
  let items := (res.filter (fun p => p.2.kept ≠ [])).map (fun p => candItem b p.1 p.2.kept p.2.limit)
  let (ws, drop) := listWrites outl 32 (items.foldl (fun l x => insertItem x l) []) (inl.count - n)
  let cells ← s.stageAll r ws
  return { cells := cells, cut := 0,
           tally := [(Obj.traverseVisits r.ch, (res.map (fun p => p.2.visits)).sum),
                     (Obj.traverseLimits r.ch, (res.filter (fun p => p.2.limit)).length), (Obj.listDrops r.ch, drop)],
           reads := inl.spans 16 n ++ outl.spans 32 0 ++ (res.map (fun p => (field b 0x18 8, 64) :: p.2.nodes)).flatten,
           writes := spansOf ws }

/-- TRAVERSE_PATCH (R221). -/
def execTraversePatch (run : Nat) (ecc : Ecc) (s : State) : Out :=
  clocked s fun s => engineRow s run (traverseMode 1) ecc s.patches

/-! ## Shader queries (R224, R255) -/

/-- RAYQ d, s, h (R255): each active lane's query is answered from memory as it stands. The Traverse unit reads the hierarchy
(R224), through its own range cache. -/
def execRayq (g : GroupRef) (d sr h : Nat) (ecc : Ecc) (s : State) : Out :=
  clocked s fun s =>
    issue s g [(d, 4), (sr, 8), (h, 2)] (fun r b x => readsMeet s g.run ecc (fun s =>
      match allOk (x.active.map (fun l =>
          (s.rayAnswer { r with eng := .traverse } (x.pair l h) (rayOf (toLE 32 (x.words l sr 8)) 65535)).map (fun o => (l, o)))) with
      | .error e => s.faultGroup g e
      | .ok res =>
        let ch := toCh r.ch
        let s1 := ((s.bump (Obj.traverseVisits ch) ((res.map (fun p => p.2.2.1)).sum) 64).bump (Obj.traverseQueries ch) res.length 64).bump
          (Obj.traverseLimits ch) ((res.filter (fun p => p.2.2.2.1)).length) 64
        (s1.touchSpans { r with eng := .traverse } none (res.map (fun p => p.2.2.2.2)).flatten).putGroup g r b (res.foldl (fun y p => y.setWords p.1 d 4 (leNat p.2.1)) x).next))

end Sys2Proof.Machine
end

