-- ==== Sys2Proof/Machine/Surface.lean ====
section
/-! DEFINITION. Surfaces (R247 to R251): descriptors, layouts, block modes, canonical encoding and decoding;
and texture sampling (R252 to R254). -/

namespace Sys2Proof.Machine

/-! ## Descriptors and formats (R247) -/

/-- A surface descriptor. -/
structure Surf where
  base   : Nat
  meta'  : Nat
  width  : Nat
  height : Nat
  fmt    : Nat
  block  : Bool
  pitch  : Nat
  clear  : Nat
  deriving DecidableEq, Repr

/-- Bytes per pixel of a format (R247). -/
def fmtBpp (f : Nat) : Nat :=
  if f = 2 then 8 else if f = 3 then 2 else if f = 6 then 1 else if f = 7 then 2 else 4

/-- The channels of a format: lowest bit and width of each (R247). -/
def fmtChans (f : Nat) : List (Nat × Nat) :=
  if f = 0 then [(0, 8), (8, 8), (16, 8), (24, 8)]
  else if f = 1 then [(0, 10), (10, 10), (20, 10), (30, 2)]
  else if f = 2 then [(0, 16), (16, 16), (32, 16), (48, 16)]
  else if f = 3 then [(0, 16)]
  else if f = 4 then [(0, 24)]
  else if f = 5 then [(0, 32)]
  else if f = 6 then [(0, 8)]
  else [(0, 16)]

def fmtColour (f : Nat) : Bool := f ≤ 2
def fmtDepth (f : Nat) : Bool := 3 ≤ f && f ≤ 5

/-- The value of channel `c` of a pixel. -/
def chanVal (p : Nat) (c : Nat × Nat) : Nat := p / 2 ^ c.1 % 2 ^ c.2

/-- The bits of a pixel that belong to its format's channels (R247: D24X8 is written with 0 above). -/
def pixBits (f p : Nat) : Nat := ((fmtChans f).map (fun c => chanVal p c * 2 ^ c.1)).sum

/-- The largest value of a depth format (R232). -/
def depthMax (f : Nat) : Nat := if f = 3 then 0xFFFF else if f = 4 then 0xFFFFFF else 0xFFFFFFFF

/-- A surface descriptor's bytes (R247). -/
def surfOf (d : List Byte) : Except Nat Surf :=
  let x : Surf :=
    { base := field d 0 8, meta' := field d 8 8, width := field d 0x10 2, height := field d 0x12 2, fmt := field d 0x14 1,
      block := field d 0x15 1 = 1, pitch := field d 0x18 4, clear := field d 0x20 8 }
  let ok := x.base % 64 = 0 && 1 ≤ x.width && x.width ≤ 16384 && 1 ≤ x.height && x.height ≤ 16384 && x.fmt ≤ 7 &&
    field d 0x15 1 ≤ 1 && reserved d 0x16 2 && reserved d 0x1C 4 && reserved d 0x28 8 &&
    (if x.block then x.pitch = 0 else x.pitch % 16 = 0 && x.width * fmtBpp x.fmt ≤ x.pitch)
  if ok then .ok x else .error eSurface

/-- The surface descriptor at an address (R247). -/
def State.surfAt (s : State) (r : Run) (a : Nat) (core : Option Nat := none) : Except Nat Surf :=
  if a % 16 ≠ 0 then .error eSurface
  else match s.eread r a 48 core with
    | .error e => .error e
    | .ok d => surfOf d

/-! ## Layout (R248) -/

/-- The slot of block (bx, by) of a BLOCKED surface (R248). -/
def Surf.slot (x : Surf) (bx by' : Nat) : Nat :=
  let mb := (by' / 8) * ceilDiv x.width 64 + bx / 8
  let m := ((upto 3).map (fun i => (if bit (bx % 8) i then 4 ^ i else 0) + (if bit (by' % 8) i then 2 * 4 ^ i else 0))).sum
  64 * mb + m

/-- The address of a block's data. -/
def Surf.dataAddr (x : Surf) (bx by' : Nat) : Nat := x.base + x.slot bx by' * 64 * fmtBpp x.fmt

/-- The address of a block's metadata byte. -/
def Surf.metaAddr (x : Surf) (bx by' : Nat) : Nat := x.meta' + x.slot bx by'

/-! ## Bit streams (R250) -/

/-- A stream of fields: value and width, first field at bit 0. -/
def packFields (l : List (Nat × Nat)) : Nat × Nat :=
  l.foldl (fun (a : Nat × Nat) p => (a.1 + (p.1 % 2 ^ p.2) * 2 ^ a.2, a.2 + p.2)) (0, 0)

/-- The signed residual of a value against a base (R250). -/
def residual (b base v : Nat) : Int := signed b ((v + 2 ^ b - base % 2 ^ b) % 2 ^ b)

/-- The least width for residuals (R250). -/
def deltaWidth (b : Nat) (rs : List Int) : Nat :=
  ((upto b).find? (fun k => rs.all (fun r => decide (-(2 ^ k : Nat) ≤ r) && decide (r < (2 ^ k : Nat)))) |>.getD (b - 1)) + 1

/-- Sectors of a DELTA block with channel widths `ws` (R250). -/
def deltaSectors (f : Nat) (ws : List Nat) : Nat :=
  ceilDiv (((fmtChans f).zip ws).map (fun p => p.1.2 + 5 + 63 * p.2)).sum 256

/-- Sectors of an uncompressed block (R249). -/
def rawSectors (f : Nat) : Nat := 2 * fmtBpp f

/-- The canonical encoding of a block of 64 pixels (R251): its metadata byte and data sectors. -/
def encodeBlock (f clear : Nat) (px : List Nat) : Nat × List Byte :=
  let p0 := px.headD 0
  if px.all (fun p => pixBits f p = pixBits f clear) then (0xC0, [])
  else if px.all (fun p => p = p0) then
    (0x41, toLE (fmtBpp f) p0 ++
      ((upto 32).filter (fun i => fmtBpp f ≤ i)).map (fun i => Config.constantFill p0 clear i))
  else
    let chans := (fmtChans f).map (fun c => (c, chanVal p0 c, (px.drop 1).map (fun p => residual c.2 (chanVal p0 c) (chanVal p c))))
    let ws := chans.map (fun q => deltaWidth q.1.2 q.2.2)
    let n := deltaSectors f ws
    if n < rawSectors f then
      let heads := ((chans.zip ws).map (fun q => [(q.1.2.1, q.1.1.2), (q.2 - 1, 5)])).flatten
      let body := ((chans.zip ws).map (fun q => q.1.2.2.map (fun v => (unsigned q.2 v, q.2)))).flatten
      (0x80 + n, toLE (32 * n) (packFields (heads ++ body)).1)
    else (rawSectors f, (px.map (toLE (fmtBpp f))).flatten)

/-- Decode a DELTA block's stream (R250): the widths and the pixels. -/
def decodeDelta (f : Nat) (bs : List Byte) : List Nat × List Nat :=
  let v := leNat bs
  let heads := (fmtChans f).foldl (fun (a : List (Nat × Nat × Nat) × Nat) c =>
    (a.1 ++ [(v / 2 ^ a.2 % 2 ^ c.2, v / 2 ^ (a.2 + c.2) % 32 + 1, c.2)], a.2 + c.2 + 5)) ([], 0)
  let body := heads.1.foldl (fun (a : List (List Nat) × Nat) h =>
    (a.1 ++ [h.1 :: (upto 63).map (fun i =>
      unsigned h.2.2 ((h.1 : Int) + signed h.2.1 (v / 2 ^ (a.2 + i * h.2.1) % 2 ^ h.2.1)))], a.2 + 63 * h.2.1)) ([], heads.2)
  (heads.1.map (fun h => h.2.1),
    (upto 64).map (fun i => (((fmtChans f).zip body.1).map (fun p => (p.2[i]?.getD 0) * 2 ^ p.1.1)).sum))

/-- The pixels of a block from its metadata byte and slot data (R249 to R251), or E_SURFACE_FORMAT where the
byte is malformed. `rd n` reads n bytes of the slot. -/
def decodeBlock (f clear md : Nat) (rd : Nat → Except Nat (List Byte)) : Except Nat (List Nat) :=
  let mode := bits md 7 6
  let sec := bits md 5 0
  let bpp := fmtBpp f
  if mode = 3 then
    if sec = 0 then .ok (List.replicate 64 (clear % 2 ^ (8 * bpp))) else .error eSurface
  else if mode = 1 then
    if sec = 1 then (rd bpp).map (fun bs => List.replicate 64 (leNat bs)) else .error eSurface
  else if mode = 0 then
    if sec = rawSectors f then (rd (64 * bpp)).map (fun bs => (upto 64).map (fun i => field bs (i * bpp) bpp))
    else .error eSurface
  else if sec = 0 || rawSectors f ≤ sec then .error eSurface
  else match rd (32 * sec) with
    | .error e => .error e
    | .ok bs =>
      let (ws, px) := decodeDelta f bs
      if ((fmtChans f).zip ws).any (fun p => p.1.2 < p.2) || deltaSectors f ws ≠ sec then .error eSurface else .ok px

/-- The 64 pixels of block (bx, by) of a BLOCKED surface as memory holds them. -/
def State.blockPixels (s : State) (r : Run) (x : Surf) (bx by' : Nat) (core : Option Nat := none) : Except Nat (List Nat) :=
  let rd (n : Nat) : Except Nat (List Byte) := s.eread r (x.dataAddr bx by') n core
  if x.meta' = 0 then (rd (64 * fmtBpp x.fmt)).map (fun bs => (upto 64).map (fun i => field bs (i * fmtBpp x.fmt) (fmtBpp x.fmt)))
  else match s.eread r (x.metaAddr bx by') 1 core with
    | .error e => .error e
    | .ok m => decodeBlock x.fmt x.clear (leNat m) rd

/-- Pixel (x, y) of a surface as memory holds it (R248). -/
def State.texel (s : State) (r : Run) (x : Surf) (px py : Nat) (core : Option Nat := none) : Except Nat Nat :=
  if x.block then (s.blockPixels r x (px / 8) (py / 8) core).map (fun l => l[8 * (py % 8) + px % 8]?.getD 0)
  else (s.eread r (x.base + py * x.pitch + px * fmtBpp x.fmt) (fmtBpp x.fmt) core).map leNat

/-! ## Sampling (R252, R253) -/

/-- A texel coordinate mapped into [0, n) (R253). -/
def mapCoord (mode : Nat) (n : Nat) (v : Int) : Nat :=
  if mode = 0 then (clamp 0 ((n : Int) - 1) v).toNat
  else if mode = 1 then (v % (n : Int)).toNat
  else
    let q := (v % (2 * n : Nat)).toNat
    if q < n then q else 2 * n - 1 - q

/-- Bytes of the data slot that a metadata byte says are read (R249 to R251). -/
def slotBytes (f md : Nat) : Nat :=
  match bits md 7 6 with
  | 0 => 64 * fmtBpp f
  | 1 => fmtBpp f
  | 2 => 32 * bits md 5 0
  | _ => 0

/-- What is read of block (bx, by) of a BLOCKED surface whose metadata byte is `md`: addresses and lengths (R248 to R251). -/
def Surf.blockSpans (x : Surf) (bx by' md : Nat) : List (Nat × Nat) :=
  let a := x.dataAddr bx by'
  if x.meta' = 0 then [(a, 64 * fmtBpp x.fmt)]
  else [(x.metaAddr bx by', 1), (a, slotBytes x.fmt md)].filter (fun p => p.2 ≠ 0)

/-- What a run reads of block (bx, by) of a BLOCKED surface: virtual addresses and lengths. -/
def State.blockReads (s : State) (r : Run) (x : Surf) (bx by' : Nat) (core : Option Nat := none) : List (Nat × Nat) :=
  match s.eread r (x.metaAddr bx by') 1 core with
  | .error _ => x.blockSpans bx by' 0xFF
  | .ok b => x.blockSpans bx by' (leNat b)

/-- What a read of pixel (x, y) of a surface reads: virtual addresses and lengths (R247, R248). -/
def State.texelSpans (s : State) (r : Run) (x : Surf) (px py : Nat) (core : Option Nat := none) : List (Nat × Nat) :=
  if !x.block then [(x.base + py * x.pitch + px * fmtBpp x.fmt, fmtBpp x.fmt)]
  else s.blockReads r x (px / 8) (py / 8) core

/-- The texels a sample reads (R253). -/
def sampleAt (x : Surf) (smp : Nat) (u v : Int) : List (Nat × Nat) :=
  let at' (i j : Int) : Nat × Nat := (mapCoord (bits smp 2 1) x.width i, mapCoord (bits smp 4 3) x.height j)
  if !bit smp 0 then [at' (u / 256) (v / 256)]
  else
    let x0 := (u - 128) / 256
    let y0 := (v - 128) / 256
    [at' x0 y0, at' (x0 + 1) y0, at' x0 (y0 + 1), at' (x0 + 1) (y0 + 1)]

/-- Lines a quad's texture cache holds (R254): 64 KB. -/
def texLines : Nat := 1024

/-- The texture cache of the quad of core `core` is read through: lines it lacks are filled, over the oldest (R254; the
spec names no replacement, and a fill passes the die L2: log entry 102). -/
def State.texFill (s : State) (r : Run) (core : Nat) (spans : List (Nat × Nat)) : State :=
  let ch := toCh r.ch
  let q := toCh (core / 4)
  let vs := (spans.map (fun p => pieces p.1 p.2)).flatten
  vs.foldl (fun s v =>
    match s.translate (s.runXlat r (some core)) v rightR with
    | .error _ => s
    | .ok p =>
      let l := (s.texCaches.get ch).get q
      if l.contains (p.1 / 64) then s
      else ({ s with texCaches := s.texCaches.mod ch (fun c => c.set q ((p.1 / 64 :: l).take texLines)) } : State).touchLoads r (some core) [v]) s

/-- The four result channels of a sample (R252, R253). -/
def State.texSample (s : State) (r : Run) (core : Nat) (x : Surf) (smp : Nat) (u v : Int) : Except Nat (List Nat) := do
  let ts ← (sampleAt x smp u v).mapM (fun p => (s.texel r x p.1 p.2 (some core)).map (fun p => (fmtChans x.fmt).map (chanVal p)))
  let cs ←
    match ts with
    | [a, b, c, d] => do
      let fx := (u - 128) % 256
      let fy := (v - 128) % 256
      pure ((upto a.length).map (fun i =>
        let t (l : List Nat) : Int := (l[i]?.getD 0 : Nat)
        (rne ((256 - fx) * (256 - fy) * t a + fx * (256 - fy) * t b + (256 - fx) * fy * t c + fx * fy * t d) 16).toNat))
    | _ => pure (ts.headD [])
  return (cs ++ [0, 0, 0, 0]).take 4

/-- TEX d, s, u, v, smp (R252 to R254): memory's published contents are sampled, through the quad's texture cache. -/
def execTex (g : GroupRef) (d sr u v smp : Nat) (ecc : Ecc) (s : State) : Out :=
  clocked s fun s =>
    issue s g [(d, 4), (sr, 2), (u, 1), (v, 1)] (fun r b x =>
      if 32 ≤ smp || bits smp 2 1 = 3 || bits smp 4 3 = 3 then s.faultGroup g eIllegal
      else match allOk (x.active.map (fun l =>
          match s.surfAt r (x.pair l sr) (some b.core) with
          | .error e => .error e
          | .ok sf =>
            let cu := signed 32 (x.reg l u).toNat
            let cv := signed 32 (x.reg l v).toNat
            let spans := (x.pair l sr, 48) :: ((sampleAt sf smp cu cv).map (fun p => s.texelSpans r sf p.1 p.2 (some b.core))).flatten
            (s.texSample r b.core sf smp cu cv).map (fun c => (l, spans, c)))) with
      | .error e => s.faultGroup g e
      | .ok res => readsMeet s g.run ecc (fun s =>
        (s.texFill r b.core (res.map (fun p => p.2.1)).flatten).putGroup g r b (res.foldl (fun y p => p.2.2.zipIdx.foldl (fun y q => y.setReg p.1 (d + q.2) (BitVec.ofNat 32 q.1)) y) x).next))

end Sys2Proof.Machine
end

