-- ==== Sys2Proof/Machine/Raster.lean ====
section
/-! DEFINITION. Raster passes (R228 to R246): the pass descriptor, triangles and coverage, binning, the
tile-list pool with growth and splits, rasterisation with fragment groups, and the final resolve. A raster
row works a pass up to the next point that waits for something else: a fragment group's instructions, a
growth call's return, or its seal. -/

namespace Sys2Proof.Machine

/-! ## The pass descriptor (R228) -/

def pdMode (b : List Byte) : Nat := field b 0 1
def pdFlags (b : List Byte) : Nat := field b 3 1
def pdNumRt (b : List Byte) : Nat := field b 2 1
def pdX0 (b : List Byte) : Nat := field b 0x08 2
def pdY0 (b : List Byte) : Nat := field b 0x0A 2
def pdW (b : List Byte) : Nat := field b 0x0C 2
def pdH (b : List Byte) : Nat := field b 0x0E 2
def pdPrims (b : List Byte) : Nat := field b 0x10 4
def pdDepthEn (b : List Byte) : Bool := bit (pdFlags b) 0

/-- Tile size in pixels (R228). -/
def pdTile (b : List Byte) : Nat := if field b 1 1 = 0 then 32 else if field b 1 1 = 1 then 16 else 64

/-- The targets of a pass in the order RT0-RT3, depth (R245): target number and descriptor address. -/
def pdTargets (b : List Byte) : List (Nat × Nat) :=
  (upto (pdNumRt b)).map (fun k => (k, field b (0x30 + 8 * k) 8)) ++ (if pdDepthEn b then [(4, field b 0x50 8)] else [])

/-- Whether a target's load op is CLEAR (R228). -/
def pdClears (b : List Byte) (t : Nat) : Bool := bit (field b 5 1) t

/-- The ranges of R228 and the conditions of R229 that the descriptor alone decides. -/
def pdOk (b : List Byte) : Bool :=
  let f := pdFlags b
  pdMode b ≤ 2 && field b 1 1 ≤ 2 && pdNumRt b ≤ 4 && f < 64 && bits f 5 4 ≤ 2 && field b 4 1 ≤ 7 && field b 5 1 < 32 &&
  reserved b 6 2 && pdX0 b % 8 = 0 && pdY0 b % 8 = 0 && 8 ≤ pdW b && pdW b ≤ 16384 && pdW b % 8 = 0 &&
  8 ≤ pdH b && pdH b ≤ 16384 && pdH b % 8 = 0 && 1 ≤ pdPrims b && pdPrims b ≤ 16777215 &&
  3 ≤ field b 0x14 4 && field b 0x14 4 ≤ 16777215 && field b 0x18 2 ≤ 16384 && field b 0x1A 2 ≤ 16384 &&
  field b 0x18 2 ≤ field b 0x1C 4 && field b 0x1C 4 ≤ 1048576 && field b 0x20 8 % 16 = 0 &&
  (bit f 2 || field b 0x28 8 = 0) && (upto 4).all (fun k => k < pdNumRt b || field b (0x30 + 8 * k) 8 = 0) &&
  (pdDepthEn b || field b 0x50 8 = 0) && reserved b 0x60 32 &&
  (!bit f 3 || bit f 2) && (pdNumRt b ≠ 0 || pdDepthEn b) && (!bit f 1 || pdDepthEn b)

/-- The fragment launch's own conditions (R229). -/
def fragBodyOk (fb : List Byte) : Bool :=
  lbGridX fb = 1 && lbGridY fb = 1 && lbGridZ fb = 1 && lbCluster fb = 1 && lbThreads fb = 32 && lbAllocMax fb = 0

/-- RT_KB of a pass (R233): the render-tile claim for targets of `bpp` bytes per pixel in all. -/
def rtKb (b : List Byte) (bpp : Nat) : Nat := ceilDiv (2 * pdTile b * pdTile b * bpp) (1024 * 16) * 16

/-! ## Geometry (R231 to R234) -/

/-- A vertex: X and Y in 1/256 pixel, and Z. -/
structure Vert where
  x : Int
  y : Int
  z : Nat
  deriving DecidableEq, Repr

/-- A triangle as the tests see it: v1 and v2 exchanged when back-facing (R232), its facing, and twice its
area. -/
structure Prim where
  v0    : Vert
  v1    : Vert
  v2    : Vert
  front : Bool
  area  : Int
  deriving DecidableEq, Repr

/-- What primitive `i` is: dropped (R231), culled (R232), or a triangle. -/
inductive PrimKind where
  | dropped
  | culled
  | shown (t : Prim)
  deriving DecidableEq, Repr

/-- The vertex record of an index. -/
def State.vertex (s : State) (r : Run) (b : List Byte) (i : Nat) : Except Nat Vert :=
  (s.eread r (field b 0x20 8 + 16 * i) 16).map (fun v =>
    { x := signed 32 (field v 0 4), y := signed 32 (field v 4 4), z := field v 8 4 })

/-- Vertex `k` of primitive `i`: its index (R231). -/
def State.vertIndex (s : State) (r : Run) (b : List Byte) (i k : Nat) : Except Nat Nat :=
  let n := 3 * i + k
  let sz := if bit (pdFlags b) 3 then 4 else 2
  if bit (pdFlags b) 2 then (s.eread r (field b 0x28 8 + sz * n) sz).map leNat else .ok n

/-- Primitive `i` of a pass (R231, R232). -/
def State.prim (s : State) (r : Run) (b : List Byte) (i : Nat) : Except Nat PrimKind := do
  let i0 ← s.vertIndex r b i 0
  let i1 ← s.vertIndex r b i 1
  let i2 ← s.vertIndex r b i 2
  let n := field b 0x14 4
  if n ≤ i0 || n ≤ i1 || n ≤ i2 then return .dropped
  else
    let p ← s.vertex r b i0
    let q ← s.vertex r b i1
    let w ← s.vertex r b i2
    let far (v : Vert) : Bool := 8388608 < v.x.natAbs || 8388608 < v.y.natAbs
    let a := (q.x - p.x) * (w.y - p.y) - (w.x - p.x) * (q.y - p.y)
    let cull := bits (pdFlags b) 5 4
    if far p || far q || far w then return .dropped
    else if (cull = 1 && a < 0) || (cull = 2 && 0 < a) then return .culled
    else if a < 0 then return .shown { v0 := p, v1 := w, v2 := q, front := false, area := -a }
    else return .shown { v0 := p, v1 := q, v2 := w, front := true, area := a }

/-- E(p) of an edge a → b at a sample (R232). -/
def edgeFn (a b : Vert) (px py : Int) : Int := (b.x - a.x) * (py - a.y) - (b.y - a.y) * (px - a.x)

/-- What the rasteriser reads of primitive `i` (R231): its indices, and its vertices. -/
def State.primSpans (s : State) (r : Run) (b : List Byte) (i : Nat) : List (Nat × Nat) :=
  let sz := if bit (pdFlags b) 3 then 4 else 2
  (if bit (pdFlags b) 2 then [(field b 0x28 8 + sz * (3 * i), 3 * sz)] else []) ++
  (upto 3).filterMap (fun k => match s.vertIndex r b i k with
    | .ok v => if v < field b 0x14 4 then some (field b 0x20 8 + 16 * v, 16) else none
    | .error _ => none)

/-- An edge covers a sample: inside it, or on a top or left edge (R232). -/
def edgeIn (a b : Vert) (px py : Int) : Bool :=
  let e := edgeFn a b px py
  0 < e || (e = 0 && ((a.y = b.y && a.x < b.x) || b.y < a.y))

/-- Coverage of pixel (x, y): its depth before the clamp and its barycentrics (R232). Where v1 and v2 were
exchanged, BARY1 belongs to the exchanged v1, as the tests do (log entry 26). -/
def Prim.cover (t : Prim) (x y : Nat) : Option (Int × Nat × Nat) :=
  let px : Int := (256 * x + 128 : Nat)
  let py : Int := (256 * y + 128 : Nat)
  if t.area = 0 then none
  else if edgeIn t.v0 t.v1 px py && edgeIn t.v1 t.v2 px py && edgeIn t.v2 t.v0 px py then
    let l1 := edgeFn t.v2 t.v0 px py
    let l2 := edgeFn t.v0 t.v1 px py
    let z := (mkFrac ((t.area - l1 - l2) * t.v0.z + l1 * t.v1.z + l2 * t.v2.z) t.area).round
    let bary (l : Int) : Nat := min 65535 ((mkFrac (l * 65536) t.area).round).toNat
    some (z, bary l1, bary l2)
  else none

/-- The depth test (R228, R234). -/
def depthTest (f new old : Nat) : Bool :=
  match f with
  | 0 => false
  | 1 => new < old
  | 2 => new = old
  | 3 => new ≤ old
  | 4 => old < new
  | 5 => new ≠ old
  | 6 => old ≤ new
  | _ => true

/-! ## Tiles (R233) -/

/-- A tile's first pixel and end, clipped to the area. -/
structure TileBox where
  x0 : Nat
  y0 : Nat
  x1 : Nat
  y1 : Nat
  deriving DecidableEq, Repr

/-- Tile columns and rows of the area (R233: tiles are aligned in surface coordinates). -/
def tileCols (b : List Byte) : Nat := (pdX0 b + pdW b - 1) / pdTile b - pdX0 b / pdTile b + 1
def tileRows (b : List Byte) : Nat := (pdY0 b + pdH b - 1) / pdTile b - pdY0 b / pdTile b + 1
def tileCount (b : List Byte) : Nat := tileCols b * tileRows b

/-- Tile `i` of the area, numbered in raster order (R233). -/
def tileBox (b : List Byte) (i : Nat) : TileBox :=
  let n := pdTile b
  let tx := pdX0 b / n + i % tileCols b
  let ty := pdY0 b / n + i / tileCols b
  { x0 := max (tx * n) (pdX0 b), y0 := max (ty * n) (pdY0 b),
    x1 := min ((tx + 1) * n) (pdX0 b + pdW b), y1 := min ((ty + 1) * n) (pdY0 b + pdH b) }

/-- A triangle's bounding box overlaps a tile (R237). -/
def Prim.overlaps (t : Prim) (k : TileBox) : Bool :=
  let lo (f : Vert → Int) : Int := min (f t.v0) (min (f t.v1) (f t.v2))
  let hi (f : Vert → Int) : Int := max (f t.v0) (max (f t.v1) (f t.v2))
  lo Vert.x < (256 * k.x1 : Nat) && (256 * k.x0 : Nat) ≤ hi Vert.x && lo Vert.y < (256 * k.y1 : Nat) &&
  (256 * k.y0 : Nat) ≤ hi Vert.y

/-- The tiles a triangle has entries in, in tile order. -/
def primTiles (b : List Byte) (t : Prim) : List Nat := (upto (tileCount b)).filter (fun i => t.overlaps (tileBox b i))

/-- The cores of the fragment quads, in ascending logical index (R233). -/
def fragCores (fb : List Byte) : List Nat := ((quadsOf (lbQuads fb)).map (fun q => (upto 4).map (fun k => 4 * q + k))).flatten

/-! ## Targets, the stage and tile contents (R242, R245 to R247) -/

/-- The surfaces of a pass's targets, or E_SURFACE_FORMAT (R247). -/
def State.passSurfs (s : State) (r : Run) (b : List Byte) : Except Nat (List (Nat × Surf)) :=
  allOk ((pdTargets b).map (fun p =>
    match s.surfAt r p.2 with
    | .error e => .error e
    | .ok x =>
      if x.block && x.meta' ≠ 0 && x.width % 8 = 0 && x.height % 8 = 0 && (if p.1 = 4 then fmtDepth x.fmt else fmtColour x.fmt)
      then .ok (p.1, x) else .error eSurface))

/-- The blocks of the area inside a surface, in raster order. -/
def areaBlocks (b : List Byte) (x : Surf) : List (Nat × Nat) :=
  ((upto (pdH b / 8)).map (fun j => (upto (pdW b / 8)).map (fun i => (pdX0 b / 8 + i, pdY0 b / 8 + j)))).flatten.filter
    (fun p => 8 * p.1 < x.width && 8 * p.2 < x.height)

/-- The stage's size (R245). -/
def stageBytes (b : List Byte) (sf : List (Nat × Surf)) : Nat :=
  (sf.map (fun p => ceilDiv ((areaBlocks b p.2).length * (64 * fmtBpp p.2.fmt + 1)) 64 * 64)).sum

/-- ERR_DETAIL of E_RESOLVE_UNMAPPED (R245): the target in [31:24], the block's row in [23:12] and its column in [11:0]
(DESIGN CHOICE, log entry 100: the spec gives no layout). -/
def blockDetail (t bx by' : Nat) : Nat := t * 2 ^ 24 + by' * 2 ^ 12 + bx

/-- The footprint pre-check (R245): every block's metadata byte and data slot is translated with the rights it needs, in
the order of the targets and the blocks. The translations, or the first failing block as ERR_DETAIL gives it; a probe that an open
publication holds (R157) is no failure, and is answered as a held load. -/
def State.footprint (s : State) (r : Run) (b : List Byte) (sf : List (Nat × Surf)) :
    Except (Nat × Bool) (List (List (Nat × Nat) × List (Nat × Nat))) :=
  let x := s.runXlat r
  (sf.map (fun p => (areaBlocks b p.2).map (fun q => (p, q)))).flatten.foldl (fun acc e =>
    match acc with
    | .error d => .error d
    | .ok l =>
      let (p, q) := e
      let need := if pdClears b p.1 then rightW else rightW + rightR
      match s.span x need (p.2.metaAddr q.1 q.2) 1, s.span x need (p.2.dataAddr q.1 q.2) (64 * fmtBpp p.2.fmt) with
      | .ok m, .ok k => .ok (l ++ [(m, k)])
      | .error v, _ => .error (failed v p.1 q)
      | _, .error v => .error (failed v p.1 q)) (.ok [])
where
  /-- A block whose translation answers code `v`: held, or failing. -/
  failed (v t : Nat) (q : Nat × Nat) : Nat × Bool := if (heldAt v).isSome then (v, true) else (blockDetail t q.1 q.2, false)

/-- The value of a pixel of a target before any work of the pass: its load op (R228). -/
def State.loadPixel (s : State) (r : Run) (b : List Byte) (t : Nat) (sf : Surf) (x y : Nat) : Except Nat Nat :=
  if pdClears b t then .ok (pixBits sf.fmt sf.clear) else (s.texel r sf x y).map (pixBits sf.fmt)

/-- Bytes of a pixel in a store of render-tile bytes. -/
def pixRead (m : List Host.Cell) (t x y n : Nat) : Nat := leNat (readMem m (pixKey t x y 0) n)

/-- The pixels of a tile inside a surface. -/
def tilePixels (k : TileBox) (x : Surf) : List (Nat × Nat) :=
  (((upto (k.y1 - k.y0)).map (fun j => (upto (k.x1 - k.x0)).map (fun i => (k.x0 + i, k.y0 + j)))).flatten).filter
    (fun q => q.1 < x.width && q.2 < x.height)

/-- The render tile of tile `i` loaded: from the stage where it was stored, otherwise by the load ops
(R242). -/
def State.openTile (s : State) (r : Run) (b : List Byte) (p : Pass) (sf : List (Nat × Surf)) : Except Nat Pass := do
  let k := tileBox b p.tile
  let stored := p.stored.contains p.tile
  let cells ← sf.mapM (fun t => (tilePixels k t.2).mapM (fun q => do
    let n := fmtBpp t.2.fmt
    let v ← if stored then pure (pixRead p.stage t.1 q.1 q.2 n) else s.loadPixel r b t.1 t.2 q.1 q.2
    return (pixKey t.1 q.1 q.2 0, toLE n v)))
  return { p with pix := cells.flatten.foldl (fun m c => writeMem m c.1 c.2) [], opened := true, prim := 0, stamp := 0 }

/-- What the opening of a tile, or the resolve of an area, reads of the targets that load (R228): the blocks among `blocks` of
each. -/
def State.loadSpans (s : State) (r : Run) (b : List Byte) (sf : List (Nat × Surf)) (blocks : Surf → List (Nat × Nat)) : List (Nat × Nat) :=
  ((sf.filter (fun t => !pdClears b t.1)).map (fun t => ((blocks t.2).map (fun q => s.blockReads r t.2 q.1 q.2)).flatten)).flatten

/-- The blocks of a tile inside a surface. -/
def tileBlocks (k : TileBox) (x : Surf) : List (Nat × Nat) :=
  (tilePixels k x).filterMap (fun q => if q.1 % 8 = 0 && q.2 % 8 = 0 then some (q.1 / 8, q.2 / 8) else none)

/-- The render tile stored to the stage (R242, R246). -/
def closeTile (b : List Byte) (p : Pass) (sf : List (Nat × Surf)) : Pass :=
  let k := tileBox b p.tile
  let cells := (sf.map (fun t => (tilePixels k t.2).map (fun q =>
    (pixKey t.1 q.1 q.2 0, readMem p.pix (pixKey t.1 q.1 q.2 0) (fmtBpp t.2.fmt))))).flatten
  { p with stage := cells.foldl (fun m c => writeMem m c.1 c.2) p.stage,
           stored := if p.stored.contains p.tile then p.stored else p.stored ++ [p.tile],
           pix := [], opened := false, tile := p.tile + 1, prim := 0, stamp := 0 }

/-! ## Starting a pass (R239, R240, R245) -/

/-- Chunks of the tile-list pool (R240). -/
def poolChunks (kb : Nat) : Nat := kb * 16

/-- Allocator chunks that hold `n` bytes. -/
def wholeChunks (n : Nat) : Nat := ceilDiv n 65536

/-- Add to a run's tally. -/
def Run.count (r : Run) (k n : Nat) : Run := { r with tally := r.tally ++ [(k, n)] }

/-- A pass before any work. -/
def passStart (direct auto : Bool) : Pass :=
  { phase := if direct then .tiles else .binning, direct := direct, auto := auto, next := 0, skip := 0, entries := 0, lists := [],
    touched := [], stored := [], drawn := (0, 0), poolKb := 0, chunks := [], stageCh := [], final := direct, tile := 0, prim := 0,
    stamp := 0, slots := [], opened := false, pix := [], widths := [], stage := [] }

/-- A pass starts (R229, R240, R245): the stage and the pool are obtained and the footprint is checked. A pass whose RT_KB
could not be had at fetch is refused here where its fragment launch then has no room. -/
def startPass (s : State) (id : Nat) (r : Run) : State :=
  let b := r.cmd.body
  let ch := toCh r.ch
  match s.passSurfs r b with
  | .error e => s.faultRun id e
  | .ok sf =>
    if resLimit r.body (rtKb b ((sf.map (fun p => fmtBpp p.2.fmt)).sum)) = 0 then s.refuseRun id eLaunchRes
    else
    match s.claim r.gen r.asid ch (wholeChunks (stageBytes b sf)) with
    | (.error e, s1) => s1.faultRun id e
    | (.ok stage, s1) =>
      let r0 := { r with pass := some { passStart true false with stageCh := stage } }
      let s2 := s1.setRun id r0
      match s2.footprint r b sf with
      | .error (v, true) => s.faultRun id v
      | .error (d, false) => s2.stopRun id eResolve d
      | .ok slots =>
        let s2 := (s2.touchSpans r none ((pdTargets b).map (fun p => (p.2, 48)))).lookSpans r
          ((sf.map (fun p => ((areaBlocks b p.2).map (fun q => [(p.2.metaAddr q.1 q.2, 1), (p.2.dataAddr q.1 q.2, 64 * fmtBpp p.2.fmt)])).flatten)).flatten)
        let widths := (upto 5).map (fun t => match sf.find? (fun p => p.1 = t) with | some p => fmtBpp p.2.fmt | none => 0)
        let fin (p : Pass) (r : Run) (s : State) : State := s.setRun id { r with pass := some { p with widths := widths, stageCh := stage, slots := slots } }
        if pdMode b = 1 then fin (passStart true false) r s2
        else
          let kb := field b 0x18 2
          match (if kb = 0 then (.error ePool, s2) else s2.claim r.gen r.asid ch (wholeChunks (kb * 1024))) with
          | (.error e, s3) =>
            if e = eMemOffline then s3.faultRun id e else fin (passStart true false) (r.count (Obj.directFallbacks ch) 1) s3
          | (.ok pool, s3) => fin { passStart false (pdMode b = 2) with poolKb := kb, chunks := pool } r s3

/-! ## Binning (R237, R238, R241) -/

/-- Chunks the lists of a pass use (R240). -/
def usedChunks (l : List (Nat × List Nat)) : Nat := (l.map (fun e => ceilDiv e.2.length 14)).sum

/-- AUTO's decision after primitive D − 1 (R238): whether DIRECT is chosen. -/
def autoDirect (b fb : List Byte) (p : Pass) : Bool :=
  let n := pdPrims b
  let d := min 4096 n
  let e := ceilDiv (p.entries * n) d
  n * ceilDiv (tileCount b) (max (fragCores fb).length 1) ≤ 2 * (n + e)

/-- Entry `skip` of primitive `next` joins the list of tile `t`. -/
def Pass.enter (p : Pass) (t : Nat) : Pass :=
  { p with lists := put p.lists t ((look p.lists t).getD [] ++ [p.next]), skip := p.skip + 1,
           entries := p.entries + (if p.next < 4096 then 1 else 0),
           touched := if p.touched.contains t then p.touched else p.touched ++ [t] }

/-- Place the entries of the primitive being binned in the lists, from entry `skip` on. It stops at an entry that finds
no chunk (R241), and answers its tile. -/
def placeEntries (p : Pass) : List Nat → Pass × Option Nat
  | [] => ({ p with next := p.next + 1, skip := 0 }, none)
  | t :: rest =>
    if ((look p.lists t).getD []).length % 14 = 0 && poolChunks p.poolKb ≤ usedChunks p.lists then (p, some t)
    else placeEntries (p.enter t) rest

/-- The pass turns to rasterising: the lists for the last time, or for a split (R242). -/
def toTiles (p : Pass) (final : Bool) : Pass := { p with phase := .tiles, final := final, tile := 0, prim := 0, stamp := 0, opened := false }

/-- A split begins (R242): the rasteriser works the lists with the entry that overflowed, of tile `t`, in its place, so
that binning resumes at the entry after it and the triangle is drawn in each tile exactly once (DEDUCED, log entry 101). -/
def splitAt (p : Pass) (t : Nat) : Pass := toTiles (p.enter t) false

/-- One primitive is binned (R237, R238, R241). A growth call keeps the tile of the entry that waits for it. -/
def binOne (s : State) (id : Nat) (r : Run) (p : Pass) : State :=
  let b := r.cmd.body
  let ch := toCh r.ch
  if p.auto && min 4096 (pdPrims b) ≤ p.next then
    if autoDirect b r.body p then
      (s.setRun id (({ r with pass := some { toTiles p true with auto := false, direct := true, lists := [] } }).count (Obj.autoDirect ch) 1))
    else s.setRun id (({ r with pass := some { p with auto := false } }).count (Obj.autoBinned ch) 1)
  else if pdPrims b ≤ p.next then s.setRun id { r with pass := some (toTiles p true) }
  else match s.prim r b p.next with
  | .error e => s.faultRun id e
  | .ok (.shown t) =>
    let s := s.touchSpans r none (s.primSpans r b p.next)
    let (p1, spill) := placeEntries p ((primTiles b t).drop p.skip)
    match spill with
    | none => s.setRun id { r with pass := some p1 }
    | some tile =>
    if field b 0x1A 2 ≠ 0 && p1.poolKb + field b 0x1A 2 ≤ field b 0x1C 4 then
      s.setRun id { r with pass := some { p1 with phase := .growing, tile := tile } }
    else s.setRun id { r with pass := some (splitAt p1 tile) }
  | .ok _ => (s.touchSpans r none (s.primSpans r b p.next)).setRun id { r with pass := some { p with next := p.next + 1, skip := 0 } }

/-! ## Rasterising (R232, R234, R236) -/

/-- The primitives of the tile being worked, in order. In DIRECT mode every primitive with an entry in the
tile that no split has drawn (R237, R239; log entry 25). -/
def State.tilePrims (s : State) (r : Run) (b : List Byte) (p : Pass) : Except Nat (List Nat) :=
  if !p.direct then .ok ((look p.lists p.tile).getD [])
  else
    let keep := allOk ((upto (pdPrims b)).map (fun i =>
      match s.prim r b i with
      | .error e => .error e
      | .ok (.shown t) =>
        let ts := primTiles b t
        let drawn := i < p.drawn.1 || (i = p.drawn.1 && (ts.take p.drawn.2).contains p.tile)
        .ok (if ts.contains p.tile && !drawn then some i else none)
      | .ok _ => .ok none))
    keep.map (fun l => l.filterMap id)

/-- Stamps of a tile in raster order: the first pixel of each (R234). -/
def stamps (b : List Byte) (k : TileBox) : List (Nat × Nat) :=
  let n := pdTile b
  let bx := k.x0 / n * n
  let by' := k.y0 / n * n
  ((upto (n / 4)).map (fun j => (upto (n / 8)).map (fun i => (bx + 8 * i, by' + 4 * j)))).flatten

/-- What a stamp leaves: depth writes, and the surviving lanes with their barycentrics (R234). -/
def stampTest (b : List Byte) (p : Pass) (sf : List (Nat × Surf)) (k : TileBox) (t : Prim) (st : Nat × Nat) :
    List Host.Cell × List (Nat × Nat) :=
  (upto 32).foldl (fun (a : List Host.Cell × List (Nat × Nat)) l =>
    let x := st.1 + l % 8
    let y := st.2 + l / 8
    let inside := k.x0 ≤ x && x < k.x1 && k.y0 ≤ y && y < k.y1 && sf.all (fun q => x < q.2.width && y < q.2.height)
    match (if inside then t.cover x y else none) with
    | none => a
    | some (z, b1, b2) =>
      let bary := b1 + 65536 * b2
      match sf.find? (fun q => q.1 = 4) with
      | none => (a.1, a.2 ++ [(l, bary)])
      | some (_, d) =>
        let n := fmtBpp d.fmt
        let zc := (clamp 0 (depthMax d.fmt) z).toNat
        if depthTest (field b 4 1) zc (pixRead a.1 4 x y n) then
          ((if bit (pdFlags b) 1 then writeMem a.1 (pixKey 4 x y 0) (toLE n zc) else a.1), a.2 ++ [(l, bary)])
        else a) (p.pix, [])

/-- A fragment group for a stamp (R234): a block of one group, its surviving lanes live. -/
def fragBlock (fb : List Byte) (index core prim : Nat) (front : Bool) (st : Nat × Nat) (live : List (Nat × Nat)) : Block :=
  let mask : LaneMask := BitVec.ofNat 32 ((live.map (fun q => 2 ^ q.1)).sum)
  let g : Group :=
    { startGroup (field fb 0 8) with
      mask := mask, exited := ~~~mask,
      frag := some { prim := prim, front := front, pix := (upto 32).map (fun l => (st.1 + l % 8, st.2 + l / 8)),
                     bary := (upto 32).map (fun l => (look live l).getD 0) } }
  { index := index, core := core, groups := [g], bls := [], staged := [], committed := none }

/-- The work-item index of a fragment group (R106): its tile, then its primitive, then its stamp, so that neither the mode
nor a split changes it (R102, R239; DESIGN CHOICE, log entry 121). -/
def fragIndex (b : List Byte) (tile prim stamp : Nat) : Nat :=
  (tile * pdPrims b + prim) * (pdTile b * pdTile b / 32) + stamp

/-- One stamp of one primitive of the tile being worked (R234), or the next primitive. -/
def rasterStamp (s : State) (id : Nat) (r : Run) (p : Pass) (sf : List (Nat × Surf)) (prims : List Nat) : State :=
  let b := r.cmd.body
  let k := tileBox b p.tile
  match prims[p.prim]? with
  | none => s.setRun id { r with pass := some (closeTile b p sf) }
  | some i =>
    match (stamps b k)[p.stamp]? with
    | none => s.setRun id { r with pass := some { p with prim := p.prim + 1, stamp := 0 } }
    | some st =>
      match s.prim r b i with
      | .error e => s.faultRun id e
      | .ok (.shown t) =>
        let s := if p.stamp = 0 then s.touchSpans r none (s.primSpans r b i) else s
        let (pix, live) := stampTest b p sf k t st
        let p1 := { p with pix := pix, stamp := p.stamp + 1 }
        if live = [] then s.setRun id { r with pass := some p1 }
        else
          let cores := fragCores r.body
          let core := cores[p.tile % max cores.length 1]?.getD 0
          s.setRun id { r with pass := some p1,
                               blocks := r.blocks ++ [fragBlock r.body (fragIndex b p.tile i p.stamp) core i t.front st live] }
      | .ok _ => s.setRun id { r with pass := some { p with prim := p.prim + 1, stamp := 0 } }

/-- The final resolve (R246, R251): every block of the area is encoded; untouched tiles come from their load
op. Its outputs go where the pre-check translated them (R245). The run's outputs and counts are then complete. -/
def State.resolve (s : State) (r : Run) (b : List Byte) (p : Pass) (sf : List (Nat × Surf)) :
    Except Nat (List Host.Cell × Nat × Nat) := do
  let tileOf (x y : Nat) : Nat := (y / pdTile b - pdY0 b / pdTile b) * tileCols b + (x / pdTile b - pdX0 b / pdTile b)
  let outs ← sf.mapM (fun t => (areaBlocks b t.2).mapM (fun q => do
    let n := fmtBpp t.2.fmt
    let px ← (upto 64).mapM (fun i =>
      let x := 8 * q.1 + i % 8
      let y := 8 * q.2 + i / 8
      if p.stored.contains (tileOf x y) then .ok (pixRead p.stage t.1 x y n) else s.loadPixel r b t.1 t.2 x y)
    let (md, data) := encodeBlock t.2.fmt t.2.clear (px.map (pixBits t.2.fmt))
    return ([BitVec.ofNat 8 md], data, md % 64)))
  let all := outs.flatten
  let at' (ks : List (Nat × Nat)) (bs : List Byte) : List Host.Cell := (cellsAt ks bs).take bs.length
  let cells := (all.zip p.slots).foldl (fun m e => stage (stage m (at' e.2.1 e.1.1)) (at' e.2.2 e.1.2.1)) []
  return (cells, all.length, (all.map (fun e => e.2.2)).sum)

/-- The triangles of a pass that are dropped (R231). -/
def State.droppedPrims (s : State) (r : Run) (b : List Byte) : Except Nat Nat :=
  (allOk ((upto (pdPrims b)).map (s.prim r b))).map (fun l => (l.filter (fun k => k = .dropped)).length)

/-- The tiles phase moves on: the next tile with work is opened and worked; after the last, a split ends or
the pass resolves (R242, R246). -/
def tilesStep (s : State) (id : Nat) (r : Run) (p : Pass) : State :=
  let b := r.cmd.body
  let ch := toCh r.ch
  let stop (e : Nat) : State := s.faultRun id e
  match s.passSurfs r b with
  | .error e => stop e
  | .ok sf =>
    if tileCount b ≤ p.tile then
      if !p.final then
        s.setRun id (({ r with pass := some { p with phase := .binning, lists := [], drawn := (p.next, p.skip) } }).count (Obj.splits ch) 1)
      else match s.resolve r b p sf, s.droppedPrims r b with
      | .error e, _ => stop e
      | _, .error e => stop e
      | .ok (cells, blocks, sectors), .ok d =>
        let at' (q : Nat × Nat) : Nat := (8 * q.2 / pdTile b - pdY0 b / pdTile b) * tileCols b + (8 * q.1 / pdTile b - pdX0 b / pdTile b)
        (s.touchSpans r none (s.loadSpans r b sf (fun x => (areaBlocks b x).filter (fun q => !p.stored.contains (at' q))))).setRun id (((((({ r with pass := some { p with phase := .resolved }, staged := cells, finished := true }).count
          (Obj.rasterPasses ch) 1).count (Obj.rasterDropped ch) d).count (Obj.resolveSectors ch) sectors).count
          (Obj.resolveBlocks ch) blocks))
    else match s.tilePrims r b p with
    | .error e => stop e
    | .ok prims =>
      let work := prims ≠ [] || (!p.final && p.touched.contains p.tile && !p.stored.contains p.tile)
      if p.opened then rasterStamp s id r p sf prims
      else if !work then s.setRun id { r with pass := some { p with tile := p.tile + 1 } }
      else match s.openTile r b p sf with
      | .error e => stop e
      | .ok p1 =>
        let load := if p.stored.contains p.tile then [] else s.loadSpans r b sf (tileBlocks (tileBox b p.tile))
        (s.touchSpans r none load).setRun id { r with pass := some p1 }

/-- One move of a pass. -/
def passMove (s : State) (id : Nat) : State :=
  match look s.runs id with
  | none => s
  | some r =>
    match r.pass with
    | none => startPass s id r
    | some p =>
      match p.phase with
      | .fresh => startPass s id r
      | .binning => binOne s id r p
      | .tiles => tilesStep s id r p
      | _ => s

/-- The pass may move: it has not finished, no growth call is out and no fragment group is running. -/
def passReady (s : State) (id : Nat) : Bool :=
  match look s.runs id with
  | none => false
  | some r => !r.finished && r.blocks.all (fun b => b.committed ≠ none) && match r.pass with
    | some p => p.phase ≠ .growing && p.phase ≠ .resolved
    | none => true

/-- A pass moves while it may and each move changes it, at most `n` times. -/
def passRun (id : Nat) : Nat → State → State
  | 0, s => s
  | n + 1, s =>
    if !passReady s id then s
    else
      let s1 := passMove s id
      if look s1.runs id = look s.runs id then s1 else passRun id n s1

/-- A bound on the moves of a pass: every primitive binned, every stamp of every tile for every primitive
and every split. -/
def passFuel (b : List Byte) : Nat := (pdPrims b + 4) * (tileCount b + 2) * 1024 * 4

/-- A raster row (R237, R238): errors of its reads first (R308), then the pass's work. -/
def rasterRow (mode : Nat) (id : Nat) (ecc : Ecc) (s : State) : State :=
  match look s.runs id with
  | none => s
  | some r =>
    if r.eng ≠ .raster || r.cmd.op ≠ 4 || pdMode r.cmd.body ≠ mode || !passReady s id then s
    else
      let s1 := s.noteEcc (toCh r.ch) ecc
      if ecc.bad ≠ none then s1.faultRun id eMemError else passRun id (passFuel r.cmd.body) s1

/-- RASTER_BINNED (R237). -/
def execRasterBinned (run : Nat) (ecc : Ecc) (s : State) : Out := clocked s (rasterRow 0 run ecc)

/-- RASTER_DIRECT (R237). -/
def execRasterDirect (run : Nat) (ecc : Ecc) (s : State) : Out := clocked s (rasterRow 1 run ecc)

/-- RASTER_AUTO (R238). -/
def execRasterAuto (run : Nat) (ecc : Ecc) (s : State) : Out := clocked s (rasterRow 2 run ecc)

/-- POOL_GROW_RETURN (R241, R242): the growth call returns; the pool grows and binning goes on, or the pass
splits. -/
def execPoolGrowReturn (run : Nat) (s : State) : Out :=
  clocked s fun s =>
    match look s.runs run with
    | none => s
    | some r =>
      match r.pass with
      | none => s
      | some p =>
        if p.phase ≠ .growing then s
        else
          let ch := toCh r.ch
          let kb := field r.cmd.body 0x1A 2
          match s.claim r.gen r.asid ch (wholeChunks (kb * 1024)) with
          | (.error e, s1) =>
            if e = eMemOffline then s1.faultRun run e
            else s1.setRun run (({ r with pass := some (splitAt p p.tile) }).count (Obj.poolGrowFails ch) 1)
          | (.ok c, s1) =>
            s1.setRun run (({ r with pass := some { p with phase := .binning, poolKb := p.poolKb + kb, chunks := p.chunks ++ c } }).count
              (Obj.poolGrows ch) 1)

end Sys2Proof.Machine
end

