-- ==== Sys2Proof/Machine/Fetch.lean ====
section
/-! DEFINITION. Fetching commands (R369 to R372, R67, R112, R113, R229, R376, R377, R396, R400): queue
entries, headers, the fetch checks in their order, course nodes, and the write pointer's sampling. -/

namespace Sys2Proof.Machine

/-! ## Clock and windows of a command (R66, R457) -/

/-- Arithmetic clock of an operating point in MHz (R457). -/
def oppMhz (opp : Nat) : Nat := 600 + 100 * opp

/-- Power of one field die at full load at an OPP, in mW (R457). -/
def oppPower (opp : Nat) : Nat := [4500, 5800, 7200, 9100, 11000, 13800, 17000][opp]?.getD 17000

/-- The lowest OPP a channel may run at (R83, R458): CLASS0_FLOOR, or what the program that waits for its tick needs
where that is higher. -/
def State.floorOf (s : State) (ch : Fin 4) : Nat :=
  match (s.pacer ch).change with
  | .waiting _ p => max (s.obj (Obj.class0Floor ch)) p.floorOpp
  | _ => s.obj (Obj.class0Floor ch)

/-- The highest OPP at or below OPP_REQ whose power fits `mw`, never below the floor (R468). -/
def State.oppFor (s : State) (ch : Fin 4) (mw : Nat) : Nat :=
  max (s.floorOf ch) (((upto 7).filter (fun o => o ≤ s.obj (Obj.oppReq ch) && oppPower o ≤ mw)).getLast?.getD 0)

/-- The home OPP of a channel (R468). -/
def State.homeOpp (s : State) (ch : Fin 4) : Nat := s.oppFor ch (s.obj (Obj.chBudget ch))

/-- The arithmetic clock a channel runs at, in MHz (R457). -/
def State.mhz (s : State) (ch : Fin 4) : Nat := oppMhz (s.obj (Obj.oppCur ch))

/-- WCET' of a command at the clock the channel runs at: WCET at 1.0 GHz scaled, rounded up (R66, R459). -/
def State.wcetCycles (s : State) (ch : Fin 4) (c : Nat) : Nat := ceilDiv (c * 1000) (s.mhz ch)

/-- WCET' at the home OPP, which the fetch check, the start rule and the restart rule use (R468). -/
def State.homeCycles (s : State) (ch : Fin 4) (c : Nat) : Nat := ceilDiv (c * 1000) (oppMhz (s.homeOpp ch))

/-- The units a command occupies, in UNIT_MAP order (R65, R230): a pass also occupies its fragment quads,
whose launch body stands after its own. -/
def unitsOf (eng : Nat) (c : Cmd) : Nat :=
  if eng = 3 then cmdUnits 3 c + lbQuads (c.body.drop 128) % 16 else cmdUnits eng c

/-- The maps the units of a mask follow, ascending. -/
def State.mapsOf (s : State) (ch : Fin 4) (units : Nat) : List Nat :=
  let ms := (bitsOf 8 units).map (unitMapOf (s.pacer ch).cfg.unitMap)
  (upto 4).filter ms.contains

/-- The window check of R67 for units of a channel: 0 or the code. -/
def State.windowCode (s : State) (ch : Fin 4) (cls units wcet : Nat) : Nat :=
  match s.mapsOf ch units with
  | [] => 0
  | [m] =>
    if largestWindow (mapRegs (s.pacer ch).cfg.windows m) cls (s.lChk ch) < s.homeCycles ch wcet then eWcetWindow else 0
  | _ => eMapSplit

/-! ## Body checks -/

/-- The launch body's own rules (R112). -/
def launchBodyOk (b : List Byte) : Bool :=
  let inR (lo hi v : Nat) : Bool := lo ≤ v && v ≤ hi
  field b 0 8 % 8 = 0 && field b 0x10 2 ≤ 4096 && field b 0x10 2 % 4 = 0 &&
  inR 32 1024 (lbThreads b) && lbThreads b % 32 = 0 && 1 ≤ lbGridX b && 1 ≤ lbGridY b && 1 ≤ lbGridZ b &&
  (lbCluster b = 1 || lbCluster b = 2 || lbCluster b = 4) && inR 1 15 (lbQuads b) &&
  inR 8 256 (field b 0x1C 2) && field b 0x1C 2 % 8 = 0 && lbBlsKb b ≤ 1776 && lbBlsKb b % 16 = 0 &&
  inR 16 1792 (lbCommitKb b) && lbCommitKb b % 16 = 0 && lbAllocMax b ≤ 256 && reserved b 0x24 12 &&
  lbBlocks b % lbCluster b = 0

/-- The check of a launch body at fetch (R112, R113): 0 or the code. -/
def launchCheck (b : List Byte) : Nat :=
  if !launchBodyOk b then eLaunchFormat else if resLimit b 0 = 0 then eLaunchRes else 0

/-- The check of a copy body at fetch (R376): 0 or the code. -/
def copyCheck (b : List Byte) : Nat :=
  let rows := field b 4 4
  let bytes := field b 8 4
  if !(field b 0 1 ≤ 1 && reserved b 1 3 && 1 ≤ rows && rows ≤ 65536 && 1 ≤ bytes && bytes ≤ 524288 && reserved b 0x0C 4 &&
       (field b 0 1 = 0 || field b 0x18 4 = 0) && reserved b 0x28 24) then eCopy
  else if 524288 < rows * bytes then eCommitFull else 0

/-- The check of a notify body of channel `n` (R377). -/
def notifyCheck (n : Nat) (b : List Byte) : Nat :=
  if field b 0 1 = n || 3 < field b 0 1 || !reserved b 1 3 || field b 8 8 % 8 ≠ 0 then eCopy else 0

/-- The check of a take body of channel `n` (R377). -/
def takeCheck (n : Nat) (b : List Byte) : Nat :=
  if field b 0 1 = n || 3 < field b 0 1 || !reserved b 1 1 || !reserved b 4 4 || field b 8 8 % 16 ≠ 0 then eCopy else 0

/-- Key of heat `h` of a channel. -/
def heatKey (ch h : Nat) : Nat := 16 * ch + h

/-- The check of a course body (R400): 0 or the code. -/
def State.courseCheck (s : State) (ctx ch cls : Nat) (b : List Byte) : Nat :=
  let h := field b 2 1
  let courseOk := match look s.courses (field b 0 2) with
    | none => false
    | some k => k.state = .ready && k.ctx = ctx && k.cls = cls
  let st := s.obj (Obj.heatState ch h)
  let heatOk := h < 16 && (st = 1 || st = 2) && cls = 2 && match look s.heats (heatKey ch h) with
    | none => false
    | some x => x.ctx = ctx
  if !reserved b 3 13 || !courseOk then eCourseFormat
  else if h ≠ 0xFF && !heatOk then eHeat else 0

/-- A run that stands for a command that has not started, for what a fetch check reads in its address
space. -/
def State.protoRun (s : State) (ctx : Nat) (ch : Fin 4) (cls : Nat) (eng : Engine) (c : Cmd) : Run :=
  { origin := .queue 0 0, cmd := c, body := [], eng := eng, ctx := ctx, asid := s.ctxAs ctx,
    gen := (s.space (s.ctxAs ctx)).force.get ch, strict := false, ch := ch, cls := cls, units := 0, map := 0,
    window := 0, wcet := 0, start := 0, tick := 0, blocks := [], nextBlk := 0, status := 0, staged := [],
    stagedN := 0, defers := [], calls := 0, pass := none, cut := 0, tally := [], notice := none, opens := [],
    peerOpen := [], waited := false, finished := false }

/-- The check of a pass at fetch (R228, R229, R233): 0 or the code. The fragment launch body stands after
the pass descriptor. Targets whose surface descriptors cannot be read now count at the pass's start. -/
def State.passCheck (s : State) (ctx : Nat) (ch : Fin 4) (c : Cmd) : Nat :=
  let b := c.body.take 128
  let fb := c.body.drop 128
  if !pdOk b || !launchBodyOk fb || !fragBodyOk fb then eRaster
  else if 1 < (s.mapsOf ch (unitsOf 3 c)).length then eMapSplit
  else match s.passSurfs (s.protoRun ctx ch c.cls .raster c) b with
    | .error e => if (heldAt e).isSome then e else if resLimit fb 0 = 0 then eLaunchRes else 0
    | .ok sf =>
      let bpp := (sf.map (fun p => fmtBpp p.2.fmt)).sum
      if resLimit fb (rtKb b bpp) = 0 then eLaunchRes else 0

/-- The body check of a command (R371, last row): 0 or the code it is refused with. -/
def State.bodyCheck (s : State) (ctx : Nat) (ch : Fin 4) (c : Cmd) : Nat :=
  match c.op with
  | 1 => launchCheck c.body
  | 2 => bearingCheck c.body c.cls
  | 3 => traverseCheck c.body
  | 4 => s.passCheck ctx ch c
  | 5 => copyCheck c.body
  | 6 => notifyCheck ch c.body
  | 7 => takeCheck ch c.body
  | 8 => s.courseCheck ctx ch c.cls c.body
  | _ => 0

/-! ## Headers (R370, R371) -/

/-- The body size of an operation. -/
def bodyBytes (op : Nat) : Nat :=
  match op with
  | 1 => 48
  | 2 => 128
  | 3 => 64
  | 4 => 128
  | 5 => 64
  | 6 => 16
  | 7 => 16
  | 8 => 16
  | _ => 0

/-- Whether an operation is known and runs on an engine (R370). -/
def opOn (op eng : Nat) : Bool :=
  op = 0 || op = 8 || (op = 1 && eng = 0) || (op = 2 && eng = 1) || (op = 3 && eng = 2) || (op = 4 && eng = 3) ||
  ((op = 5 || op = 6 || op = 7) && eng = 4)

/-- The command of a header and its body, at address `a`. -/
def cmdOf (h body : List Byte) (a : Nat) : Cmd :=
  let fl := field h 2 2
  { op := field h 0 1, cls := field h 1 1, immediate := bit fl 0, waitEn := bit fl 1, signalEn := bit fl 2, ring := bit fl 3,
    wcet := field h 4 4, waitBaton := field h 0x0A 2, sigBaton := field h 0x0C 2, waitValue := field h 0x10 8,
    sigValue := field h 0x18 8, user := field h 0x20 8, addr := a, body := body, gen := 0, seed := 0, stamp := none }

/-- The header check of R371: `room` is what the buffer holds from the header on. -/
def headerOk (h : List Byte) (eng cls room : Nat) : Bool :=
  let op := field h 0 1
  let idle := op = 0 || op = 6 || op = 8
  opOn op eng && field h 1 1 = cls && field h 8 2 = bodyBytes op && field h 2 2 < 16 && reserved h 0x0E 2 && reserved h 0x28 8 &&
  48 + bodyBytes op ≤ room && (!idle || (field h 4 4 = 0 && !bit (field h 2 2) 0))

/-- The header check of a tick-program slot's command on an engine (R370): class 0, FLAGS[3:1] 0, WCET_CYCLES ignored. -/
def slotHeaderOk (h : List Byte) (eng : Nat) : Bool :=
  let op := field h 0 1
  opOn op eng && field h 1 1 = 0 && field h 8 2 = bodyBytes op && field h 2 2 < (if op = 0 || op = 6 || op = 8 then 1 else 2) &&
  reserved h 0x0E 2 && reserved h 0x28 8

/-- The engine of a windowed unit: the four quads belong to the launch engine (R369). -/
def engineOfUnit (u : Nat) : Nat := if u < 4 then 0 else u - 3

/-- A context may wait on or signal a baton: it owns it or holds a share (R380). -/
def State.batonOk (s : State) (ctx b : Nat) : Bool :=
  match look s.batons b with
  | none => false
  | some x => x.owner = some ctx || x.shares.contains ctx

/-- The baton check of R371. -/
def State.batonsOk (s : State) (ctx : Nat) (c : Cmd) : Bool :=
  (!c.waitEn || s.batonOk ctx c.waitBaton) && (!c.signalEn || s.batonOk ctx c.sigBaton)

/-! ## Where a command comes from -/

/-- The engine of a code of R369. -/
def engOf (n : Nat) : Engine :=
  match n with
  | 0 => .launch
  | 1 => .bearing
  | 2 => .traverse
  | 3 => .raster
  | _ => .copy

/-- The code of an engine. -/
def engNo : Engine → Nat
  | .launch => 0
  | .bearing => 1
  | .traverse => 2
  | .raster => 3
  | .copy => 4

/-- A command read at fetch: its bytes are read, its header checked, its batons, its windows, its body, in
the order of Table: Fetch checks. The answer is the command with the fault of its context (`fault`) or the
code it is refused with. -/
structure Fetched where
  cmd   : Cmd
  size  : Nat
  fault : Nat
  code  : Nat
  deriving DecidableEq, Repr

/-- Read and check the command at `a` for a context on an engine of a channel (R371); `room` bytes are left
for it. -/
def State.fetchAt (s : State) (ctx : Nat) (ch : Fin 4) (eng cls a room : Nat) : Fetched :=
  let x := s.ctxXlat ctx ch eng cls
  let none' : Cmd := cmdOf (List.replicate 48 0) [] a
  if room < 48 then ⟨none', 0, eCmdFormat, 0⟩
  else match s.loadV x a 48 with
  | .error e => ⟨none', 0, e, 0⟩
  | .ok h =>
    let n := bodyBytes (field h 0 1)
    let good (c : Cmd) : Cmd := { c with signalEn := c.signalEn && s.batonOk ctx c.sigBaton }
    if !headerOk h eng cls room then ⟨good (cmdOf h [] a), 0, eCmdFormat, 0⟩
    else match s.loadV x (a + 48) n with
    | .error e => ⟨good (cmdOf h [] a), 0, e, 0⟩
    | .ok body =>
      let c := cmdOf h body a
      if !s.batonsOk ctx c then ⟨good c, 48 + n, eBatonAccess, 0⟩
      else
        let idle := c.op = 0 || c.op = 6 || c.op = 8
        let win := if idle then 0 else s.windowCode ch cls (cmdUnits eng c) c.wcet
        if win ≠ 0 then ⟨c, 48 + n, 0, win⟩
        else if c.op ≠ 4 then ⟨c, 48 + n, 0, s.bodyCheck ctx ch c⟩
        else if !pdOk body then ⟨c, 48 + n, 0, eRaster⟩
        else match s.loadV x (field body 0x58 8) 48 with
          | .error e => ⟨c, 48 + n, e, 0⟩
          | .ok fb =>
            let c1 := { c with body := body ++ fb }
            ⟨c1, 48 + n, 0, s.bodyCheck ctx ch c1⟩

/-- What a fetched command takes along for its replay record (R448): the generation it was fetched under and,
for a LAUNCH of a context whose log is enabled, the first bytes of its parameter block's digest. -/
def State.stampFetched (s : State) (ctx : Nat) (ch : Fin 4) (eng cls : Nat) (f : Fetched) : Fetched :=
  let b := f.cmd.body
  let f1 := { f with cmd := { f.cmd with gen := ((s.space (s.ctxAs ctx)).force.get ch).num } }
  if f.cmd.op ≠ 1 || f.fault ≠ 0 || f.code ≠ 0 || (look s.replays ctx).isNone then f1
  else match s.loadV (s.ctxXlat ctx ch eng cls) (field b 0x08 8) (field b 0x10 2) with
    | .ok bs => { f1 with cmd := { f1.cmd with seed := leNat ((sha3 bs).take 8) } }
    | .error e => if (heldAt e).isSome then { f1 with fault := e } else f1

/-- A refusal at fetch is recorded: REFUSALS for R67's codes, and a CMD_REFUSE record (R67, R85, R506). -/
def State.noteRefusal (s : State) (ch : Fin 4) (eng q ctx : Nat) (c : Cmd) (code : Nat) : State :=
  let s1 := if code = eWcetWindow || code = eMapSplit then s.bump (Obj.refusals ch) 1 32 else s
  s1.emit 6 ch (unitOf (2 ^ (3 + eng))) c.cls ctx (qid q ctx c.op) code

/-- The state of a context. -/
def State.ctxActive (s : State) (c : Nat) : Bool := (look s.ctxs c).map Context.state = some .active

/-! ## Fetching a queue's next command -/

/-- The generation of a context's address space in force on a channel (R331). -/
def State.genOf (s : State) (ctx : Nat) (ch : Fin 4) : Nat := ((s.space (s.ctxAs ctx)).force.get ch).num

/-- Take the queue's next entry (R370, R371): the buffer it names, or the fault of the context. -/
def State.nextEntry (s : State) (q : Queue) : Except Nat (Nat × Nat) :=
  let x := s.queueXlat q
  match s.loadV x (q.base + 16 * q.rptr) 16 with
  | .error e => .error e
  | .ok e =>
    let a := field e 0 8
    let n := field e 8 4
    if a % 16 ≠ 0 || n < 16 || 1048576 < n || n % 16 ≠ 0 || !reserved e 12 4 then .error eCmdFormat
    else match s.span x rightR a n with
      | .error e => .error e
      | .ok _ => .ok (a, n)

/-- CONSUMED as the engine reads it for a command with RING (R382): the fetched command, faulted where the
ring's range lacks a right, and the queue with the value read. -/
def State.readConsumed (s : State) (q : Queue) (f : Fetched) : Fetched × Queue :=
  if !f.cmd.ring || q.ring = 0 || f.fault ≠ 0 || f.code ≠ 0 then (f, q)
  else match s.loadV (s.queueXlat q) q.ring 4 with
    | .error e => ({ f with fault := if (heldAt e).isSome then e else eTranslation }, q)
    | .ok b => (f, { q with consumed := leNat b })

/-- The key at which an open publication holds a fetch (R157). -/
def Fetched.heldKey (f : Fetched) : Option Nat := (heldAt f.fault).orElse (fun _ => heldAt f.code)

/-- A command that faults at its fetch (R383): its own baton takes the fault's code, then its context is faulted. -/
def State.faultBy (s : State) (q : Queue) (c : Cmd) (code qn : Nat) : State :=
  let s1 := if c.signalEn then s.failBaton c.sigBaton code c.sigBaton 0 q.cls else s
  s1.contextFault q.ctx code qn q.ch (if c.signalEn then some c.sigBaton else none)

/-- The buffer of the next entry is fetched once the last command of the buffer in hand has been (R371). -/
def Queue.prefetches (q : Queue) : Bool := q.bufBytes ≠ 0 && q.bufBytes ≤ q.bufOff && (q.rptr + 1) % q.entries ≠ q.sampled

/-- The fetcher's read pointer (R363): past the entry of the buffer in hand, and past the next one once that has been fetched. -/
def Queue.readPtr (q : Queue) : Nat := (q.rptr + (if q.bufBytes = 0 then 0 else 1) + (if q.ahead then 1 else 0)) % q.entries

/-- A command of a queue is fetched into its track and head, and a faulting or refused one ends. -/
def State.takeFetched (s : State) (qn : Nat) (q0 : Queue) (f0 : Fetched) : State :=
  let (f, q) := s.readConsumed q0 (s.stampFetched q0.ctx (toCh q0.ch) q0.engine q0.cls f0)
  match f.heldKey with
  | some k => s.hold (.queue qn) (some (toCh q.ch)) [k]
  | none =>
  let (id, s1) := s.newId
  let ch := toCh q.ch
  let h : Head := { track := id, cmd := f.cmd, phase := .fetched, gen := s.genOf q.ctx ch }
  let q2 : Queue := { q with head := some h, order := q.order ++ [{ id := id, cmd := f.cmd, outcome := none }], bufOff := q.bufOff + f.size, idle := false }
  let q1 := { q2 with ahead := q2.prefetches }
  let s2 := s1.setQueue qn q1
  if f.fault ≠ 0 then
    let s3 := s2.setQueue qn { q1 with stopped := true }
    ((s3.faultBy q f.cmd f.fault qn).retire qn id (notRun f.fault)).settle
  else if f.code ≠ 0 then ((s2.noteRefusal ch q.engine qn q.ctx f.cmd f.code).retire qn id (notRun f.code)).settle
  else s2.settle

/-- The read of a queue's entry, or of a node of its launch, fails: one that an open publication holds is made again (R157);
another faults the context (R371), and with a node the heat whose step the launch is (R409). -/
def State.entryFault (s : State) (qn : Nat) (q : Queue) (e : Nat) : State :=
  match heldAt e with
  | some k => s.hold (.queue qn) (some (toCh q.ch)) [k]
  | none =>
    let s1 := match q.head.map Head.phase with
      | some (.launched l) => s.faultHeat l
      | _ => s
    ((s1.setQueue qn { q with stopped := true }).contextFault q.ctx e qn q.ch none).settle

/-- What an engine fetches for a queue from `n` bytes at `a` passes the caches (R310). -/
def State.touchFetch (s : State) (q : Queue) (eng a n : Nat) : State :=
  s.touchVia (s.queueXlat q) (unitOf (2 ^ (3 + eng))) (pieces a n)

/-- ENGINE_FETCH of a queue without a head: the next command of the buffer, or of the next entry. -/
def State.fetchNext (s : State) (qn : Nat) (q : Queue) : State :=
  let ch := toCh q.ch
  let go (s : State) (q : Queue) : State :=
    let a := q.bufAddr + q.bufOff
    let f := s.fetchAt q.ctx ch q.engine q.cls a (q.bufBytes - q.bufOff)
    (s.touchFetch q q.engine a f.size).takeFetched qn q f
  if q.bufOff < q.bufBytes then go s q
  else if q.rptr = q.sampled then s
  else match s.nextEntry q with
    | .ok (a, n) => go (s.touchFetch q q.engine (q.base + 16 * q.rptr) 16) { q with bufAddr := a, bufBytes := n, bufOff := 0, ahead := false }
    | .error e => s.entryFault qn q e

/-! ## Nodes of a course launch (R396) -/

/-- The outcome a node depends on, by its dependency number (0 for none): none while it is not over. -/
def depOver (ps : List NodePhase) (d : Nat) : Option Nat :=
  if d = 0 then some 0
  else match ps[d - 1]? with
    | some (.done e) => some e.code
    | _ => none

/-- A launch's lowest node that may be fetched, or that a failed dependency retires, with that code. -/
def Launch.nextNode (x : Launch) : Option (Nat × CourseNode × Nat) :=
  if !x.admitted then none
  else (x.nodes.zipIdx).findSome? (fun p =>
    if x.phases[p.2]? = some .waiting then
      match depOver x.phases p.1.dep0, depOver x.phases p.1.dep1 with
      | some a, some b => some (p.2, p.1, if a = 0 then b else a)
      | _, _ => none
    else none)

/-- Fetch one node of a launch (R396). A node whose dependency failed retires with that code. -/
def State.fetchNode (s : State) (l : Nat) (x : Launch) (q : Queue) : State :=
  let ch := toCh q.ch
  match x.nextNode with
  | none => s
  | some (i, nd, fail) =>
    let (f, q') := s.readConsumed q (s.stampFetched q.ctx ch nd.engine q.cls (s.fetchAt q.ctx ch nd.engine q.cls nd.cmd (48 + 128)))
    match f.heldKey with
    | some k => s.hold (.queue x.queue) (some ch) [k]
    | none =>
    let code := if fail ≠ 0 then fail else f.code
    let h : Head := { track := 0, cmd := f.cmd, phase := .fetched, gen := s.genOf q.ctx ch }
    let s0 := (s.touchFetch q nd.engine nd.cmd f.size).setQueue x.queue q'
    let s1 := { s0 with launches := put s0.launches l { x with phases := x.phases.set i (.fetched h) } }
    if fail = 0 && f.fault ≠ 0 then
      (((s1.faultHeat l).faultBy q f.cmd f.fault x.queue).endOrigin (.node l i) f.cmd (notRun f.fault)).settle
    else if code ≠ 0 then
      let s2 := if fail = 0 then s1.noteRefusal ch nd.engine x.queue q.ctx f.cmd code else s1
      (s2.endOrigin (.node l i) f.cmd (notRun code)).settle
    else s1.settle

/-- ENGINE_FETCH (R371): an engine fetches the next command of a queue, or the next node of the launch at
its head. Nothing is fetched for a context that is not ACTIVE, or for a queue that is stopped or closing. A fetch
that meets an uncorrectable error faults the context (R308). -/
def execEngineFetch (q : Nat) (ecc : Ecc) (s : State) : Out :=
  clocked s fun s =>
    match look s.queues q with
    | none => s
    | some x =>
      if x.stopped || x.closing || !s.ctxActive x.ctx then s
      else
      let s := s.noteEcc (toCh x.ch) ecc
      if ecc.bad.isSome then s.entryFault q x eMemError
      else match x.head with
      | none => s.fetchNext q x
      | some h =>
        match h.phase with
        | .launched l => (match look s.launches l with
            | none => s
            | some y => s.fetchNode l y x)
        | _ => s

/-- FETCHER_SAMPLE (R363): the fetcher samples WPTR and clears RUNG, or commits to idle where nothing has
been rung and its read pointer equals the sampled one. With the last command of a buffer fetched, the entry that the new
sample admits is fetched too (R371). -/
def execFetcherSample (q : Nat) (s : State) : Out :=
  clocked s fun s =>
    match look s.queues q with
    | none => s
    | some x =>
      if !x.rung && x.readPtr = x.sampled then s.setQueue q { x with idle := true }
      else
        let y := { x with sampled := x.wptr, rung := false, idle := false }
        s.setQueue q { y with ahead := y.ahead || y.prefetches }

/-- A fetched command that has not started is fetched again (R331): it leaves the head, and the buffer
stands at it once more. -/
def Queue.unfetch (q : Queue) : Queue :=
  match q.head with
  | none => q
  | some h =>
    if h.phase ≠ .fetched then q
    else
      let n := 48 + bodyBytes h.cmd.op
      let off := q.bufOff - n
      { q with head := none, order := q.order.filter (fun t => t.id != h.track), bufOff := off,
               ahead := false, bufBytes := if off = 0 then 0 else q.bufBytes }

/-- The commands of address space `k` on a channel that have not started are fetched again (R331). -/
def State.unfetchAll (s : State) (ch : Fin 4) (k : Nat) : State :=
  let mine (q : Queue) : Bool := q.ch = ch.val && s.ctxAs q.ctx = k
  { s with
    queues := s.queues.map (fun e => if mine e.2 then (e.1, e.2.unfetch) else e),
    launches := s.launches.map (fun e => match look s.queues e.2.queue with
      | some q => if mine q then (e.1, { e.2 with phases := e.2.phases.map (fun p => match p with
          | .fetched h => if h.phase = .fetched then .waiting else p
          | p => p) }) else e
      | none => e) }

end Sys2Proof.Machine
end

