-- ==== Sys2Proof/Machine/Engine.lean ====
section
/-! DEFINITION. Commands on units (R65 to R73, R157 to R160, R373 to R377): the choice of the command that
starts, starting it, copies, fills and notices, opening, sealing, closing and ending a publication. -/

namespace Sys2Proof.Machine

/-! ## Mailboxes (R358, R361) -/

/-- Keys of mailboxes: host to Marshal and Marshal to host of function f; from channel n to channel m;
from Marshal to Pacer n and back. -/
def mbH2m (f : Nat) : Nat := f
def mbM2h (f : Nat) : Nat := 16 + f
def mbChan (n m : Nat) : Nat := 32 + 4 * n + m
def mbToPacer (n : Nat) : Nat := 48 + n
def mbFromPacer (n : Nat) : Nat := 52 + n

/-- An empty mailbox. -/
def Mailbox.empty : Mailbox := { reg := 0, pending := false, ptr := 0, tag := 0, seq := 0, rc := 0 }

/-- The mailbox of a key. -/
def State.mbox (s : State) (k : Nat) : Mailbox := (look s.mboxes k).getD Mailbox.empty

/-- The state with a mailbox stored. -/
def State.setMbox (s : State) (k : Nat) (m : Mailbox) : State := { s with mboxes := put s.mboxes k m }

/-- A notice sent to a mailbox without a pending one (R358). -/
def Mailbox.send (m : Mailbox) (ptr tag : Nat) : Mailbox := { m with reg := ptr, pending := true, ptr := ptr, tag := tag }

/-- The receiver takes the notice with a return code (R358): SEQ counts it, modulo 256. -/
def Mailbox.take (m : Mailbox) (rc : Nat) : Mailbox := { m with pending := false, seq := (m.seq + 1) % 256, rc := rc }

/-! ## Units that may work (R453, R492, R493, R497) -/

/-- The field die of a channel runs work: it is ON, in service as far as the host is concerned, not being
reset, and has its firmware. -/
def State.dieUp (s : State) (ch : Fin 4) : Bool :=
  s.powerNow ch = 0 && (s.outBy.get ch).isNone && (s.chPend.get ch).reset.isNone &&
  !(s.unitImage (coresetId ch)).needed && s.awake

/-- The fixed unit under test on a channel, in UNIT_MAP order (R496): TEST_STATUS is running, on targets
0x40 to 0x43. -/
def State.testedUnit (s : State) (ch : Fin 4) : Option Nat :=
  let v := s.obj (Obj.testStatus ch)
  if bits v 15 12 = 2 && 0x40 ≤ v % 256 && v % 256 ≤ 0x43 then some (4 + (v % 256 - 0x40)) else none

/-- Windowed unit `u` of a channel starts commands. -/
def State.unitUp (s : State) (ch : Fin 4) (u : Nat) : Bool :=
  s.dieUp ch && !s.unitFailed ch u && s.testedUnit ch ≠ some u

/-! ## Candidates (R65, R71, R373) -/

/-- A command of an engine that may be chosen to start. `key` orders an engine's candidates of one class. -/
structure Cand where
  eng    : Nat
  origin : Origin
  cmd    : Cmd
  ctx    : Nat
  killed : Bool
  units  : Nat
  key    : Nat
  deriving DecidableEq, Repr

/-- Units in use on a channel, as a mask. -/
def State.busyUnits (s : State) (ch : Fin 4) : List Nat :=
  ((s.runs.filter (fun e => e.2.ch = ch.val)).map (fun e => bitsOf 8 e.2.units)).flatten

/-- A node has started and its completion is still to come. -/
def NodePhase.under : NodePhase → Option Cmd
  | .fetched h => (match h.phase with
    | .running _ => some h.cmd
    | _ => none)
  | .ended c _ => some c
  | _ => none

/-- Completion entries that come before that of the command at `o` (R382): those of the queue's earlier commands, and those of
other nodes of its launch that have started. -/
def State.ringAhead (s : State) (q : Queue) (o : Origin) : Nat :=
  match o with
  | .queue _ t => ((q.order.takeWhile (fun x => x.id ≠ t)).filter (fun x => x.cmd.ring)).length
  | .node l i =>
    match look s.launches l with
    | none => 0
    | some x => ((q.order.takeWhile (fun y => y.id ≠ x.track)).filter (fun y => y.cmd.ring)).length +
        (x.phases.zipIdx.filter (fun p => p.2 ≠ i && (p.1.under.map Cmd.ring) = some true)).length
  | .slot _ _ _ => 0

/-- CONSUMED leaves room for the ring entry of the command at `o`, at the SEQ it will take (R382). -/
def State.ringRoom (s : State) (q : Queue) (o : Origin) (c : Cmd) : Bool :=
  !c.ring || q.ring = 0 || (q.nextSeq + s.ringAhead q o + 2 ^ 32 - q.consumed) % 2 ^ 32 ≤ q.ringN

/-- The key at which an open publication holds the read of CONSUMED of a replay log (R157). -/
def State.replayHeld (s : State) (q : Queue) : Option Nat :=
  if (look s.replays q.ctx).isNone then none
  else match s.loadV (s.queueXlat q) (s.obj (Obj.replayLog q.ctx)) 8 with
    | .error e => heldAt e
    | .ok _ => none

/-- The replay log of a context has room for a record (R448): fewer than REPLAY_ENTRIES records lie above
CONSUMED, the U64 at REPLAY_LOG. -/
def State.replayRoom (s : State) (q : Queue) : Bool :=
  (look s.replays q.ctx).isNone ||
  match s.loadV (s.queueXlat q) (s.obj (Obj.replayLog q.ctx)) 8 with
  | .error e => (heldAt e).isNone
  | .ok b => s.obj (Obj.replayStep q.ctx) < leNat b + s.obj (Obj.replayEntries q.ctx)

/-- A heat step waits for the step of its heat that is under way (R401). -/
def State.heatBusy (s : State) (ch : Nat) (c : Cmd) : Bool :=
  c.op = 8 && field c.body 2 1 ≠ 0xFF && s.obj (Obj.heatState ch (field c.body 2 1)) = 2

/-- What the command at `o` waits for besides its units and its window: its baton, its context, room in the ring and the
replay log, a notice for a TAKE, another step of its heat (R372, R377, R378, R382, R383, R387, R401, R448). -/
def State.waitOver (s : State) (q : Queue) (o : Origin) (c : Cmd) : Bool :=
  s.ctxActive q.ctx && !q.stopped && !q.closing && s.waitMet c && s.ringRoom q o c && s.replayRoom q &&
  (c.op ≠ 7 || (s.mbox (mbChan (field c.body 0 1) q.ch)).pending) && !s.heatBusy q.ch c

/-- The candidate of a head of queue `qn`, bound to engine `eng`, if it waits to start there. -/
def State.candOf (s : State) (ch : Fin 4) (eng qn : Nat) (q : Queue) (o : Origin) (h : Head) (sub : Nat) : List Cand :=
  let unitOp := h.cmd.op ≠ 0 && h.cmd.op ≠ 6 && h.cmd.op ≠ 8
  if q.ch = ch.val && unitOp && (h.phase = .fetched || h.phase = .killed) && s.waitOver q o h.cmd then
    [{ eng := eng, origin := o, cmd := h.cmd, ctx := q.ctx, killed := h.phase = .killed, units := unitsOf eng h.cmd,
       key := ((qn + 2048 - s.tick ch % 2048) % 2048) * 1024 + sub }]
  else []

/-- The candidates of the queues and course nodes of a channel's engines (R373, R396). -/
def State.cands (s : State) (ch : Fin 4) : List Cand :=
  (s.queues.map (fun e => match e.2.head with
    | some h => s.candOf ch e.2.engine e.1 e.2 (.queue e.1 h.track) h 0
    | none => [])).flatten ++
  (s.launches.map (fun e => match look s.queues e.2.queue with
    | none => []
    | some q => ((e.2.phases.zipIdx).map (fun p => match p.1 with
      | .fetched h => s.candOf ch ((e.2.nodes[p.2]?.map CourseNode.engine).getD 0) e.2.queue q (.node e.1 p.2) h p.2
      | _ => [])).flatten)).flatten

/-- The lesser of two candidates: a killed one first, then the lower class, then the order of R373. -/
def candLess (a b : Cand) : Bool :=
  if a.killed ≠ b.killed then a.killed
  else if a.cmd.cls ≠ b.cmd.cls then a.cmd.cls < b.cmd.cls
  else a.key < b.key

/-- The least candidate of a list. -/
def leastCand : List Cand → Option Cand
  | [] => none
  | a :: t => match leastCand t with
    | none => some a
    | some b => if candLess b a then some b else some a

/-- The open window that units of a mask stand in at cycle `c` of the tick: their one map and the window. -/
def State.windowAt (s : State) (ch : Fin 4) (units c : Nat) : Option (Nat × OpenWindow) :=
  match s.mapsOf ch units with
  | [m] =>
    match (s.pacer ch).wins.get (toCh m) with
    | some w => if w.start ≤ c && c < w.stop then some (m, w) else none
    | none => none
  | _ => none

/-- A slot that its unit has been sent and that has not sealed (R78): while there is one, class 0 has work
on the unit. A slot that waits for a dependency counts, so its gap is not backfilled (DEDUCED from R77,
log entry 27). -/
def SlotPhase.live : SlotPhase → Bool
  | .waiting => true
  | .running _ => true
  | _ => false

/-- Class 0 has slots on a unit in a window. -/
def State.class0Busy (s : State) (ch : Fin 4) (units window : Nat) : Bool :=
  (s.curSlots ch).zipIdx.any (fun q => units.testBit q.1.unit && q.1.window = window &&
    match (s.pacer ch).slots[q.2]? with
    | some p => p.live
    | none => false)

/-- Quads reserved by a launch other than `o` (R373). -/
def State.heldUnits (s : State) (ch : Fin 4) (o : Origin) : List Nat :=
  ((s.quadHolds.filter (fun h => h.1 = ch.val && h.2.2 ≠ o)).map (fun h =>
    match h.2.2 with
    | .queue q _ => ((look s.queues q).bind (fun x => x.head.map (fun h => bitsOf 4 (lbQuads h.cmd.body % 16)))).getD []
    | .node l i => (match (look s.launches l).bind (fun x => x.phases[i]?) with
        | some (.fetched h) => bitsOf 4 (lbQuads h.cmd.body % 16)
        | _ => [])
    | .slot _ _ _ => [])).flatten

/-- Every unit of a mask is up, free and, unless the command is of class 0, not reserved by another
launch. -/
def State.unitsFree (s : State) (ch : Fin 4) (o : Origin) (cls units : Nat) : Bool :=
  (bitsOf 8 units).all (fun u => s.unitUp ch u && !(s.busyUnits ch).contains u && (cls = 0 || !(s.heldUnits ch o).contains u))

/-- A candidate may start in a window of its own class, at cycle `c` (R68, R71). -/
def State.ownStart (s : State) (ch : Fin 4) (k : Cand) (w : OpenWindow) (c : Nat) : Bool :=
  let wc := s.homeCycles ch k.cmd.wcet
  k.cmd.cls = w.cls &&
  (if k.killed then c = w.start && wc ≤ w.stop - w.start else !k.cmd.immediate || c + wc ≤ w.stop)

/-- Two candidates name a unit in common. -/
def Cand.meets (a b : Cand) : Bool := (bitsOf 8 a.units).any (fun u => b.units.testBit u)

/-- A candidate is ready (R373): its wait is over, and a LAUNCH finds every quad it names free and not reserved by
another. -/
def State.headReady (s : State) (ch : Fin 4) (a : Cand) : Bool :=
  a.cmd.op ≠ 1 || (bitsOf 8 a.units).all (fun u => !(s.busyUnits ch).contains u && !(s.heldUnits ch a.origin).contains u)

/-- The conditions of a start at cycle `c` of the tick (R65, R68, R71, R373): the candidate's units are free, their
window is its own, or is backfilled because the owner class has nothing ready there, on whichever engine. -/
def State.canStart (s : State) (ch : Fin 4) (all : List Cand) (c : Nat) (k : Cand) : Bool :=
  s.unitsFree ch k.origin k.cmd.cls k.units &&
  match s.windowAt ch k.units c with
  | none => false
  | some (_, w) =>
    if k.cmd.cls = w.cls then s.ownStart ch k w c
    else
      let owner := if w.cls = 0 then s.class0Busy ch k.units w.index
        else all.any (fun a => a.cmd.cls = w.cls && a.meets k && s.headReady ch a)
      w.backfill && w.cls < k.cmd.cls && !k.killed && !owner &&
      (!k.cmd.immediate || c + s.homeCycles ch k.cmd.wcet ≤ w.stop)

/-! ## Requests of one cycle (R76)

At resources below the units the order of one cycle is that of the queue (DESIGN CHOICE, log entry 143). -/

/-- The place of requester port `p` of `n` in the order of tick `t` (R76): (p − ptr) mod N with ptr = t mod N. -/
def portRank (p n t : Nat) : Nat := (p + n - t % n) % n

/-- The request that wins a shared resource with `n` requester ports, each request given as its class and port (R76):
the lowest class, then the least (p − ptr) mod N. -/
def requestBefore (n t : Nat) (a b : Nat × Nat) : Bool :=
  if a.1 ≠ b.1 then a.1 < b.1 else portRank a.2 n t < portRank b.2 n t

/-- The tick number that orders requests for a resource (R76): its channel's, or channel 0's for the host port
complex. -/
def State.portTick (s : State) (owner : Option (Fin 4)) : Nat := s.tick (owner.getD 0)

/-- The requester port of a front end at a quad (R230): 0 the launch engine's, 1 the rasteriser's (log entry 89). -/
def frontPort (eng : Nat) : Nat := if eng = 3 then 1 else 0

/-- Candidate `a` goes before candidate `b` of another engine (R71, R76, R230): a killed one first, then as requests for
the quads they share. -/
def State.candBefore (s : State) (ch : Fin 4) (a b : Cand) : Bool :=
  if a.killed ≠ b.killed then a.killed
  else requestBefore 2 (s.portTick (some ch)) (a.cmd.cls, frontPort a.eng) (b.cmd.cls, frontPort b.eng)

/-- A candidate may start at cycle `c` (R65, R71, R76, R230): it meets the conditions, and no candidate of another engine
that does and shares a unit goes before it. -/
def State.mayStart (s : State) (ch : Fin 4) (all : List Cand) (c : Nat) (k : Cand) : Bool :=
  s.canStart ch all c k &&
  !all.any (fun a => a.eng ≠ k.eng && a.meets k && s.canStart ch all c a && s.candBefore ch a k)

/-! ## Reservations (R373) -/

/-- Reservations whose launch still waits at its head. -/
def State.dropHolds (s : State) (ch : Fin 4) (all : List Cand) : State :=
  { s with quadHolds := s.quadHolds.filter (fun h => h.1 ≠ ch.val || all.any (fun k => k.origin = h.2.2)) }

/-- The candidate that comes first by queue number and tick alone (R373, item 2). -/
def firstCand : List Cand → Option Cand
  | [] => none
  | a :: t => match firstCand t with
    | none => some a
    | some b => if b.key < a.key then some b else some a

/-- The first launch of class `cls`, in the order of R373, that finds a quad it names busy in a window open
to it, a killed one among them, reserves them all, where no launch of its class has a reservation. -/
def State.addHold (s : State) (ch : Fin 4) (all : List Cand) (c cls : Nat) : State :=
  if s.quadHolds.any (fun h => h.1 = ch.val && h.2.1 = cls) then s
  else match firstCand (all.filter (fun k => k.cmd.op = 1 && k.cmd.cls = cls &&
      (bitsOf 8 k.units).any (s.busyUnits ch).contains && (s.windowAt ch k.units c).isSome)) with
    | none => s
    | some k => { s with quadHolds := s.quadHolds ++ [(ch.val, cls, k.origin)] }

/-! ## Killed commands without a window (R71) -/

/-- A killed command for which no window of its own class is long enough is refused as in R67. -/
def State.refuseKilled (s : State) (ch : Fin 4) (eng : Nat) : State :=
  forEach ((s.cands ch).filter (fun k => k.eng = eng && k.killed)) (fun s k =>
    match s.windowCode ch k.cmd.cls k.units k.cmd.wcet with
    | 0 => s
    | code =>
      let s1 := s.noteRefusal ch eng (s.originQueue k.origin) k.ctx k.cmd code
      (s1.endOrigin k.origin k.cmd (notRun code)).settle) s

/-! ## Starting (R65, R105, R331) -/

/-- A command runs in strict order (R105). -/
def State.strictFor (s : State) (ch : Fin 4) (cls ctx : Nat) : Bool :=
  cls = 0 || ((look s.ctxs ctx).map Context.strict).getD false || (s.latched.get ch).strictAll

/-- The launch body under which a command's groups run: its own, or a pass's fragment body. -/
def launchBodyOf (eng : Engine) (c : Cmd) : List Byte :=
  if eng = .raster then (c.body.drop 128).take 48 else c.body

/-- The extents of a copy, translated and checked at its start (R376): 0 or the code. -/
def State.copyStart (s : State) (r : Run) : Nat :=
  let b := r.cmd.body
  let n := field b 8 4
  let rows := upto (field b 4 4)
  let x := s.runXlat r
  let bad (need base pitch : Nat) : Option Nat := rows.findSome? (fun i => match s.span x need (base + i * pitch) n with
    | .error e => some e
    | .ok _ => none)
  let src := if field b 0 1 = 1 then none else bad rightR (field b 0x10 8) (field b 0x18 4)
  (src.orElse (fun _ => bad rightW (field b 0x20 8) (field b 0x1C 4))).getD 0

/-- The texture caches of the quads a command starts on are emptied (R254). -/
def State.emptyTex (s : State) (ch : Fin 4) (units : Nat) : State :=
  { s with texCaches := s.texCaches.mod ch (fun c => (bitsOf 4 (units % 16)).foldl (fun c q => c.set (toCh q) []) c) }

/-- A command starts on its units at the state's time (R65, R69). -/
def State.startRun (s : State) (ch : Fin 4) (eng : Engine) (o : Origin) (c : Cmd) (ctx units map : Nat) (w : OpenWindow) : State :=
  let (id, s1) := s.newId
  let r : Run :=
    { s.protoRun ctx ch c.cls eng c with
      origin := o, body := launchBodyOf eng c, strict := s.strictFor ch c.cls ctx, units := units, map := map, window := w.index,
      wcet := s.wcetCycles ch c.wcet, start := s.now, tick := s.tick ch }
  let s2 := (s1.setRun id r).setPhase o (.running id)
  let s3 := { s2 with quadHolds := s2.quadHolds.filter (fun h => h.2.2 != o) }
  let s4 := s3.splitMod ch units w.index (fun x => { x with starts := x.starts + 1 })
  let s5 := if c.cls = 0 then s4 else ({ s4 with lend := s4.lend.mod ch (fun l => { l with started := true }) } : State).emit 3 ch (unitOf units) c.cls ctx (qid (s.originQueue o) ctx c.op) c.addr
  let s6 := (s5.dropHostLines ch r.asid).emptyTex ch units
  if c.op = 5 then (match s6.copyStart r with
    | 0 => s6
    | e => s6.faultRun id e) else s6

/-! ## Class 0 slots (R78) -/

/-- A dependency of a slot has sealed. -/
def depSealed (ps : List SlotPhase) (d : Nat) : Bool := d = 0 || ps[d - 1]? = some .sealed

/-- The context a channel's tick program displays. -/
def State.slotCtx (s : State) (ch : Fin 4) : Nat := ((s.pacer ch).program.map Program.ctx).getD 0

/-- The command of a slot as its bytes lie in memory, or the first read of it that an open publication holds (R155, R157):
its header and body, the fragment body of a pass, and what its check reads. -/
def State.slotCmd (s : State) (ch : Fin 4) (sl : Slot) : Except Nat Cmd :=
  let h := s.read sl.desc 48
  let n := bodyBytes (field h 0 1)
  match (pieces sl.desc (48 + n)).find? (s.isHeld ch) with
  | some k => .error (heldCode k)
  | none =>
    let body := s.read (sl.desc + 48) n
    let c0 := { cmdOf h body sl.desc with cls := 0 }
    let frag : Except Nat Cmd :=
      if c0.op ≠ 4 then .ok c0
      else match s.loadV (s.ctxXlat (s.slotCtx ch) ch 3 0) (field body 0x58 8) 48 with
        | .ok fb => .ok { c0 with body := body ++ fb }
        | .error e => if (heldAt e).isSome then .error e else .ok c0
    frag.bind (fun c => match heldAt (s.bodyCheck (s.slotCtx ch) ch c) with
      | some k => .error (heldCode k)
      | none => .ok c)

/-- Slot `i` of an engine of a channel has been dispatched and waits for nothing but its unit (R78): its dependencies have
sealed, and no earlier slot of its unit in the window is unsealed. -/
def State.slotDue (s : State) (ch : Fin 4) (eng : Nat) (sl : Slot) (i : Nat) : Bool :=
  let p := s.pacer ch
  engineOfUnit sl.unit = eng && p.slots[i]? = some .waiting && depSealed p.slots sl.dep0 && depSealed p.slots sl.dep1 &&
  !((s.curSlots ch).zipIdx.any (fun x => x.2 < i && x.1.unit = sl.unit && x.1.window = sl.window &&
    match p.slots[x.2]? with
    | some ph => ph.live
    | none => false))

/-- The slots of an engine that wait for an open publication, each with the key that is held (R155, R157). -/
def State.slotHolds (s : State) (ch : Fin 4) (eng : Nat) : List (Nat × Nat) :=
  (s.curSlots ch).zipIdx.filterMap (fun q =>
    if !s.slotDue ch eng q.1 q.2 then none
    else match s.slotCmd ch q.1 with
      | .error e => (heldAt e).map (fun k => (q.2, k))
      | .ok _ => none)

/-- The first slot of an engine of a channel that may start at cycle `c`: it waits for nothing but its unit, whose window is
open and which is free, and no open publication holds what is read at its start (R155, R157). -/
def State.readySlot (s : State) (ch : Fin 4) (eng c : Nat) : Option (Nat × Slot × Cmd × Nat × OpenWindow) :=
  (s.curSlots ch).zipIdx.findSome? (fun q =>
    if !s.slotDue ch eng q.1 q.2 then none
    else match s.slotCmd ch q.1 with
      | .error _ => none
      | .ok cm =>
        let units := unitsOf eng cm ||| 2 ^ q.1.unit
        match s.windowAt ch units c with
        | some (m, w) =>
          if w.cls ≠ 0 || w.index ≠ q.1.window || !s.unitsFree ch (.slot ch 0 0) 0 units then none
          else some (q.2, q.1, cm, m, w)
        | none => none)

/-- A slot whose command runs no unit (R374, R377): a FENCE has nothing to wait for, and a NOTIFY sends its notice where
the mailbox holds none. -/
def State.startIdle (s : State) (id : Nat) (c : Cmd) : State :=
  match look s.runs id with
  | none => s
  | some r =>
    let k := mbChan r.ch (field c.body 0 1)
    if c.op = 0 then s.setRun id { r with finished := true }
    else if c.op = 6 && !(s.mbox k).pending then
      (s.setMbox k ((s.mbox k).send (field c.body 8 8) (field c.body 4 4))).setRun id { r with finished := true }
    else s

/-- A notice sent or a mailbox freed lets the NOTIFYs of slots that have started, and that found their mailbox full, send
theirs (R374, R377). -/
def State.retryNotify (s : State) : State :=
  forEach s.runs (fun s e => if e.2.cls = 0 && e.2.cmd.op = 6 && !e.2.finished then s.startIdle e.1 e.2.cmd else s) s

/-- A slot starts (R78), its command read through the caches (R310). A body that fails its check, memory that is out of service, or an uncorrectable error of the reads
at its start abandons it (R73, R201, R308). -/
def State.startSlot (s : State) (ch : Fin 4) (eng i : Nat) (sl : Slot) (c : Cmd) (m : Nat) (w : OpenWindow) (bad : Bool) : State :=
  let v := s.variantNow ch
  let ctx := s.slotCtx ch
  let (id, _) := s.newId
  let s0 := forEach (pieces sl.desc (48 + bodyBytes c.op)) (fun s a => s.cacheRead ch 0 0 sl.unit a rightR false) s
  let s1 := s0.startRun ch (engOf eng) (.slot ch v i) c ctx (unitsOf eng c ||| 2 ^ sl.unit) m w
  match look s1.runs id with
  | none => s1
  | some _ =>
    let s2 := s1.setPacer ch { s1.pacer ch with slots := (s1.pacer ch).slots.set i (.running id) }
    match if bad then eMemError else s2.bodyCheck ctx ch c with
    | 0 => s2.startIdle id c
    | e => s2.abandon id e

/-! ## COMMAND_START -/

/-- Reads before a start that open publications hold are held loads (R157, R165): those of an engine's slots, and of CONSUMED
of the replay logs of a channel's queues. -/
def State.holdStarts (s : State) (ch : Fin 4) (eng : Nat) : State :=
  let s1 := forEach (s.slotHolds ch eng) (fun s p => s.hold (.slot ch p.1) (some ch) [p.2]) s
  forEach (s1.queues.filter (fun e => e.2.ch = ch.val && e.2.head.isSome)) (fun s e => s.hold (.queue e.1) (some ch) (s.replayHeld e.2).toList) s1

/-- The start of a command of classes 1 to 3 whose reads met an uncorrectable error: it faults (R308). -/
def State.startBad (s : State) (before : Nat) (bad : Bool) : State :=
  if bad && (look s.runs before).isSome then s.faultRun before eMemError else s

/-- COMMAND_START (R65, R373): at time `now` an engine of a channel starts a class 0 slot that is due, or
the first command that may start; `ecc` are the errors its reads met (R308). A channel that lends, or waits for its home OPP
after lending, starts no command of classes 1 to 3 (R470). -/
def execCommandStart (ch : Fin 4) (eng : Engine) (now : Nat) (ecc : Ecc) (s : State) : Out :=
  clocked s fun s =>
    let e := engNo eng
    let p := s.pacer ch
    if now < s.now || now < p.edge || p.edge + p.len ≤ now then s
    else
      let c := now - p.edge
      let s := (s.noteEcc ch ecc).holdStarts ch e
      match (s.at now).readySlot ch e c with
      | some (i, sl, cm, m, w) => (s.at now).startSlot ch e i sl cm m w ecc.bad.isSome
      | none =>
        if (s.lend.get ch).lending || (s.lend.get ch).backAt.isSome then s
        else
        let s1 := s.refuseKilled ch e
        let all := s1.cands ch
        let s2 := s1.dropHolds ch all
        let s3 := [1, 2, 3].foldl (fun s cls => s.addHold ch all c cls) s2
        match leastCand (all.filter (fun k => k.eng = e && s3.mayStart ch all c k)) with
        | none => s3
        | some k =>
          match s3.windowAt ch k.units c with
          | none => s3
          | some (m, w) => ((s3.at now).startRun ch eng k.origin k.cmd k.ctx k.units m w).startBad s3.nextId ecc.bad.isSome

/-! ## LAUNCH, COPY, FILL, TAKE -/

/-- LAUNCH (R112 to R114): a running launch starts the blocks its cores have room for, in ascending
cluster order. -/
def launchStep (id : Nat) (s : State) : State :=
  match look s.runs id with
  | none => s
  | some r =>
    let body := r.body
    let cl := max (lbCluster body) 1
    if r.eng ≠ .launch || r.cmd.op ≠ 1 || r.finished then s
    else
      let place (r : Run) (c : Nat) : Run :=
        if r.blocks.any (fun b => b.index / cl = c) || (upto cl).any (fun k => resLimit body 0 ≤ r.resident (placeCore body c k)) ||
           (upto c).any (fun d => !r.blocks.any (fun b => b.index / cl = d) && (upto cl).any (fun k => placeCore body d k = placeCore body c k))
        then r
        else { r with nextBlk := r.nextBlk + cl,
                      blocks := r.blocks ++ (upto cl).map (fun k => startBlock body (c * cl + k) (placeCore body c k)) }
      s.setRun id ((upto (lbBlocks body / cl)).foldl place r)

/-- LAUNCH (R112 to R114). -/
def execLaunch (run : Nat) (s : State) : Out := clocked s (launchStep run)

/-- The staged bytes of rows written at DST + i × DST_PITCH (R376). -/
def copyRows (s : State) (r : Run) (row : Nat → Except Nat (List Byte)) : Except Nat (List Host.Cell) :=
  let b := r.cmd.body
  (upto (field b 4 4)).foldl (fun acc i =>
    match acc, row i with
    | .error e, _ => .error e
    | _, .error e => .error e
    | .ok cs, .ok bs =>
      match s.stageV (s.runXlat r) (field b 0x20 8 + i * field b 0x1C 4) bs with
      | .error e => .error e
      | .ok c => .ok (stage cs c)) (.ok [])

/-- The rows of a copy from `base`, `pitch` apart. -/
def copySpans (b : List Byte) (base pitch : Nat) : List (Nat × Nat) := (upto (field b 4 4)).map (fun i => (base + i * pitch, field b 8 4))

/-- COPY (R376) in COPY mode: every source byte is read and staged before any is published. -/
def execCopy (run : Nat) (ecc : Ecc) (s : State) : Out :=
  clocked s fun s => engineRow s run (fun r => r.cmd.op = 5 && field r.cmd.body 0 1 = 0) ecc (fun r => do
    let b := r.cmd.body
    let cs ← copyRows s r (fun i => s.eread r (field b 0x10 8 + i * field b 0x18 4) (field b 8 4))
    return { cells := cs, tally := [], cut := 0, reads := copySpans b (field b 0x10 8) (field b 0x18 4),
             writes := copySpans b (field b 0x20 8) (field b 0x1C 4) })

/-- COPY (R376) in FILL mode: the 8-byte value repeats from each row's start. -/
def execFill (run : Nat) (s : State) : Out :=
  clocked s fun s => engineRow s run (fun r => r.cmd.op = 5 && field r.cmd.body 0 1 = 1)
    { corrected := [], bad := none, via := .mem } (fun r => do
      let b := r.cmd.body
      let v := slice b 0x10 8
      let row := (upto (field b 8 4)).map (fun j => (v.drop (j % 8)).headD 0)
      let cs ← copyRows s r (fun _ => .ok row)
      return { cells := cs, tally := [], cut := 0, reads := [], writes := copySpans b (field b 0x20 8) (field b 0x1C 4) })

/-- TAKE (R377): the record PTR, TAG, 0 is staged at DEST; the notice is taken at the seal. -/
def execTake (run : Nat) (s : State) : Out :=
  clocked s fun s =>
    match look s.runs run with
    | none => s
    | some r =>
      let b := r.cmd.body
      let k := mbChan (field b 0 1) r.ch
      let m := s.mbox k
      if r.cmd.op ≠ 7 || r.finished || !m.pending then s
      else match s.stageV (s.runXlat r) (field b 8 8) (toLE 8 m.ptr ++ toLE 4 m.tag ++ toLE 4 0) with
      | .error e => s.faultRun run e
      | .ok cells => (s.lookSpans r [(field b 8 8, 16)]).setRun run { r with staged := cells, notice := some (k, field b 2 2), finished := true }

/-! ## Publication (R157 to R160) -/

/-- All staged bytes of a run: the engine's own and its blocks', merged in ascending block order. -/
def Run.allStaged (r : Run) : List Host.Cell :=
  (r.blocks.mergeSort (fun a b => a.index ≤ b.index)).foldl (fun m b => stage m b.staged) r.staged

/-- Deferred operations (R106, R164); a FREE, which takes effect at the seal (R136), apart. -/
def Run.memDefers (r : Run) : List Defer := r.defers.filter (fun d => d.kind ≠ .free)

/-- The channels whose memory a set of outputs writes. -/
def writtenChans (cs : List Host.Cell) (ds : List Defer) : List (Fin 4) :=
  chans.filter (fun n => cs.any (fun c => c.1 < devEnd && chanOf c.1 = n) ||
    ds.any (fun d => d.home.isNone && d.addr < devEnd && chanOf d.addr = n))

/-- Every coherence point a run publishes to. -/
def State.runPoints (s : State) (r : Run) : List CohPoint :=
  ((writtenChans r.allStaged r.memDefers).map s.pointsOf).flatten

/-! ## Window forwarding (R422, R423) -/

/-- Entry `i` of a window table: LOCAL, PEER, LENGTH and FLAGS. -/
def winEntry (tbl : List Byte) (i : Nat) : Nat × Nat × Nat × Nat :=
  (field tbl (32 * i) 8, field tbl (32 * i + 8) 8, field tbl (32 * i + 16) 8, field tbl (32 * i + 24) 4)

/-- The peer address to which a port's enabled EXPORT windows forward device address `a`. -/
def peerAddr (tbl : List Byte) (a : Nat) : Option Nat :=
  (upto 16).findSome? (fun i =>
    let (l, p, n, fl) := winEntry tbl i
    if fl % 4 = 1 && l ≤ a && a < l + n then some (p + (a - l)) else none)

/-- The bytes of a publication that a port forwards, at their addresses in the peer. -/
def exported (tbl : List Byte) (cs : List Host.Cell) : List Host.Cell :=
  cs.filterMap (fun c => (if c.1 < devEnd then peerAddr tbl c.1 else none).map (fun p => (p, c.2)))

/-- A filter of R158 as the 512 data bytes of an OPEN message. -/
def filterBytes (f : List Nat) : List Byte :=
  (upto 512).map (fun i => BitVec.ofNat 8 (((upto 8).map (fun b => if f.contains (8 * i + b) then 2 ^ b else 0)).sum))

/-- The LINE_WRITE message of one line of forwarded bytes (R417). -/
def lineMsg (vc cls line : Nat) (cs : List Host.Cell) : KlMsg :=
  { type := 0, vc := vc, cls := cls, arg := line,
    arg64 := ((upto 64).map (fun i => if (look cs (64 * line + i)).isSome then 2 ^ i else 0)).sum,
    data := (upto 64).map (fun i => (look cs (64 * line + i)).getD 0) }

/-- A message of a publication on ORDERED (R417): its tag is the command's identifier. -/
def pubMsg (id cls ty : Nat) (data : List Byte) : KlMsg := { type := ty, vc := 1, cls := cls, arg := id, arg64 := 0, data := data }

/-- OPEN goes to the peer of every port that is UP and whose EXPORT windows take bytes of the command (R423), with the
filter of the lines in the peer's memory that its staged bytes and its deferred operations write: those ports. The line of
an entry that an append is still to choose is not in it (log entry 114). -/
def State.openPeers (s : State) (id : Nat) (r : Run) : State × List (Nat × Bool) :=
  let cells := r.allStaged ++ (r.memDefers.filter (fun d => d.home.isNone)).map (fun d => (d.addr, 0))
  let sends := (s.links.map (·.1)).filter (fun p => s.portUp p && exported (s.link p).windows cells ≠ [])
  (sends.foldl (fun s p =>
    let f := ((linesOf (exported (s.link p).windows cells)).map (fun l => let b := filterBits (l * 64); [b.1, b.2])).flatten
    s.sendKl p (pubMsg id r.cls 1 (filterBytes f))) s, sends.map (fun p => (p, true)))

/-- OPEN_MARKER (R157, R158): a coherence point accepts the OPEN marker of a command that has staged its
last output, if it has an entry free. A command that finds none waits, and PUB_TABLE_WAITS counts it once. With its
first marker the peers that its outputs are forwarded to are sent OPEN (R423). -/
def execOpenMarker (run : Nat) (pt : CohPoint) (s : State) : Out :=
  clocked s fun s =>
    match look s.runs run with
    | none => s
    | some r =>
      let ch := pointCh pt
      if !r.finished || !(s.runPoints r).contains pt || r.opens.any (fun o => o.1 = pt) then s
      else
        if !s.pointRoom pt r.cls then
          if r.waited then s else (s.bump (Obj.pubTableWaits ch) 1 32).setRun run { r with waited := true }
        else
          let (s1, ports) := if r.opens = [] then s.openPeers run r else (s, r.peerOpen)
          s1.setRun run { r with opens := r.opens ++ [(pt, filterOf r.allStaged ch)], peerOpen := ports }

/-- The counts of a window when a command seals in it (R511): its cycles are its owner's or backfill. -/
def SplitWin.seal (x : SplitWin) (own : Bool) (n offset : Nat) : SplitWin :=
  { x with owner := x.owner + (if own then n else 0), backfill := x.backfill + (if own then 0 else n),
           seals := x.seals + 1, lastSeal := some (max (x.lastSeal.getD 0) offset) }

/-- A slot's stage counters when it seals with offset + 1 = `v` (R512). -/
def State.countStage (s : State) (ch : Fin 4) (k v : Nat) : State :=
  let o := s.observe.get ch
  let x := (look o.stage k).getD { runs := 0, max := 0 }
  let o1 := { o with stage := put o.stage k { x with runs := min (x.runs + 1) 0xFFFFFFFF, max := max x.max v } }
  { s with observe := s.observe.set ch o1 }

/-- Free the allocations whose FREE was deferred to the seal (R136). -/
def State.freeDeferred (s : State) (ch : Fin 4) (ds : List Defer) : State :=
  forEach (ds.filter (fun d => d.kind = .free)) (fun s d => s.unalloc ch d.addr) s

/-- The private chunks a run holds for its publication (R327). -/
def Run.claims (r : Run) : List (Nat × Nat) :=
  match r.pass with
  | none => []
  | some p => (p.chunks ++ p.stageCh).map (fun c => (r.ch, c))

/-- The cut accumulator of every member of a channel's owner set grows (R180, R213). -/
def State.addCut (s : State) (ch : Fin 4) (n : Nat) : State :=
  if n = 0 then s
  else forEach (s.ownerSet ch) (fun s m => { s with pictures := s.pictures.mod m (fun p => { p with cut := p.cut + n }) }) s

/-- The ports that a publication still forwards to, with the windows it was sealed under (R423). -/
def Pub.ports (p : Pub) : List (Nat × List Byte) := p.exports.filter (fun x => p.peer.any (fun y => y.1 = x.1))

/-- Lines that a publication has written are forwarded (R423). -/
def State.forwardLines (s : State) (p : Pub) (cells : List Host.Cell) : State :=
  forEach p.ports (fun s x =>
    let cs := exported x.2 cells
    (linesOf cs).reverse.foldl (fun s l => s.sendKl x.1 (lineMsg 1 p.cls l cs)) s) s

/-- After the last line CLOSE is forwarded (R423); what the port then owes is its CLOSE_ACK. -/
def State.forwardClose (s : State) (id : Nat) (p : Pub) : State :=
  if p.opens ≠ [] then s else forEach p.ports (fun s x => s.sendKl x.1 (pubMsg id p.cls 2 [])) s

/-- A run seals at the state's time (R69, R136, R145, R213, R372, R512): its publication begins. -/
def State.sealRun (s : State) (id : Nat) (r : Run) : State :=
  let ch := toCh r.ch
  let p := s.pacer ch
  let w := p.wins.get (toCh r.map)
  let open' := (w.map OpenWindow.start).getD 0
  let cycle := s.now - p.edge
  let n := s.now - r.start + 1
  let own := r.cls = 0 || (w.map OpenWindow.cls) = some r.cls
  let s1 := r.tally.foldl (fun s t => s.bump t.1 t.2 64) s
  let s2 := s1.bump (Obj.deferredOps ch) r.memDefers.length 64
  let s3 := (s2.freeDeferred ch r.defers).keepAllocs ch id
  let s4 := s3.addCut ch r.cut
  let s5 := match r.notice with
    | none => s4
    | some (k, rc) => s4.setMbox k ((s4.mbox k).take rc)
  let s6 := s5.splitMod ch r.units r.window (fun x => x.seal own n (cycle + 1))
  let (cmd, s6) := match r.origin, look s6.queues (s6.originQueue r.origin) with
    | .node _ _, some q => s6.stampRetired (s6.originQueue r.origin) q r.cmd
    | _, _ => (r.cmd, s6)
  let pub : Pub :=
    { origin := r.origin, cmd := cmd, ctx := r.ctx, asid := r.asid, gen := r.gen, ch := r.ch, cls := r.cls, status := r.status,
      cells := r.allStaged, defers := r.memDefers, opens := r.opens, landed := [], prior := [],
      exports := (r.peerOpen.filter (fun p => p.2)).map (fun p => (p.1, (s.link p.1).windows)), claims := r.claims,
      peer := (r.peerOpen.filter (fun p => p.2)).map (fun p => (p.1, id)),
      failed := if r.peerOpen.all (fun p => p.2) then 0 else eLinkDown }
  let t1 := ({ s6 with runs := del s6.runs id, tags := s6.tags.filter (fun t => t.run != id),
                       pubs := put s6.pubs id pub } : State).dropHostLines ch r.asid
  let s7 := (t1.endHolds (fun h => h.who.runId = some id)).retryNotify
  match r.origin with
  | .slot _ v i =>
    let s8 := s7.emit 9 ch (unitOf r.units) 0 r.ctx (i + v * 65536 + r.map * 2 ^ 20 + r.window * 2 ^ 22) (cycle - open' + 1)
    let p8 := s8.pacer ch
    (s8.setPacer ch { p8 with slots := p8.slots.set i .sealed }).countStage ch (512 * v + i) (cycle - open' + 1)
  | .queue q t => (s7.emit 4 ch (unitOf r.units) r.cls r.ctx (qid q r.ctx r.cmd.op) n).retireSealed q t
  | .node l i =>
    let q := s7.originQueue r.origin
    let s8 := s7.emit 4 ch (unitOf r.units) r.cls r.ctx (qid q r.ctx r.cmd.op) n
    (s8.lap r.ch (engNo r.eng) q).setPhase (.node l i) (.running id)

/-- COMMAND_SEAL (R69, R72): a command whose last output is staged and whose OPEN markers have all been accepted
seals at time `now`, before its window's end and, of classes 1 to 3, before WCET' cycles have passed. `ports` are the ports
whose peers have accepted its OPEN, for which R417 has no message (R423, log entry 98). -/
def execCommandSeal (run : Nat) (now : Nat) (ports : List Nat) (s : State) : Out :=
  clocked s fun s =>
    match look s.runs run with
    | none => s
    | some r =>
      let p := s.pacer (toCh r.ch)
      let stop := match p.wins.get (toCh r.map) with
        | some w => p.edge + w.stop
        | none => 0
      let late := r.cls ≠ 0 && r.start + r.wcet ≤ now
      let peers := (r.peerOpen.filter (fun p => p.2)).all (fun p => ports.contains p.1)
      if !r.finished || !peers || now < s.now || stop ≤ now || late || !(s.runPoints r).all (fun pt => r.opens.any (fun o => o.1 = pt)) then s
      else ((s.at now).sealRun run r).releaseLoads

/-- The engine that runs an operation (R370). -/
def opEng (op : Nat) : Nat := if 1 ≤ op && op ≤ 4 then op - 1 else 4

/-- A publication that lands at a channel: the state, the lines written as they were before (R415), and the places of the
bytes that its deferred operations and appends have written (R423). -/
structure Landing where
  st    : State
  prior : List (Nat × List Byte)
  wrote : List (Nat × Nat)
  deriving DecidableEq, Repr

/-- `n` bytes at key `a` are written by `f` as part of a landing. -/
def Landing.write (l : Landing) (a n : Nat) (f : State → State) : Landing :=
  { st := f l.st, wrote := l.wrote ++ [(a, n)],
    prior := if (look l.prior (a / 64)).isSome then l.prior else l.prior ++ [(a / 64, l.st.read (64 * (a / 64)) 64)] }

/-- One deferred operation takes effect at the channel atomic unit (R106, R157). An append whose walk another publication
holds answers its key; where the entry's address fails translation COUNT moves and the entry is not placed (log entry 91).
`view` is the state as the publication's own reads see it. -/
def Landing.apply (x : Xlat) (port : Nat) (view : State → State) (l : Landing) (d : Defer) : Except Nat Landing :=
  let atomic' (s : State) (a : Nat) : State := s.cacheAtomic x.gen x.cls port a
  let sat (w sub : Bool) : Except Nat Landing :=
    let n := if w then 8 else 4
    .ok (l.write d.addr n (fun s => atomic' (s.write d.addr (toLE n (satVal (8 * n) sub (s.readNat d.addr n) d.value))) d.addr))
  match d.kind with
  | .sadd w => sat w false
  | .ssub w => sat w true
  | .append =>
    let desc := l.st.read d.addr 32
    let room := field desc 0x0C 4 < field desc 0x08 4
    let es := if field desc 0x14 1 = 1 then 8 else 4
    (match (view l.st).appendKey x d.addr with
    | .ok k =>
      if room then
        let l1 := l.write k es (fun s => s.write k (toLE es d.value))
        .ok (l1.write (d.addr + 0x0C) 4 (fun s => atomic' (atomic' (s.appendOne d.addr d.value k).2 d.addr) k))
      else .ok (l.write (d.addr + 0x10) 4 (fun s => atomic' (s.appendOne d.addr d.value k).2 d.addr))
    | .error e =>
      if (heldAt e).isSome then .error e
      else .ok (l.write (d.addr + 0x0C) 4 (fun s => atomic' (s.write (d.addr + 0x0C) (toLE 4 (field desc 0x0C 4 + 1))) d.addr)))
  | .free => .ok l

/-- The canonical order of R106. -/
def deferLe (a b : Defer) : Bool :=
  if a.block ≠ b.block then a.block < b.block
  else if a.group ≠ b.group then a.group < b.group
  else if a.lane ≠ b.lane then a.lane < b.lane
  else a.seq ≤ b.seq

/-- A publication's own filters do not hold the range walks of its appends (R157, R164). -/
def State.withoutOpens (s : State) (id : Nat) : State := { s with pubs := adjust s.pubs id (fun p => { p with opens := [] }) }

/-- The staged bytes of a publication in the memory of channel `n`. -/
def Pub.cellsIn (p : Pub) (n : Fin 4) : List Host.Cell := p.cells.filter (fun c => c.1 < devEnd && chanOf c.1 = n)

/-- The outputs a publication writes to channel `n` land (R157): staged bytes, deferred operations in
canonical order, then appends; or the key that another publication holds. -/
def State.land (s : State) (id : Nat) (p : Pub) (n : Fin 4) : Except Nat Landing :=
  let here (a : Nat) : Bool := a < devEnd && chanOf a = n
  let mine := p.cellsIn n
  let own := n = toCh p.ch
  let port := if own then unitOf (cmdUnits (opEng p.cmd.op) p.cmd) else farPort (toCh p.ch)
  let lines := (linesOf mine).reverse
  let s0 := forEach lines (fun s l => s.cacheWrite own n p.cls port l (s.streamAt p.gen (64 * l))) s
  let s1 := { s0 with mem := writeCells s0.mem mine }
  let x : Xlat := { asid := p.asid, gen := p.gen, ch := toCh p.ch, cls := p.cls, fn := s.ctxFn p.ctx, anyCh := p.cmd.op = 5, unit := none }
  let ds := (p.defers.filter (fun d => d.home.isNone && here d.addr)).mergeSort deferLe
  let start : Landing := { st := s1, prior := p.prior ++ lines.map (fun l => (l, s.read (64 * l) 64)), wrote := [] }
  (ds.filter (fun d => d.kind ≠ .append) ++ ds.filter (fun d => d.kind = .append)).foldl
    (fun acc d => acc.bind (fun l => Landing.apply x port (fun s => s.withoutOpens id) l d)) (.ok start)

/-- A line that an in-package link has lost keeps what it held before the publication (R415). -/
def State.restoreLine (s : State) (prior : List (Nat × List Byte)) (lost : Option Nat) : State :=
  match lost.bind (fun a => (look prior (a / 64)).map (fun bs => (a / 64, bs))) with
  | none => s
  | some (l, bs) => s.write (64 * l) bs

/-- The landing of a publication at a channel, once: at the first CLOSE there. Its lines are then forwarded (R423). -/
def State.landOnce (s : State) (id : Nat) (p : Pub) (n : Fin 4) : Except Nat (State × List (Nat × List Byte)) :=
  if p.landed.contains n.val then .ok (s, p.prior)
  else (s.land id p n).map (fun l =>
    (l.st.forwardLines p (stage (p.cellsIn n) (l.wrote.map (fun w => (upto w.2).map (fun i => (w.1 + i, l.st.byteAt (w.1 + i))))).flatten), l.prior))

/-- CLOSE_MARKER (R157): a point accepts the CLOSE of a publication: what it guards has landed, and held
loads go on, at time `now`. The errors of its path are counted; a line dropped by an uncorrectable one keeps its contents
and fails the command with E_MEMORY_ERROR (R415). While another publication holds the walk of an append, the CLOSE waits. -/
def execCloseMarker (pub : Nat) (pt : CohPoint) (now : Nat) (err : Ecc) (s : State) : Out :=
  clocked s fun s =>
    match look s.pubs pub with
    | none => s
    | some p =>
      let n := pointCh pt
      if !p.opens.any (fun o => o.1 = pt) then s
      else
        let s := s.at now
        match s.landOnce pub p n with
        | .error e => s.hold (.run pub) (some (toCh p.ch)) (heldAt e).toList
        | .ok (s1, prior) =>
          let s2 := ((s1.restoreLine prior err.bad).pruneTags).noteEcc n err
          let p1 := { p with opens := p.opens.filter (fun o => o.1 ≠ pt), landed := n.val :: p.landed, prior := prior,
                             failed := if p.failed = 0 && err.bad.isSome then eMemError else p.failed }
          (({ s2 with pubs := put s2.pubs pub p1 } : State).forwardClose pub p1).releaseLoads

/-- The ending of a command whose publication has ended. -/
def pubEnding (p : Pub) (err : Nat) : Ending :=
  { code := err, origin := none, detail := 0, status := if p.cmd.op = 1 then p.status else 0, ran := true }

/-- The private chunks of an ended publication go back to their pools (R327). -/
def State.dropClaims (s : State) (p : Pub) : State :=
  forEach p.claims (fun s c => s.unclaim (toCh c.1) [c.2]) s

/-- An ended publication leaves and its command completes (R160, R375). -/
def State.endPub (s : State) (id : Nat) (p : Pub) (err : Nat) : State :=
  let s1 := ({ s with pubs := del s.pubs id } : State).dropClaims p
  match p.origin with
  | .queue q t => (s1.finish q t (pubEnding p err)).settle
  | .node l i => (State.ringFault (s1.endNode l i p.cmd (pubEnding p err)) (s1.originQueue p.origin)).settle
  | .slot _ _ _ => s1

/-- PUBLICATION_END (R160): every path has delivered the command's data: its bytes in host memory arrive,
and it completes. Writes to host memory of a function whose Bus Master Enable is 0 are discarded, and the command
fails with E_TRANSLATION (R337). -/
def execPublicationEnd (pub : Nat) (s : State) : Out :=
  clocked s fun s =>
    match look s.pubs pub with
    | none => s
    | some p =>
      if p.opens ≠ [] || p.peer ≠ [] then s
      else
        let posted := p.cells.filter (fun c => devEnd ≤ c.1)
        let barred := posted ≠ [] && !(s.pcieFn (s.ctxFn p.ctx)).busMaster
        let s1 := if barred then s else ({ s with mem := writeCells s.mem posted } : State).pruneTags
        s1.endPub pub p (if p.failed ≠ 0 then p.failed else if barred then eTranslation else 0)

/-! ## Commands that run no unit -/

/-- The heads, of a queue or of the nodes of its launch, that have been fetched. -/
def State.fetchedHeads (s : State) (qn : Nat) (q : Queue) : List (Origin × Head) :=
  match q.head with
  | none => []
  | some h =>
    match h.phase with
    | .fetched => [(.queue qn h.track, h)]
    | .launched l => (match look s.launches l with
        | none => []
        | some x => (x.phases.zipIdx).filterMap (fun p => match p.1 with
            | .fetched h => if h.phase = .fetched then some (.node l p.2, h) else none
            | _ => none))
    | _ => []

/-- The normal ending of a command that ran no unit. -/
def plainEnding : Ending := { code := 0, origin := none, detail := 0, status := 0, ran := false }

/-- FENCE (R374): a FENCE at the head, or the first FENCE node of the launch at the head that can, retires when its wait is
satisfied. During standby entry queue commands are held (R462). -/
def execFence (q : Nat) (s : State) : Out :=
  clocked s fun s =>
    match look s.queues q with
    | none => s
    | some x =>
      match (s.fetchedHeads q x).find? (fun p => p.2.cmd.op = 0 && s.waitMet p.2.cmd) with
      | none => s
      | some (o, h) =>
        if !s.awake || !s.ctxActive x.ctx || x.stopped || x.closing || !s.replayRoom x then s
        else (s.endOrigin o h.cmd plainEnding).settle

/-- Every earlier command of the queue has completed (R377): the command leads the queue's order. -/
def Queue.leads (q : Queue) (o : Origin) : Bool :=
  match o with
  | .queue _ t => (q.order.head?.map Track.id) = some t
  | _ => (q.order.length = 1)

/-- NOTIFY (R377): once every earlier command of its queue has completed, and while the mailbox holds no
notice, the notice is sent and the command completes; of several NOTIFY nodes of a launch, the first that can. During standby
entry queue commands are held (R462). -/
def execNotify (q : Nat) (s : State) : Out :=
  clocked s fun s =>
    match look s.queues q with
    | none => s
    | some x =>
      match (s.fetchedHeads q x).find? (fun p => p.2.cmd.op = 6 && s.waitOver x p.1 p.2.cmd && x.leads p.1 &&
          !(s.mbox (mbChan x.ch (field p.2.cmd.body 0 1))).pending) with
      | none => s
      | some (o, h) =>
        let b := h.cmd.body
        let k := mbChan x.ch (field b 0 1)
        if !s.awake then s
        else ((s.setMbox k ((s.mbox k).send (field b 8 8) (field b 4 4))).endOrigin o h.cmd { plainEnding with ran := true }).settle

end Sys2Proof.Machine
end

