-- ==== Sys2Proof/Machine/Memory.lean ====
section
/-! DEFINITION. Memory, caches and address spaces (R304 to R309, R313 to R315, R322, R323, R328 to R334):
training and tracking, retraining, slices in and out of service, allocator pools, installations, trims, and
the empty table of R388. -/

namespace Sys2Proof.Machine

/-! ## LPDDR5X (R304 to R307) -/

/-- MEM_STATE codes. -/
def memOff : Nat := 0
def memTraining : Nat := 1
def memTrained : Nat := 2
def memRetraining : Nat := 3
def memFailed : Nat := 4

/-- Boot phase 6 has ended (R474): the memories of channels 0 and 1 have trained, and their field dies have been tested. -/
def State.phase6Over (s : State) : Bool :=
  ([0, 1] : List (Fin 4)).all (fun n => s.tested.get n && memTrained ≤ s.obj (Obj.memState n))

/-- Boot phase 7 starts when phase 6 ends (R474): the memories of channels 2 and 3 train once those of 0 and 1 have
trained and their field dies have been tested. -/
def State.phase7 (s : State) : State :=
  if !s.phase6Over then s
  else forEach ([2, 3] : List (Fin 4)) (fun s n =>
    if !s.tested.get n && s.obj (Obj.memState n) = memOff && s.obj (Obj.chPstate n) = 0 then s.setObj (Obj.memState n) memTraining else s) s

/-- MEM_TRAINING_DONE (R304): training ends, TRAINED or FAILED with attention. The drift since the last training starts
anew (R306), and the advice it gave goes (log entry 103). -/
def execMemTrainingDone (ch : Fin 4) (ok : Bool) (s : State) : Out :=
  clocked s fun s =>
    if s.obj (Obj.memState ch) ≠ memTraining then s
    else if ok then
      let s1 := (s.setObj (Obj.memState ch) memTrained).setObj (Obj.trackDrift ch) 0
      (s1.setObj (Obj.memFlags ch) (setBits (s1.obj (Obj.memFlags ch)) 0 0 0)).phase7
    else ((s.setObj (Obj.memState ch) memFailed).attnState ch (Obj.memState ch)).phase7

/-- MEM_TEMP_REPORT (R305): MEM_HOT is set, with attention, while the memory needs more than twice the base
refresh rate. -/
def execMemTempReport (ch : Fin 4) (hot : Bool) (s : State) : Out :=
  clocked s fun s =>
    let k := Obj.memFlags ch
    let v := setBits (s.obj k) 1 1 (if hot then 1 else 0)
    if v = s.obj k then s else if hot then (s.setObj k v).attnState ch k else s.setObj k v

/-- TRACK_STEP (R306): the largest net movement since the last training is kept, and passing TRACK_LIMIT
sets RETRAIN_ADVISED with attention. -/
def execTrackStep (ch : Fin 4) (movement : Nat) (s : State) : Out :=
  clocked s fun s =>
    if s.obj (Obj.memState ch) ≠ memTrained then s
    else
      let d := max (s.obj (Obj.trackDrift ch)) (min movement 255)
      let s1 := s.setObj (Obj.trackDrift ch) d
      let k := Obj.memFlags ch
      if s.obj (Obj.trackLimit ch) < d && !bit (s.obj k) 0 then (s1.setObj k (setBits (s1.obj k) 0 0 1)).attnState ch k else s1

/-- MEM_RETRAIN (R307): accepted only while the channel is COVERED or OFFLINE. A memory that is off, or that is being
trained, has nothing to retrain and answers BUSY (log entry 104). -/
def opMemRetrain (who : Req) (ch : Fin 4) (v : Nat) (s : State) : State :=
  let k := Obj.memRetrain ch
  s.command1 who k v (fun s =>
    let out := s.svc ch = .covered || s.svc ch = .offline
    let m := s.obj (Obj.memState ch)
    if !out || (m ≠ memTrained && m ≠ memFailed) then s.refuse k rcBusy
    else (s.setObj (Obj.memState ch) memRetraining).accept k)

/-- MEM_RETRAIN (R307). -/
def execMemRetrain (who : Req) (ch : Fin 4) (v : Nat) (s : State) : Out := clocked s (opMemRetrain who ch v)

/-- MEM_RETRAIN_DONE (R307): on success TRACK_DRIFT and RETRAIN_ADVISED clear; a step that fails three times
leaves the memory FAILED (R304). -/
def execMemRetrainDone (ch : Fin 4) (ok : Bool) (s : State) : Out :=
  clocked s fun s =>
    if s.obj (Obj.memState ch) ≠ memRetraining then s
    else if ok then
      let s1 := (s.setObj (Obj.memState ch) memTrained).setObj (Obj.trackDrift ch) 0
      (s1.setObj (Obj.memFlags ch) (setBits (s1.obj (Obj.memFlags ch)) 0 0 0)).ended (Obj.memRetrain ch) 0 2
    else ((s.setObj (Obj.memState ch) memFailed).attnState ch (Obj.memState ch)).ended (Obj.memRetrain ch) 0 3

/-- The sub-channel of a channel's memory that holds device address `a` (R303): A[7:6] XOR A[15:14]; each of the four has
1 GB. -/
def subChannel (a : Nat) : Fin 4 := toCh (xor2 (bits a 7 6) (bits a 15 14))

/-! ## Cache slices (R313 to R315) -/

/-- A write to CACHE_RES (R313): refused where the active program would fail under it, as the timing model answers in
`passes`; it takes effect at the next edge. -/
def opCacheRes (who : Req) (ch : Fin 4) (v : Nat) (passes : Bool) (s : State) : State :=
  let k := Obj.cacheRes ch
  s.command who k (fun s =>
    if 12 < v || (!passes && (s.pacer ch).program.isSome) then s.answer rcRange else (s.setObj k v).answer rcOk)

/-- The six slices of a channel in the order of CACHE_CTRL's bits. -/
def slices : List (Slice × Nat) :=
  [(.l2 0, 0), (.l2 1, 1), (.l2 2, 2), (.l2 3, 3), (.sc 0, 4), (.sc 1, 5)]

/-- CACHE_STATE (R310 table): two bits a slice. -/
def State.cacheState (s : State) (ch : Fin 4) : Nat :=
  (slices.map (fun p => (s.cacheSlice ch p.1).phase.code (s.tick ch) * 4 ^ p.2)).sum

/-- A slice is FAILED (R497): UNIT_HEALTH bits 0 to 5. -/
def State.sliceFailed (s : State) (ch : Fin 4) (b : Nat) : Bool := bit (s.obj (Obj.unitHealth ch)) b

/-- Another slice of the same kind serves. -/
def State.partnerUp (s : State) (ch : Fin 4) (sl : Slice) : Bool :=
  match sl with
  | .l2 i => chans.any (fun j => j ≠ i && s.serves ch (.l2 j))
  | .sc h => s.serves ch (.sc (if h = 0 then 1 else 0))

/-- A slice is enabled (R315): it serves its addresses, and its departure has not been asked for. -/
def State.sliceOn (s : State) (ch : Fin 4) (sl : Slice) : Bool :=
  match (s.cacheSlice ch sl).phase with
  | .departAt _ => false
  | .drained => false
  | _ => s.serves ch sl

/-- A value of CACHE_CTRL would leave a channel no enabled half-slice, or no enabled die L2 slice (R315). -/
def State.leavesBare (s : State) (ch : Fin 4) (v : Nat) : Bool :=
  let stays (l2 : Bool) : Bool := slices.any (fun p => decide (p.2 < 4) = l2 && bit v p.2 && s.sliceOn ch p.1)
  !stays true || !stays false

/-- A write to CACHE_CTRL (R315, R497): `passes` is the timing model's answer for the active program without
the slices the write disables. -/
def opCacheCtrl (who : Req) (ch : Fin 4) (v : Nat) (passes : Bool) (s : State) : State :=
  let k := Obj.cacheCtrl ch
  s.command who k (fun s =>
    let old := s.obj k
    let new := v % 64
    let off := slices.any (fun p => bit old p.2 && !bit new p.2)
    let bad := slices.any (fun p => !bit old p.2 && bit new p.2 && s.sliceFailed ch p.2)
    let bare := s.leavesBare ch new && s.svc ch ≠ .offline
    if bad || (off && !passes && (s.pacer ch).program.isSome) then s.answer rcRange
    else if off && bare then s.answer rcBusy
    else
      let t := s.tick ch + 1
      let s1 := s.setObj k new
      (forEach slices (fun s p =>
        let c := s.cacheSlice ch p.1
        let on := bit new p.2
        if on && !bit old p.2 && c.phase = .off && s.obj (Obj.memState ch) ≠ memOff then s.setSlice ch p.1 { c with phase := .invalidating, lines := [] }
        else if !on && bit old p.2 then
          match c.phase with
          | .upAt e => s.setSlice ch p.1 (if s.tick ch < e then { c with phase := .off, lines := [] } else { c with phase := .departAt t })
          | .backAt e => s.setSlice ch p.1 (if s.tick ch < e then { c with phase := .off, lines := [] } else { c with phase := .departAt t })
          | .scanAt _ => s.setSlice ch p.1 { c with phase := .off, lines := [] }
          | _ => s
        else s) s1).answer rcOk)

/-- CACHE_CTRL_WRITE (R315). -/
def execCacheCtrlWrite (who : Req) (ch : Fin 4) (v : Nat) (passes : Bool) (s : State) : Out :=
  clocked s (opCacheCtrl who ch v passes)

/-- CACHE_INVALIDATE_DONE (R314, R315): at the next edge the slice, if its enable bit is set, is enabled or, where a partner
holds its addresses, the partner's scan begins. -/
def execCacheInvalidateDone (ch : Fin 4) (sl : Slice) (s : State) : Out :=
  clocked s fun s =>
    let c := s.cacheSlice ch sl
    let on := slices.any (fun p => p.1 = sl && bit (s.obj (Obj.cacheCtrl ch)) p.2)
    if c.phase ≠ .invalidating then s
    else if !on then s.setSlice ch sl { phase := .off, lines := [], trackers := [] }
    else s.setSlice ch sl { phase := if s.partnerUp ch sl then .scanAt (s.tick ch + 1) else .upAt (s.tick ch + 1), lines := [], trackers := [] }

/-- CACHE_HANDOVER_DONE (R315): a departing slice has written its dirty lines back. Its addresses pass to its partner at the
first edge at which no publication is open there (State.passSlices). -/
def execCacheHandoverDone (ch : Fin 4) (sl : Slice) (s : State) : Out :=
  clocked s fun s =>
    match (s.cacheSlice ch sl).phase with
    | .departAt t =>
      if s.tick ch < t then s
      else
        let s1 := s.flushLines ch sl CacheLine.dirty
        s1.setSlice ch sl { s1.cacheSlice ch sl with phase := .drained }
    | _ => s

/-- A line goes to slice `sl` once that slice serves (R315). -/
def State.goesTo (s : State) (ch : Fin 4) (sl : Slice) (x : CacheLine) : Bool :=
  (match sl with
    | .l2 _ => l2Order x.line
    | .sc _ => scOrder x.line).find? (fun y => y = sl || s.serves ch y) = some sl

/-- CACHE_RETURN_SCAN_DONE (R315): the partner has written back and invalidated the returning addresses,
which return to the slice at the next edge. -/
def execCacheReturnScanDone (ch : Fin 4) (sl : Slice) (s : State) : Out :=
  clocked s fun s =>
    match (s.cacheSlice ch sl).phase with
    | .scanAt t =>
      if s.tick ch < t then s
      else
        let s1 := forEach slices (fun s p => if p.1 = sl then s else s.flushLines ch p.1 (fun x => (match p.1, sl with
          | .l2 _, .l2 _ => s.goesTo ch sl x
          | .sc _, .sc _ => s.goesTo ch sl x
          | _, _ => false))) s
        s1.setSlice ch sl { s1.cacheSlice ch sl with phase := .backAt (s.tick ch + 1) }
    | _ => s

/-! ## Allocator pools (R322, R323) -/

/-- The pool staged or, where none is, in force (R322). -/
def State.poolNext (s : State) (ch : Fin 4) : Nat × Nat :=
  let a := s.allocs.get ch
  a.staged.getD (a.base, a.chunks)

/-- A TARGET 0 range of a table at `a` of `n` descriptors meets [lo, lo + len). -/
def State.tableMeets (s : State) (a n lo len : Nat) : Bool :=
  (upto n).any (fun i =>
    let d := s.rangeAt a i
    bits d.attr 5 4 = 0 && d.pbase < lo + len && lo < d.pbase + d.length)

/-- The tables that count as installed (R322): those in force on a channel, that a run or a publication
uses, that has been checked and waits for its edge, or whose check runs, and one whose successor is not acknowledged. -/
def State.installedTables (s : State) : List (Nat × Nat) :=
  (s.spaces.map (fun e =>
    let x := e.2
    let g (y : Gen) : Nat × Nat := (y.addr, y.count)
    [g x.newest, g (x.force.get 0), g (x.force.get 1), g (x.force.get 2), g (x.force.get 3)] ++ (x.next.map g).toList ++ (x.prior.map g).toList)).flatten ++
  s.runs.map (fun e => (e.2.gen.addr, e.2.gen.count)) ++ s.pubs.map (fun e => (e.2.gen.addr, e.2.gen.count))

/-- A pool leaves channel n's memory, is not aligned to 64 KB, or meets a TARGET 0 range (R322). -/
def State.poolBad (s : State) (ch : Fin 4) (base n : Nat) : Bool :=
  n ≠ 0 && (base % 65536 ≠ 0 || base < ch.val * 0x100000000 || (ch.val + 1) * 0x100000000 < base + 65536 * n ||
    s.installedTables.any (fun t => s.tableMeets t.1 t.2 base (65536 * n)))

/-- Some chunk of the pool in force is owned. -/
def State.poolOwned (s : State) (ch : Fin 4) : Bool :=
  (s.allocs.get ch).dataChunks.any (fun i => entryOwned (s.owner ch i))

/-- A write to ALLOC_BASE or ALLOC_CHUNKS (R322): checked on the pool it forms with the newest value of the
other object, and staged for the next edge. -/
def opAllocPool (who : Req) (ch : Fin 4) (chunks : Bool) (v : Nat) (s : State) : State :=
  let k := if chunks then Obj.allocChunks ch else Obj.allocBase ch
  s.command who k (fun s =>
    let (b, n) := s.poolNext ch
    let p := if chunks then (b, v) else (v, n)
    if s.poolOwned ch then s.answer rcBusy
    else if 65536 < p.2 || p.1 % 65536 ≠ 0 || s.poolBad ch p.1 p.2 then s.answer rcRange
    else
      let a := s.allocs.get ch
      ((s.setAlloc ch { a with staged := some p, asOf := if a.staged.isSome then a.asOf else s.edgeNo ch }).setObj k v).answer rcOk)

/-- ALLOC_POOL_WRITE (R322). -/
def execAllocPoolWrite (who : Req) (ch : Fin 4) (chunks : Bool) (v : Nat) (s : State) : Out :=
  clocked s (opAllocPool who ch chunks v)

/-- ALLOC_POOL_EFFECT (R322, R323): at the edge after the first write the staged pool takes effect and its zeroing starts. -/
def execAllocPoolEffect (ch : Fin 4) (s : State) : Out :=
  clocked s fun s =>
    match (s.allocs.get ch).staged with
    | none => s
    | some (b, n) =>
      if !s.poolDue ch then s
      else
      let a : Allocator := { base := b, chunks := n, staged := none, asOf := 0, zeroed := [], ready := n = metaChunks n, allocs := [], taken := [] }
      let s1 := s.setAlloc ch a
      { s1 with owners := .all [], mem := zeroMem s1.mem b (metaChunks n * 65536) }

/-- CHUNK_ZEROED (R323): a chunk's zeroing completes, and it is free. -/
def execChunkZeroed (ch : Fin 4) (chunk : Nat) (s : State) : Out :=
  clocked s fun s =>
    let a := s.allocs.get ch
    if !a.dataChunks.contains chunk || a.zeroed.contains chunk || entryOwned (s.owner ch chunk) || !s.memUp ch then s
    else
      let z := chunk :: a.zeroed
      let a1 := { a with zeroed := z, ready := a.ready || a.dataChunks.all (fun i => z.contains i || entryOwned (s.owner ch i)) }
      ({ s with mem := zeroMem s.mem (a.base + 65536 * chunk) 65536 } : State).setAlloc ch a1

/-- ALLOC_STATE (R323). -/
def State.allocState (s : State) (ch : Fin 4) : Nat :=
  let a := s.allocs.get ch
  if a.chunks = 0 then 0 else if a.ready then 2 else 1

/-- ALLOC_FREE (R323). -/
def State.allocFree (s : State) (ch : Fin 4) : Nat := ((s.allocs.get ch).dataChunks.filter (s.chunkFree ch)).length

/-! ## Installations (R329 to R332) -/

/-- AS_STATUS (R329 table). -/
def AddrSpace.status (x : AddrSpace) : Nat :=
  let p := match x.phase with
    | .idle => 0
    | .checking => 1
    | .pending => 2
    | .draining => 3
    | .done => 4
    | .refused => 5
  x.code * 65536 + p * 8192 + (if x.trim then 4096 else 0) + x.failIdx % 4096

/-- An installation or trim of a space is in hand (R328, R329). -/
def AddrSpace.busy (x : AddrSpace) : Bool := x.phase = .checking || x.phase = .pending || x.phase = .draining

/-- AS_INSTALL (R329): the four source objects are read and the check starts. -/
def opAsInstall (who : Req) (k v : Nat) (s : State) : State :=
  let o := Obj.asInstall k
  s.command1 who o v (fun s =>
    let x := s.space k
    if x.busy then s.refuse o rcBusy
    else
      let g : Gen := { num := (x.newest.num + 1) % 2 ^ 32, addr := s.obj (Obj.asRtAddr k), count := s.obj (Obj.asRtCount k),
                       allocVa := s.obj (Obj.asAllocVa k), allocEn := bit (s.obj (Obj.asFlags k)) 0 }
      (s.setSpace k { x with phase := .checking, trim := false, code := 0, failIdx := 0, next := some g, passed := [] }).accept o)

/-- AS_INSTALL (R329). -/
def execAsInstall (who : Req) (k v : Nat) (s : State) : Out := clocked s (opAsInstall who k v)

/-- A range of device addresses meets the allocator pool of some channel, in force or staged (R330). -/
def State.meetsPool (s : State) (lo len : Nat) : Bool :=
  chans.any (fun c =>
    let a := s.allocs.get c
    let m (b n : Nat) : Bool := n ≠ 0 && lo < b + 65536 * n && b < lo + len
    m a.base a.chunks || match a.staged with
      | some (b, n) => m b n
      | none => false)

/-- One descriptor of a table breaks R330. `before` is the one before it. -/
def State.descBad (s : State) (g : Gen) (before : Option RangeDesc) (d : RangeDesc) : Bool :=
  let target := bits d.attr 5 4
  bit d.attr 3 || 2 ≤ target || d.attr / 128 ≠ 0 || d.tail ≠ 0 ||
  d.start % 256 ≠ 0 || d.length < 256 || d.length % 256 ≠ 0 || d.pbase % 256 ≠ 0 || 2 ^ 48 < d.start + d.length ||
  (match before with
   | some p => d.start ≤ p.start || d.start < p.start + p.length
   | none => false) ||
  (target = 0 && (devEnd < d.pbase + d.length || d.pbase / 0x100000000 ≠ (d.pbase + d.length - 1) / 0x100000000 || s.meetsPool d.pbase d.length)) ||
  (g.allocEn && d.start < g.allocVa + 0x400000000 && g.allocVa < d.start + d.length)

/-- The check of a table (R330): none if it passes, or the index of the failing descriptor, 0 for a failure
of the table as a whole. -/
def State.tableCheck (s : State) (k : Nat) (g : Gen) : Option Nat :=
  let x := s.space k
  let inOne := g.count = 0 || (g.addr + 32 * g.count ≤ devEnd && g.addr / 0x100000000 = (g.addr + 32 * g.count - 1) / 0x100000000 &&
    s.memUp (chanOf g.addr))
  let owns := chans.any (fun c => s.chunksUsed k c ≠ 0)
  if g.addr % 64 ≠ 0 || !inOne || 4096 < g.count || g.allocVa % 0x400000000 ≠ 0 ||
     (owns && (g.allocEn ≠ x.newest.allocEn || g.allocVa ≠ x.newest.allocVa)) then some 0
  else (upto g.count).find? (fun i => s.descBad g (if i = 0 then none else some (s.rangeAt g.addr (i - 1))) (s.rangeAt g.addr i))

/-- The ticks of the four channels. -/
def State.edges (s : State) : Per4 Nat := ⟨s.edgeNo 0, s.edgeNo 1, s.edgeNo 2, s.edgeNo 3⟩

/-- The empty table of R388 begins: no check; each channel takes it at its edge. -/
def State.startEmpty (s : State) (k : Nat) : State :=
  let x := s.space k
  let g : Gen := { num := (x.newest.num + 1) % 2 ^ 32, addr := 0, count := 0, allocVa := x.newest.allocVa, allocEn := false }
  s.setSpace k { x with phase := .pending, trim := false, code := 0, failIdx := 0, next := some g, newest := g, prior := some x.newest,
                        passed := [], since := s.edges, empty := false, making := true }

/-- What was in hand of a space has ended: the empty table that waits for it is made (R388). -/
def State.nextEmpty (s : State) (k : Nat) : State := if (s.space k).empty then s.startEmpty k else s

/-- AS_CHECK_DONE (R330, R331, R388). A table whose read meets an uncorrectable error is refused as one in memory that is out
of service (DESIGN CHOICE, log entry 141). -/
def execAsCheckDone (k : Nat) (ecc : Ecc) (s : State) : Out :=
  clocked s fun s =>
    let x := s.space k
    match x.phase, x.next with
    | .checking, some g =>
      let s := s.noteEcc (chanOf g.addr) ecc
      match if ecc.bad.isSome then some 0 else s.tableCheck k g with
      | some i =>
        (((s.setSpace k { x with phase := .refused, code := eRangeTable, failIdx := i, next := none }).setCmd (Obj.asInstall k) eRangeTable 3).attn
          eRangeTable noCh (Obj.asStatus k) (eRangeTable * 65536 + 5 * 8192 + i)).nextEmpty k
      | none => s.setSpace k { x with phase := .pending, newest := g, prior := some x.newest, since := s.edges, passed := [] }
    | _, _ => s

/-- Generation `next` of a space takes effect on a channel at its edge (R331); after the last channel's edge
the state is DRAINING. Commands that have not started are fetched again. -/
def State.genEffect (s : State) (ch : Fin 4) (k : Nat) : State :=
  let x := s.space k
  match x.phase, x.next with
  | .pending, some g =>
    if x.trim || !s.spaceDue ch x then s
    else
      let passed := ch.val :: x.passed
      let x1 := { x with force := x.force.set ch g, passed := passed, phase := if passed.length = 4 then .draining else .pending }
      (s.setSpace k x1).unfetchAll ch k
  | _, _ => s

/-- AS_GEN_EFFECT (R331). -/
def execAsGenEffect (ch : Fin 4) (k : Nat) (s : State) : Out := clocked s (fun s => s.genEffect ch k)

/-- No transfer of a generation of `k` older than its newest remains (R332): no running command and no
publication. -/
def State.drained (s : State) (k : Nat) : Bool :=
  let n := (s.space k).newest.num
  s.runs.all (fun e => e.2.asid ≠ k || e.2.gen.num = n) && s.pubs.all (fun e => e.2.asid ≠ k || e.2.gen.num = n)

/-- The chunks a space owns are released with their allocations (R388). -/
def State.dropChunks (s : State) (k : Nat) : State :=
  forEach chans (fun s c =>
    let a := s.allocs.get c
    let mine := a.dataChunks.filter (fun i => entryOwned (s.owner c i) && entryAs (s.owner c i) = k)
    let dead := a.allocs.filter (fun e => e.2.asid = k)
    let s1 := dead.foldl (fun s e => s.unalloc c e.1) s
    forEach mine (fun s i => s.releaseChunk c i) s1) s

/-- The last context that names a space enters TEARDOWN (R388): the empty table is installed, at once or
after what is in hand. -/
def State.wantEmpty (s : State) (k : Nat) : State :=
  let x := s.space k
  if x.busy then s.setSpace k { x with empty := true } else s.startEmpty k

/-- AS_DRAIN_DONE (R332, R388): the installation is acknowledged; an empty table waiting for it is then
made, and a drained empty table frees the space's chunks. -/
def execAsDrainDone (k : Nat) (s : State) : Out :=
  clocked s fun s =>
    let x := s.space k
    match x.phase, x.next with
    | .draining, some g =>
      if x.trim || !s.drained k then s
      else
        let x1 := { x with phase := .done, ack := g.num, next := none, prior := none, passed := [], making := false }
        let s1 := ((s.setSpace k x1).setCmd (Obj.asInstall k) 0 2).attn atDone noCh (Obj.asStatus k) x1.status
        (if x.making then s1.dropChunks k else s1).nextEmpty k
    | _, _ => s

/-! ## Trims (R328) -/

/-- ALLOC_TRIM (R328). -/
def opAllocTrim (who : Req) (k v : Nat) (s : State) : State :=
  let o := Obj.allocTrim k
  s.command1 who o v (fun s =>
    let x := s.space k
    if x.busy then s.refuse o rcBusy
    else (s.setSpace k { x with phase := .pending, trim := true, code := 0, failIdx := 0, passed := [], since := s.edges, trimSel := [], trimRuns := [] }).accept o)

/-- ALLOC_TRIM (R328). -/
def execAllocTrim (who : Req) (k v : Nat) (s : State) : Out := clocked s (opAllocTrim who k v)

/-- TRIM_SELECT (R328): at a channel's edge the chunks the space owns there without a live allocation are
selected; the commands of the space then running or publishing must end before they are freed. -/
def execTrimSelect (ch : Fin 4) (k : Nat) (s : State) : Out :=
  clocked s fun s =>
    let x := s.space k
    if !x.trim || !s.spaceDue ch x then s
    else
      let a := s.allocs.get ch
      let sel := a.dataChunks.filter (fun i => s.chunkOwned k ch i && !a.live i)
      let runs := (s.runs.filter (fun e => e.2.asid = k)).map (·.1) ++ (s.pubs.filter (fun e => e.2.asid = k)).map (·.1)
      let passed := ch.val :: x.passed
      s.setSpace k { x with passed := passed, trimSel := x.trimSel ++ sel.map (fun i => (ch.val, i)), trimRuns := x.trimRuns ++ runs,
                            phase := if passed.length = 4 then .draining else .pending }

/-- TRIM_DRAIN_DONE (R328): the selected chunks are zeroed and freed; AS_ACK_GEN is unchanged. -/
def execTrimDrainDone (k : Nat) (s : State) : Out :=
  clocked s fun s =>
    let x := s.space k
    let going := x.trimRuns.any (fun i => s.runs.any (fun e => e.1 = i) || s.pubs.any (fun e => e.1 = i))
    if x.phase ≠ .draining || !x.trim || going then s
    else
      let s1 := x.trimSel.foldl (fun s p => s.releaseChunk (toCh p.1) p.2) s
      let x1 := { x with phase := .done, passed := [], trimSel := [], trimRuns := [] }
      let s2 := ((s1.setSpace k x1).setCmd (Obj.allocTrim k) 0 2).attn atDone noCh (Obj.asStatus k) x1.status
      s2.nextEmpty k

end Sys2Proof.Machine
end

