-- ==== Sys2Proof/Machine/Contexts.lean ====
section
/-! DEFINITION. Contexts, batons, quotas, queues and courses as the host makes and ends them (R365 to R369,
R379, R380, R385 to R397). -/

namespace Sys2Proof.Machine

/-! ## Contexts (R366, R367, R386 to R388) -/

/-- The contexts a function owns. -/
def State.ctxsOf (s : State) (f : Nat) : List Nat := (s.ctxs.filter (fun e => e.2.owner = f)).map (·.1)

/-- An address space is bound to another function (R366). -/
def State.boundElse (s : State) (k f : Nat) : Bool := s.ctxs.any (fun e => e.2.asid = k && e.2.owner ≠ f)

/-- The context is DISPLAY_CTX of a channel with an active tick program (R387). -/
def State.displays (s : State) (c : Nat) : Bool :=
  chans.any (fun ch => ((s.pacer ch).program.map Program.ctx) = some c)

/-- CTX_CREATE (R366, R365, R388). -/
def opCtxCreate (who : Req) (c v : Nat) (s : State) : State :=
  let o := Obj.ctxCreate c
  s.command who o (fun s =>
    let f := reqFn who
    let k := v % 256
    if 512 ≤ v then s.refuse o rcRange
    else if (look s.ctxs c).isSome then s.refuse o rcBusy
    else if s.boundElse k f then s.refuse o rcNotAuth
    else if (s.space k).empty || (s.space k).making then s.refuse o rcBusy
    else if s.obj (Obj.ctxQuota f) ≤ (s.ctxsOf f).length then s.refuse o rcNotAuth
    else
      let x : Context :=
        { state := .active, owner := f, asid := k, strict := bit v 8, hostRefs := 1,
          fault := { code := 0, queue := 0, chan := 0, tick := 0 }, edges := [], since := .all 0 }
      (s.setCtx c x).done o)

/-- CTX_CREATE (R366). -/
def execCtxCreate (who : Req) (c : Nat) (v : Nat) (s : State) : Out := clocked s (opCtxCreate who c v)

/-- A write that needs a context that is not FREE and not in TEARDOWN (R387). -/
def State.onContext (s : State) (c o : Nat) (f : Context → State) : State :=
  match look s.ctxs c with
  | none => s.refuse o rcRange
  | some x => if x.state = .teardown then s.refuse o rcBusy else f x

/-- CTX_HOLD (R386). -/
def opCtxHold (who : Req) (c v : Nat) (s : State) : State :=
  let o := Obj.ctxHold c
  s.command1 who o v (fun s => s.onContext c o (fun x => (s.setCtx c { x with hostRefs := x.hostRefs + 1 }).done o))

/-- CTX_HOLD (R386). -/
def execCtxHold (who : Req) (c : Nat) (v : Nat) (s : State) : Out := clocked s (opCtxHold who c v)

/-- A context's host references have gone (R387, R388): it enters TEARDOWN, and where no context that is not
in TEARDOWN names its address space any more the empty table is made for it. -/
def State.teardown (s : State) (c : Nat) : State :=
  match look s.ctxs c with
  | none => s
  | some x =>
    let s1 := s.setCtx c { x with state := .teardown, hostRefs := 0, edges := [], since := s.edges }
    let named := s1.ctxs.any (fun e => e.2.asid = x.asid && e.2.state ≠ .teardown)
    if named then s1 else s1.wantEmpty x.asid

/-- CTX_RELEASE (R386, R387). -/
def opCtxRelease (who : Req) (c v : Nat) (s : State) : State :=
  let o := Obj.ctxRelease c
  s.command1 who o v (fun s => s.onContext c o (fun x =>
    if s.displays c then s.refuse o rcBusy
    else if x.hostRefs ≤ 1 then (s.teardown c).done o
    else (s.setCtx c { x with hostRefs := x.hostRefs - 1 }).done o))

/-- CTX_RELEASE (R387). -/
def execCtxRelease (who : Req) (c : Nat) (v : Nat) (s : State) : Out := clocked s (opCtxRelease who c v)

/-- CTX_ABORT (R387). -/
def opCtxAbort (who : Req) (c v : Nat) (s : State) : State :=
  let o := Obj.ctxAbort c
  s.command1 who o v (fun s => s.onContext c o (fun _ =>
    if s.displays c then s.refuse o rcBusy else (s.teardown c).done o))

/-- CTX_ABORT (R387). -/
def execCtxAbort (who : Req) (c : Nat) (v : Nat) (s : State) : Out := clocked s (opCtxAbort who c v)

/-- The runs of a context of classes 1 to 3 on a channel. -/
def State.ctxRuns (s : State) (ch : Fin 4) (c : Nat) : List Nat :=
  (s.runs.filter (fun e => e.2.ctx = c && e.2.ch = ch.val && e.2.cls ≠ 0)).map (·.1)

/-- A channel's edge of R387: the context's commands there are killed or retire, and the empty table of its
address space takes effect there (R388). -/
def State.teardownAt (s : State) (ch : Fin 4) (c : Nat) : State :=
  match look s.ctxs c with
  | none => s
  | some x =>
    if x.state ≠ .teardown || x.edges.contains ch.val || s.edgeNo ch ≤ x.since.get ch then s
    else
      let s1 := forEach (s.ctxRuns ch c) State.kill s
      let qs := (s1.queues.filter (fun e => e.2.ctx = c && e.2.ch = ch.val)).map (·.1)
      let s2 := forEach qs (fun s q => s.dropQueue eOwnerLost q) s1
      let s3 := if (s2.space x.asid).making then s2.genEffect ch x.asid else s2
      ({ s3 with ctxs := adjust s3.ctxs c (fun y => { y with edges := ch.val :: y.edges }) } : State).settle

/-- TEARDOWN_EDGE (R387). -/
def execTeardownEdge (ch : Fin 4) (c : Nat) (s : State) : Out := clocked s (fun s => s.teardownAt ch c)

/-- Nothing of a context runs, publishes, waits to complete or is launched. -/
def State.ctxQuiet (s : State) (c : Nat) : Bool :=
  s.runs.all (fun e => e.2.ctx ≠ c) && s.pubs.all (fun e => e.2.ctx ≠ c) &&
  s.queues.all (fun e => e.2.ctx ≠ c || (e.2.head.isNone && e.2.order = []))

/-- The heats of a context become FREE (R410); their counters stand. -/
def State.freeHeats (s : State) (c : Nat) : State :=
  let mine := s.heats.filter (fun e => e.2.ctx = c)
  forEach mine (fun s e =>
    let s1 := (s.setObj (Obj.heatState (e.1 / 16) (e.1 % 16)) 0).setObj (Obj.heatCtx (e.1 / 16) (e.1 % 16)) 0
    { s1 with heats := del s1.heats e.1 }) s

/-- The references a context holds to batons go (R386, R390). -/
def State.dropRefs (s : State) (c : Nat) : State :=
  { s with batons := s.batons.map (fun e =>
      (e.1, { e.2 with owner := if e.2.owner = some c then none else e.2.owner, shares := e.2.shares.filter (fun x => x != c) })) }

/-- A context becomes FREE (R387). -/
def State.freeCtx (s : State) (c : Nat) (x : Context) : State :=
  let s1 := (s.failOwned c eOwnerLost none).freeHeats c
  let s2 := s1.dropRefs c
  let s3 := { s2 with courses := s2.courses.filter (fun e => e.2.ctx ≠ c), queues := s2.queues.filter (fun e => e.2.ctx ≠ c),
                      ctxs := del s2.ctxs c }
  (s3.attnFor x.owner atState noCh (Obj.ctxState c) 0).settle

/-- The reset of function `f` goes on (R338): one of its contexts is in TEARDOWN, or a queue of one closes. -/
def State.resetBusy (s : State) (f : Nat) : Bool :=
  s.ctxs.any (fun e => e.2.owner = f && (e.2.state = .teardown || s.queues.any (fun q => q.2.ctx = e.1 && q.2.closing)))

/-- Functions whose reset is complete leave it (R338). -/
def State.endResets (s : State) : State := { s with underReset := s.underReset.filter s.resetBusy }

/-- TEARDOWN_COMPLETE (R387): every publication of the context has ended after its four edges. -/
def execTeardownComplete (c : Nat) (s : State) : Out :=
  clocked s fun s =>
    match look s.ctxs c with
    | none => s
    | some x => if x.state ≠ .teardown || x.edges.length ≠ 4 || !s.ctxQuiet c then s else (s.freeCtx c x).endResets

/-! ## Batons (R379, R380, R390) -/

/-- Highest baton number plus one. -/
def batonEnd : Nat := 16384

/-- The baton range of a tenant contains `b` (R365). -/
def State.inTenant (s : State) (t b : Nat) : Bool :=
  s.obj (Obj.batonBase t) ≤ b && b < s.obj (Obj.batonBase t) + s.obj (Obj.batonQuota t)

/-- A context is ACTIVE and owned by the requester. -/
def State.ownActive (s : State) (who : Req) (c : Nat) : Bool :=
  match look s.ctxs c with
  | none => false
  | some x => x.state = .active && x.owner = reqFn who

/-- CTX_BATON_CREATE (R380). -/
def opBatonCreate (who : Req) (c b : Nat) (s : State) : State :=
  let o := Obj.ctxBatonCreate c
  s.command who o (fun s =>
    if !s.ownActive who c || (b < batonEnd && !s.inTenant (reqFn who) b) then s.refuse o rcNotAuth
    else if batonEnd ≤ b then s.refuse o rcRange
    else if (look s.batons b).isSome then s.refuse o rcBusy
    else (s.setBaton b { value := 0, lastTick := 0, lastSig := .none, owner := some c, shares := [], inError := false,
                         errCode := 0, errOrig := 0, errDet := 0 }).done o)

/-- CTX_BATON_CREATE (R380). -/
def execCtxBatonCreate (who : Req) (c b : Nat) (s : State) : Out := clocked s (opBatonCreate who c b)

/-- A context holds a reference to a baton. -/
def Baton.heldBy (x : Baton) (c : Nat) : Bool := x.owner = some c || x.shares.contains c

/-- CTX_BATON_RELEASE (R390). -/
def opBatonRelease (who : Req) (c b : Nat) (s : State) : State :=
  let o := Obj.ctxBatonRelease c
  s.command who o (fun s =>
    match look s.batons b with
    | none => s.refuse o rcRange
    | some x =>
      if !x.heldBy c then s.refuse o rcRange
      else
        let x1 := if x.owner = some c then { x with owner := none } else { x with shares := x.shares.filter (fun y => y != c) }
        ((s.setBaton b x1).done o).settle)

/-- CTX_BATON_RELEASE (R390). -/
def execCtxBatonRelease (who : Req) (c b : Nat) (s : State) : Out := clocked s (opBatonRelease who c b)

/-- REFS of a baton (R381). -/
def Baton.refs (x : Baton) : Nat := x.shares.length + (if x.owner.isSome then 1 else 0)

/-- Whether a requester may share from context `c` to context `d` (R380). -/
def State.mayShare (s : State) (who : Req) (c d : Nat) : Bool :=
  match look s.ctxs c, look s.ctxs d with
  | some x, some y => x.state = .active && y.state = .active && (reqFn who = 0 || (x.owner = reqFn who && y.owner = x.owner))
  | _, _ => false

/-- CTX_BATON_SHARE (R380). -/
def opBatonShare (who : Req) (c v : Nat) (s : State) : State :=
  let o := Obj.ctxBatonShare c
  s.command who o (fun s =>
    let b := bits v 15 0
    let d := bits v 23 16
    if v / 0x1000000 ≠ 0 then s.refuse o rcRange
    else if !s.mayShare who c d then s.refuse o rcNotAuth
    else match look s.batons b with
    | none => s.refuse o rcRange
    | some x =>
      if !x.heldBy c || 255 ≤ x.refs then s.refuse o rcRange
      else if x.heldBy d then s.refuse o rcBusy
      else (s.setBaton b { x with shares := x.shares ++ [d] }).done o)

/-- CTX_BATON_SHARE (R380). -/
def execCtxBatonShare (who : Req) (c : Nat) (v : Nat) (s : State) : Out := clocked s (opBatonShare who c v)

/-- A requester may signal or fail baton `b` (R380). -/
def State.maySignal (s : State) (who : Req) (b : Nat) : Bool := reqFn who = 0 || s.inTenant (reqFn who) b

/-- Who a host signal is from (R381). -/
def hostSig : Req → Signaller
  | .fn f => .host f
  | .t1 _ _ => .t1

/-- BATON_SIGNAL (R379). -/
def opBatonSignal (who : Req) (b v : Nat) (s : State) : State :=
  let o := Obj.batonSignal
  s.command who o (fun s =>
    if !s.maySignal who b then s.refuse o rcNotAuth
    else if (look s.batons b).isNone then s.refuse o rcRange
    else ((s.signal b v (hostSig who) noCh).done o).settle)

/-- BATON_SIGNAL (R379). -/
def execBatonSignal (who : Req) (b v : Nat) (s : State) : Out := clocked s (opBatonSignal who b v)

/-- BATON_FAIL (R379). -/
def opBatonFail (who : Req) (b code : Nat) (s : State) : State :=
  let o := Obj.batonFail
  s.command who o (fun s =>
    if !s.maySignal who b then s.refuse o rcNotAuth
    else if (look s.batons b).isNone || code = 0 || 0x8000 ≤ code then s.refuse o rcRange
    else ((s.failBaton b code b 0 0).done o).settle)

/-- BATON_FAIL (R379). -/
def execBatonFail (who : Req) (b code : Nat) (s : State) : Out := clocked s (opBatonFail who b code)

/-! ## Quotas (R365) -/

/-- The batons, contexts and queues a tenant holds. -/
def State.tenantBatons (s : State) (t : Nat) : List Nat := (s.batons.filter (fun e => s.inTenant t e.1)).map (·.1)
def State.tenantQueues (s : State) (t : Nat) : List Nat :=
  (s.queues.filter (fun e => s.ctxFn e.2.ctx = t)).map (·.1)

/-- A baton range of a tenant meets another tenant's. -/
def State.rangeMeets (s : State) (t base n : Nat) : Bool :=
  (upto 16).any (fun u => u ≠ t && s.obj (Obj.batonBase u) < base + n &&
    base < s.obj (Obj.batonBase u) + s.obj (Obj.batonQuota u) && n ≠ 0 && s.obj (Obj.batonQuota u) ≠ 0)

/-- A write to a tenant's quota (R365): sub 1 BATON_BASE, 2 BATON_QUOTA, 3 CTX_QUOTA, 4 QUEUE_QUOTA. -/
def opTenantQuota (who : Req) (t sub v : Nat) (s : State) : State :=
  let o := key (0x1200 + t) sub
  s.command who o (fun s =>
    let base := if sub = 1 then v else s.obj (Obj.batonBase t)
    let n := if sub = 2 then v else s.obj (Obj.batonQuota t)
    if sub = 0 || 4 < sub || 16 ≤ t then s.answer rcUnknown
    else if sub ≤ 2 && (s.rangeMeets t base n || batonEnd < base + n) then s.answer rcRange
    else
      let holds := if sub ≤ 2 then (s.tenantBatons t).any (fun b => b < base || base + n ≤ b)
        else if sub = 3 then v < (s.ctxsOf t).length else v < (s.tenantQueues t).length
      if holds then s.answer rcBusy else (s.setObj o v).answer rcOk)

/-- TENANT_QUOTA_WRITE (R365). -/
def execTenantQuotaWrite (who : Req) (t sub v : Nat) (s : State) : Out := clocked s (opTenantQuota who t sub v)

/-! ## Queues (R369, R385, R389) -/

/-- A requester's staged value of an object of a FREE queue or course (R369, R394). -/
def State.stagedObj (s : State) (who : Req) (k : Nat) : Nat := s.obj (own who k)

/-- Q_CREATE (R369). -/
def opQCreate (who : Req) (q v : Nat) (s : State) : State :=
  let o := Obj.qCreate q
  s.command who o (fun s =>
    let c := bits v 7 0
    let eng := bits v 10 8
    let cls := bits v 14 13
    let base := s.stagedObj who (Obj.qBase q)
    let n := s.stagedObj who (Obj.qEntries q)
    let ring := s.stagedObj who (Obj.qRing q)
    let ringN := s.stagedObj who (Obj.qRingEntries q)
    if 0x8000 ≤ v || 4 < eng || cls = 0 || base % 16 ≠ 0 || n < 2 || 65536 < n || ring % 64 ≠ 0 ||
       (ring ≠ 0 && (ringN < 2 || 4096 < ringN)) then s.refuse o rcRange
    else if (look s.queues q).isSome then s.refuse o rcBusy
    else if !s.ownActive who c || s.obj (Obj.queueQuota (reqFn who)) ≤ (s.tenantQueues (reqFn who)).length then s.refuse o rcNotAuth
    else
      let x : Queue :=
        { ctx := c, engine := eng, ch := bits v 12 11, cls := cls, base := base, entries := n, ring := ring, ringN := ringN,
          wptr := 0, rung := false, idle := true, sampled := 0, rptr := 0, bufAddr := 0, bufBytes := 0, bufOff := 0, head := none,
          order := [], nextSeq := 1, consumed := 0, ringDrops := 0, lap := 0, readyTicks := 0, stalled := false,
          stopped := false, closing := false, ahead := false }
      (s.setQueue q x).done o)

/-- Q_CREATE (R369). -/
def execQCreate (who : Req) (q : Nat) (v : Nat) (s : State) : Out := clocked s (opQCreate who q v)

/-- A queue closes as by Q_DESTROY (R389): its unstarted commands retire with E_QUEUE_CLOSED. -/
def State.closeQueue (s : State) (q : Nat) : State :=
  let s1 := s.dropQueue eQueueClosed q
  { s1 with queues := adjust s1.queues q (fun x => { x with closing := true }) }

/-- Q_DESTROY (R389). -/
def opQDestroy (who : Req) (q v : Nat) (s : State) : State :=
  let o := Obj.qDestroy q
  s.command1 who o v (fun s =>
    match look s.queues q with
    | none => s.refuse o rcRange
    | some x => if x.closing || !s.ctxActive x.ctx then s.refuse o rcBusy else ((s.closeQueue q).accept o).settle)

/-- Q_DESTROY (R389). -/
def execQDestroy (who : Req) (q : Nat) (v : Nat) (s : State) : Out := clocked s (opQDestroy who q v)

/-- QUEUE_CLOSED (R389): a closing queue with nothing left becomes FREE. -/
def execQueueClosed (q : Nat) (s : State) : Out :=
  clocked s fun s =>
    match look s.queues q with
    | none => s
    | some x =>
      if !x.closing || x.head.isSome || x.order ≠ [] then s
      else ((({ s with queues := del s.queues q } : State).ended (Obj.qDestroy q) 0 2).settle).endResets

/-- The head of a queue waits: for its baton or for room in its ring (R378, R382). -/
def State.headWaits (s : State) (q : Queue) : Bool :=
  match q.head with
  | some h => h.phase = .fetched && (!s.waitMet h.cmd || !s.ringRoom q (.queue 0 h.track) h.cmd)
  | none => false

/-- Q_STATUS of a queue (R399). -/
def State.qStatus (s : State) (q : Queue) : Nat :=
  let st := if q.stopped || q.closing || !s.ctxActive q.ctx then 4
    else if s.headWaits q then 3
    else if q.head.isNone && q.rptr = q.sampled && q.bufBytes ≤ q.bufOff then 1 else 2
  st + (if q.stalled then 256 else 0)

/-- QUEUE_STALL (R385): a head that has been ready for STALL_TICKS ticks while its engine's lap counter stood
still is STALLED, with attention once. -/
def execQueueStall (q : Nat) (s : State) : Out :=
  clocked s fun s =>
    match look s.queues q with
    | none => s
    | some x =>
      if x.stalled || x.readyTicks < s.obj (Obj.stallTicks x.ch) then s
      else
        let x1 := { x with stalled := true }
        (s.setQueue q x1).attnFor (s.ctxFn x.ctx) atState x.ch (Obj.qStatus q) (s.qStatus x1)

/-! ## Courses (R394 to R397) -/

/-- MAGIC of a course table (R394). -/
def courseMagic : Nat := 0x45535243

/-- COURSE_CREATE (R394): the requester's COURSE_ADDR is taken and the check starts. A course whose creation
was refused may be created again. -/
def opCourseCreate (who : Req) (k v : Nat) (s : State) : State :=
  let o := Obj.courseCreate k
  s.command who o (fun s =>
    let c := v % 256
    let cls := bits v 9 8
    let free := match look s.courses k with
      | none => true
      | some x => x.state = .refused
    if 1024 ≤ v || cls = 0 then s.refuse o rcRange
    else if !free then s.refuse o rcBusy
    else if !s.ownActive who c then s.refuse o rcNotAuth
    else
      let x : Course :=
        { state := .checking, ctx := c, cls := cls, code := 0, failNode := 0, version := 0, versions := [],
          checking := some (s.stagedObj who (Obj.courseAddr k)), waiting := none, since := .all 0 }
      ({ s with courses := put s.courses k x } : State).accept o)

/-- COURSE_CREATE (R394). -/
def execCourseCreate (who : Req) (k v : Nat) (s : State) : Out := clocked s (opCourseCreate who k v)

/-- COURSE_PATCH (R395): the table now at COURSE_ADDR is checked. -/
def opCoursePatch (who : Req) (k v : Nat) (s : State) : State :=
  let o := Obj.coursePatch k
  s.command1 who o v (fun s =>
    match look s.courses k with
    | none => s.refuse o rcRange
    | some x =>
      if x.state = .refused then s.refuse o rcRange
      else if x.checking.isSome || x.waiting.isSome then s.refuse o rcBusy
      else ({ s with courses := put s.courses k { x with checking := some (s.stagedObj who (Obj.courseAddr k)) } } : State).accept o)

/-- COURSE_PATCH (R395). -/
def execCoursePatch (who : Req) (k v : Nat) (s : State) : Out := clocked s (opCoursePatch who k v)

/-- The node at index `i` of a course table, or nothing where its fields break R394. -/
def courseNode (b : List Byte) (i : Nat) : Option CourseNode :=
  let n : CourseNode := { engine := field b 0 1, dep0 := field b 2 2, dep1 := field b 4 2, cmd := field b 8 8 }
  if n.engine ≤ 4 && reserved b 1 1 && n.dep0 ≤ i && n.dep1 ≤ i && reserved b 6 2 then some n else none

/-- The code with which a node of a course table fails the header check, or is a COURSE (R394); 0 where it passes. A
header that an open publication holds gives its hold (R157). -/
def State.nodeCode (s : State) (x : Xlat) (cls : Nat) (n : CourseNode) : Nat :=
  match s.loadV x n.cmd 48 with
  | .error e => if (heldAt e).isSome then e else eCourseFormat
  | .ok h => if headerOk h n.engine cls 4096 && field h 0 1 ≠ 8 then 0 else eCourseFormat

/-- The check of a course table (R394): its nodes, or the code and the failing node. -/
def State.courseTable (s : State) (x : Xlat) (cls a : Nat) : Except (Nat × Nat) (List CourseNode) :=
  match s.loadV x a 32 with
  | .error e => .error (e, 0)
  | .ok h =>
    let n := field h 4 2
    if field h 0 4 ≠ courseMagic || n = 0 || 1024 < n || !reserved h 6 26 then .error (eCourseFormat, 0)
    else match s.loadV x (a + 32) (16 * n) with
    | .error e => .error (e, 0)
    | .ok b =>
      (upto n).foldl (fun acc i => match acc with
        | .error e => .error e
        | .ok l => match courseNode (slice b (16 * i) 16) i with
          | none => .error (eCourseFormat, i)
          | some nd => match s.nodeCode x cls nd with
            | 0 => .ok (l ++ [nd])
            | e => .error (e, i)) (.ok [])

/-- COURSE_CHECK_DONE (R394, R395): the check of a creation makes version 1 or refuses; the check of a patch
makes the version that waits for the next edges, or records the code and leaves the course as it is. A check that meets
a held line is not done yet (R157); one that meets an uncorrectable error fails with E_MEMORY_ERROR (R308). -/
def execCourseCheckDone (k : Nat) (ecc : Ecc) (s : State) : Out :=
  clocked s fun s =>
    match look s.courses k with
    | none => s
    | some x =>
      match x.checking with
      | none => s
      | some a =>
        let first := x.state = .checking
        let o := if first then Obj.courseCreate k else Obj.coursePatch k
        let s := s.noteEcc 0 ecc
        let s' (y : Course) : State := { s with courses := put s.courses k y }
        match if ecc.bad.isSome then .error (eMemError, 0) else s.courseTable (s.ctxXlat x.ctx 0 4 x.cls) x.cls a with
        | .error (e, i) =>
          if (heldAt e).isSome then s else
          ((s' { x with state := if first then .refused else .ready, checking := none, code := e, failNode := i }).setCmd o e 3).attnFor
            (s.ctxFn x.ctx) e noCh (Obj.courseStatus k) (e * 65536 + (if first then 3 else 2) * 4096 + i)
        | .ok nodes =>
          if first then (s' { x with state := .ready, checking := none, code := 0, failNode := 0, version := 1, versions := [(1, nodes)] }).ended o 0 2
          else s' { x with checking := none, code := 0, failNode := 0, waiting := some nodes, since := s.edges }

/-- COURSE_VERSION_EFFECT (R395): once every channel has passed its next edge the new version is current. -/
def execCourseVersionEffect (k : Nat) (s : State) : Out :=
  clocked s fun s =>
    match look s.courses k with
    | none => s
    | some x =>
      match x.waiting with
      | none => s
      | some nodes =>
        if chans.any (fun c => s.edgeNo c ≤ x.since.get c) then s
        else
          let v := x.version + 1
          (({ s with courses := put s.courses k { x with version := v, versions := (v, nodes) :: x.versions, waiting := none } } : State).ended
            (Obj.coursePatch k) 0 2).settle

/-- COURSE_DESTROY (R397). -/
def opCourseDestroy (who : Req) (k v : Nat) (s : State) : State :=
  let o := Obj.courseDestroy k
  s.command1 who o v (fun s =>
    if (look s.courses k).isNone then s.refuse o rcRange
    else if s.launches.any (fun l => l.2.course = k) then s.refuse o rcBusy
    else ({ s with courses := del s.courses k } : State).done o)

/-- COURSE_DESTROY (R397). -/
def execCourseDestroy (who : Req) (k v : Nat) (s : State) : Out := clocked s (opCourseDestroy who k v)

/-- The version a launch that starts now on a channel binds to, and its nodes (R395): one that waits and
whose edge has come on the channel, or the current one. -/
def State.bindVersion (s : State) (x : Course) (ch : Fin 4) : Nat × List CourseNode :=
  match x.waiting with
  | some nodes => if x.since.get ch < s.edgeNo ch then (x.version + 1, nodes) else (x.version, (look x.versions x.version).getD [])
  | none => (x.version, (look x.versions x.version).getD [])

/-- A COURSE command starts (R396): a launch bound to a version takes the head of its queue. -/
def State.startCourse (s : State) (qn : Nat) (q : Queue) (h : Head) (k : Nat) (x : Course) (heat : Option Nat) : State :=
  let (id, s1) := s.newId
  let (v, nodes) := s.bindVersion x (toCh q.ch)
  let l : Launch :=
    { course := k, version := v, queue := qn, track := h.track, nodes := nodes, phases := nodes.map (fun _ => NodePhase.waiting),
      heat := heat, admitted := heat = none }
  let s2 := s1.setQueue qn { q with head := some { h with phase := .launched id } }
  { s2 with launches := put s2.launches id l }

/-- COURSE (R396): the COURSE command at the head of a queue, not a heat step, starts once its wait is
satisfied. A course destroyed since the fetch refuses it. -/
def execCourse (q : Nat) (s : State) : Out :=
  clocked s fun s =>
    match look s.queues q with
    | none => s
    | some x =>
      match x.head with
      | none => s
      | some h =>
        if h.phase ≠ .fetched || h.cmd.op ≠ 8 || field h.cmd.body 2 1 ≠ 0xFF || !s.waitOver x (.queue q h.track) h.cmd || !s.awake then s
        else match look s.courses (field h.cmd.body 0 2) with
        | none => ((s.noteRefusal (toCh x.ch) x.engine q x.ctx h.cmd eCourseFormat).retire q h.track (notRun eCourseFormat)).settle
        | some k => (s.startCourse q x h (field h.cmd.body 0 2) k none).settle

end Sys2Proof.Machine
end

