-- ==== Sys2Proof/Machine/Heats.lean ====
section
/-! DEFINITION. Heats (R400 to R413): creating and destroying one, the start of a step, admission, and its
completion. A heat's key is 16 × channel + heat. -/

namespace Sys2Proof.Machine

/-! ## Bytes at virtual addresses -/

/-- A number of `n` bytes at a virtual address, 0 where it does not translate. -/
def State.getV (s : State) (x : Xlat) (a n : Nat) : Nat :=
  match s.readV x a n with
  | .ok b => leNat b
  | .error _ => 0

/-- A number of `n` bytes written at a virtual address that translates. -/
def State.putV (s : State) (x : Xlat) (a n v : Nat) : State :=
  match s.stageV x a (toLE n v) with
  | .ok cells => s.writeOut x.cls cells
  | .error _ => s

/-- A span grants R and W, or the code of the fault. -/
def State.spanCode (s : State) (x : Xlat) (a n : Nat) : Nat :=
  match s.span x (rightR + rightW) a n with
  | .ok _ => 0
  | .error e => e

/-! ## The heat record (R402, R403) -/

/-- MAGIC of a heat record. -/
def heatMagic : Nat := 0x54414548

/-- The header of a heat record, 64 bytes, meets Table: Heat record. -/
def heatHeaderOk (b : List Byte) : Bool :=
  field b 0 4 = heatMagic && 1 ≤ field b 4 1 && field b 4 1 ≤ 64 && reserved b 5 3 &&
  256 ≤ field b 8 4 && field b 8 4 ≤ 1048576 && field b 8 4 % 256 = 0 &&
  2 ≤ field b 0x0C 4 && field b 0x0C 4 ≤ 4096 && field b 0x10 8 % 32 = 0 && reserved b 0x34 12

/-- A heat at work: its record's address and what the header says. -/
structure HeatView where
  addr  : Nat
  slots : Nat
  token : Nat
  ringN : Nat
  ring  : Nat
  wptr  : Nat
  rptr  : Nat
  deriving DecidableEq, Repr

/-- The header of the record at `a`, or the code it is refused with: a fault's, or E_HEAT_FORMAT. -/
def State.heatHeader (s : State) (x : Xlat) (a : Nat) : Except Nat HeatView :=
  match s.readV x a 64 with
  | .error e => .error e
  | .ok b =>
    if !heatHeaderOk b then .error eHeat
    else
      let v : HeatView := { addr := a, slots := field b 4 1, token := field b 8 4, ringN := field b 0x0C 4, ring := field b 0x10 8,
                            wptr := field b 0x18 4, rptr := field b 0x1C 4 }
      match s.spanCode x a (64 + 32 * v.slots), s.spanCode x v.ring (32 * v.ringN) with
      | 0, 0 => .ok v
      | 0, e => .error e
      | e, _ => .error e

/-- The key at which an open publication holds a read of a heat's record or ring (R157). -/
def State.heatHeld (s : State) (x : Xlat) (a : Nat) : Option Nat :=
  let at' (v n : Nat) : Option Nat := match s.span x rightR v n with
    | .ok ks => (ks.find? (fun p => s.isHeld x.ch p.1)).map (·.1)
    | .error e => heldAt e
  (at' a 64).orElse (fun _ => match s.heatHeader x a with
    | .ok v => (at' a (64 + 32 * v.slots)).orElse (fun _ => at' v.ring (32 * v.ringN))
    | .error e => heldAt e)

/-- Address of slot `i` and of request `r`. -/
def HeatView.slot (v : HeatView) (i : Nat) : Nat := v.addr + 64 + 32 * i
def HeatView.req (v : HeatView) (r : Nat) : Nat := v.ring + 32 * (r % 2 ^ 32 % v.ringN)

/-- HEAT_CREATE (R402). -/
def opHeatCreate (who : Req) (ch : Fin 4) (h c : Nat) (s : State) : State :=
  let o := Obj.heatCreate ch h
  s.command who o (fun s =>
    if 16 ≤ h then s.refuse o rcUnknown
    else if (look s.heats (heatKey ch h)).isSome then s.refuse o rcBusy
    else if !s.ownActive who c then s.refuse o rcNotAuth
    else
      let x := s.heatXlat c ch
      let a := s.obj (Obj.heatAddr ch h)
      match s.heatHeader x a with
      | .error _ => s.refuse o rcRange
      | .ok v =>
        if (upto v.slots).any (fun i => s.getV x (v.slot i) 4 ≠ 0) then s.refuse o rcRange
        else
          let s1 := [Obj.heatSteps ch h, Obj.heatJoins ch h, Obj.heatLeaves ch h, Obj.heatDeferrals ch h, Obj.heatRefused ch h,
            Obj.heatLeaveMisses ch h].foldl (fun s k => s.setObj k 0) s
          let s2 := (s1.setObj (Obj.heatState ch h) 1).setObj (Obj.heatCtx ch h) c
          ({ s2 with heats := put s2.heats (heatKey ch h) { ctx := c, addr := a, seen := [] } } : State).done o)

/-- HEAT_CREATE (R402). -/
def execHeatCreate (who : Req) (ch : Fin 4) (h c : Nat) (s : State) : Out := clocked s (opHeatCreate who ch h c)

/-- The device address of a key-value memory at virtual address `kv`. -/
def kvAddr (x : Xlat) (kv : Nat) : Nat := kv - x.gen.allocVa

/-- HEAT_DESTROY (R410, R412): the memory of every occupied slot is freed and the heat is FREE. BUSY answers one that arrives
during a step, also where a node's fault has made the heat FAULTED while others run, and one whose frees need a memory out of
service (R309, log entry 131). -/
def opHeatDestroy (who : Req) (ch : Fin 4) (h v : Nat) (s : State) : State :=
  let o := Obj.heatDestroy ch h
  s.command1 who o v (fun s =>
    match look s.heats (heatKey ch h) with
    | none => s.refuse o rcRange
    | some y =>
      let x := s.heatXlat y.ctx ch
      let n := s.getV x (y.addr + 4) 1
      let held := (upto n).any (fun i => s.getV x (y.addr + 64 + 32 * i) 1 ≠ 0)
      if s.obj (Obj.heatState ch h) = 2 || s.launches.any (fun l => l.2.heat = some (heatKey ch h)) || (held && !s.memUp ch) then s.refuse o rcBusy
      else
        let s1 := forEach (upto n) (fun s i =>
          let a := y.addr + 64 + 32 * i
          if s.getV x a 1 = 0 then s else s.unalloc ch (kvAddr x (s.getV x (a + 8) 8))) s
        let s2 := (s1.setObj (Obj.heatState ch h) 0).setObj (Obj.heatCtx ch h) 0
        ({ s2 with heats := del s2.heats (heatKey ch h) } : State).done o)

/-- HEAT_DESTROY (R410). -/
def execHeatDestroy (who : Req) (ch : Fin 4) (h v : Nat) (s : State) : Out := clocked s (opHeatDestroy who ch h v)

/-! ## Admission (R404 to R406) -/

/-- Fields of a slot and of a request at address `a`. -/
def State.slotState (s : State) (x : Xlat) (a : Nat) : Nat := s.getV x a 1
def State.seqId (s : State) (x : Xlat) (a : Nat) : Nat := s.getV x (a + 4) 4
def State.reqOp (s : State) (x : Xlat) (a : Nat) : Nat := s.getV x a 1

/-- leave(s) of R405: the sequence's memory is freed and the slot is EMPTY. -/
def State.leaveSlot (s : State) (x : Xlat) (ch : Fin 4) (h : Nat) (v : HeatView) (i : Nat) : State :=
  let a := v.slot i
  let s1 := s.unalloc ch (kvAddr x (s.getV x (a + 8) 8))
  (s1.putV x a 1 0).bump (Obj.heatLeaves ch h) 1 64

/-- Part 1 of R405: finished sequences leave. -/
def State.leaveDone (s : State) (x : Xlat) (ch : Fin 4) (h : Nat) (v : HeatView) : State :=
  forEach (upto v.slots) (fun s i => if s.slotState x (v.slot i) = 2 then s.leaveSlot x ch h v i else s) s

/-- Part 2 of R405 for request `v.rptr + j`: a LEAVE. -/
def State.leaveReq (s : State) (x : Xlat) (ch : Fin 4) (h : Nat) (v : HeatView) (doneIds : List Nat) (j : Nat) : State :=
  let a := v.req (v.rptr + j)
  if s.reqOp x a ≠ 2 then s
  else
    let id := s.seqId x a
    let s1 := match (upto v.slots).find? (fun i => s.slotState x (v.slot i) = 1 && s.seqId x (v.slot i) = id) with
      | some i => s.leaveSlot x ch h v i
      | none =>
        match (upto j).find? (fun k => s.reqOp x (v.req (v.rptr + k)) = 1 && s.seqId x (v.req (v.rptr + k)) = id) with
        | some k => s.putV x (v.req (v.rptr + k)) 1 0
        | none => if doneIds.contains id then s else s.bump (Obj.heatLeaveMisses ch h) 1 32
    s1.putV x a 1 0

/-- Bytes a join asks for (R405). -/
def joinBytes (v : HeatView) (maxTokens : Nat) : Nat := ceilDiv (maxTokens * v.token) 256 * 256

/-- A join breaks Table: Request entry or asks for more than 4 GB (R405). -/
def State.joinBad (s : State) (x : Xlat) (v : HeatView) (a : Nat) : Bool :=
  let m := s.getV x (a + 8) 4
  s.getV x (a + 1) 3 ≠ 0 || m = 0 || 1048576 < m || s.getV x (a + 0x0C) 4 ≠ 0 || s.getV x (a + 0x18) 8 ≠ 0 ||
  2 ^ 32 < joinBytes v m

/-- The allocation of a join (R325, R405): its virtual address, or nothing. Counted as a call. -/
def State.joinAlloc (s : State) (x : Xlat) (ch : Fin 4) (c n : Nat) : Option Nat × State :=
  let s1 := s.bump (Obj.allocCalls ch) 1 64
  match if x.gen.allocEn && s1.memUp ch then s1.place x.asid ch n 256 else none with
  | none => (none, s1.bump (Obj.allocFails ch) 1 32)
  | some pa => (some (x.gen.allocVa + pa), s1.allocate x.asid ch pa n c none true)

/-- Part 3 of R405 for request `v.rptr + j`: a JOIN. The flag tells that joins are blocked. -/
def State.joinReq (x : Xlat) (ch : Fin 4) (h c : Nat) (v : HeatView) (p : State × Bool) (j : Nat) : State × Bool :=
  let (s, blocked) := p
  let a := v.req (v.rptr + j)
  if blocked || s.reqOp x a ≠ 1 then p
  else
    let id := s.seqId x a
    let dup := (upto v.slots).any (fun i => s.slotState x (v.slot i) ≠ 0 && s.seqId x (v.slot i) = id)
    if s.joinBad x v a || dup then
      let s1 := s.bump (Obj.heatRefused ch h) 1 32
      let s2 := if s.joinBad x v a then s1.attnFor (s1.ctxFn c) atCount ch (Obj.heatRefused ch h) (s1.obj (Obj.heatRefused ch h)) else s1
      (s2.putV x a 1 0, false)
    else match (upto v.slots).find? (fun i => s.slotState x (v.slot i) = 0) with
    | none => (s, true)
    | some i =>
      let m := s.getV x (a + 8) 4
      match s.joinAlloc x ch c (joinBytes v m) with
      | (none, s1) => (s1, true)
      | (some kv, s1) =>
        let t := v.slot i
        let s2 := (((s1.putV x (t + 4) 4 id).putV x (t + 8) 8 kv).putV x (t + 0x10) 8 (s1.getV x (a + 0x10) 8)).putV x (t + 0x18) 4 0
        let s3 := ((s2.putV x (t + 0x1C) 4 m).putV x t 1 1).putV x a 1 0
        (s3.bump (Obj.heatJoins ch h) 1 64, false)

/-- The end of R405 and R406: the read pointer, OCCUPIED, DEFERRED, the deferrals' count, and attention for
each request deferred for the first time. -/
def State.admitted (s : State) (x : Xlat) (ch : Fin 4) (h c n : Nat) (v : HeatView) : State :=
  let ops := (upto n).map (fun j => s.reqOp x (v.req (v.rptr + j)))
  let lead := (ops.takeWhile (fun o => o = 0)).length
  let left := ((upto n).filter (fun j => s.reqOp x (v.req (v.rptr + j)) = 1)).map (fun j => (v.rptr + j) % 2 ^ 32)
  let occ := ((upto v.slots).map (fun i => if s.slotState x (v.slot i) = 0 then 0 else 2 ^ i)).sum
  let s1 := ((s.putV x (v.addr + 0x1C) 4 ((v.rptr + lead) % 2 ^ 32)).putV x (v.addr + 0x28) 8 occ).putV x (v.addr + 0x30) 4 left.length
  let s2 := s1.bump (Obj.heatDeferrals ch h) left.length 64
  let old := ((look s.heats (heatKey ch h)).map Heat.seen).getD []
  let s3 := { s2 with heats := adjust s2.heats (heatKey ch h) (fun y => { y with seen := left }) }
  forEach (left.filter (fun r => !old.contains r)) (fun s _ =>
    s.attnFor (s.ctxFn c) atCount ch (Obj.heatDeferrals ch h) (s.obj (Obj.heatDeferrals ch h))) s3

/-- Admission of heat `h` of a channel for context `c` (R405). REQ_WPTR is sampled once; a LEAVE of a sequence
that part 1 took is no miss (R412). -/
def State.admitRequest (s : State) (x : Xlat) (ch : Fin 4) (h c : Nat) (v : HeatView) : State :=
  let n := min ((v.wptr + 2 ^ 32 - v.rptr) % 2 ^ 32) 256
  let ids := ((upto v.slots).filter (fun i => s.slotState x (v.slot i) = 2)).map (fun i => s.seqId x (v.slot i))
  let s1 := s.leaveDone x ch h v
  let s2 := (upto n).foldl (fun s j => s.leaveReq x ch h v ids j) s1
  let s3 := ((upto n).foldl (State.joinReq x ch h c v) (s2, false)).1
  s3.admitted x ch h c n v

/-- A record malformed at admission (R22, R409): a slot's STATE beyond DONE or its reserved bytes not 0, or more
requests than the ring has entries. -/
def State.recordBad (s : State) (x : Xlat) (v : HeatView) : Bool :=
  v.ringN < (v.wptr + 2 ^ 32 - v.rptr) % 2 ^ 32 || (upto v.slots).any (fun i => 2 < s.getV x (v.slot i) 4)

/-! ## Steps (R401, R409) -/

/-- The heat step at the head of a queue, if it waits to start: its heat's key. -/
def State.stepHead (s : State) (q : Queue) : Option (Head × Nat) :=
  match q.head with
  | none => none
  | some h =>
    let n := field h.cmd.body 2 1
    if h.phase = .fetched && h.cmd.op = 8 && n ≠ 0xFF && s.waitOver q (.queue 0 h.track) h.cmd then some (h, heatKey q.ch n) else none

/-- Another queue's step of the same heat is first in the order of R373 (R412). -/
def State.stepFirst (s : State) (qn : Nat) (q : Queue) (k : Nat) : Bool :=
  let rank (n : Nat) : Nat := (n + 2048 - s.tick (toCh q.ch) % 2048) % 2048
  s.queues.all (fun e => e.1 = qn || e.2.ch ≠ q.ch || (s.stepHead e.2).map (·.2) ≠ some k || rank qn < rank e.1)

/-- The COURSE command at the head of a queue faults its context (R409). -/
def State.faultStep (s : State) (qn : Nat) (q : Queue) (h : Head) (code : Nat) : State :=
  let b := if h.cmd.signalEn then some h.cmd.sigBaton else none
  let s1 := match b with
    | none => s
    | some n => s.failBaton n code n 0 q.cls
  let s2 := s1.setQueue qn { q with stopped := true }
  ((s2.contextFault q.ctx code qn q.ch b).retire qn h.track { (notRun code) with ran := true }).settle

/-- The SEED of a heat step's replay record (R448): the write pointer sampled and the joins deferred. -/
def State.seedStep (s : State) (q track seed : Nat) : State :=
  { s with queues := adjust s.queues q (fun x => { x with order := x.order.map (fun t =>
      if t.id = track then { t with cmd := { t.cmd with seed := seed } } else t) }) }

/-- An admission has called the allocator (R404): a sequence has left or a join has asked for memory. -/
def State.calledPool (s t : State) (ch : Fin 4) (n : Nat) : Bool :=
  s.obj (Obj.heatLeaves ch n) ≠ t.obj (Obj.heatLeaves ch n) || s.obj (Obj.allocCalls ch) ≠ t.obj (Obj.allocCalls ch)

/-- HEAT_STEP (R401, R404): a heat step at the head of a queue starts once its wait is satisfied and its heat
is IDLE; admission runs, and the launch's nodes wait for its completion. `ecc` are the errors that admission's reads met:
an uncorrectable one faults the command (R308), and so does an allocator call while the pool's memory is out of service
(R309), before anything of the admission is done (log entry 131). -/
def execHeatStep (q : Nat) (ecc : Ecc) (s : State) : Out :=
  clocked s fun s =>
    match look s.queues q with
    | none => s
    | some x =>
      match s.stepHead x with
      | none => s
      | some (h, k) =>
        let ch := toCh x.ch
        let n := k % 16
        match look s.heats k, look s.courses (field h.cmd.body 0 2) with
        | some y, some c =>
          if !s.awake || s.obj (Obj.heatState ch n) ≠ 1 || !s.stepFirst q x k then s
          else
            let s := s.noteEcc ch ecc
            let xl := s.heatXlat y.ctx ch
            if ecc.bad.isSome then (s.setObj (Obj.heatState ch n) 3).faultStep q x h eMemError
            else
            match s.heatHeld xl y.addr with
            | some key => s.hold (.queue q) (some ch) [key]
            | none =>
            (match s.heatHeader xl y.addr with
            | .error e => ((s.setObj (Obj.heatState ch n) 3).faultStep q x h e)
            | .ok v =>
              if s.recordBad xl v then (s.setObj (Obj.heatState ch n) 3).faultStep q x h eHeat
              else
                let s1 := (s.setObj (Obj.heatState ch n) 2).startCourse q x h (field h.cmd.body 0 2) c (some k)
                let s2 := s1.admitRequest xl ch n y.ctx v
                if !s.memUp ch && s1.calledPool s2 ch n then (s.setObj (Obj.heatState ch n) 3).faultStep q x h eMemOffline
                else s2.seedStep q h.track (v.wptr + 2 ^ 32 * s2.getV xl (v.addr + 0x30) 4))
        | hs, _ =>
          let code := if hs.isNone then eHeat else eCourseFormat
          ((s.noteRefusal ch x.engine q x.ctx h.cmd code).retire q h.track (notRun code)).settle

/-- ADMISSION_COMPLETE (R401, R412): the nodes of the step are released; where the context has faulted in the
meantime the heat is FAULTED. -/
def execAdmissionComplete (ch : Fin 4) (heat : Nat) (s : State) : Out :=
  clocked s fun s =>
    let k := heatKey ch heat
    match look s.heats k with
    | none => s
    | some y =>
      if !s.launches.any (fun l => l.2.heat = some k && !l.2.admitted) then s
      else
        let s1 : State := { s with launches := s.launches.map (fun l => if l.2.heat = some k then (l.1, { l.2 with admitted := true }) else l) }
        (if s.ctxActive y.ctx then s1 else s1.setObj (Obj.heatState ch heat) 3).settle

end Sys2Proof.Machine
end

