-- ==== Sys2Proof/Machine/Curves.lean ====
section
/-! DEFINITION. The transfer functions, colour conversions and quantisation that R270 and R273 name by the standards BT.2100,
BT.2087, BT.709 and SMPTE ST 2084. The rules name the functions and the standards hold their formulas and constants, which
are taken from there (PRESUMED, log entry 110). Real functions are computed in fixed point with 80 fraction bits; a table's
knot is the nearest integer. -/

namespace Sys2Proof.Machine

/-- Nearest integer to a / b, ties to even (R259). -/
def rdiv (a : Int) (b : Nat) : Int :=
  let q := a / (b : Int)
  let r := a % (b : Int)
  if 2 * r < b || (2 * r = b && q % 2 = 0) then q else q + 1

/-! ## Fixed point -/

/-- One, in fixed point. -/
def fxOne : Int := 2 ^ 80

/-- Product and quotient. -/
def fxMul (a b : Int) : Int := a * b / fxOne
def fxDiv (a b : Int) : Int := a * fxOne / b

/-- The number a / b. -/
def fxRat (a b : Int) : Int := a * fxOne / b

/-- Nearest integer to `n` times a value. -/
def fxRound (n : Nat) (v : Int) : Nat := (rdiv (v * n) (2 ^ 80)).toNat

/-- Σ z^(2i+1) / (2i+1) over `n` terms from i = k, where `t` is z^(2k+1). -/
def fxOdd (z2 : Int) : Nat → Nat → Int → Int
  | 0, _, _ => 0
  | n + 1, k, t => t / (2 * k + 1 : Nat) + fxOdd z2 n (k + 1) (fxMul t z2)

/-- The natural logarithm of m in [1, 2), by 2 artanh((m − 1) / (m + 1)). -/
def fxLog1 (m : Int) : Int := let z := fxDiv (m - fxOne) (m + fxOne); 2 * fxOdd (fxMul z z) 40 0 z

/-- The natural logarithm of 2. -/
def fxLn2 : Int := 2 * fxOdd (fxOne / 9) 40 0 (fxOne / 3)

/-- The natural logarithm of a positive number. -/
def fxLog (x : Int) : Int :=
  let e : Int := (Nat.log2 x.toNat : Int) - 80
  e * fxLn2 + fxLog1 (if 0 ≤ e then x / 2 ^ e.toNat else x * 2 ^ (-e).toNat)

/-- Σ r^i / i! over `n` terms from i = k, where `t` is r^k / k!. -/
def fxTaylor (r : Int) : Nat → Nat → Int → Int
  | 0, _, _ => 0
  | n + 1, k, t => t + fxTaylor r n (k + 1) (fxMul t r / (k + 1 : Nat))

/-- The exponential. -/
def fxExp (y : Int) : Int :=
  let n := y / fxLn2
  let v := fxTaylor (y - n * fxLn2) 40 0 fxOne
  if 0 ≤ n then v * 2 ^ n.toNat else v / 2 ^ (-n).toNat

/-- x to the power p, and 0 for x = 0. -/
def fxPow (x p : Int) : Int := if x ≤ 0 then 0 else fxExp (fxMul p (fxLog x))

/-! ## PQ (SMPTE ST 2084, BT.2100) -/

def pqM1 : Int := fxRat 2610 16384
def pqM2 : Int := fxRat (2523 * 128) 4096
def pqC1 : Int := fxRat 3424 4096
def pqC2 : Int := fxRat (2413 * 32) 4096
def pqC3 : Int := fxRat (2392 * 32) 4096

/-- The EOTF: luminance over 10,000 cd/m² of a signal in [0, 1]. -/
def pqEotf (e : Int) : Int :=
  let p := fxPow e (fxDiv fxOne pqM2)
  fxPow (fxDiv (max (p - pqC1) 0) (pqC2 - fxMul pqC3 p)) (fxDiv fxOne pqM1)

/-- Its inverse. -/
def pqInverse (y : Int) : Int :=
  let q := fxPow y pqM1
  fxPow (fxDiv (pqC1 + fxMul pqC2 q) (fxOne + fxMul pqC3 q)) pqM2

/-! ## HLG (BT.2100), each component by itself (R270) -/

def hlgA : Int := fxRat 17883277 100000000
def hlgB : Int := fxOne - 4 * hlgA
def hlgC : Int := fxRat 1 2 - fxMul hlgA (fxLog (4 * hlgA))

/-- The system gamma of R270 for a nominal peak in cd/m². -/
def hlgGamma (peak : Nat) : Int :=
  fxRat 12 10 + fxMul (fxRat 42 100) (fxDiv (fxLog (fxRat (max peak 1) 1000)) (fxLog (10 * fxOne)))

/-- The EOTF in units of 10,000 cd/m², with black at 0. -/
def hlgEotf (peak : Nat) (e : Int) : Int :=
  let lin := if 2 * e ≤ fxOne then fxMul e e / 3 else (fxExp (fxDiv (e - hlgC) hlgA) + hlgB) / 12
  fxPow lin (hlgGamma peak) * peak / 10000

/-- Its inverse. -/
def hlgInverse (peak : Nat) (y : Int) : Int :=
  let lin := fxPow (y * 10000 / (max peak 1 : Nat)) (fxDiv fxOne (hlgGamma peak))
  if 12 * lin ≤ fxOne then fxPow (3 * lin) (fxRat 1 2) else fxMul hlgA (fxLog (12 * lin - hlgB)) + hlgC

/-! ## Colour conversions and quantisation -/

/-- Numerator and denominator of the coefficients of a conversion: 0 BT.709 to BT.2020 primaries and 1 back (BT.2087), 2 and 3
the YCbCr matrices of BT.709 and BT.2020. -/
def coeffOf (kind r c : Nat) : Int × Nat :=
  let three (l : List Int) (d : Nat) : Int × Nat := (l[c]?.getD 0, d)
  match kind, r with
  | 0, 0 => three [6274, 3293, 433] 10000
  | 0, 1 => three [691, 9195, 114] 10000
  | 0, _ => three [164, 880, 8956] 10000
  | 1, 0 => three [16605, -5876, -728] 10000
  | 1, 1 => three [-1246, 11329, -83] 10000
  | 1, _ => three [-182, -1006, 11187] 10000
  | 2, 0 => three [2126, 7152, 722] 10000
  | 2, 1 => three [-2126, -7152, 9278] 18556
  | 2, _ => three [7874, -7152, -722] 15748
  | _, 0 => three [2627, 6780, 593] 10000
  | _, 1 => three [-2627, -6780, 9407] 18814
  | _, _ => three [7373, -6780, -593] 14746

/-- A coefficient in units of 2⁻¹⁶ (R270, R273). -/
def colourCoeff (kind r c : Nat) : Int := let q := coeffOf kind r c; rdiv (q.1 * 65536) q.2

/-- The code of a component after quantisation to 8 + 2 × `bpc` bits from its 16-bit value (R273): narrow range or not, a
chroma component or not. -/
def quantise (bpc : Nat) (narrow chroma : Bool) (v : Int) : Nat :=
  let k : Int := 2 ^ (2 * bpc)
  let top : Int := 256 * k - 1
  let num : Int :=
    if narrow then (if chroma then 224 * v + 128 * 65535 else 219 * v + 16 * 65535) * k
    else v * top + (if chroma then 128 * k * 65535 else 0)
  (max 0 (min top (rdiv num 65535))).toNat

end Sys2Proof.Machine
end

