-- ==== Sys2Proof/Machine/Compose.lean ====
section
/-! DEFINITION. The composition pipe (R259 to R284): sets and their check, the microprogram, scaling, colour,
blending, encoding, the 3D LUT, formatting, closure checks and region actions, a segment at a time. -/

namespace Sys2Proof.Machine

/-! ## Reads by device address (R261) -/

/-- Memory as composition reads it (R155, R157): a read that meets the open publication of a sealed command completes after
its CLOSE, so every sealed publication has landed. -/
def State.landedMem (s : State) : List Host.Cell :=
  if s.pubs = [] then s.mem
  else (forEach s.pubs (fun s e =>
    forEach (chans.filter (fun n => !e.2.landed.contains n.val)) (fun s n => match s.land e.1 e.2 n with
      | .ok l => l.st
      | .error _ => s) s) s).mem

/-- `n` bytes at device address `a` as COMPn reads them: zeros from memory out of service (R261), and from a line whose read
met an uncorrectable error (R308). -/
def State.devRead (s : State) (a n : Nat) : List Byte :=
  if devEnd < a + n || !s.memUp (chanOf a) then List.replicate n 0
  else match s.readFault with
    | none => readMem s.landedMem a n
    | some b => readMem (zeroMem s.landedMem (b / 64 * 64) 64) a n

/-- A command in which composition reads memory: the errors its reads meet are counted and recorded, and an uncorrectable one
gives zeros (R308). -/
def compReads (ch : Fin 4) (e : Ecc) (f : State → State) (s : State) : State :=
  { f { s.noteEcc ch e with readFault := e.bad } with readFault := none }

/-- The `n` bytes at device address `a`, which a hub agent of class `cls` reads or writes, pass the system cache line by
line (R310, R311). -/
def State.hubLines (s : State) (cls a n : Nat) (write : Bool) : State :=
  if n = 0 then s
  else forEach ((upto ((a + n - 1) / 64 + 1 - a / 64)).map (a / 64 + ·)) (fun s l =>
    s.scAccess (chanOf (64 * l)) l cls hubPortNo write false) s

/-- Bytes written at device address `a` by an agent of class `cls` beside the channel's units; memory out of service takes
none, and the tag of a word left 0 goes (R145). -/
def State.devWrite (s : State) (cls a : Nat) (bs : List Byte) : State :=
  if devEnd < a + bs.length || !s.memUp (chanOf a) then s else ((s.write a bs).pruneTags).hubLines cls a bs.length true

/-- A number of `n` bytes at a device address. -/
def State.devNat (s : State) (a n : Nat) : Nat := leNat (s.devRead a n)

/-- The largest n below 2^fuel whose test holds, for a test that holds up to some point (binary search). -/
def largest (p : Nat → Bool) : Nat → Nat → Nat
  | 0, lo => lo
  | f + 1, lo => largest p f (if p (lo + 2 ^ f) then lo + 2 ^ f else lo)

/-! ## The picture's geometry (R168, R190, R285) -/

/-- Fields of the pipeline descriptor (R168). -/
def PipeDesc.f (d : PipeDesc) (off len : Nat) : Nat := field d.bytes off len
def PipeDesc.service (d : PipeDesc) : Nat := d.f 4 1
def PipeDesc.srcKind (d : PipeDesc) : Nat := d.f 5 1
def PipeDesc.slotFmt (d : PipeDesc) : Nat := d.f 6 1
def PipeDesc.slots (d : PipeDesc) : Nat := d.f 7 1
def PipeDesc.srcW (d : PipeDesc) : Nat := d.f 8 2
def PipeDesc.srcH (d : PipeDesc) : Nat := d.f 0x0A 2
def PipeDesc.halo (d : PipeDesc) : Nat := d.f 0x0C 2
def PipeDesc.slack (d : PipeDesc) : Nat := d.f 0x0E 1
def PipeDesc.slotBase (d : PipeDesc) : Nat := d.f 0x10 8
def PipeDesc.slotStride (d : PipeDesc) : Nat := d.f 0x18 4
def PipeDesc.rowQ (d : PipeDesc) : Nat := d.f 0x1C 4
def PipeDesc.frecBase (d : PipeDesc) : Nat := d.f 0x20 8
def PipeDesc.vringBase (d : PipeDesc) : Nat := d.f 0x28 8
def PipeDesc.vringRows (d : PipeDesc) : Nat := d.f 0x30 2
def PipeDesc.cutConf (d : PipeDesc) : Nat := d.f 0x32 1
def PipeDesc.ofCount (d : PipeDesc) : Nat := d.f 0x33 1
def PipeDesc.cutPermille (d : PipeDesc) : Nat := d.f 0x34 2
def PipeDesc.holdFrames (d : PipeDesc) : Nat := d.f 0x36 2
def PipeDesc.lossTicks (d : PipeDesc) : Nat := d.f 0x38 4
def PipeDesc.outW (d : PipeDesc) : Nat := d.f 0x3C 2
def PipeDesc.outRows (d : PipeDesc) : Nat := d.f 0x3E 2
def PipeDesc.lineTicks (d : PipeDesc) : Nat := d.f 0x40 1
/-- START, LEAD and PLAN of entry `e` of OF_TABLE. -/
def PipeDesc.start (d : PipeDesc) (e : Nat) : Nat := d.f (0x48 + 8 * e) 2
def PipeDesc.lead (d : PipeDesc) (e : Nat) : Nat := d.f (0x4A + 8 * e) 2
def PipeDesc.plan (d : PipeDesc) (e : Nat) : Nat := d.f (0x4C + 8 * e) 1

/-- The descriptor in force on a channel (R167). -/
def State.pipe (s : State) (ch : Fin 4) : Option PipeDesc := (s.pacer ch).program.bind Program.pipe

/-- Width, rows and ticks per line of a channel's output picture. -/
structure Geom where
  w  : Nat
  h  : Nat
  lt : Nat
  deriving DecidableEq, Repr

/-- The output picture: the descriptor's, or without one that of DPn's timing in force (R81). -/
def State.geom (s : State) (ch : Fin 4) : Geom :=
  match s.pipe ch with
  | some d => ⟨d.outW, d.outRows, d.lineTicks⟩
  | none => let c := (s.dps.get ch).cfg; ⟨c.hactive, c.vactive, c.lineTicks⟩

/-- The composition pipe of a channel. -/
def State.comp (s : State) (ch : Fin 4) : Comp := s.comps.get ch

/-- The state with a composition pipe replaced. -/
def State.setComp (s : State) (ch : Fin 4) (c : Comp) : State := { s with comps := s.comps.set ch c }

/-! ## Sets (R263, R264, R266, R279) -/

/-- A layer of a set (R264). -/
structure Layer where
  flags  : Nat
  decode : Nat
  gamut  : Nat
  tone   : Nat
  galpha : Nat
  surf   : Nat
  sx : Nat
  sy : Nat
  sw : Nat
  sh : Nat
  dx : Nat
  dy : Nat
  dw : Nat
  dh : Nat
  coef : Nat
  deriving DecidableEq, Repr

def Layer.en (l : Layer) : Bool := bit l.flags 0
def Layer.video (l : Layer) : Bool := bit l.flags 1
def Layer.premult (l : Layer) : Bool := bit l.flags 2
def Layer.protect (l : Layer) : Bool := bit l.flags 3
def Layer.hbilin (l : Layer) : Bool := bit l.flags 4
def Layer.vbilin (l : Layer) : Bool := bit l.flags 5

/-- The layer descriptor in 64 bytes. -/
def layerOf (b : List Byte) : Layer :=
  { flags := field b 0 2, decode := field b 2 1, gamut := field b 3 1, tone := field b 4 1, galpha := field b 6 2,
    surf := field b 8 8, sx := field b 0x10 2, sy := field b 0x12 2, sw := field b 0x14 2, sh := field b 0x16 2,
    dx := field b 0x18 2, dy := field b 0x1A 2, dw := field b 0x1C 2, dh := field b 0x1E 2, coef := field b 0x20 8 }

/-- Layer `i` of a set's bytes. -/
def setLayer (b : List Byte) (i : Nat) : Layer := layerOf (slice b (0x40 + 64 * i) 64)

/-- A region descriptor (R279). -/
structure RegionDesc where
  x0 : Nat
  y0 : Nat
  w  : Nat
  h  : Nat
  expected : Nat
  action : Nat
  resume : Nat
  store : Nat
  deriving DecidableEq, Repr

/-- Region `k` of a set's bytes. -/
def setRegion (b : List Byte) (k : Nat) : RegionDesc :=
  let r := slice b (0x240 + 32 * k) 32
  { x0 := field r 0 2, y0 := field r 2 2, w := field r 4 2, h := field r 6 2, expected := field r 8 4,
    action := field r 0x0C 1, resume := field r 0x0D 1, store := field r 0x10 8 }

/-- MAGIC of a set. -/
def setMagic : Nat := 0x54455343

/-- OUT_TF, OUT_2020, FORMAT, BPC code and LIMITED of a DP_CTRL word. -/
def dpTf (c : Nat) : Nat := bits c 14 13
def dpWide (c : Nat) : Bool := bit c 12
def dpFormat (c : Nat) : Nat := bits c 20 18
def dpBpc (c : Nat) : Nat := bits c 17 16
def dpLimited (c : Nat) : Bool := bit c 15

/-- The default set's bytes for a channel (R266). -/
def State.defaultSet (s : State) (ch : Fin 4) : List Byte :=
  let c := (s.dps.get ch).cfg.ctrl
  let g := s.geom ch
  let l := toLE 2 3 ++ toLE 1 (dpTf c) ++ toLE 1 (if dpWide c then 1 else 0) ++ toLE 2 0 ++ toLE 2 65535 ++ toLE 8 0 ++
    toLE 2 0 ++ toLE 2 0 ++ toLE 2 g.w ++ toLE 2 g.h ++ toLE 2 0 ++ toLE 2 0 ++ toLE 2 g.w ++ toLE 2 g.h
  slice (patch (patch [] 0 (toLE 4 setMagic)) 0x40 l) 0 1088

/-- The bytes of the set in force. -/
def State.setBytes (s : State) (ch : Fin 4) : List Byte :=
  match (s.comp ch).force with
  | some x => x.bytes
  | none => s.defaultSet ch

/-- The surface descriptor at a device address, where it is well formed and of a format composition reads
(R265). -/
def State.compSurf (s : State) (a : Nat) : Option Surf :=
  if a % 16 ≠ 0 then none
  else match surfOf (s.devRead a 48) with
    | .ok x => if fmtColour x.fmt then some x else none
    | .error _ => none

/-- Whether a channel's pipeline has video (R167). -/
def State.hasVideo (s : State) (ch : Fin 4) : Bool := (s.pipe ch).isSome

/-- Lines of the line buffers a layer needs (R269). -/
def Layer.lines (l : Layer) : Nat := if l.sh = l.dh then 0 else 6 * ceilDiv l.sh (max l.dh 1) * l.sw

/-- Bytes a layer reads for an output line (R269). -/
def Layer.demand (l : Layer) (g : Geom) (bpp : Nat) : Nat :=
  if l.video then 4 * g.w else l.sw * bpp * ceilDiv l.sh (max l.dh 1)

/-- The offset of the field for which layer `i` is refused (R265), if it is. -/
def State.layerBad (s : State) (ch : Fin 4) (g : Geom) (b : List Byte) (i : Nat) : Option Nat :=
  let o := 0x40 + 64 * i
  let l := setLayer b i
  let size := if l.video then some (g.w, g.h) else (s.compSurf l.surf).map (fun x => (x.width, x.height))
  let need (off : Nat) (bad : Bool) : Option Nat := if bad then some (o + off) else none
  [need 0 (64 ≤ l.flags || (l.video && (i ≠ 0 || !s.hasVideo ch))), need 2 (3 < l.decode), need 3 (1 < l.gamut),
   need 4 (4 < l.tone), need 5 (!reserved b (o + 5) 1), need 8 (if l.video then l.surf ≠ 0 else l.en && size = none),
   need 0x10 (l.en && match size with
     | some (w, h) => l.sw = 0 || l.sh = 0 || w < l.sx + l.sw || h < l.sy + l.sh || (l.video && (l.sw ≠ g.w || l.sh ≠ g.h))
     | none => false),
   need 0x14 (l.en && (4 * l.dw < l.sw || 4 * l.dh < l.sh)),
   need 0x18 (l.en && (g.w < l.dx + l.dw || g.h < l.dy + l.dh || (l.video && (l.dw ≠ g.w || l.dh ≠ g.h)))),
   need 0x20 (l.hbilin && l.vbilin && l.coef ≠ 0), need 0x28 (!reserved b (o + 0x28) 24)].findSome? id

/-- The offset of the field for which region `k` is refused (R265, R279), if it is. -/
def State.regionBad (s : State) (g : Geom) (b : List Byte) (k : Nat) : Option Nat :=
  let o := 0x240 + 32 * k
  let r := setRegion b k
  let need (off : Nat) (bad : Bool) : Option Nat := if bad then some (o + off) else none
  let on := r.action ≠ 0
  [need 0 (on && (r.w = 0 || r.h = 0 || g.w < r.x0 + r.w || g.h < r.y0 + r.h)), need 0x0C (3 < r.action),
   need 0x0E (!reserved b (o + 0x0E) 2),
   need 0x10 (if r.action = 2 then r.store = 0 || devEnd < r.store + 12 * r.w * r.h
     else if r.action = 3 then (match s.compSurf r.store with
       | some x => x.fmt ≠ 2 || x.width ≠ r.w || x.height ≠ r.h
       | none => true)
     else r.store ≠ 0), need 0x18 (!reserved b (o + 0x18) 8)].findSome? id

/-- The check of a set (R265): none, or the offset of the failing field. -/
def State.setCheck (s : State) (ch : Fin 4) (b : List Byte) : Option Nat :=
  let g := s.geom ch
  let head := [(0, field b 0 4 != setMagic), (4, decide (2 ≤ field b 4 4)), (0x38, decide (64 < field b 0x38 2)), (0x3A, !reserved b 0x3A 6)].findSome?
    (fun p => if p.2 then some p.1 else none)
  let on := ((upto 8).map (setLayer b)).filter Layer.en
  let bpp (l : Layer) : Nat := ((s.compSurf l.surf).map (fun x => fmtBpp x.fmt)).getD 4
  let limits := if 184320 < (on.map Layer.lines).sum || (s.comp ch).readMax < (on.map (fun l => l.demand g (bpp l))).sum
    then some 0x40 else none
  (head.orElse (fun _ => (upto 8).findSome? (s.layerBad ch g b))).orElse (fun _ =>
    limits.orElse (fun _ => (upto 16).findSome? (s.regionBad g b)))

/-! ## The microprogram (R277) -/

/-- The offset in the set of field `fld` of target `t`, where both are allowed. -/
def uField (t fld : Nat) : Option Nat :=
  if t < 8 then (if fld = 6 || (0x10 ≤ fld && fld ≤ 0x1E && fld % 2 = 0) then some (0x40 + 64 * t + fld) else none)
  else if t < 24 then (if fld ≤ 6 && fld % 2 = 0 then some (0x240 + 32 * (t - 8) + fld) else none)
  else none

/-- The instructions run in order on a working copy; nothing where one has another encoding. `skip` tells that
the next is skipped. -/
def uRun (ofn : Nat) : List Nat → Bool → List Byte → Option (List Byte)
  | [], _, b => some b
  | v :: t, skip, b =>
    let op := bits v 63 56
    let val := bits v 31 0
    let write (f : Nat → Nat) : Option (List Byte) :=
      (uField (bits v 55 48) (bits v 47 40)).map (fun o => patch b o (toLE 2 (f (field b o 2))))
    if bits v 39 32 ≠ 0 || 3 < op then none
    else if skip then uRun ofn t false b
    else if op = 0 then some b
    else if op = 1 then (write (fun _ => val % 65536)).bind (uRun ofn t false)
    else if op = 2 then
      (write (fun x => (clamp 0 65535 ((x : Int) + signed 32 val)).toNat)).bind (uRun ofn t false)
    else if val / 65536 = 0 then none
    else uRun ofn t (ofn % (val / 65536) ≠ val % 65536) b

/-- The microprogram of a working copy run for output frame `ofn`. -/
def State.microprogram (s : State) (b : List Byte) (ofn : Nat) : Option (List Byte) :=
  let n := field b 0x38 2
  let a := field b 0x30 8
  if a = 0 || n = 0 || 64 < n then some b
  else uRun ofn ((upto n).map (fun i => s.devNat (a + 8 * i) 8)) false b

/-! ## Scaling (R268) -/

/-- A sample index held inside [0, n). -/
def edge (n : Nat) (i : Int) : Nat := (clamp 0 ((n : Int) - 1) i).toNat

/-- The signed taps of a phase at a polyphase table: 8 horizontal, then 6 vertical. -/
def State.taps (s : State) (coef phase : Nat) (vertical : Bool) : List Int :=
  let a := coef + 28 * phase + (if vertical then 16 else 0)
  (upto (if vertical then 6 else 8)).map (fun i => signed 16 (s.devNat (a + 2 * i) 2))

/-- One axis of the filter: output coordinate `x` of `d` from `n` source samples. -/
def State.filter1 (s : State) (bilin vertical : Bool) (coef n d x : Nat) (sample : Nat → Nat) : Nat :=
  if n = d then sample x
  else
    let u : Int := (2 * x + 1 : Nat) * (n : Int) - d
    let i := u / (2 * d : Nat)
    let phase := (u % (2 * d : Nat)) * 64 / (2 * d : Nat)
    if bilin then
      (rne ((64 - phase) * (sample (edge n i) : Nat) + phase * (sample (edge n (i + 1)) : Nat)) 6).toNat
    else
      let first : Int := if vertical then -2 else -3
      let sum := ((s.taps coef phase.toNat vertical).zipIdx.map (fun p => p.1 * (sample (edge n (i + first + p.2)) : Int))).sum
      (clamp 0 65535 (rne sum 14)).toNat

/-! ## Fetch (R270, R272) -/

/-- A channel of `w` bits as a 16-bit code. -/
def code16 (w v : Nat) : Nat :=
  if w = 8 then v * 257 else if w = 10 then v * 64 + v / 16 else if w = 2 then v * 21845 else v

/-- The codes R, G, B, A of a pixel of a format. -/
def pixCodes (f p : Nat) : List Nat := (fmtChans f).map (fun c => code16 c.2 (chanVal p c))

/-- A pixel of a surface at device addresses. -/
def State.compTexel (s : State) (x : Surf) (px py : Nat) : Nat :=
  if !x.block then s.devNat (x.base + py * x.pitch + px * fmtBpp x.fmt) (fmtBpp x.fmt)
  else
    let bx := px / 8
    let by' := py / 8
    let i := 8 * (py % 8) + px % 8
    let n := fmtBpp x.fmt
    if x.meta' = 0 then s.devNat (x.dataAddr bx by' + i * n) n
    else match decodeBlock x.fmt x.clear (s.devNat (x.metaAddr bx by') 1) (fun k => .ok (s.devRead (x.dataAddr bx by') k)) with
      | .ok l => l[i]?.getD 0
      | .error _ => Config.brokenPixel (s.devNat (x.metaAddr bx by') 1) (s.devRead (x.dataAddr bx by') (64 * n)) i % 2 ^ (8 * n)

/-- What composition reads of the pixels [x0, x1) × [y0, y1) of a surface: device addresses and lengths. -/
def State.boxReads (s : State) (x : Surf) (x0 x1 y0 y1 : Nat) : List (Nat × Nat) :=
  let n := fmtBpp x.fmt
  if !x.block then (upto (y1 - y0)).map (fun j => (x.base + (y0 + j) * x.pitch + x0 * n, (x1 - x0) * n))
  else ((upto (ceilDiv y1 8 - y0 / 8)).map (fun j => ((upto (ceilDiv x1 8 - x0 / 8)).map (fun i =>
    let bx := x0 / 8 + i
    let by' := y0 / 8 + j
    x.blockSpans bx by' (if x.meta' = 0 then 0 else s.devNat (x.metaAddr bx by') 1))).flatten)).flatten

/-- The source samples of `n` that an axis of `d` outputs reads for the outputs [a, b), with the filter's taps (R268). -/
def axisReads (n d a b : Nat) : Nat × Nat :=
  if n = d then (a, b) else (a * n / max d 1 - 4, min n ((b * n) / max d 1 + 5))

/-- What a layer reads for pixels [x0, x1) of output row `y` (R268). -/
def State.layerReads (s : State) (l : Layer) (f : Surf) (x0 x1 y : Nat) : List (Nat × Nat) :=
  let a := max x0 l.dx
  let b := min x1 (l.dx + l.dw)
  if b ≤ a || y < l.dy || l.dy + l.dh ≤ y then []
  else
    let h := axisReads l.sw l.dw (a - l.dx) (b - l.dx)
    let v := axisReads l.sh l.dh (y - l.dy) (y + 1 - l.dy)
    s.boxReads f (l.sx + h.1) (l.sx + h.2) (l.sy + v.1) (l.sy + v.2)

/-- The four codes of a layer at picture pixel (x, y), scaled (R268). `video` holds the row's video pixels. -/
def State.layerCodes (s : State) (l : Layer) (sf : Option Surf) (video : List Byte) (x y : Nat) : List Nat :=
  if l.video then pixCodes 1 (field video (4 * x) 4)
  else match sf with
    | none => [0, 0, 0, 0]
    | some f =>
      (upto 4).map (fun c =>
        let at' (i j : Nat) : Nat := (pixCodes f.fmt (s.compTexel f (l.sx + i) (l.sy + j)))[c]?.getD 0
        s.filter1 l.vbilin true l.coef l.sh l.dh (y - l.dy) (fun j =>
          s.filter1 l.hbilin false l.coef l.sw l.dw (x - l.dx) (fun i => at' i j)))

/-! ## Colour (R270 to R274) -/

/-- The largest working value. -/
def workMax : Nat := 2 ^ 24 - 1

/-- Knot `k` of a decode table (R270): the function of k / 4,096 in working units, rounded. -/
def decodeKnot (kind white peak k : Nat) : Nat :=
  let v := if kind = 0 then
      let w := (white * 2 ^ 24) ^ 5 * k ^ 12
      let n := largest (fun n => (n * 10000) ^ 5 * 4096 ^ 12 ≤ w) 25 0
      if ((2 * n + 1) * 10000) ^ 5 * 4096 ^ 12 < 32 * w then n + 1 else n
    else if kind = 3 then (rdiv ((white * 2 ^ 24 * k : Nat) : Int) (10000 * 4096)).toNat
    else if kind = 1 then fxRound (2 ^ 24) (pqEotf (fxRat k 4096))
    else fxRound (2 ^ 24) (hlgEotf peak (fxRat k 4096))
  min v workMax

/-- Decode of a 16-bit code (R270). -/
def decodeCode (kind white peak c : Nat) : Nat :=
  let i := c / 16
  let f := c % 16
  let t (k : Nat) : Int := (decodeKnot kind white peak k : Nat)
  (clamp 0 (workMax : Int) (t i + rne ((t (i + 1) - t i) * f) 4)).toNat

/-- The index, fraction and shift of R271 for a working value. -/
def kneeOf (m : Nat) : Nat × Nat × Nat :=
  if m < 64 then (m, 0, 0)
  else
    let b := Nat.log2 m + 1
    let sh := b - 7
    (64 * (b - 6) + m / 2 ^ sh % 64, m % 2 ^ sh, sh)

/-- Interpolation in a table of 1,217 knots by R271. -/
def kneeTable (t : Nat → Nat) (m : Nat) : Int :=
  let (i, f, sh) := kneeOf m
  let v (k : Nat) : Int := (t k : Nat)
  v i + rne ((v (i + 1) - v i) * f) sh

/-- Where knot `i` sits (R271). -/
def kneeAt (i : Nat) : Nat := if i < 64 then i else (64 + i % 64) * 2 ^ (i / 64 - 1)

/-- Knot `i` of an encode table (R273): the inverse of the decode function, rounded. -/
def encodeKnot (tf white peak i : Nat) : Nat :=
  let m := kneeAt i
  let v := if tf = 0 then
      let w := 65535 ^ 12 * (m * 10000) ^ 5
      let d := (2 ^ 24 * max white 1) ^ 5
      let n := largest (fun n => n ^ 12 * d ≤ w) 17 0
      if (2 * n + 1) ^ 12 * d < 2 ^ 12 * w then n + 1 else n
    else if tf = 1 then fxRound 65535 (pqInverse (fxRat m (2 ^ 24)))
    else fxRound 65535 (hlgInverse peak (fxRat m (2 ^ 24)))
  min v 65535

/-- A 3 × 3 conversion with coefficients in units of 2⁻¹⁶, each product rounded, the results in [0, hi]. -/
def matrix3 (kind : Nat) (hi : Nat) (p : Px) : Px :=
  let row (r : Nat) : Nat :=
    (clamp 0 (hi : Int) (rne (colourCoeff kind r 0 * (p.a : Int)) 16 + rne (colourCoeff kind r 1 * (p.b : Int)) 16 +
      rne (colourCoeff kind r 2 * (p.c : Int)) 16)).toNat
  ⟨row 0, row 1, row 2⟩

/-- The tone stage (R271): a curve's bytes, none where the layer uses none. -/
def toneMap (tc : List Byte) (p : Px) : Px :=
  let m := max p.a (max p.b p.c)
  if tc = [] || m = 0 then p
  else
    let y := kneeTable (fun i => field tc (4 * i) 4 % 2 ^ 24) m
    let f (v : Nat) : Nat := (clamp 0 (workMax : Int) (rdiv ((v : Int) * y) m)).toNat
    ⟨f p.a, f p.b, f p.c⟩

/-- Blend a source over a destination with effective alpha `a` (R272). -/
def blendPx (premult : Bool) (a : Nat) (src dst : Px) : Px :=
  let f (x d : Nat) : Nat :=
    let sv : Int := if premult then (x : Int) else rdiv ((x * a : Nat) : Int) 65535
    (clamp 0 (workMax : Int) (sv + rdiv ((d * (65535 - a) : Nat) : Int) 65535)).toNat
  ⟨f src.a dst.a, f src.b dst.b, f src.c dst.c⟩

/-- Node (r, g, b) of a 3D LUT (R274). -/
def lutNode (lut : List Byte) (r g b : Nat) : Px :=
  let o := 6 * (min r 32 + 33 * min g 32 + 1089 * min b 32)
  ⟨field lut o 2, field lut (o + 2) 2, field lut (o + 4) 2⟩

/-- The 3D LUT by tetrahedral interpolation (R274). -/
def lutApply (lut : List Byte) (p : Px) : Px :=
  if lut = [] then p
  else
    let x (v : Nat) : Nat × Nat := (32 * v / 65536, 32 * v % 65536)
    let axes := [(x p.a, 0), (x p.b, 1), (x p.c, 2)].mergeSort (fun u v => decide (v.1.2 ≤ u.1.2))
    let f (i : Nat) : Int := ((axes[i]?.map (fun q => q.1.2)).getD 0 : Nat)
    let ax (i : Nat) : Nat := (axes[i]?.map (fun q => q.2)).getD 0
    let base := [(x p.a).1, (x p.b).1, (x p.c).1]
    let step (l : List Nat) (k : Nat) : List Nat := l.zipIdx.map (fun q => if q.2 = k then q.1 + 1 else q.1)
    let n (l : List Nat) : Px := lutNode lut (l[0]?.getD 0) (l[1]?.getD 0) (l[2]?.getD 0)
    let p0 := n base
    let p1 := n (step base (ax 0))
    let p2 := n (step (step base (ax 0)) (ax 1))
    let p3 := n (step (step (step base 0) 1) 2)
    let mix (g : Px → Nat) : Nat :=
      (clamp 0 65535 (rne ((65536 - f 0) * (g p0 : Int) + (f 0 - f 1) * (g p1 : Int) + (f 1 - f 2) * (g p2 : Int) + f 2 * (g p3 : Int)) 16)).toNat
    ⟨mix Px.a, mix Px.b, mix Px.c⟩

/-- Encode, LUT and Format of a working pixel under a DP_CTRL word (R273, R274): codes of BPC bits. -/
def finishWith (c white peak : Nat) (lut : List Byte) (p : Px) : Px :=
  let q := if dpWide c then p else matrix3 1 workMax p
  let e (v : Nat) : Nat := (clamp 0 65535 (kneeTable (encodeKnot (dpTf c) white peak) v)).toNat
  let r := lutApply lut ⟨e q.a, e q.b, e q.c⟩
  let quant (chroma : Bool) (v : Int) : Nat := quantise (dpBpc c) (dpLimited c) chroma v
  if dpFormat c = 0 then ⟨quant false r.a, quant false r.b, quant false r.c⟩
  else
    let k := if dpWide c then 3 else 2
    let row (i : Nat) : Int := rne (colourCoeff k i 0 * (r.a : Int)) 16 + rne (colourCoeff k i 1 * (r.b : Int)) 16 +
      rne (colourCoeff k i 2 * (r.c : Int)) 16
    ⟨quant false (row 0), quant true (row 1), quant true (row 2)⟩

/-- Encode, LUT and Format of a working pixel on a channel. -/
def State.finishPx (s : State) (ch : Fin 4) (p : Px) : Px :=
  finishWith (s.dps.get ch).cfg.ctrl (s.obj (Obj.sdrWhite ch)) (s.obj (Obj.hlgPeak ch)) (s.comp ch).bank.lut p

/-- FILL_CODE (R276). -/
def State.fillCode (s : State) (ch : Fin 4) : Px := s.finishPx ch (s.comp ch).fill

/-! ## One pixel (R272) -/

/-- What composition knows of a layer for a segment: the layer, its index, its surface, whether it is replaced by
the fill colour. -/
structure LayerView where
  layer : Layer
  surf  : Option Surf
  tone  : List Byte
  fill  : Bool
  deriving DecidableEq, Repr

/-- The working pixel of the layers at (x, y). -/
def State.blendAt (s : State) (ch : Fin 4) (ls : List LayerView) (video : List Byte) (x y : Nat) : Px :=
  let fill := (s.comp ch).fill
  let white := s.obj (Obj.sdrWhite ch)
  let peak := s.obj (Obj.hlgPeak ch)
  ls.foldl (fun dst v =>
    let l := v.layer
    if x < l.dx || l.dx + l.dw ≤ x || y < l.dy || l.dy + l.dh ≤ y then dst
    else if v.fill then fill
    else
      let cs := s.layerCodes l v.surf video x y
      let c (i : Nat) : Nat := cs[i]?.getD 0
      let lin : Px := ⟨decodeCode l.decode white peak (c 0), decodeCode l.decode white peak (c 1), decodeCode l.decode white peak (c 2)⟩
      let g := if l.gamut = 1 then lin else matrix3 0 workMax lin
      let a := (rdiv ((c 3 * l.galpha : Nat) : Int) 65535).toNat
      blendPx l.premult a (toneMap v.tone g) dst) fill

/-! ## CRC and regions (R280 to R284) -/

/-- The six bytes of a formatted pixel. -/
def pxBytes (p : Px) : List Byte := toLE 2 p.a ++ toLE 2 p.b ++ toLE 2 p.c

/-- A formatted pixel from six bytes. -/
def pxOf (b : List Byte) : Px := ⟨field b 0 2, field b 2 2, field b 4 2⟩

/-- The pixel transmitted for (x, y) where region `k`'s action is in force (R282). -/
def State.regionPx (s : State) (ch : Fin 4) (d : RegionDesc) (r : Region) (x y : Nat) (p : Px) : Px :=
  if !r.active || x < d.x0 || d.x0 + d.w ≤ x || y < d.y0 || d.y0 + d.h ≤ y then p
  else if d.action = 2 then
    match r.good with
    | none => s.fillCode ch
    | some half => pxOf (s.devRead (d.store + 6 * (d.w * d.h * half + (y - d.y0) * d.w + (x - d.x0))) 6)
  else if d.action = 3 then
    match s.compSurf d.store with
    | none => p
    | some f =>
      let v := s.compTexel f (x - d.x0) (y - d.y0)
      let sh := 16 - (8 + 2 * dpBpc (s.dps.get ch).cfg.ctrl)
      let q (i : Nat) : Nat := v / 2 ^ (16 * i) % 65536 / 2 ^ sh
      ⟨q 0, q 1, q 2⟩
  else p

/-- A region meets a segment's composed pixels: its CRC goes on, a FREEZE store is written, and at its last
pixel the CRC is compared (R280 to R282). -/
def State.checkRegion (s : State) (ch : Fin 4) (k : Nat) (d : RegionDesc) (x0 y : Nat) (px : List Px) : State :=
  if d.action = 0 || y < d.y0 || d.y0 + d.h ≤ y then s
  else
    let inside := px.zipIdx.filter (fun q => d.x0 ≤ x0 + q.2 && x0 + q.2 < d.x0 + d.w)
    match inside with
    | [] => s
    | (_, i0) :: _ =>
      let c := s.comp ch
      let r := (c.regions[k]?).getD Region.reset
      let first := y = d.y0 && x0 + i0 = d.x0
      let last := y = d.y0 + d.h - 1 && x0 + px.length ≥ d.x0 + d.w
      let bs := (inside.map (fun q => pxBytes q.1)).flatten
      let crc := crcBytes (if first then 0xFFFFFFFF#32 else BitVec.ofNat 32 r.crc) bs
      let s1 := if d.action ≠ 2 then s
        else s.devWrite 0 (d.store + 6 * (d.w * d.h * r.half + (y - d.y0) * d.w + (x0 + i0 - d.x0))) bs
      let put' (s : State) (r : Region) : State := s.setComp ch { s.comp ch with regions := (s.comp ch).regions.set k r }
      if !last then put' s1 { r with crc := crc.toNat }
      else
        let v := (crc ^^^ 0xFFFFFFFF#32).toNat
        let s2 := s1.setOct (Obj.closureCrc ch) (patch (s1.oct (Obj.closureCrc ch) 64) (4 * k) (toLE 4 v))
        if v = d.expected then
          let n := r.matched + 1
          put' s2 { r with crc := crc.toNat, matched := n, ends := r.ends || (r.active && d.resume ≠ 0 && d.resume ≤ n),
                           good := some r.half, half := 1 - r.half }
        else
          let st := Obj.closureStatus ch
          let s3 := (s2.setObj st (setBits (s2.obj st) k k 1)).bump (Obj.closureMismatches ch) 1 32
          let s4 := s3.setOct (Obj.closureLast ch) (toLE 2 eClosure ++ toLE 2 k ++ toLE 4 (s3.obj (Obj.ofn ch)) ++ toLE 4 v ++ toLE 4 d.expected)
          (put' s4 { r with crc := crc.toNat, matched := 0, ends := false, begins := true }).attn eClosure ch (Obj.closureLast ch) k

/-! ## Segments (R189, R190, R260, R267, R278) -/

/-- Where video rows are read: the descriptor's ring, or the cover ring while the channel is COVERED (R267). -/
def State.vring (s : State) (ch : Fin 4) (d : PipeDesc) : Nat :=
  if s.svc ch = .covered then s.obj (Obj.coverVringBase ch) else d.vringBase

/-- The address of row `l` of the output frame in progress in the video ring (R188). -/
def State.rowAddr (s : State) (ch : Fin 4) (d : PipeDesc) (l : Nat) : Nat :=
  s.vring ch d + (s.obj (Obj.ofn ch) * d.outRows + l) % max d.vringRows 1 * (ceilDiv (64 + 4 * d.outW) 64 * 64)

/-- The video pixels of row `l`, read when its first segment begins (R188, R189): those of its entry, or with
the flag false of the row before. -/
def State.videoRow (s : State) (ch : Fin 4) (d : PipeDesc) (l : Nat) : Option (List Byte) × Bool :=
  let ofn := s.obj (Obj.ofn ch)
  let a := s.rowAddr ch d l
  if s.devNat a 4 = ofn && s.devNat (a + 4) 2 = l then (some (s.devRead (a + 64) (4 * d.outW)), true)
  else (if l = 0 then none else (s.comp ch).video, false)

/-- The layers of the set in force as a segment's composition sees them. A replaced layer is a protected one that
DPn cannot carry (R292), or the video layer without video or under MUTE (R183, R81). `late` lists layers whose
row has not arrived (R278). -/
def State.layerViews (s : State) (ch : Fin 4) (mute : Bool) (late : List Nat) : List LayerView :=
  let b := s.setBytes ch
  let c := s.comp ch
  ((upto 8).filter (fun i => (setLayer b i).en && !late.contains i)).map (fun i =>
    let l := setLayer b i
    { layer := l, surf := if l.video then none else s.compSurf l.surf,
      tone := if l.tone = 0 then [] else c.bank.tcs.get (toCh (l.tone - 1)),
      fill := c.blocked.contains i || (l.video && (mute || c.video.isNone)) })

/-- The frame record of the output frame in progress. -/
def State.frameRec (s : State) (ch : Fin 4) : Option FrameRec :=
  (s.pictures.get ch).recs.find? (fun r => r.ofn = s.obj (Obj.ofn ch))

/-- Layers other than video whose first segment of row `y` is segment `k` of `n` pixels, and whether each has arrived in
time: a free value each, for the specification leaves the time of a layer's reads open (R278). -/
def State.lateLayers (s : State) (ch : Fin 4) (y n k : Nat) : List Nat × State :=
  let b := s.setBytes ch
  let ls := (upto 8).filter (fun i => let l := setLayer b i
    l.en && !l.video && l.dy ≤ y && y < l.dy + l.dh && l.dx / max n 1 = k)
  ls.foldl (fun (p : List Nat × State) i =>
    let (v, s1) := p.2.free64
    (if v.getLsbD 0 then p.1 ++ [i] else p.1, s1)) ([], s)

/-- COMPn works on a channel: its own power domain and firmware are there (R456, R492). -/
def State.compUp (s : State) (ch : Fin 4) : Bool :=
  !(s.unitImage (compId ch)).needed && s.awake && (bit (s.dps.get ch).cfg.ctrl 31 || bit s.power.linger ch)

/-- Compose segment `k` of row `l` (R189, R190, R259): the pixels after Region action, with the closure checks
done on the composed ones. -/
def State.composeSeg (s : State) (ch : Fin 4) (g : Geom) (l k : Nat) : State :=
  let n := g.w / max g.lt 1
  let s1 := if k ≠ 0 then s
    else match (if s.outBy.get ch = some 3 then none else s.pipe ch) with
      | none => s.setComp ch { s.comp ch with video := none }
      | some d =>
        let (v, ok) := s.videoRow ch d l
        let s := s.hubLines 0 (s.rowAddr ch d l) (64 + 4 * d.outW) false
        let s0 := s.setComp ch { s.comp ch with video := v }
        if ok then s0 else (s0.bump (Obj.rowRepeats ch) 1 32).attn atCount ch (Obj.rowRepeats ch) (s.obj (Obj.rowRepeats ch) + 1)
  let (late, s2) := s1.lateLayers ch l n k
  let s3 := if late = [] then s2
    else
      let s' := s2.bump (Obj.layerUnderruns ch) late.length 32
      if (s'.comp ch).underran then s'
      else (s'.setComp ch { s'.comp ch with underran := true }).attn atCount ch (Obj.layerUnderruns ch) (s'.obj (Obj.layerUnderruns ch))
  let mute := match s3.frameRec ch with
    | some r => r.mute
    | none => false
  let ls := s3.layerViews ch mute late
  let video := (s3.comp ch).video.getD []
  let px := (upto n).map (fun i => s3.finishPx ch (s3.blendAt ch ls video (n * k + i) l))
  let b := s3.setBytes ch
  let s4 := (upto 16).foldl (fun s j => s.checkRegion ch j (setRegion b j) (n * k) l px) s3
  let out := px.zipIdx.map (fun q => (upto 16).foldl (fun p j =>
    s3.regionPx ch (setRegion b j) (((s3.comp ch).regions[j]?).getD Region.reset) (n * k + q.2) l p) q.1)
  let reads := (ls.map (fun v => match v.fill, v.surf with
    | false, some f => s3.layerReads v.layer f (n * k) (n * k + n) l
    | _, _ => [])).flatten
  let s5 := forEach reads (fun s p => s.hubLines 0 p.1 p.2 false) s4
  let c := s5.comp ch
  s5.setComp ch { c with seg := some out, segCrc := if s.relay ch = 0 then 0 else (crc32 (px.map pxBytes).flatten).toNat, prevRow := if k = 0 then c.curRow else c.prevRow, curRow := if k = 0 then out else c.curRow ++ out }

/-- Chroma of 4:2:2 output from a horizontal pair, and of 4:2:0 output from a quad (R273). -/
def subPair (l : List Px) (i : Nat) (f : Px → Nat) : Int := ((l[i]?.map f).getD 0 : Nat)

/-- The samples a segment's pixels are sent as (R273): `row` is the row so far with this segment at its end,
`prev` the row before, `odd` whether the row is odd. The chroma sample of a pair goes with its second pixel, that of a quad
with the second pixel of the odd row, when all its pixels have been composed. -/
def subsample (fmt : Nat) (prev row seg : List Px) (odd : Bool) : List Px :=
  if fmt < 2 then seg
  else
    let x0 := row.length - seg.length
    seg.zipIdx.map (fun q =>
      let i := (x0 + q.2) / 2 * 2
      let c (f : Px → Nat) : Nat :=
        if (x0 + q.2) % 2 = 0 then 0
        else if fmt = 2 then (rne (subPair row i f + subPair row (i + 1) f) 1).toNat
        else if odd then (rne (subPair prev i f + subPair prev (i + 1) f + subPair row i f + subPair row (i + 1) f) 2).toNat
        else 0
      ⟨q.1.a, c Px.b, c Px.c⟩)

/-- The frame tick of a channel's output frame in progress. -/
def State.outTick (s : State) (ch : Fin 4) : Option Nat := (s.comp ch).frame.map (fun t => s.tick ch - t)

/-- Compose the segment of the channel's present tick (R190), if it falls in the active picture. -/
def State.composeTick (s : State) (ch : Fin 4) : State :=
  let g := s.geom ch
  match s.outTick ch with
  | none => s.setComp ch { s.comp ch with seg := none }
  | some f =>
    let lt := max g.lt 1
    if !s.compUp ch || g.h * lt ≤ f then s.setComp ch { s.comp ch with seg := none }
    else s.composeSeg ch g (f / lt) (f % lt)

/-- At an edge COMPn hands the segment composed in the tick that ends over to DPn (R190); `f` is that tick's
frame tick. A segment that is not there is replaced by the fill colour, and counted. The first vertical blanking line, whose
sync begins at the edge that ends frame tick VACTIVE × LINE_TICKS (R286), carries the marker (R293). -/
def State.handOver (s : State) (ch : Fin 4) (f : Option Nat) : State :=
  let g := s.geom ch
  let c := s.comp ch
  let lt := max g.lt 1
  let n := g.w / lt
  let up := s.obj (Obj.dpState ch) = 2 && !s.linksOff
  let active := match f with
    | some t => t < g.h * lt
    | none => false
  let fmt := dpFormat (s.dps.get ch).cfg.ctrl
  let odd := (f.getD 0 / lt) % 2 = 1
  let (out, miss) : DpOut × Bool :=
    if !active then (.blank, false)
    else match c.seg with
      | some l => (if c.cutOff then .fill n else .pixels (subsample fmt c.prevRow c.curRow l odd), false)
      | none => (.fill n, true)
  let d := s.dps.get ch
  let s0 := if up && bit d.cfg.ctrl 9 && f = some (g.h * lt) then { s with dps := s.dps.set ch { d with marker := d.sdp } } else s
  let s1 := s0.setComp ch { c with sent := if up then out else .idle, seg := none }
  if miss then (s1.bump (Obj.segmentFills ch) 1 32).attn atCount ch (Obj.segmentFills ch) (s1.obj (Obj.segmentFills ch) + 1) else s1

end Sys2Proof.Machine
end

