-- ==== Sys2Proof/Machine/Picture.lean ====
section
/-! DEFINITION. The picture pipeline (R166 to R191): capturing source rows, deadlines and substitutes, host
frames, input states, frame bindings, and the start of an output frame. -/

namespace Sys2Proof.Machine

/-! ## State of a channel's pipeline -/

def State.picture (s : State) (ch : Fin 4) : Picture := s.pictures.get ch

/-- The state with a channel's pipeline replaced. -/
def State.setPicture (s : State) (ch : Fin 4) (p : Picture) : State := { s with pictures := s.pictures.set ch p }

/-- A channel's timing decision of the present tick changes (R435, R436): kept only in a pair. -/
def State.decide (s : State) (ch : Fin 4) (f : Decision → Decision) : State :=
  if !s.inPair ch then s
  else
    let t := s.tick ch
    let mine (d : Decision) : Bool := d.ch = ch.val && d.tick = t
    let fresh : Decision := { ch := ch.val, tick := t, ofn := 0, begun := none, bind := none, snap := none, subst := none, seg := 0,
                              input := 0, shadow := s.standby ch }
    let own := if s.pair.own.any mine then s.pair.own.map (fun d => if mine d then f d else d) else s.pair.own ++ [f fresh]
    { s with pair := { s.pair with own := own } }

/-- The channels of an input's owner set in force (R28). -/
def State.inputSet (s : State) (i : Nat) : List (Fin 4) := chans.filter (fun c => bit (s.obj (Obj.attachOwner i)) c)

/-- The number of a video input. -/
def Dpin.num : Sys2Proof.Dpin → Nat
  | .in0 => 0
  | .in1 => 1

/-- The video input attached to a channel, if one is. -/
def State.inputOf (s : State) (ch : Fin 4) : Option Nat := [0, 1].find? (fun i => (s.inputSet i).contains ch)

/-- INPUT_STATE of a channel changes (R177), with attention; while it is LOST or MISMATCH, a Pacer locked to the
input holds its trim. -/
def State.setInput (s : State) (ch : Fin 4) (v : Nat) : State :=
  let s1 := s.setState ch (Obj.inputState ch) v
  let src := ctrlLockSrc (s.pacer ch).cfg.ctrl
  if (v = 2 || v = 3) && (src = 1 || src = 2) && s.inputOf ch = some (src - 1) then lockLost ch s1 else s1

/-! ## Source slots (R170, R171, R174) -/

/-- The position of a channel in its owner set, and the set's size. -/
def State.place' (s : State) (ch : Fin 4) : Nat × Nat :=
  let g := s.ownerSet ch
  (g.idxOf ch, g.length)

/-- First slot row, slot rows, first owned row and owned rows of a channel (R170). -/
structure SlotRows where
  first : Nat
  rows  : Nat
  own0  : Nat
  own   : Nat
  deriving DecidableEq, Repr

/-- The rows of a channel's slots under a descriptor, at position `k` of `g` (R170): the halo ends at the top and the bottom of
the picture. -/
def slotRows (d : PipeDesc) (k g : Nat) : SlotRows :=
  let h := d.srcH / max g 1
  let up := min d.halo (k * h)
  let down := if k + 1 < g then min d.halo (d.srcH - (k + 1) * h) else 0
  ⟨k * h - up, h + up + down, k * h, h⟩

/-- Bytes of plane 0 and plane 1 in one slot row (R171). -/
def planeWidths (d : PipeDesc) : Nat × Nat := (2 * d.srcW, if d.slotFmt = 2 then 4 * d.srcW else 2 * d.srcW)

/-- The slot size of R171 for `n` slot rows. -/
def slotSize (d : PipeDesc) (n : Nat) : Nat :=
  (if d.slotFmt = 0 then 3 else if d.slotFmt = 1 then 4 else 6) * d.srcW * n

/-- Addresses of the planes of slot row `i`, with their widths; plane 1 of a 4:2:0 slot has a row for every
second one. -/
def rowAddrs (d : PipeDesc) (r : SlotRows) (slot i : Nat) : List (Nat × Nat) :=
  let base := d.slotBase + slot * d.slotStride
  let (w0, w1) := planeWidths d
  let p1 := base + w0 * r.rows
  (base + w0 * i, w0) ::
    (if d.slotFmt = 0 then (if i % 2 = 0 then [(p1 + w1 * (i / 2), w1)] else []) else [(p1 + w1 * i, w1)])

/-- The member of a channel's owner set that owns the rows above or below its own is out of service without cover (R41). -/
def State.neighbourOut (s : State) (ch : Fin 4) (below : Bool) : Bool :=
  let g := s.ownerSet ch
  let k := g.idxOf ch
  if !below && k = 0 then false
  else (g[if below then k + 1 else k - 1]?).any (fun m => s.outBy.get m = some 3)

/-- Capture and frame records write the memory of the channel's owner set only (R32): an extent that does not lie in it takes
nothing (log entry 142). -/
def State.ownWrite (s : State) (ch : Fin 4) (a : Nat) (bs : List Byte) : State :=
  let inSet (k : Nat) : Bool := (s.ownerSet ch).any (fun m => m.val * 2 ^ 32 ≤ k && k < (m.val + 1) * 2 ^ 32)
  if inSet a && inSet (a + bs.length - 1) then s.devWrite 0 a bs else s

/-- Slot row `e` is repeated in the slot rows `to` (R41), with the chroma row that goes with it. -/
def State.repeatRow (s : State) (ch : Fin 4) (d : PipeDesc) (r : SlotRows) (slot e : Nat) (dst : List Nat) : State :=
  let luma := (rowAddrs d r slot e).take 1
  let src := luma ++ (rowAddrs d r slot (if d.slotFmt = 0 then e / 2 * 2 else e)).drop 1
  let bytes := src.map (fun p => s.devRead p.1 p.2)
  forEach dst (fun s i => ((rowAddrs d r slot i).zip bytes).foldl (fun s p => s.ownWrite ch p.1.1 p.2) s) s

/-- The halo rows of a missing neighbour repeat the member's own edge row (R41), above and below. -/
def State.repeatEdges (s : State) (ch : Fin 4) (d : PipeDesc) (slot : Nat) : State :=
  let (k, g) := s.place' ch
  let r := slotRows d k g
  let top := r.own0 - r.first
  let s1 := if s.neighbourOut ch false then s.repeatRow ch d r slot top (upto top) else s
  if s.neighbourOut ch true then
    s1.repeatRow ch d r slot (top + r.own - 1) ((upto (r.rows - (top + r.own))).map (fun i => top + r.own + i))
  else s1

/-- Write one source row's planes into a channel's slot; an edge row goes into the halo of a missing neighbour too (R41). -/
def State.storeRow (s : State) (ch : Fin 4) (d : PipeDesc) (slot row : Nat) (planes : List (List Byte)) : State :=
  let (k, g) := s.place' ch
  let r := slotRows d k g
  let s1 := (rowAddrs d r slot (row - r.first)).zipIdx.foldl (fun s p =>
    s.ownWrite ch p.1.1 (slice (planes[p.2]?.getD []) 0 p.1.2)) s
  if row < r.own0 + 2 || r.own0 + r.own ≤ row + 2 then s1.repeatEdges ch d slot else s1

/-- A channel owns a source row (R170). -/
def State.ownsRow (s : State) (ch : Fin 4) (d : PipeDesc) (row : Nat) : Bool :=
  let (k, g) := s.place' ch
  let r := slotRows d k g
  r.own0 ≤ row && row < r.own0 + r.own

/-- A slot is free (R174). -/
def Picture.slotFree (p : Picture) (k : Nat) : Bool :=
  !p.recs.any (fun r => r.slotA = k || r.slotB = k) && p.newest ≠ some k &&
  !p.slots.any (fun f => !f.2.whole && f.2.before = some k)

/-- The bytes of a ring. -/
def HotRing.span (r : HotRing) : Nat × Nat := (r.base, r.rows * r.pitch)

/-- The regions that hold protected content of a channel now (R297, R321): its slots, and its video-row rings while
an output frame that has not ended names a protected slot, or rows of one that has ended remain in them. -/
def State.protectedNow (s : State) (ch : Fin 4) : List (Nat × Nat) :=
  let x := s.picture ch
  match s.pipe ch with
  | none => x.hotRows.map HotRing.span
  | some d =>
    let (k, g) := s.place' ch
    let size := slotSize d (slotRows d k g).rows
    let hot (n : Nat) : Bool := (look x.slots n).any (fun f => f.prot ≠ 0)
    let slots := (upto d.slots).filterMap (fun n => if hot n then some (d.slotBase + n * d.slotStride, size) else none)
    let ring := if x.recs.any (fun r => hot r.slotA || hot r.slotB) then
        let n := d.vringRows * (ceilDiv (64 + 4 * d.outW) 64 * 64)
        (d.vringBase, n) :: (if s.svc ch = .covered then [(s.obj (Obj.coverVringBase ch), n)] else [])
      else []
    slots ++ ring ++ x.hotRows.map HotRing.span

/-- The protected regions of a channel are held as they are now (R321). -/
def State.reprotect (s : State) (ch : Fin 4) : State :=
  { s with latched := s.latched.set ch { s.latched.get ch with protect := s.protectedNow ch } }

/-- The lowest-numbered slot that is free on every member of an owner set (R174, R182). -/
def State.freeSlot (s : State) (set : List (Fin 4)) (d : PipeDesc) : Option Nat :=
  (upto d.slots).find? (fun k => set.all (fun m => (s.picture m).slotFree k))

/-- PIPE_STATUS (R198). -/
def State.pipeStatus (s : State) (ch : Fin 4) : Nat :=
  match s.pipe ch with
  | none => 0
  | some d => d.slots * 256 + ((upto d.slots).map (fun k => if (s.picture ch).slotFree k then 0 else 2 ^ k)).sum

/-! ## Capture (R172 to R175) -/

/-- SLOT_FMT of a sampling code: RGB 0, YCbCr 4:4:4 1, 4:2:2 2, 4:2:0 3 (R295; the codes are log entry 61). -/
def samplingFmt (c : Nat) : Nat := if c = 3 then 0 else if c = 2 then 1 else 2

/-- A stream is one that a channel's descriptor captures (R172, R295): SRC_W and SRC_H are at most 7,680 and 4,320 (R168), and
the input takes at most 1.2 Gpixel/s. -/
def State.streamOk (s : State) (i : Nat) (f : StreamFmt) (d : PipeDesc) : Bool :=
  f.width * f.height * f.rate ≤ 120000000000 && f.width = d.srcW && f.height = d.srcH && samplingFmt f.sampling = d.slotFmt &&
  bits (s.obj (Obj.dpinCtrl i)) 25 24 ≠ 3 && f.bpc = 8 + 2 * bits (s.obj (Obj.dpinCtrl i)) 25 24

/-- A channel of a pair is fed by relay (R437, R441): it is a standby's, or was until the present tick. -/
def State.relayFed (s : State) (ch : Fin 4) : Bool :=
  s.inPair ch && bit (s.obj Obj.pairCtrl) 29 && (s.obj Obj.pairRole = 2 || s.pair.promoted = some (s.tick ch))

/-- A channel captures from a video input: it runs a pipeline on it, and is not fed by relay (R167, R437). -/
def State.captures (s : State) (ch : Fin 4) : Option PipeDesc :=
  match s.pipe ch with
  | some d => if d.srcKind = 0 && !s.relayFed ch then some d else none
  | none => none

/-- The black level of a row's planes (R175): 0 in RGB, 16, 128, 128 scaled to the sample depth in YCbCr. -/
def blackPlanes (d : PipeDesc) (rgb : Bool) (bpc : Nat) : List (List Byte) :=
  let y := if rgb then 0 else 16 * 2 ^ (bpc - 8)
  let c := if rgb then 0 else 128 * 2 ^ (bpc - 8)
  let (w0, w1) := planeWidths d
  [((upto (w0 / 2)).map (fun _ => toLE 2 y)).flatten, ((upto (w1 / 2)).map (fun _ => toLE 2 c)).flatten]

/-- The bytes of 16-bit containers with samples of `bpc` bits: the unused high bits are 0 (R171). -/
def sampleBytes (bpc : Nat) (bs : List Byte) : List Byte :=
  ((upto (bs.length / 2)).map (fun i => toLE 2 (field bs (2 * i) 2 % 2 ^ bpc))).flatten

/-- The planes of a row as a slot holds them. -/
def State.rowPlanes (s : State) (ch : Fin 4) (d : PipeDesc) (slot row : Nat) : List (List Byte) :=
  let (k, g) := s.place' ch
  let r := slotRows d k g
  (rowAddrs d r slot (row - r.first)).map (fun p => s.devRead p.1 p.2)

/-- A substitute is written for a row of the frame in `slot` (R175). -/
def State.substitute (s : State) (ch : Fin 4) (d : PipeDesc) (slot : Nat) (f : SrcFrame) (row : Nat) : State :=
  let planes := match f.before with
    | some b => s.rowPlanes ch d b row
    | none => blackPlanes d f.rgb f.bpc
  s.storeRow ch d slot row planes

/-- The last tick in which a row may be captured (R175). -/
def rowDeadline (d : PipeDesc) (t0 row : Nat) : Nat := t0 + ceilDiv (row * d.rowQ) 65536 + d.slack

/-- Substitute the overdue rows of the frame in one slot of a channel; the first one makes it torn (R175). A standby decides
them as a shadow and writes nothing (R436). -/
def State.lateRows (s : State) (ch : Fin 4) (d : PipeDesc) (slot : Nat) : State :=
  match look (s.picture ch).slots slot with
  | none => s
  | some f =>
    if f.whole then s
    else
      let late := (upto d.srcH).filter (fun r => rowDeadline d f.t0 r < s.tick ch && !f.rows.contains r)
      match late with
      | [] => s
      | r0 :: _ =>
        let mine := if (s.outBy.get ch).isSome || s.standby ch then [] else late.filter (s.ownsRow ch d)
        let s1 := forEach mine (fun s r => s.substitute ch d slot f r) s
        let rows := f.rows ++ late
        let whole := d.srcH ≤ rows.length
        let p := s1.picture ch
        let s2 := s1.setPicture ch { p with slots := put p.slots slot { f with rows := rows, torn := true, whole := whole },
                                            capturing := if whole && p.capturing = some slot then none else p.capturing }
        let s3 := s2.decide ch (fun x => { x with subst := some (((x.subst.map (·.1)).getD 0) + late.length, (x.subst.map (·.2)).getD r0) })
        if f.torn then s3
        else let s4 := s3.bump (Obj.tornFrames ch) 1 32
             s4.attn atCount ch (Obj.tornFrames ch) (s4.obj (Obj.tornFrames ch))

/-- The row deadlines of a channel that have passed (R175). -/
def State.deadlines (s : State) (ch : Fin 4) : State :=
  match s.captures ch with
  | none => s
  | some d => forEach ((s.picture ch).slots.map (·.1)) (fun s k => s.lateRows ch d k) s

/-- ROW_DEADLINE (R175). -/
def execRowDeadline (ch : Fin 4) (s : State) : Out :=
  clocked s fun s => forEach (s.ownerSet ch) (fun s m => s.deadlines m) s

/-- Source frames have skipped one (R191): T0 follows the T0 before by more than 1.5 times the active rows' time
plus the blanking, which is what a frame period of the stream's rate leaves beyond the active rows (DEDUCED, log
entry 62). `rate` is in 0.01 Hz. -/
def sourceGap (d : PipeDesc) (rate period gap : Nat) : Bool :=
  let active := d.srcH * d.rowQ
  let frame := 10 ^ 11 * 65536 * 65536 / (max rate 1 * max period 1)
  3 * active + 2 * (frame - active) < 2 * 65536 * gap

/-- How a source frame comes: with all its rows at once (R176), or row by row from a stream with its protection. -/
inductive FrameKind where
  | whole
  | rows (prot : Nat) (f : StreamFmt)
  deriving DecidableEq, Repr

/-- The stream of a frame that comes row by row, with its protection. -/
def FrameKind.stream : FrameKind → Option (Nat × StreamFmt)
  | .whole => none
  | .rows p f => some (p, f)

/-- The next source frame number of an owner set (R174): its lowest channel counts, and every member has the same (log
entry 111). -/
def State.nextSfn (s : State) (set : List (Fin 4)) : Nat := (s.obj (Obj.sfnLast (set.headD 0)) + 1) % 2 ^ 32

/-- A source frame begins on one channel in `slot` (R174, R177): SFN, the newest frame, INPUT_STATE ACTIVE. A frame that comes
whole has counted its ticks without input from its submission. -/
def State.beginFrame (s : State) (ch : Fin 4) (slot sfn : Nat) (kind : FrameKind) : State :=
  let p := s.picture ch
  let f : SrcFrame := { sfn := sfn, t0 := s.tick ch, rows := [], torn := false, before := p.newest, whole := kind.stream.isNone,
                        prot := (kind.stream.map (·.1)).getD 0, rgb := kind.stream.any (fun x => x.2.sampling = 0),
                        bpc := (kind.stream.map (fun x => x.2.bpc)).getD 8 }
  let s1 := s.setPicture ch { p with slots := put p.slots slot f, newest := some slot,
                                     capturing := if kind.stream.isNone then none else some slot, dropping := false,
                                     lastRow := if kind.stream.isNone then p.lastRow else s.tick ch }
  (((s1.reprotect ch).setObj (Obj.sfnLast ch) sfn).decide ch (fun x => { x with begun := some (sfn, slot) })).setInput ch 1

/-- Row 0 of a video input begins a frame on every channel of its owner set (R174, R182), or drops it for want
of a slot. -/
def State.rowZero (s : State) (i : Nat) (set : List (Fin 4)) (d : PipeDesc) (fmt : StreamFmt) : State :=
  match s.freeSlot set d with
  | none => forEach set (fun s m =>
      let p := s.picture m
      let s1 := (s.setPicture m { p with capturing := none, dropping := true }).bump (Obj.srcOverrunDrops m) 1 32
      s1.attn atCount m (Obj.srcOverrunDrops m) (s1.obj (Obj.srcOverrunDrops m))) s
  | some k =>
    let kind : FrameKind := .rows (s.obj (Obj.dpinHdcp i)) fmt
    let sfn := s.nextSfn set
    forEach set (fun s m =>
      let p := s.picture m
      let gap := match p.newest.bind (look p.slots) with
        | some f => sourceGap d fmt.rate (s.pacer (s.paceOf m)).effPeriod (s.tick m - f.t0)
        | none => false
      let s1 := if gap then s.bump (Obj.srcGaps m) 1 32 else s
      s1.beginFrame m k sfn kind) s

/-- One row's planes go to the channel that owns it, unless that channel is out of service (R29, R172). A row
that is in already, or late, is discarded (R175). In a pair with SOURCE_MODE RELAY the active forwards it
for a channel of KL0's owner set (R421, R437). -/
def State.captureRow (s : State) (ch : Fin 4) (row bpc : Nat) (planes : List (List Byte)) : State :=
  match s.captures ch with
  | none => s
  | some d =>
    let p := s.picture ch
    match p.capturing.bind (fun k => (look p.slots k).map (fun f => (k, f))) with
    | none => s
    | some (k, f) =>
      if f.whole || f.rows.contains row || d.srcH ≤ row then s
      else
        let mine := s.ownsRow ch d row && s.outBy.get ch = none
        let s1 := if mine then s.storeRow ch d k row (planes.map (sampleBytes bpc)) else s
        let relay := mine && s.inPair ch && (s.portSet 0).contains ch && s.obj Obj.pairRole = 1 && bit (s.obj Obj.pairCtrl) 29 && s1.portUp 0
        let (pk, g) := s.place' ch
        let r := slotRows d pk g
        let cells := if !relay then [] else ((rowAddrs d r k (row - r.first)).map (fun a =>
            (upto a.2).map (fun j => (a.1 + j, s1.byteAt (a.1 + j))))).flatten
        let s2 := (linesOf (stage [] cells)).reverse.foldl (fun s l => s.sendKl 0 (lineMsg 0 0 l cells)) s1
        let rows := f.rows ++ [row]
        let whole := d.srcH ≤ rows.length
        let p2 := s2.picture ch
        s2.setPicture ch { p2 with slots := put p2.slots k { f with rows := rows, whole := whole },
                                   capturing := if whole then none else p2.capturing, lastRow := s2.tick ch }

/-- SOURCE_ROW_CAPTURE (R172 to R175): a row of the stream on a video input is captured by its owner set. -/
def execSourceRowCapture (i : Dpin) (row : Nat) (planes : List (List (BitVec 8))) (s : State) : Out :=
  clocked s fun s =>
    let n := Dpin.num i
    let set := s.inputSet n
    match look s.streams n, set.head?.bind s.captures with
    | some f, some d =>
      if !s.streamOk n f d || d.srcH ≤ row || (s.obj (Obj.dpinState n) ≠ 3) then s
      else
        let s1 := forEach set (fun s m => s.deadlines m) s
        let s2 := if row = 0 then s1.rowZero n set d f else s1
        forEach set (fun s m => s.captureRow m row f.bpc planes) s2
    | _, _ => s

/-- STREAM_MISMATCH (R172, R177): the stream on a video input is not the descriptor's. -/
def execStreamMismatch (i : Dpin) (s : State) : Out :=
  clocked s fun s =>
    let n := Dpin.num i
    match look s.streams n with
    | none => s
    | some f =>
      forEach (s.inputSet n) (fun s m =>
        match s.captures m with
        | none => s
        | some d =>
          if s.streamOk n f d then s
          else (s.setPicture m { s.picture m with capturing := none }).setInput m 3) s

/-- A channel's input has been silent for LOSS_TICKS whole ticks (R177). -/
def State.inputLost (s : State) (ch : Fin 4) : State :=
  match s.pipe ch with
  | none => s
  | some d =>
    if s.obj (Obj.inputState ch) = 1 && d.srcKind ≠ 2 && d.lossTicks < s.tick ch - (s.picture ch).lastRow then s.setInput ch 2 else s

/-- INPUT_LOSS_TIMEOUT (R177). -/
def execInputLossTimeout (ch : Fin 4) (s : State) : Out :=
  clocked s fun s => forEach (s.ownerSet ch) (fun s m => s.inputLost m) s

/-! ## Host frames (R176) -/

/-- A submitted frame of a channel's owner set begins at this edge (R176). -/
def State.hostDue (s : State) (ch : Fin 4) : Bool :=
  let l := s.leaderOf ch
  (s.picture l).submit.any (fun x => x.2 ≤ s.edgeNo l)

/-- SRC_SUBMIT (R176): refused on a member that does not lead or without host frames, and with BUSY for a slot that is not
free on every member of the owner set. From here the ticks without a submission count (R177). -/
def opSrcSubmit (who : Req) (ch : Fin 4) (slot : Nat) (s : State) : State :=
  let k := Obj.srcSubmit ch
  s.mirrored k (toLE 1 slot) (s.tick ch + 1 + s.relay ch) fun s => s.command who k (fun s =>
    match s.pipe ch with
    | none => s.refuse k rcRange
    | some d =>
      if s.leaderOf ch ≠ ch || d.srcKind ≠ 1 || d.slots ≤ slot then s.refuse k rcRange
      else if !(s.ownerSet ch).all (fun m => (s.picture m).slotFree slot) then s.refuse k rcBusy
      else
        let s1 := s.setPicture ch { s.picture ch with submit := (s.picture ch).submit ++ [(slot, s.edgeNo ch + s.edgesToEffect ch)] }
        (forEach (s1.ownerSet ch) (fun s m => s.setPicture m { s.picture m with lastRow := s.tick m }) s1).accept k)

/-- SRC_SUBMIT (R176). -/
def execSrcSubmit (who : Req) (ch : Fin 4) (slot : Nat) (s : State) : Out := clocked s (opSrcSubmit who ch slot)

/-- HOST_FRAME_BEGIN (R176): at the edge after the submission, or RELAY_TICKS later in a pair (R438), the frame
begins on every member with every row captured; frames submitted for one edge begin in the order of their submission. The
halo rows of a missing neighbour repeat the edge row (R41). -/
def hostFrame (ch : Fin 4) (s : State) : State :=
  match (s.picture ch).submit with
  | [] => s
  | (slot, t) :: rest =>
    if s.edgeNo ch < t || s.edgeDue ch then s
    else
      let s1 := s.setPicture ch { s.picture ch with submit := rest }
      (forEach (s1.ownerSet ch) (fun s m =>
        let s2 := s.beginFrame m slot (s1.nextSfn (s1.ownerSet ch)) .whole
        match s2.pipe m with
        | some d => s2.repeatEdges m d slot
        | none => s2) s1).ended (Obj.srcSubmit ch) 0 2

/-- HOST_FRAME_BEGIN (R176). -/
def execHostFrameBegin (ch : Fin 4) (s : State) : Out := clocked s (hostFrame ch)

/-! ## Bindings (R178 to R183) -/

/-- The entry of a descriptor whose binding tick is tick `ft` of the program frame (R169). -/
def bindEntry (d : PipeDesc) (frameTicks ft : Nat) : Option Nat :=
  (upto d.ofCount).find? (fun e => (d.start e + 65536 * frameTicks - d.lead e) % frameTicks = ft)

/-- The number of the output frame of entry `e` that is bound at tick `t` (R178). -/
def Program.ofnAt (p : Program) (d : PipeDesc) (e t : Nat) : Nat :=
  (p.ofnBase + (t + d.lead e - d.start e - p.start) / p.frameTicks * d.ofCount + e) % 2 ^ 32

/-- The newest frame whose T0 is earlier than tick `t`: its slot and SFN (R179). -/
def Picture.newestBefore (p : Picture) (t : Nat) : Option (Nat × Nat) :=
  (p.slots.foldl (fun (m : Option (Nat × SrcFrame)) f =>
    if t ≤ f.2.t0 then m
    else match m with
      | none => some f
      | some g => if g.2.t0 < f.2.t0 then some f else m) none).map (fun f => (f.1, f.2.sfn))

/-- A record that names no slot: nothing has begun, so its slot and SFN are free values and it mutes the video
layer (log entry 63). -/
def State.emptyRec (s : State) (ofn kind tick : Nat) : FrameRec × State :=
  let (v, s1) := s.free64
  let n := v.toNat
  ({ ofn := ofn, kind := kind, slotA := 256 + n % 256, slotB := 256 + n % 256, sfnA := n / 256 % 2 ^ 32, sfnB := n / 256 % 2 ^ 32,
     again := false, mute := true, cut := 0, tick := tick }, s1)

/-- Output frame `a` comes before `b`: their numbers differ by less than half their range. -/
def ofnBefore (a b : Nat) : Bool := a ≠ b && (b + 2 ^ 32 - a) % 2 ^ 32 < 2 ^ 31

/-- The real output frame bound so far that lies nearest before output frame `n` in output order, or after it, with the slot
and SFN it bound. -/
def Picture.realFrame (p : Picture) (n : Nat) (after : Bool) : Option (Nat × Nat × Nat) :=
  let side := p.reals.filter (fun x => if after then ofnBefore n x.1 else ofnBefore x.1 n)
  (side.foldl (fun (m : Option (Nat × Nat × Nat)) x =>
    match m with
    | none => some x
    | some y => if (if after then ofnBefore x.1 y.1 else ofnBefore y.1 x.1) then some x else m) none)

/-- What that frame bound: slot and SFN (R179, R180). -/
def Picture.realNear (p : Picture) (n : Nat) (after : Bool) : Option (Nat × Nat) := (p.realFrame n after).map (·.2)

/-- CUT_COUNT marks a cut (R180). -/
def cutAt (d : PipeDesc) (n : Nat) : Bool := d.cutPermille * (d.srcW / 8) * (d.srcH / 8) < n * 1000

/-- The record of entry `e` bound now, and the pipeline's state after the decision (R179, R180, R183). A generated frame
before which no real output frame has been bound, the first of a program, shows B on both sides, KIND HOLD (DESIGN CHOICE, log
entry 139). -/
def State.bindNow (s : State) (ch : Fin 4) (p : Program) (d : PipeDesc) (e : Nat) : FrameRec × State :=
  let x := s.picture ch
  let t := s.tick ch
  let ofn := p.ofnAt d e t
  let gone := s.obj (Obj.inputState ch) = 2 || s.obj (Obj.inputState ch) = 3
  let mute := gone && d.holdFrames ≤ x.heldFor
  let held := if gone then x.heldFor + 1 else 0
  let y := { x with bound := some t, heldFor := held }
  if d.plan e = 0 then
    match x.newestBefore t with
    | none => let (r, s1) := s.emptyRec ofn 0 t; (r, s1.setPicture ch { y with cut := 0 })
    | some (k, n) =>
      ({ ofn := ofn, kind := 0, slotA := k, slotB := k, sfnA := n, sfnB := n, again := x.realNear ofn false = some (k, n), mute := mute, cut := 0, tick := t },
       s.setPicture ch { y with reals := x.reals.filter (fun q => q.1 ≠ ofn) ++ [(ofn, k, n)], cut := 0 })
  else
    match x.realNear ofn true with
    | none => let (r, s1) := s.emptyRec ofn 2 t; (r, s1.setPicture ch y)
    | some b =>
      let a := (x.realNear ofn false).getD b
      let kind := if a = b then 2 else if cutAt d x.cut then 3 else 1
      ({ ofn := ofn, kind := kind, slotA := a.1, slotB := b.1, sfnA := a.2, sfnB := b.2, again := false, mute := mute, cut := x.cut, tick := t },
       s.setPicture ch y)

/-- The 32 bytes of a frame record (R181). -/
def frecBytes (r : FrameRec) : List Byte :=
  toLE 4 r.ofn ++ toLE 1 r.kind ++ toLE 1 r.slotA ++ toLE 1 r.slotB ++
  toLE 1 ((if r.again then 1 else 0) + (if r.mute then 2 else 0)) ++ toLE 4 r.sfnA ++ toLE 4 r.sfnB ++ toLE 4 r.cut ++ toLE 4 r.tick ++ toLE 8 0

/-- The counters a binding moves (R179, R180). -/
def State.countBind (s : State) (ch : Fin 4) (r : FrameRec) : State :=
  if r.again then s.bump (Obj.frameRepeats ch) 1 32
  else if r.kind = 2 then s.bump (Obj.holds ch) 1 32
  else if r.kind = 3 then s.bump (Obj.cuts ch) 1 32
  else s

/-- A frame record is written to its place in the ring (R178), with its BIND record (R506). -/
def State.writeRec (s : State) (ch : Fin 4) (r : FrameRec) : State :=
  match s.pipe ch with
  | none => s
  | some d =>
    let s1 := s.ownWrite ch (d.frecBase + 32 * (r.ofn % 4)) (frecBytes r)
    s1.emit 14 ch 8 0 0 (r.kind + (if r.again then 256 else 0) + (if r.mute then 512 else 0)) (r.sfnA + r.sfnB * 2 ^ 32)

/-- A record joins those of the output frames that have not ended, in place of one of the same number. -/
def State.noteRec (s : State) (ch : Fin 4) (r : FrameRec) : State :=
  let x := s.picture ch
  (s.setPicture ch { x with recs := x.recs.filter (fun q => q.ofn ≠ r.ofn) ++ [r] }).reprotect ch

/-- The present tick is the binding tick of an output frame that has not been bound (R178): its entry, program and
descriptor. A channel out of service binds none. -/
def State.bindDue (s : State) (ch : Fin 4) : Option (Program × PipeDesc × Nat) :=
  if (s.picture ch).bound = some (s.tick ch) || (s.outBy.get ch).isSome then none
  else (s.pacer ch).program.bind (fun p => p.pipe.bind (fun d => (bindEntry d p.frameTicks (s.frameTick ch p)).map (fun e => (p, d, e))))

/-- A binding is decided (R178) at its edge, once what takes effect there has: the record is written at once, or in a pair
kept for its applying edge (R436), where a standby's is a shadow. -/
def frameBinding (ch : Fin 4) (s : State) : State :=
  match s.bindDue ch with
  | none => s
  | some (p, d, e) =>
    if s.edgeDue ch then s
    else
      let (r, s1) := s.bindNow ch p d e
      let s2 := s1.noteRec ch r
      let s3 := if s.standby ch then s2 else s2.countBind ch r
      if s.inPair ch then s3.decide ch (fun x => { x with bind := some r }) else s3.writeRec ch r

/-- FRAME_BINDING (R178). -/
def execFrameBinding (ch : Fin 4) (s : State) : Out := clocked s (frameBinding ch)

/-! ## Output frames (R178, R190, R275 to R284, R292, R293) -/

/-- Lines of a frame of a timing (R285). -/
def DpCfg.vtotal (c : DpCfg) : Nat := c.vactive + c.vfront + c.vsync + c.vback

/-- Ticks of an output frame of DPn's timing in force (R286). -/
def State.frameLen (s : State) (ch : Fin 4) : Nat :=
  let c := (s.dps.get ch).cfg
  c.vtotal * max c.lineTicks 1

/-- An output frame starts in a channel's present tick (R178, R81): at a START of the program's descriptor, or
without one every frame length from the program's start or the last frame start. What takes effect at that edge does so
first. -/
def State.frameDue (s : State) (ch : Fin 4) : Bool :=
  let t := s.tick ch
  (s.comp ch).frame ≠ some t && !s.edgeDue ch &&
  match (s.pacer ch).program with
  | some p =>
    (match p.pipe with
     | some d => (upto d.ofCount).any (fun e => d.start e = s.frameTick ch p)
     | none => (t - p.start) % max (s.frameLen ch) 1 = 0)
  | none =>
    (match (s.comp ch).frame with
     | some f => f < t && (t - f) % max (s.frameLen ch) 1 = 0
     | none => false)

/-- Ticks until the channel's next output frame start, counted from tick `t` (at least 1), where it has
output frames. -/
def State.nextFrame (s : State) (ch : Fin 4) : Option Nat :=
  let t := s.tick ch
  let len := max (s.frameLen ch) 1
  match (s.pacer ch).program with
  | some p =>
    (match p.pipe with
     | some d =>
       let ft := s.frameTick ch p
       ((upto d.ofCount).map (fun e => (d.start e + p.frameTicks - ft - 1) % p.frameTicks + 1)).min?
     | none => some (len - (t - p.start) % len))
  | none => (s.comp ch).frame.map (fun f => len - (t - f) % len)

/-- The frame `n` ticks ahead is an output frame start of the channel under what is in force. -/
def State.startsAt (s : State) (ch : Fin 4) (t : Nat) : Bool :=
  let len := max (s.frameLen ch) 1
  match (s.pacer ch).program with
  | some p =>
    (match p.pipe with
     | some d => p.start ≤ t && (upto d.ofCount).any (fun e => d.start e = (t - p.start) % p.frameTicks)
     | none => p.start ≤ t && (t - p.start) % len = 0)
  | none =>
    match (s.comp ch).frame with
    | some f => f ≤ t && (t - f) % len = 0
    | none => true

/-- A set's tables differ from those of the set in force, or RELOAD is set (R275). -/
def tablesDiffer (old new : List Byte) : Bool :=
  bit (field new 4 4) 0 || slice old 0x08 40 ≠ slice new 0x08 40

/-- An accepted set is on its way into force (R262, R275): its tables load first where they differ, and it waits
behind a set that is loading. -/
def Comp.accept (c : Comp) (x : CompSet) : Comp :=
  if c.loading.isSome then { c with behind := some x }
  else
    let old := (c.force.map CompSet.bytes).getD []
    if tablesDiffer old x.bytes then { c with loading := some x, loadAge := 0, idle := none, next := none }
    else { c with next := some x }

/-- The set that takes effect at an output frame start (R262, R275). A set that waited behind a loading one is
then on its way itself. -/
def Comp.turn (c : Comp) : Comp :=
  let c0 := match c.next with
    | some x => { c with force := some x, next := none }
    | none => c
  match c0.loading with
  | none => c0
  | some x =>
    match c0.idle, decide (1 ≤ c0.loadAge) with
    | some b, true =>
      let c1 := { c0 with force := some x, bank := b, loading := none, idle := none, loadAge := 0, behind := none }
      (match c0.behind with
       | none => c1
       | some y => c1.accept y)
    | _, _ => { c0 with loadAge := c0.loadAge + 1 }

/-- The tick from which a write that waits for an output frame start takes effect in a pair (R438): RELAY_TICKS after the
output frame start at which it would have taken effect alone. -/
def State.frameEffect (s : State) (ch : Fin 4) : Nat := s.tick ch + (s.nextFrame ch).getD 1 + s.relay ch

/-- The actions of the regions of a mask end at the next output frame start (R283). -/
def State.clearRegions (s : State) (ch : Fin 4) (mask : Nat) : State :=
  let c := s.comp ch
  s.setComp ch { c with regions := c.regions.zipIdx.map (fun q => if bit mask q.2 then { q.1 with cleared := true } else q.1) }

/-- A region at an output frame start (R282 to R284): `on` tells that the set in force enables it, `store` its
STORE. -/
def Region.turn (r : Region) (on : Bool) (store : Nat) : Region :=
  let active := on && (r.begins || (r.active && !r.ends && !r.cleared))
  { r with active := active, begins := false, ends := false, cleared := false,
           matched := if active || r.active then r.matched else 0,
           store := store, good := if r.store = store then r.good else none }

/-- The protection a layer's content needs (R292, R297): Type 1 for PROTECT, that of the capture for video. -/
def State.layerProt (s : State) (ch : Fin 4) (l : Layer) : Nat :=
  let own := if l.protect then 2 else 0
  let cap := if !l.video then 0
    else match s.frameRec ch with
      | none => 0
      | some r =>
        let p (k : Nat) : Nat := ((look (s.picture ch).slots k).map SrcFrame.prot).getD 0
        max (p r.slotA) (p r.slotB)
  max own cap

/-- The enabled layers whose protection DPn cannot carry (R292). -/
def State.blockedLayers (s : State) (ch : Fin 4) : List Nat :=
  let b := s.setBytes ch
  let have' := if bit (s.dps.get ch).cfg.ctrl 10 then s.obj (Obj.hdcpState ch) else 0
  (upto 8).filter (fun i => (setLayer b i).en && have' < s.layerProt ch (setLayer b i))

/-- The data bytes of the marker SDP (R293). -/
def State.markerBytes (s : State) (ch : Fin 4) : List Byte :=
  let role := if s.obj Obj.pairRole = 2 then 1 else 0
  [0x4C, 0x50, 0x58, 0x4D] ++ toLE 1 role ++ toLE 1 (s.obj (Obj.pairId ch)) ++ toLE 4 (s.obj (Obj.ofn ch)) ++
  toLE 1 (ch.val + 4 * (s.place' ch).1) ++ List.replicate 21 0

/-- FILL as three working values (R276), held inside their range (R259). -/
def fillPx (b : List Byte) : Px := ⟨min (field b 0 4) workMax, min (field b 4 4) workMax, min (field b 8 4) workMax⟩

/-- What a frame start takes of the writes of a pair that wait (R438): the masks of CLOSURE_CLEAR, and FILL. -/
def State.frameWaits (s : State) (ch : Fin 4) : Px × State :=
  let (ms, _, s1) := s.takeWaits ch (fun e => match e with
    | .clear m => some m
    | _ => none)
  let s2 := forEach ms (fun s m => s.clearRegions ch m) s1
  let (bs, more, s3) := s2.takeWaits ch (fun e => match e with
    | .fill b => some b
    | _ => none)
  (if more then (bs.getLast?.map fillPx).getD (s3.comp ch).fill else fillPx (s3.oct (Obj.fill ch) 12), s3)

/-- The pipe at a frame start: sets, regions and FILL take effect. -/
def State.turnComp (s0 : State) (ch : Fin 4) : State :=
  let (fill, s) := s0.frameWaits ch
  let c := (s.comp ch).turn
  let s1 := s.setComp ch { c with frame := some (s.tick ch), snapped := false, fill := fill, cutOff := false, underran := false,
                                  prevRow := [], curRow := [], video := none }
  let b := s1.setBytes ch
  let c1 := s1.comp ch
  let regs := c1.regions.zipIdx.map (fun q => let d := setRegion b q.2; q.1.turn (d.action ≠ 0) d.store)
  let st := ((upto 16).map (fun k => if (regs[k]?.map Region.active).getD false then 2 ^ k else 0)).sum
  ((s1.setComp ch { c1 with regions := regs }).setObj (Obj.closureStatus ch) st).setObj (Obj.activeSet ch) ((c1.force.map CompSet.addr).getD 0)

/-- Layers are replaced for HDCP at a frame start (R292). -/
def State.turnHdcp (s : State) (ch : Fin 4) : State :=
  let bl := s.blockedLayers ch
  let was := (s.comp ch).blocked
  let s1 := (s.setComp ch { s.comp ch with blocked := bl }).bump (Obj.hdcpBlocks ch) bl.length 32
  if bl = was then s1 else s1.attn atCount ch (Obj.hdcpBlocks ch) (s1.obj (Obj.hdcpBlocks ch))

/-- What an active device of a pair hears of the standby at an output frame start: the specification names no
message that carries it, so a free value decides whether a JOINING pair has become PAIRED and a PAIRED one
DIVERGED (log entry 64). -/
def State.hearPair (s : State) (ch : Fin 4) : State :=
  if s.obj Obj.pairRole ≠ 1 || (bitsOf 4 (bits (s.obj Obj.pairCtrl) 25 22)).head? ≠ some ch.val then s
  else
    let st := s.obj Obj.pairState
    if st ≠ 1 && st ≠ 2 then s
    else
      let (v, s1) := s.free64
      let s2 := { s1 with pair := { s1.pair with frames := s1.pair.frames + 1 } }
      if st = 1 && bits (s.obj Obj.pairCtrl) 21 14 ≤ s1.pair.frames && v.getLsbD 0 then s2.setState noCh Obj.pairState 2
      else if st = 2 && v.getLsbD 1 then s2.setState noCh Obj.pairState 3
      else s2

/-- OUTPUT_FRAME_START (R178): OFN grows, the frame before has ended, and what waits for a frame start takes
effect; the first segment is composed. -/
def frameStart (ch : Fin 4) (s : State) : State :=
  if !s.frameDue ch then s
  else
    let n := (s.obj (Obj.ofn ch) + 1) % 2 ^ 32
    let s1 := s.setObj (Obj.ofn ch) n
    let x := s1.picture ch
    let s2 := s1.setPicture ch { x with recs := x.recs.filter (fun r => !ofnBefore r.ofn n), ofStart := s.tick ch,
                                        reals := x.reals.filter (fun r => !ofnBefore r.1 n || x.realFrame n false = some r) }
    let s3 := (((s2.reprotect ch).turnComp ch).turnHdcp ch).hearPair ch
    let dp := s3.dps.get ch
    let s4 := if bit dp.cfg.ctrl 9 then { s3 with dps := s3.dps.set ch { dp with sdp := s3.markerBytes ch } } else s3
    s4.composeTick ch

/-- OUTPUT_FRAME_START (R178). -/
def execOutputFrameStart (ch : Fin 4) (ecc : Ecc) (s : State) : Out := clocked s (compReads ch ecc (frameStart ch))

end Sys2Proof.Machine
end

