-- ==== Sys2Proof/Machine/Display.lean ====
section
/-! DEFINITION. Composition sets taken at the snapshot edge, tables and closure clears (R262, R275, R277, R283),
display outputs and HDCP (R285 to R294), video inputs (R295 to R297) and the start of the safe picture (R192 to
R194). -/

namespace Sys2Proof.Machine

/-! ## The snapshot (R262, R277, R436) -/

/-- Bytes of a composition set. -/
def setSize : Nat := 1088

/-- The set accepted last: the one that waits behind a loading set, the loading one, the one for the next frame
start, or the set in force. -/
def Comp.latest (c : Comp) : Option CompSet := (((c.behind.orElse fun _ => c.loading).orElse fun _ => c.next).orElse fun _ => c.force)

/-- What a snapshot finds: a set to accept (and whether it is the one accepted last, worked on further), or the
offset of a failing field. -/
structure Snap where
  set  : CompSet
  same : Bool
  bad  : Option Nat
  deriving DecidableEq, Repr

/-- Take the set at device address `a` (R262, R277): a new set starts from memory and is checked before its
microprogram runs, the last accepted one goes on from its working copy. Address 0 is the default set
(R266), which is no set read from memory and is not checked. -/
def State.takeSet (s : State) (ch : Fin 4) (a : Nat) : Snap :=
  let last := (s.comp ch).latest
  let same := (last.map CompSet.addr) = some a && a ≠ 0
  let b := if a = 0 then s.defaultSet ch
           else if same then ((last.map CompSet.bytes).getD []) else s.devRead a setSize
  let x (b : List Byte) : CompSet := { addr := a, bytes := b }
  if a % 64 ≠ 0 || devEnd < a + setSize then ⟨x b, false, some 0⟩
  else match (if same || a = 0 then none else s.setCheck ch b) with
    | some o => ⟨x b, false, some o⟩
    | none =>
      if a = 0 then ⟨x b, same, none⟩
      else match s.microprogram b (s.obj (Obj.ofn ch)) with
        | none => ⟨x b, same, some 0x30⟩
        | some b1 => ⟨x b1, same, s.setCheck ch b1⟩

/-- A set that passed is accepted; one that continues the last keeps that one's place and loads no table
again. -/
def Comp.use (c : Comp) (x : Snap) : Comp :=
  if !x.same then c.accept x.set
  else if c.behind.isSome then { c with behind := some x.set }
  else if c.loading.isSome then { c with loading := some x.set }
  else { c with next := some x.set }

/-- The pointer word's address on a channel (R262, R267). -/
def State.setPtr (s : State) (ch : Fin 4) : Nat :=
  if s.svc ch = .covered then s.obj (Obj.coverSetPtrAddr ch) else s.obj (Obj.setPtrAddr ch)

/-- An open publication holds the line of a pointer word (R262). -/
def State.ptrHeld (s : State) (a : Nat) : Bool :=
  a < devEnd && (s.filtersAt (.sc (chanOf a))).any (fun f => filterHit f a)

/-- A set refused (R265): counted, recorded, with attention. -/
def State.refuseSet (s : State) (ch : Fin 4) (o : Nat) : State :=
  let s1 := (s.bump (Obj.setRefusals ch) 1 32).setObj (Obj.setError ch) (eComp * 65536 + o)
  s1.attn eComp ch (Obj.setError ch) (s1.obj (Obj.setError ch))

/-- The set in force goes on for the next frame, and its microprogram runs; one that fails is refused (R277). -/
def State.keepSet (s : State) (ch : Fin 4) : State :=
  let c := s.comp ch
  match c.force with
  | none => s
  | some x =>
    match s.microprogram x.bytes (s.obj (Obj.ofn ch)) with
    | none => s.refuseSet ch 0x30
    | some b =>
      match s.setCheck ch b with
      | none => s.setComp ch { c with next := some { x with bytes := b } }
      | some o => s.refuseSet ch o

/-- Ticks from the snapshot edge to the next output frame start (R262, R436). -/
def State.snapLead (s : State) (ch : Fin 4) : Nat := max (max (s.geom ch).lt 1) (s.relay ch)

/-- The snapshot on a device that decides (R262): what it decided goes into its decisions in a pair. -/
def State.snapshotNow (s : State) (ch : Fin 4) : State :=
  let p := s.setPtr ch
  let note (s : State) (a : Nat) (b : List Byte) : State :=
    s.decide ch (fun d => { d with snap := some (a, (crc32 b).toNat) })
  if p ≠ 0 && s.ptrHeld p then
    note ((s.bump (Obj.setLate ch) 1 32).keepSet ch) 0 []
  else
    let x := s.takeSet ch (if p = 0 then 0 else s.devNat p 8)
    match x.bad with
    | some o => note (s.refuseSet ch o) 0 []
    | none => note (s.setComp ch ((s.comp ch).use x)) x.set.addr x.set.bytes

/-- The snapshot on a standby: a shadow, not applied (R436). -/
def State.snapshotShadow (s : State) (ch : Fin 4) : State :=
  let p := s.setPtr ch
  let x := s.takeSet ch (if p = 0 then 0 else s.devNat p 8)
  let keep := (p ≠ 0 && s.ptrHeld p) || x.bad.isSome
  s.decide ch (fun d => { d with snap := some (if keep then (0, (crc32 []).toNat) else (x.set.addr, (crc32 x.set.bytes).toNat)) })

/-- The snapshot edge of the next output frame is here, or has passed without one (R262). -/
def State.snapDue (s : State) (ch : Fin 4) : Bool :=
  let c := s.comp ch
  !c.snapped && c.frame.isSome && s.compUp ch && (s.nextFrame ch).any (fun n => n ≤ s.snapLead ch)

/-- SET_SNAPSHOT (R262): at the snapshot edge, once what takes effect there has and a frame that starts there has started. -/
def setSnapshot (ch : Fin 4) (s : State) : State :=
  if !s.snapDue ch || s.edgeDue ch || s.frameDue ch then s
  else
    let s1 := s.setComp ch { s.comp ch with snapped := true }
    if s.standby ch then s1.snapshotShadow ch else s1.snapshotNow ch

/-- SET_SNAPSHOT (R262). -/
def execSetSnapshot (ch : Fin 4) (ecc : Ecc) (s : State) : Out := clocked s (compReads ch ecc (setSnapshot ch))

/-- The bank of a set (R271, R274, R275): the tables whose address differs from that in the set in force are read from
memory, all of them with RELOAD; the others are those of the bank in use. -/
def State.bankOf (s : State) (c : Comp) (b : List Byte) : CompBank :=
  let old := (c.force.map CompSet.bytes).getD []
  let table (o n : Nat) (now : List Byte) : List Byte :=
    let a := field b o 8
    if a = 0 then [] else if a = field old o 8 && !bit (field b 4 4) 0 then now else s.devRead a n
  let tc (i : Fin 4) : List Byte := table (0x10 + 8 * i.val) (4 * 1217) (c.bank.tcs.get i)
  { lut := table 8 215622 c.bank.lut, tcs := ⟨tc 0, tc 1, tc 2, tc 3⟩ }

/-- LUT_BANK_LOAD_DONE (R275). -/
def execLutBankLoadDone (ch : Fin 4) (ecc : Ecc) (s : State) : Out :=
  clocked s (compReads ch ecc fun s =>
    let c := s.comp ch
    match c.loading, c.idle with
    | some x, none => s.setComp ch { c with idle := some (s.bankOf c x.bytes) }
    | _, _ => s)

/-- CLOSURE_CLEAR (R283): the actions of the regions named end at the next output frame start. -/
def opClosureClear (who : Req) (ch : Fin 4) (mask : Nat) (s : State) : State :=
  let k := Obj.closureClear ch
  s.mirrored k (toLE 2 mask) (s.frameEffect ch) fun s => s.command who k (fun s =>
    (if s.inPair ch then s.pairWait ch (s.pair.effect.getD (s.frameEffect ch)) (.clear mask) else s.clearRegions ch mask).done k)

/-- CLOSURE_CLEAR (R283). -/
def execClosureClear (who : Req) (ch : Fin 4) (mask : Nat) (s : State) : Out := clocked s (opClosureClear who ch mask)

/-! ## Display outputs (R285 to R294) -/

/-- The staged settings of DPn (R285, R300). -/
def State.stagedDp (s : State) (ch : Fin 4) : DpCfg :=
  { ctrl := s.obj (Obj.dpCtrl ch), hactive := s.obj (Obj.dpHactive ch), hfront := s.obj (Obj.dpHfront ch), hsync := s.obj (Obj.dpHsync ch),
    hback := s.obj (Obj.dpHback ch), vactive := s.obj (Obj.dpVactive ch), vfront := s.obj (Obj.dpVfront ch), vsync := s.obj (Obj.dpVsync ch),
    vback := s.obj (Obj.dpVback ch), lineTicks := s.obj (Obj.dpLineTicks ch), slices := s.obj (Obj.dscSlices ch), bpp := s.obj (Obj.dscBpp ch) }

def DpCfg.hblank (c : DpCfg) : Nat := c.hfront + c.hsync + c.hback
def DpCfg.hstart (c : DpCfg) : Nat := c.hsync + c.hback

/-- DP_CTRL names no reserved code (R300). -/
def dpCtrlOk (c : Nat) : Bool :=
  bits c 29 26 ≤ 7 && bits c 22 21 ≤ 2 && dpFormat c ≤ 3 && dpBpc c ≤ 2 && dpTf c ≤ 2 && bits c 6 0 = 0

/-- Bits per pixel × 16 of an uncompressed stream (R289). -/
def rawBpp (c : Nat) : Nat := (8 + 2 * dpBpc c) * (if dpFormat c = 2 then 32 else if dpFormat c = 3 then 24 else 48)

/-- The DSC settings are ones the encoder supports (R289): a slice height that divides VACTIVE and is at least 8 exists where
VACTIVE is at least 8. `period` is P in 2^-16 ns. -/
def dscOk (c : DpCfg) (period : Nat) : Bool :=
  !bit c.ctrl 11 ||
  (8 ≤ c.vactive && [1, 2, 4, 8, 12, 16, 20, 24].contains c.slices && 96 ≤ c.bpp && c.bpp < rawBpp c.ctrl &&
   2 * (c.hactive + c.hblank) * 65536 ≤ c.slices * c.lineTicks * period)

/-- The timing checks of R285, with the checking length and P in 2^-16 ns. -/
def timingOk (c : DpCfg) (lChk period : Nat) : Bool :=
  1 ≤ c.lineTicks && c.lineTicks ≤ 8 && c.hactive % c.lineTicks = 0 && c.hactive / c.lineTicks ≤ 4096 &&
  (c.lineTicks - 1) * c.hblank ≤ c.hstart * c.lineTicks && 64 + ceilDiv c.hactive (4 * c.lineTicks) ≤ lChk &&
  c.hactive * c.vactive * 65536 ≤ 2 * c.vtotal * c.lineTicks * period

/-- P of a channel in 2^-16 ns (R53): the period of the Pacer it runs on. -/
def State.periodOf (s : State) (ch : Fin 4) : Nat := periodField (s.pacer (s.paceOf ch)).cfg.period

/-- The tick at which a channel's pending program change is due, if it names one. -/
def TpChange.dueAt : TpChange → Option Nat
  | .none => Option.none
  | .checking t _ _ _ _ => some t
  | .waiting t _ => some t
  | .unload t => some t

/-- A tick argument of a channel lies far enough ahead: past its present tick, and past the relay in a pair
(R438). -/
def State.ahead (s : State) (ch : Fin 4) (t : Nat) : Bool := s.tick ch + s.relay ch + 1 ≤ t

/-- A timing is one that a program which waits for tick `t` can run with (R169, R286): they are checked together (R298). -/
def State.fitsWaiting (s : State) (ch : Fin 4) (t : Nat) (c : DpCfg) : Bool :=
  match (s.pacer ch).change with
  | .waiting u p => u ≠ t || p.pipe.all (fun d =>
      let len := if d.ofCount = 1 then p.frameTicks else d.start 1 - d.start 0
      d.outW = c.hactive && d.outRows = c.vactive && len = c.vtotal * max c.lineTicks 1)
  | _ => true

/-- DP_APPLY (R285, R287): the staged settings are checked, and taken for tick T, which must be an output frame
start of the channel, the start of a pending program among them; one that waits for T must fit them (log entry 108). -/
def opDpApply (who : Req) (ch : Fin 4) (t : Nat) (s : State) : State :=
  let k := Obj.dpApply ch
  s.mirrored k (toLE 8 t) t fun s => s.command who k (fun s =>
    let c := s.stagedDp ch
    let frame := s.startsAt ch t || ((s.pacer ch).change.dueAt = some t && t ≠ 0)
    if !dpCtrlOk c.ctrl || !timingOk c (s.lChk ch) (s.periodOf ch) || !dscOk c (s.periodOf ch) || !s.ahead ch t || !frame || !s.fitsWaiting ch t c
    then s.refuse k rcRange
    else ({ s with dps := s.dps.mod ch (fun d => { d with pending := some (t, c) }) } : State).accept k)

/-- DP_APPLY (R287). -/
def execDpApply (who : Req) (ch : Fin 4) (t : Nat) (s : State) : Out := clocked s (opDpApply who ch t)

/-! ## Unit domains and pads (R30, R456, R466, R471) -/

/-- A mask of `n` bits with the bits of a list set. -/
def setMask (n m : Nat) (l : List Nat) : Nat := (BitVec.ofNat n m ||| BitVec.ofNat n ((l.map (2 ^ ·)).sum)).toNat

/-- A mask of `n` bits with the bits of a list clear. -/
def clearMask (n m : Nat) (l : List Nat) : Nat := (BitVec.ofNat n m &&& ~~~ BitVec.ofNat n ((l.map (2 ^ ·)).sum)).toNat

/-- A video input is enabled: by EN, and DPIN0 for the safe picture too (R192); attached to no channel it is not (R30). -/
def State.dpinOn (s : State) (i : Nat) : Bool :=
  (bit (s.obj (Obj.dpinCtrl i)) 31 || (i = 0 && (s.dps.get 0).safe)) && s.obj (Obj.attachOwner i) ≠ 0

/-- The enable that keeps a unit's domain ON (R30, R456): of COMP and DP by DP_CTRL in force, of DPIN and KL by their own
while they are attached. `u` counts from PD112. -/
def State.enOf (s : State) (u : Nat) : Bool :=
  if u < 8 then bit (s.dps.get (toCh u)).cfg.ctrl 31
  else if u < 10 then s.dpinOn (u - 8)
  else bit (s.obj (Obj.klCtrl (u - 10))) 31 && s.obj (Obj.klAttachOwner (u - 10)) ≠ 0

/-- The domain PD(112 + u) is ON outside P2. -/
def State.domainOn (s : State) (u : Nat) : Bool := s.enOf u || bit s.power.linger u

/-- Pad groups are released (R466): a display output or port whose pads are free again trains. -/
def State.freePads (s : State) (m : Nat) : State :=
  s.setObj Obj.padLatched ((BitVec.ofNat 8 (s.obj Obj.padLatched) &&& ~~~ BitVec.ofNat 8 m).toNat)

/-- Groups of a mask whose domain is ON: pad group g belongs to domain PD(116 + g). -/
def State.groupsOn (s : State) (m : Nat) : Nat := ((upto 8).map (fun g => if bit m g && s.domainOn (g + 4) then 2 ^ g else 0)).sum

/-- Releases that waited for their domain take effect once it is ON (R471). -/
def State.lateRelease (s : State) : State :=
  let m := s.groupsOn s.power.release
  let s1 := s.freePads m
  { s1 with power := { s1.power with release := (BitVec.ofNat 8 s1.power.release &&& ~~~ BitVec.ofNat 8 m).toNat } }

/-- Unit domains, by number above PD112, stay ON after their enable was cleared (R456). -/
def State.lingers (s : State) (ds : List Nat) : State :=
  { s with power := { s.power with linger := setMask 12 s.power.linger ds, reached := setMask 12 s.power.reached ds } }

/-- The pads of a group (DP0 to DP3, DPIN0, DPIN1, KL0, KL1) are not latched (R466). -/
def State.padFree (s : State) (g : Nat) : Bool := !bit (s.obj Obj.padLatched) g

/-- The self-test target of pad group `g` on channel `ch`, if the group can be tested there (R496). -/
def groupTarget (ch : Fin 4) (g : Nat) : Option Nat :=
  if g < 4 then (if g = ch then some 0x50 else none) else if g < 6 then some (0x60 + (g - 4)) else some (0x70 + (g - 6))

/-- The unit of pad group `g` is under self-test (R497). -/
def State.groupTested (s : State) (g : Nat) : Bool :=
  chans.any (fun ch => bits (s.obj (Obj.testStatus ch)) 15 12 = 2 && groupTarget ch g = some (s.obj (Obj.testStatus ch) % 256))

/-- UNIT_ID of the link unit behind pad group `g` (R478). -/
def groupUnit (g : Nat) : Nat := if g < 4 then dpId g else if g < 6 then dpinId (g - 4) else klId (g - 6)

/-- The link of pad group `g` can train: its pads are not latched (R466), its unit has its image (R492) and is not under
self-test (R497). -/
def State.linkReady (s : State) (g : Nat) : Bool :=
  s.padFree g && !(s.unitImage (groupUnit g)).needed && !s.groupTested g

def State.dp (s : State) (ch : Fin 4) : DpLink := s.dps.get ch
def State.setDp (s : State) (ch : Fin 4) (d : DpLink) : State := { s with dps := s.dps.set ch d }

/-- DPn's lanes carry nothing. -/
def State.idleLanes (s : State) (ch : Fin 4) : State := s.setComp ch { s.comp ch with sent := .idle }

/-- The output frame in progress carries protected content: an enabled layer that is protected and not
replaced (R292). -/
def State.carriesProtected (s : State) (ch : Fin 4) : Bool :=
  let b := s.setBytes ch
  (upto 8).any (fun i => (setLayer b i).en && 0 < s.layerProt ch (setLayer b i) && !(s.comp ch).blocked.contains i)

/-- Authentication or encryption of DPn is lost: protected content leaves the rest of the frame (R292, R298). -/
def State.loseHdcp (s : State) (ch : Fin 4) : State :=
  if s.obj (Obj.hdcpState ch) = 0 then s
  else
    let s1 := s.setObj (Obj.hdcpState ch) 0
    if s.carriesProtected ch then s1.setComp ch { s1.comp ch with cutOff := true } else s1

/-- DPn (re)trains at its settings: TRAINING with a plugged sink, UNPLUGGED without, OFF when disabled; nothing
is authenticated meanwhile (R287, R288, R292, R294). -/
def State.trainDp (s : State) (ch : Fin 4) : State :=
  let d := s.dp ch
  let st := if !bit d.cfg.ctrl 31 then 0 else if d.hpd then 1 else 3
  (((s.setDp ch { d with attempts := 0 }).setObj (Obj.dpState ch) st).loseHdcp ch).idleLanes ch

/-- The settings whose change retrains the link (R287): the enable, rate, lanes, format, BPC, DSC and
timing. -/
def DpCfg.link (c : DpCfg) : DpCfg := { c with ctrl := bits c.ctrl 31 16 * 65536 + bits c.ctrl 11 11 * 2048 }

/-- A change of settings retrains the link (R287). The safe picture keeps its own timing and format (R193), and whether its
end changes them is decided then (R195): while it is shown, only the enable, the rate and the lanes count. -/
def DpLink.retrains (d : DpLink) (c : DpCfg) : Bool :=
  if d.safe then bits c.ctrl 31 21 ≠ bits d.cfg.ctrl 31 21 else c.link ≠ d.cfg.link

/-- DP_TIMING_EFFECT (R287): at tick T the settings take effect, and the link retrains where they need it; without HDCP_EN
DPn encrypts no longer (R292). -/
def dpEffect (ch : Fin 4) (s : State) : State :=
  let d := s.dp ch
  match d.pending with
  | none => s
  | some (t, c) =>
    if s.tick ch < t then s
    else
      let s0 := if bit d.cfg.ctrl 31 && !bit c.ctrl 31 then s.lingers [ch, 4 + ch] else s
      let s1 := (s0.setDp ch { d with cfg := c, pending := none }).ended (Obj.dpApply ch) 0 2
      let s2 := if bit c.ctrl 10 then s1 else s1.loseHdcp ch
      (if d.retrains c then s2.trainDp ch else s2).lateRelease

/-- DP_TIMING_EFFECT (R287). -/
def execDpTimingEffect (ch : Fin 4) (s : State) : Out := clocked s (dpEffect ch)

/-- `n` bytes the specification leaves open. -/
def State.freeBytes (s : State) (n : Nat) : List Byte × State :=
  ((upto n).map (fun i => (Config.freeValue (s.fresh + i)).setWidth 8), { s with fresh := s.fresh + n })

/-- What DPn has read of its sink is reported (R288, R291): it comes from outside, a free value. -/
def State.readSink (s : State) (ch : Fin 4) : State :=
  let (info, s1) := s.freeBytes 2048
  let (v, s2) := s1.free64
  (s2.setOct (Obj.sinkInfo ch) info).setObj (Obj.sinkTile ch) (v.toNat % 65536 * 65536)

/-- The rate of a DP_CTRL word is one DPn trains at (R288, R290): with EDP an 8b/10b rate or an entry of the sink's table,
without it none of that table (log entry 107). -/
def dpRateOk (c : Nat) : Bool := if bit c 30 then bits c 29 26 ≤ 3 || bits c 29 26 = 7 else bits c 29 26 ≠ 7

/-- DP_TRAINING_DONE (R288, R294): an attempt ends; the fifth failure in sequence makes DP_STATE FAILED. A sink without a
capability the settings need makes it fail (R289). -/
def execDpTrainingDone (ch : Fin 4) (ok : Bool) (s : State) : Out :=
  clocked s fun s =>
    let d := s.dp ch
    if s.obj (Obj.dpState ch) ≠ 1 || !s.linkReady ch then s
    else if ok && dpRateOk d.cfg.ctrl then (s.setDp ch { d with attempts := 0 }).setObj (Obj.dpState ch) 2
    else if 4 ≤ d.attempts then
      ((s.setDp ch { d with attempts := d.attempts + 1 }).idleLanes ch).setState ch (Obj.dpState ch) 4
    else s.setDp ch { d with attempts := d.attempts + 1 }

/-- HPD_LOW_TIMEOUT (R294). -/
def execHpdLowTimeout (ch : Fin 4) (s : State) : Out :=
  clocked s fun s =>
    let d := s.dp ch
    let s1 := s.setDp ch { d with hpd := false }
    if !bit d.cfg.ctrl 31 then s1
    else ((s1.loseHdcp ch).idleLanes ch).setState ch (Obj.dpState ch) 3

/-- HPD_RETURN (R294): the link trains at the configured settings. -/
def execHpdReturn (ch : Fin 4) (s : State) : Out :=
  clocked s fun s =>
    let d := s.dp ch
    if d.hpd then s
    else
      let s1 := (s.setDp ch { d with hpd := true }).readSink ch
      if !bit d.cfg.ctrl 31 then s1 else (s1.trainDp ch).attnState ch (Obj.dpState ch)

/-- IRQ_HPD (R294): with a lane unlocked the link retrains. -/
def execIrqHpd (ch : Fin 4) (laneUnlocked : Bool) (s : State) : Out :=
  clocked s fun s =>
    if !laneUnlocked || s.obj (Obj.dpState ch) ≠ 2 then s else (s.trainDp ch).bump (Obj.dpRetrains ch) 1 32

/-- HDCP_AUTH_DONE (R292, R488): DPn, with HDCP_EN set, its link up and a key set present, is authenticated. -/
def execHdcpAuthDone (ch : Fin 4) (type1 : Bool) (s : State) : Out :=
  clocked s fun s =>
    if !bit (s.dp ch).cfg.ctrl 10 || s.obj (Obj.dpState ch) ≠ 2 || s.obj Obj.hdcpKeyState = 0 then s
    else s.setObj (Obj.hdcpState ch) (if type1 then 2 else 1)

/-- HDCP_LOSS (R292, R298). -/
def execHdcpLoss (ch : Fin 4) (s : State) : Out := clocked s (fun s => s.loseHdcp ch)

/-! ## Video inputs (R295 to R297) -/

/-- DPIN_LINK_TRAINED (R295): at a rate and number of lanes, as DPIN_CTRL codes them, that its caps allow. -/
def execDpinLinkTrained (i : Dpin) (rate lanes : Nat) (s : State) : Out :=
  clocked s fun s =>
    let n := Dpin.num i
    let c := s.obj (Obj.dpinCtrl n)
    if !s.dpinOn n || s.inputSet n = [] || 2 ≤ s.obj (Obj.dpinState n) || !s.linkReady (4 + n) || bits c 30 28 < rate || bits c 27 26 < lanes
    then s else s.setObj (Obj.dpinState n) 2

/-- DPIN_FORMAT of a stream (R300). -/
def fmtWord (f : StreamFmt) : Nat :=
  f.width % 65536 * 2 ^ 48 + f.height % 65536 * 2 ^ 32 + f.rate % 65536 * 65536 + f.sampling % 16 * 4096 + f.bpc % 16 * 256 + f.colour % 16 * 16

/-- DPIN_STREAM_PRESENT (R295, R297): a stream is there; its HDCP type counts while the receiver advertises HDCP. -/
def execDpinStreamPresent (i : Dpin) (fmt : StreamFmt) (s : State) : Out :=
  clocked s fun s =>
    let n := Dpin.num i
    let st := s.obj (Obj.dpinState n)
    if st ≠ 2 && st ≠ 3 then s
    else
      let s1 := { s with streams := put s.streams n fmt }
      ((s1.setObj (Obj.dpinState n) 3).setObj (Obj.dpinFormat n) (fmtWord fmt)).setObj (Obj.dpinHdcp n)
        (if bit (s.obj (Obj.dpinCtrl n)) 23 && s.obj Obj.hdcpKeyState = 1 then min fmt.hdcpType 2 else 0)

/-- A video input loses its link (R296): the loss is counted, its stream is gone, and the channels that capture
from it are LOST (R177). `st` is the state it falls to. -/
def State.dropInput (s : State) (n st : Nat) : State :=
  let was := s.obj (Obj.dpinState n)
  let s0 := if was = 2 || was = 3 then s.bump (Obj.dpinLinkLosses n) 1 32 else s
  let s1 := { s0 with streams := del s0.streams n }
  let s2 := ((s1.setObj (Obj.dpinState n) st).setObj (Obj.dpinFormat n) 0).setObj (Obj.dpinHdcp n) 0
  if was ≠ 2 && was ≠ 3 then s2
  else forEach (s.inputSet n) (fun s m =>
    match s.captures m with
    | none => s
    | some _ =>
      let s1 := s.setPicture m { s.picture m with capturing := none }
      let v := s1.obj (Obj.inputState m)
      if v = 1 || v = 3 then s1.setInput m 2 else s1) s2

/-- DPIN_LINK_LOSS (R296). -/
def execDpinLinkLoss (i : Dpin) (s : State) : Out :=
  clocked s fun s =>
    let n := Dpin.num i
    let st := s.obj (Obj.dpinState n)
    if st ≠ 2 && st ≠ 3 then s else s.dropInput n 1

/-- A write of DPIN_CTRL (R295, R296): EN asserts HPD, and clearing it withdraws HPD. -/
def State.dpinCtrlSet (s : State) (n v : Nat) : State :=
  let s1 := s.setObj (Obj.dpinCtrl n) v
  let st := s1.obj (Obj.dpinState n)
  if s1.dpinOn n then (if st = 0 && s1.inputSet n ≠ [] then s1.setObj (Obj.dpinState n) 1 else s1).lateRelease
  else
    let s2 := if s.dpinOn n then s1.lingers [8 + n] else s1
    if st = 4 then s2 else s2.dropInput n 0

/-- SAFE_PICTURE_START (R192 to R194): before the first program of channel 0, DP0, where it is enabled, transmits the safe
picture or the fill colour, with the timing of VIC 97 where the sink lists it and of VIC 16 otherwise: `State.safeShown` says
which picture, and `State.safePx` its pixels. -/
def execSafePictureStart (s : State) : Out :=
  clocked s fun s =>
    let d := s.dp 0
    if d.safe || (s.pacer 0).program.isSome || (s.comp 0).frame.isSome || !bit d.cfg.ctrl 31 || s.svc 0 ≠ .reduced then s
    else
      let s1 := if d.hpd then s else s.readSink 0
      let vic := if Sys2Proof.Config.listsVic97 (s1.oct (Obj.sinkInfo 0) 2048) then 97 else 16
      (s1.setDp 0 { s1.dp 0 with safe := true, hpd := true, vic := vic }).setObj (Obj.dpState 0) 2

/-- The stream of DPIN0 that the safe picture shows; none where DP0 transmits the fill colour (R193): no input, a size or
frame rate outside the accepted range (rates in 0.01 Hz), or a protected input while DP0 is not authenticated. -/
def State.safeShown (s : State) : Option Sys2Proof.StreamFmt :=
  (look s.streams 0).filter (fun f => (s.dps.get 0).safe && s.obj (Obj.dpinState 0) = 3 && f.width ≤ 3840 && f.height ≤ 2160 &&
    5994 ≤ f.rate && f.rate ≤ 6006 && (s.obj (Obj.dpinHdcp 0) = 0 || s.obj (Obj.hdcpState 0) ≠ 0))

/-- Width and height of the safe picture's timing (R193). -/
def State.safeSize (s : State) : Nat × Nat := if (s.dps.get 0).vic = 97 then (3840, 2160) else (1920, 1080)

/-- A component of `bpc` bits as a 16-bit code; the widths of R270, and 12 bits in the same way. -/
def wideCode (bpc v : Nat) : Nat := if bpc = 12 then v * 16 + v / 256 else code16 bpc v

/-- A pixel of an input as 16-bit R, G and B codes: RGB in full range, or YCbCr of BT.709 in narrow range, whose samples are
the Y, Cb and Cr of the pixel (log entry 109). -/
def inputRgb (sampling bpc : Nat) (p : Px) : Px :=
  if sampling = 0 then ⟨wideCode bpc p.a, wideCode bpc p.b, wideCode bpc p.c⟩
  else
    let k : Int := 2 ^ (bpc - 8)
    let y := fxRat ((p.a : Int) - 16 * k) (219 * k)
    let cb := fxRat ((p.b : Int) - 128 * k) (224 * k)
    let cr := fxRat ((p.c : Int) - 128 * k) (224 * k)
    let code (v : Int) : Nat := min 65535 (fxRound 65535 v)
    let green := y - fxMul (fxRat (722 * 18556) (7152 * 10000)) cb - fxMul (fxRat (2126 * 15748) (7152 * 10000)) cr
    ⟨code (y + fxMul (fxRat 15748 10000) cr), code green, code (y + fxMul (fxRat 18556 10000) cb)⟩

/-- Pixel (x, y) of the safe picture as DP0 transmits it (R193, R268): the input's pixels `inp`, by column and row, scaled
bilinearly to the full output, read as SDR BT.709 and put out in 8-bit RGB; FILL_CODE where no input is shown. The frames of
DP0 follow DPIN0 and no Pacer, so no field of the state holds them (log entry 65). -/
def State.safePx (s : State) (x y : Nat) (inp : Nat → Nat → Px) : Px :=
  let c := setBits (s.dps.get 0).cfg.ctrl 20 16 0
  let white := s.obj (Obj.sdrWhite 0)
  let peak := s.obj (Obj.hlgPeak 0)
  let out (p : Px) : Px := finishWith c white peak [] p
  match s.safeShown with
  | none => out (fillPx (s.oct (Obj.fill 0) 12))
  | some f =>
    let (w, h) := s.safeSize
    let code (g : Px → Nat) : Nat :=
      s.filter1 true true 0 f.height h y (fun j => s.filter1 true false 0 f.width w x (fun i => g (inputRgb f.sampling f.bpc (inp i j))))
    let lin (g : Px → Nat) : Nat := decodeCode 0 white peak (code g)
    out (matrix3 0 workMax ⟨lin Px.a, lin Px.b, lin Px.c⟩)

end Sys2Proof.Machine
end

