-- ==== Sys2Proof/Machine/Program.lean ====
section
/-! DEFINITION. Tick programs and gangs (R78 to R83, R167 to R169, R195 to R197, R286, R368, R477, R498): reading
and checking a program with its pipeline descriptor, loading, switching, unloading, and gang changes. -/

namespace Sys2Proof.Machine

/-! ## The program in memory (R78) -/

def tpMagic : Nat := 0x47525054
def pipeMagic : Nat := 0x45504950

/-- The run table of a program at `a`. -/
def State.tpRuns (s : State) (a n : Nat) : List Nat := (upto n).map (fun i => s.devNat (a + 0x40 + 4 * i) 4)

/-- One slot entry of 16 bytes. -/
def slotOf (b : List Byte) : Slot :=
  { unit := field b 0 1, window := field b 1 1, dep0 := field b 4 2, dep1 := field b 6 2, desc := field b 8 8 }

/-- The variant table's entry `v`: offset and count of its slot list. -/
def State.tpVariant (s : State) (a runs v : Nat) : Nat × Nat :=
  let b := s.devRead (a + 0x40 + 4 * runs + 8 * v) 8
  (field b 0 4, field b 4 4)

/-- The bytes of a slot list. -/
def State.tpSlotBytes (s : State) (a : Nat) (v : Nat × Nat) : List (List Byte) :=
  (upto v.2).map (fun i => s.devRead (a + v.1 + 16 * i) 16)

/-- Header limits and reserved fields of R78. -/
def tpHeaderOk (h : List Byte) : Bool :=
  field h 0 4 = tpMagic && 1 ≤ field h 8 4 && field h 8 4 ≤ 65535 && 1 ≤ field h 0x0C 2 && field h 0x0C 2 ≤ 16 &&
  1 ≤ field h 0x0E 2 && field h 0x0E 2 ≤ 64 && field h 0x10 4 ≤ 3 && field h 0x18 4 ≤ 255 &&
  (bit (field h 0x10 4) 0 || field h 0x1C 4 = 0)

/-- A slot's fields are in range (R78): unit and window, its reserved bytes, dependencies on earlier slots. -/
def slotOk (i : Nat) (b : List Byte) : Bool :=
  let x := slotOf b
  x.unit ≤ 7 && x.window ≤ 7 && reserved b 2 2 && x.dep0 ≤ i && x.dep1 ≤ i

/-- The end of a program, from its header: the end of its last slot list or of its tables. -/
def tpEnd (runs variants : Nat) (vs : List (Nat × Nat)) : Nat :=
  vs.foldl (fun m v => max m (v.1 + 16 * v.2)) (0x40 + 4 * runs + 8 * variants)

/-- A program read from memory (R78), or none where its format is wrong (E_TP_FORMAT of R82). -/
def State.readProgram (s : State) (a : Nat) : Option Program :=
  let h := s.devRead a 64
  let nv := field h 0x0C 2
  let nr := field h 0x0E 2
  let runs := s.tpRuns a nr
  let vs := (upto nv).map (fun v => s.tpVariant a nr v)
  let runsOk := runs.all (fun r => r < 2 ^ 20 && r / 65536 < nv && 1 ≤ r % 65536) && (runs.map (· % 65536)).sum = field h 8 4
  if devEnd < a + 64 || !tpHeaderOk h || !runsOk || !vs.all (fun v => 1 ≤ v.2 && v.2 ≤ 512) || devEnd < a + tpEnd nr nv vs then none
  else
    let lists := vs.map (fun v => s.tpSlotBytes a v)
    if !lists.all (fun l => l.zipIdx.all (fun p => slotOk p.2 p.1)) then none
    else if sha3 (s.devRead (a + 64) (tpEnd nr nv vs - 64)) ≠ slice h 0x20 32 then none
    else some
      { addr := a, model := field h 4 4, frameTicks := field h 8 4, flags := field h 0x10 4, latency := field h 0x14 4,
        unitsUsed := field h 0x18 4, srcTicks := field h 0x1C 4, digest := slice h 0x20 32,
        runs := runs.map (fun r => (r / 65536, r % 65536)), variants := lists.map (fun l => l.map slotOf),
        ctx := 0, baton := 0, pipe := none, floorOpp := 0, start := 0, frames := 0, ofnBase := 0, seals := [] }

/-! ## The pipeline descriptor (R168, R169, R286) -/

/-- Field ranges, alignments and reserved fields of a descriptor (R168, R169). -/
def pipeFieldsOk (b : List Byte) : Bool :=
  let d : PipeDesc := ⟨b⟩
  field b 0 4 = pipeMagic && d.service ≤ 1 && d.srcKind ≤ 2 && d.slotFmt ≤ 2 && 2 ≤ d.slots && d.slots ≤ 4 &&
  64 ≤ d.srcW && d.srcW ≤ 7680 && d.srcW % 8 = 0 && 64 ≤ d.srcH && d.srcH ≤ 4320 && d.srcH % 8 = 0 &&
  d.halo ≤ 256 && d.halo % 8 = 0 && 1 ≤ field b 0x0F 1 && field b 0x0F 1 ≤ 4 && d.slotBase % 64 = 0 && d.slotStride % 64 = 0 &&
  (d.srcKind = 1 || (0x8000 ≤ d.rowQ && d.rowQ ≤ 0x400000)) && d.frecBase % 128 = 0 && d.vringBase % 64 = 0 &&
  8 ≤ d.vringRows && d.vringRows ≤ 256 && 1 ≤ d.ofCount && d.ofCount ≤ 4 && d.cutPermille ≤ 1000 &&
  1 ≤ d.lossTicks && d.lossTicks ≤ 1000000 && 1 ≤ d.outW && d.outW ≤ 7680 && 8 ≤ d.outRows && d.outRows ≤ 4320 &&
  1 ≤ d.lineTicks && d.lineTicks ≤ 8 && reserved b 0x41 7 && d.outW % d.lineTicks = 0 && d.outW / d.lineTicks ≤ 4096 &&
  (upto 4).all (fun e => if e < d.ofCount then d.plan e ≤ 1 && reserved b (0x4D + 8 * e) 3 else reserved b (0x48 + 8 * e) 8)

/-- The binding tick of an entry, from the start of program frame `f` (R169). -/
def bindAt (d : PipeDesc) (frameTicks f e : Nat) : Int := (d.start e : Int) + (f * frameTicks : Nat) - (d.lead e : Int)

/-- The output frame table's rules (R169, R286); `len` is the length of an output frame. -/
def ofTableOk (d : PipeDesc) (frameTicks len : Nat) : Bool :=
  let n := d.ofCount
  let es := upto n
  es.all (fun e => d.start e < frameTicks && 1 ≤ d.lead e &&
    (e + 1 = n || d.start e < d.start (e + 1)) &&
    (if e + 1 = n then frameTicks + d.start 0 - d.start e = len else d.start (e + 1) - d.start e = len) &&
    (d.plan e = 0 ||
      (d.plan ((e + n - 1) % n) = 0 && n ≠ 1 &&
       (if e + 1 = n then bindAt d frameTicks 1 0 else bindAt d frameTicks 0 (e + 1)) < bindAt d frameTicks 0 e)) &&
    es.all (fun g => g = e || (bindAt d frameTicks 65536 e) % (frameTicks : Int) ≠ (bindAt d frameTicks 65536 g) % (frameTicks : Int)))

/-- The fields that members of a gang share (R169). -/
def pipeShared (d : PipeDesc) : List Nat :=
  [d.srcKind, d.slotFmt, d.srcW, d.srcH, d.halo, d.f 0x0F 1, d.rowQ, d.slack, d.cutConf, d.cutPermille, d.f 0x48 32]

/-- DPn's timing in force at tick `t`: the accepted one from the tick it names on (R287). -/
def State.timingAt (s : State) (ch : Fin 4) (t : Nat) : DpCfg :=
  match (s.dps.get ch).pending with
  | some (u, c) => if u ≤ t then c else (s.dps.get ch).cfg
  | none => (s.dps.get ch).cfg

/-- The gang a program is checked for: without FLAGS.GANG none; with it the gang in force, the one accepted, or
the one staged (log entry 67). -/
def State.checkGang (s : State) (ch : Fin 4) (flags : Nat) : List (Fin 4) :=
  if !bit flags 1 then [ch]
  else
    let sets := [0, 2].map (fun l => gangSet (toCh l) (((s.gangs.get (toCh l)).pending.map (·.2)).getD (s.obj (Obj.gangCtrl l))))
    match (s.gangOf ch) with
    | [] => (sets.find? (fun g => g.contains ch)).getD [ch]
    | g => g

/-- A load of a program for tick `t` is being checked or waits. -/
def TpChange.loadAt (t : Nat) : TpChange → Bool
  | .checking u _ _ _ _ => u = t
  | .waiting u _ => u = t
  | _ => false

/-- The pipeline descriptor passes its checks for a program that starts at tick `t` (R169, R286). -/
def State.pipeOk (s : State) (ch : Fin 4) (p : Program) (d : PipeDesc) (t : Nat) : Bool :=
  let g := s.checkGang ch p.flags
  let r := slotRows d (g.idxOf ch) g.length
  let c := s.timingAt ch t
  pipeFieldsOk d.bytes && slotSize d r.rows ≤ d.slotStride && ofTableOk d p.frameTicks (c.vtotal * max c.lineTicks 1) &&
  d.outW = c.hactive && d.outRows = c.vactive

/-- A member of the gang has a descriptor for the same tick whose shared fields differ (R169). -/
def State.pipeDiffers (s : State) (ch m : Fin 4) (d : PipeDesc) (t : Nat) : Bool :=
  m ≠ ch && match (s.pacer m).change with
    | .waiting u q => u = t && q.pipe.any (fun e => pipeShared e != pipeShared d)
    | _ => false

/-- A descriptor breaks the last case of R169 in the gang `g`, which refuses every member's load. -/
def State.gangMisfit (s : State) (ch : Fin 4) (g : List (Fin 4)) (d : PipeDesc) (t : Nat) : Bool :=
  g.length ≠ 1 && (d.srcH % (2 * g.length) ≠ 0 || g.any (fun m => s.pipeDiffers ch m d t))

/-! ## The load check (R82, R368, R498) -/

/-- A unit the program uses cannot run (R498): a windowed unit is FAILED, or firmware it needs is missing. -/
def State.unitsMissing (s : State) (ch : Fin 4) (p : Program) : Bool :=
  (bitsOf 8 p.unitsUsed).any (fun u => s.unitFailed ch u) ||
  (p.unitsUsed ≠ 0 && (s.unitImage (coresetId ch)).needed) || (s.unitImage (pacerId ch)).needed ||
  p.pipe.any (fun d => (s.unitImage (compId ch)).needed || (s.unitImage (dpId ch)).needed || bit (s.obj (Obj.unitHealth ch)) 10 ||
    (d.srcKind = 0 && (s.inputOf ch).any (fun i => (s.unitImage (dpinId i)).needed || bit (s.obj (Obj.unitHealth ch)) (11 + i))))

/-- TP_STATUS of a state with an error code and the place of the failure (R85). -/
def tpStatus (code st v m w : Nat) : Nat := code * 65536 + st * 4096 + v * 256 + m * 64 + w * 8

/-- The command a slot names is of the form of R370 for its unit's engine. -/
def State.slotCmdOk (s : State) (x : Slot) : Bool :=
  x.desc + 48 ≤ devEnd && slotHeaderOk (s.devRead x.desc 48) (engineOfUnit x.unit)

/-- The outcome of a load check: the program with what the check adds, or the code with variant, map and
window. -/
def State.checkProgram (s : State) (ch : Fin 4) (t a ctx baton pa : Nat) (m : ModelFigures) : Except (Nat × Nat × Nat × Nat) Program :=
  let c := s.cfgNext ch
  let l := s.lChkNext ch
  match s.readProgram a with
  | none => .error (eTpFormat, 0, 0, 0)
  | some p0 =>
    if p0.model ≠ s.modelVersion then .error (eModel, 0, 0, 0)
    else if !p0.variants.all (fun v => slotsFit c l v && v.all s.slotCmdOk) then .error (eTpFormat, 0, 0, 0)
    else
      let vs := sealLists p0.variants m.slotCost
      match overrunIn c l vs with
      | some (v, mp, w) => .error (eWcetWindow, v, mp, w)
      | none =>
        let gen := bit p0.flags 0
        if p0.latency < m.latency || (!gen && 64 < p0.latency) || (gen && p0.srcTicks + 48 < p0.latency) then .error (eLatency, 0, 0, 0)
        else
          let ctxOk := match look s.ctxs ctx with
            | some x => x.state = .active && x.owner = 0
            | none => false
          if !ctxOk || ((look s.batons baton).bind Baton.owner) ≠ some ctx then .error (eTpFormat, 0, 0, 0)
          else
            let seals := (vs.zipIdx.map (fun v => v.1.2.zipIdx.map (fun q => (512 * v.2 + q.2, q.1)))).flatten
            let pipe := if pa = 0 then none else some (⟨s.devRead pa 0x68⟩ : PipeDesc)
            let p : Program := { p0 with ctx := ctx, baton := baton, pipe := pipe, floorOpp := m.floorOpp, seals := seals }
            let pipeBad := match pipe with
              | none => false
              | some d => pa % 64 ≠ 0 || devEnd < pa + 0x68 || !s.pipeOk ch p d t ||
                  s.gangMisfit ch (s.checkGang ch p.flags) d t
            if pipeBad then .error (ePipeFormat, 0, 0, 0)
            else if s.unitsMissing ch p then .error (eUnitUnavailable, 0, 0, 0)
            else .ok p

/-- A load is refused (R79, R82): TP_STATUS state 4 with the code, and attention. -/
def State.refuseLoad (s : State) (ch : Fin 4) (code v m w : Nat) : State :=
  let s1 := s.setPacer ch { s.pacer ch with change := .none }
  let s2 := (s1.setObj (Obj.tpStatus ch) (tpStatus code 4 v m w)).setCmd (Obj.tpLoad ch) code 3
  s2.attn code ch (Obj.tpStatus ch) (s2.obj (Obj.tpStatus ch))

/-- The first program frame boundary of the active program after the present tick (R78, R79). -/
def State.nextBoundary (s : State) (ch : Fin 4) : Nat :=
  match (s.pacer ch).program with
  | some p => p.start + ((s.tick ch - p.start) / p.frameTicks + 1) * p.frameTicks
  | none => s.tick ch + 1

/-- LOAD_CHECK_DONE (R79, R82): the check of a pending load ends; `m` is what the timing model answers. A load
for T = 0 then takes its tick: the next program frame boundary, or the next edge. A gang member's load that the
descriptor does not fit is refused with it (R169). -/
def loadChecked (ch : Fin 4) (m : ModelFigures) (s : State) : State :=
  match (s.pacer ch).change with
  | .checking t0 a ctx baton pa =>
    let t := if t0 = 0 then max (s.nextBoundary ch) (s.tick ch + s.relay ch + 1) else t0
    if t0 ≠ 0 && t0 ≤ s.tick ch then s.refuseLoad ch eLatency 0 0 0
    else match s.checkProgram ch t a ctx baton pa m with
    | .error (code, v, mp, w) =>
      let s1 := s.refuseLoad ch code v mp w
      if code ≠ ePipeFormat then s1
      else
        let d : PipeDesc := ⟨s.devRead pa 0x68⟩
        let g := s.checkGang ch (field (s.devRead a 64) 0x10 4)
        if s.gangMisfit ch g d t then
          forEach (g.filter (fun x => x ≠ ch && (s.pacer x).change.loadAt t)) (fun s x => s.refuseLoad x ePipeFormat 0 0 0) s1
        else s1
    | .ok p =>
      let s1 := s.setPacer ch { s.pacer ch with change := .waiting t p }
      (s1.setObj (Obj.tpStatus ch) (tpStatus 0 2 0 0 0)).attnState ch (Obj.tpStatus ch)
  | _ => s

/-- LOAD_CHECK_DONE (R82). -/
def execLoadCheckDone (ch : Fin 4) (m : ModelFigures) (s : State) : Out := clocked s (loadChecked ch m)

/-! ## TP_LOAD and TP_UNLOAD (R79 to R81) -/

/-- Channel n is READY (R477). -/
def State.ready (s : State) (ch : Fin 4) : Bool :=
  s.memUp ch && [pacerId ch, coresetId ch].all (fun u => (s.unitImage u).running.isSome && !(s.unitImage u).needed) && s.tested.get ch &&
  16 ≤ ((s.cores.get ch).map.filter (· < 17)).length

/-- CH_SUMMARY takes its channel's power state and READY at a tick edge (R520); its other fields change only there. -/
def State.sampleSummary (s : State) (ch : Fin 4) : State :=
  { s with latched := s.latched.mod ch (fun l => { l with pstate := s.obj (Obj.chPstate ch), ready := s.ready ch }) }

/-- An accepted GANG_APPLY of a gang the channel is or will be in, DP_APPLY of the channel, or CH_SERVICE_APPLY of the
channel or of a member of its gang, names tick `t` (R80). -/
def State.tickNamed (s : State) (ch : Fin 4) (t : Nat) : Bool :=
  [0, 2].any (fun l => (s.gangs.get l).pending.any (fun p =>
    p.1 = t && (l = ch || (gangSet l p.2).contains ch || (gangSet l (s.gangs.get l).ctrl).contains ch))) ||
  (s.dps.get ch).pending.any (fun p => p.1 = t) ||
  (ch :: s.gangOf ch ++ s.gangNext ch).any (fun m => (s.chPend.get m).svc.any (fun x => x.t = t))

/-- A pending program change may not be replaced (R80): it takes effect at the next edge, or an accepted
GANG_APPLY, DP_APPLY or CH_SERVICE_APPLY names its T. -/
def State.changeFixed (s : State) (ch : Fin 4) : Bool :=
  match (s.pacer ch).change.dueAt with
  | none => false
  | some t => t = s.tick ch + 1 || (t ≠ 0 && s.tickNamed ch t)

/-- TP_LOAD (R79, R80, R438, R452, R477): the check of the program at TP_ADDR starts, with the objects read at
the write. -/
def opTpLoad (who : Req) (ch : Fin 4) (t : Nat) (s : State) : State :=
  let k := Obj.tpLoad ch
  s.mirrored k (toLE 8 t) (if t = 0 then s.tick ch + 1 + s.relay ch else t) fun s => s.command who k (fun s =>
    if s.inPair ch && t ≠ 0 && !s.ahead ch t then s.refuse k rcRange
    else if s.obj (Obj.chPstate ch) ≠ 0 || !s.ready ch || s.changeFixed ch then s.refuse k rcBusy
    else
      let c : TpChange := .checking t (s.obj (Obj.tpAddr ch)) (s.obj (Obj.displayCtx ch)) (s.obj (Obj.tpBaton ch)) (s.obj (Obj.pipeAddr ch))
      let s1 := s.setComp ch { s.comp ch with readNext := s.obj (Obj.compReadMax ch) }
      ((s1.setPacer ch { s1.pacer ch with change := c }).setObj (Obj.tpStatus ch) (tpStatus 0 1 0 0 0)).accept k)

/-- TP_LOAD (R79). -/
def execTpLoad (who : Req) (ch : Fin 4) (t : Nat) (s : State) : Out := clocked s (opTpLoad who ch t)

/-- Tick `t` is a program frame boundary of the active program (R81). -/
def State.isBoundary (s : State) (ch : Fin 4) (t : Nat) : Bool :=
  match (s.pacer ch).program with
  | some p => p.start ≤ t && (t - p.start) % p.frameTicks = 0
  | none => false

/-- TP_UNLOAD (R80, R81): on the leader of a gang it is for every member. -/
def opTpUnload (who : Req) (ch : Fin 4) (t : Nat) (s : State) : State :=
  let k := Obj.tpUnload ch
  s.mirrored k (toLE 8 t) (if t = 0 then s.tick ch + 1 + s.relay ch else t) fun s => s.command who k (fun s =>
    let set := s.ownerSet ch
    if (s.pacer ch).program.isNone || s.leaderOf ch ≠ ch || set.any s.changeFixed then s.refuse k rcBusy
    else if t ≠ 0 && (!s.isBoundary ch t || t < s.tick ch + 2) then s.refuse k rcRange
    else
      let u := if t = 0 then s.nextBoundary ch else t
      (forEach set (fun s m =>
        let s1 := s.setPacer m { s.pacer m with change := .unload u }
        if (s1.pacer m).program.isSome then s1.setObj (Obj.tpStatus m) (tpStatus 0 3 0 0 0) else s1) s).accept k)

/-- TP_UNLOAD (R81). -/
def execTpUnload (who : Req) (ch : Fin 4) (t : Nat) (s : State) : Out := clocked s (opTpUnload who ch t)

/-! ## Switching (R79, R195, R196) -/

/-- A member of the channel's gang is out of service without cover (R41). -/
def State.gangShort (s : State) (ch : Fin 4) : Bool := (s.gangOf ch).any (fun m => m ≠ ch && s.outBy.get m = some 3)

/-- The service state of a channel that runs a program with descriptor `d` (R196, R41). While its memory is FAILED it stays
OFFLINE (R304). -/
def State.runService (s : State) (ch : Fin 4) (d : Option PipeDesc) : Service :=
  let reduced := match d with
    | some x => x.service = 1
    | none => false
  if s.obj (Obj.memState ch) = 4 then .offline
  else if reduced || s.gangShort ch then .reduced else .inService

/-- DPn's settings are those of the safe picture with CTA-861 timing `vic`, 97 or 16, in 8-bit RGB without DSC (R193). -/
def safeTiming (vic : Nat) (c : DpCfg) : Bool :=
  let t := (c.hactive, c.hfront, c.hsync, c.hback, c.vactive, c.vfront, c.vsync, c.vback)
  t == (if vic = 97 then (3840, 176, 88, 296, 2160, 8, 10, 72) else (1920, 88, 44, 148, 1080, 4, 5, 36)) && !bit c.ctrl 11 &&
  dpFormat c.ctrl = 0 && dpBpc c.ctrl = 0

/-- The safe picture of channel 0 ends with its first program (R192, R195): DP0 retrains where its timing
changes. -/
def State.endSafe (s : State) (ch : Fin 4) : State :=
  let d := s.dp ch
  if ch ≠ 0 || !d.safe then s
  else
    let s1 := s.setDp ch { d with safe := false }
    if safeTiming d.vic d.cfg then s1 else s1.trainDp ch

/-- The pipeline starts afresh: no frames, but the records of the output frames that have not ended. -/
def Picture.afresh (p : Picture) : Picture :=
  { Picture.reset with recs := p.recs, lastRow := p.lastRow, ofStart := p.ofStart, hotRows := p.hotRows }

/-- The pipeline's capture goes on under a new descriptor that lays its slots out alike; otherwise it starts
afresh (log entry 68). -/
def Picture.under (p : Picture) (old new : Option PipeDesc) : Picture :=
  if (old.map (fun d => d.bytes.take 0x20)) = (new.map (fun d => d.bytes.take 0x20)) then p
  else p.afresh

/-- TP_SWITCH (R79, R74, R75, R299): at its tick a checked program takes effect with its descriptor and COMP_READ_MAX, after
an APPLY, a gang change and a DP_APPLY of the same edge; a load whose check has not passed by then is refused. -/
def tpSwitch (ch : Fin 4) (s : State) : State :=
  let x := s.pacer ch
  match x.change with
  | .checking t _ _ _ _ => if t ≠ 0 && t ≤ s.tick ch then s.refuseLoad ch eLatency 0 0 0 else s
  | .waiting t p =>
    if s.tick ch < t || !s.atEdge ch || s.applyDue ch || s.applyDue (s.paceOf ch) || s.gangDue ch || s.dpDue ch then s
    else
      let old := x.program.bind Program.pipe
      let g := { p with start := s.tick ch, frames := 0, ofnBase := (s.obj (Obj.ofn ch) + 1) % 2 ^ 32 }
      let first := ((g.variants[variantAt g.runs 0]?).getD []).map (fun _ => SlotPhase.idle)
      let s1 := s.setPacer ch { x with program := some g, change := .none, slots := first }
      let s2 := s1.setPicture ch ({ (s.picture ch) with lastRow := s.tick ch }.under old g.pipe)
      let s3 := ((s2.setObj (Obj.tpStatus ch) (tpStatus 0 3 0 0 0)).setOct (Obj.tpDigest ch) g.digest).setObj (Obj.tpLatency ch) g.latency
      let s4 := (s3.setObj (Obj.class0Floor ch) g.floorOpp).ended (Obj.tpLoad ch) 0 2
      let s5 := ({ s4 with observe := s4.observe.mod ch (fun o => { o with stage := [] }) } : State).closeReport ch
      let kind := (g.pipe.map PipeDesc.srcKind).getD 2
      let s6 := if kind = 2 || (s5.picture ch).newest.isNone then s5.setInput ch 0 else s5
      let s7 := (s6.setComp ch { s6.comp ch with readMax := (s6.comp ch).readNext }).endSafe ch
      if (s7.outBy.get ch).isSome then s7 else s7.setSvc ch (s7.runService ch g.pipe)
  | _ => s

/-- TP_SWITCH (R79). -/
def execTpSwitch (ch : Fin 4) (s : State) : Out := clocked s (tpSwitch ch)

/-- A unit whose owner set is one no longer, because its gang has been dissolved or changed, passes to the owner set of its
lowest channel as R30 gives for a change of attachment (log entry 88). -/
def State.rehome (s : State) : State :=
  forEach [0, 1] (fun s i =>
    let heir (o : Nat) : Nat := chansMask (s.ownerSet ((maskChans o).headD 0))
    let a := s.obj (Obj.attachOwner i)
    let s1 := if s.isOwner a then s
      else (forEach (maskChans a) (fun s m => s.setPicture m { s.picture m with capturing := none }) s).setObj (Obj.attachOwner i) (heir a)
    let b := s1.obj (Obj.klAttachOwner i)
    if s1.isOwner b then s1
    else (s1.setObj (Obj.klAttachOwner i) (heir b)).setLink i { s1.link i with windows := [], batons := [], pending := none }) s

/-- The program of a channel ends (R81). -/
def State.endProgram (s : State) (ch : Fin 4) : State :=
  let s1 := s.setPacer ch { s.pacer ch with program := none, change := .none, slots := [] }
  let x := s1.picture ch
  let s2 := s1.setPicture ch x.afresh
  let s3 := ((s2.setObj (Obj.tpStatus ch) 0).setOct (Obj.tpDigest ch) []).setObj (Obj.tpLatency ch) 0
  ((s3.setObj (Obj.class0Floor ch) 0).setInput ch 0).setSvc ch .offline

/-- TP_UNLOAD_EFFECT (R81): the program ends, and a leader's gang with it. -/
def tpUnloaded (ch : Fin 4) (s : State) : State :=
  match (s.pacer ch).change with
  | .unload t =>
    if s.tick ch < t || !s.atEdge ch || s.gangDue ch then s
    else
      let s1 := (s.endProgram ch).ended (Obj.tpUnload ch) 0 2
      ({ s1 with gangs := s1.gangs.set ch { s1.gangs.get ch with ctrl := 0 } } : State).rehome
  | _ => s

/-- TP_UNLOAD_EFFECT (R81). -/
def execTpUnloadEffect (ch : Fin 4) (s : State) : Out := clocked s (tpUnloaded ch)

/-! ## Gangs (R35 to R37, R197) -/

/-- A GANG_CTRL word a leader may hold (R35, R36, R197). -/
def gangCtrlOk (leader : Fin 4) (v : Nat) : Bool :=
  let st := bits v 31 30
  let g := if st = 1 then 2 else 4
  let h := bits v 29 17
  bits v 3 0 = 0 && st ≠ 3 && (st ≠ 2 || leader = 0) && (leader = 0 || leader = 2) &&
  (st = 0 || (h % g = 0 && h / g % 8 = 0 && h / g ≤ 2160 && bits v 16 4 ≤ 7680))

/-- A Pacer follows channel `l`, and no accepted APPLY ends it (R37, R58). -/
def State.followsOn (s : State) (m l : Fin 4) : Bool :=
  (s.pacer m).following && s.paceOf m = l && followOf m (s.cfgNext m) = l

/-- GANG_CTRL and GANG_APPLY in the range of channel 1 or 3 (R197). -/
def strayGang (index sub : Nat) : Bool := (index = 0x3610 || index = 0x3E10) && (sub = 1 || sub = 2)

/-- The answer to a write of GANG_CTRL or GANG_APPLY in the range of channel 1 or 3 (R197): out of range, unless the gate
refuses the requester the leader's object. -/
def State.strayCode (s : State) (who : Req) (index sub : Nat) : Nat :=
  let c := s.gate who (index - 0x400) sub
  if c = rcOk then rcRange else c

/-- GANG_APPLY (R35, R37, R42, R197): the staged arrangement is checked and accepted for tick T. One accepted while another
waits takes its place (DESIGN CHOICE, log entry 127). -/
def opGangApply (who : Req) (ch : Fin 4) (t : Nat) (s : State) : State :=
  let k := Obj.gangApply ch
  if ch.val % 2 = 1 then s.answer (s.strayCode who (0x3210 + 0x400 * ch) 2)
  else s.mirrored k (toLE 8 t) (if t = 0 then s.tick ch + 1 + s.relay ch else t) fun s => s.command who k (fun s =>
    let v := s.obj (Obj.gangCtrl ch)
    let set := gangSet ch v
    let o : Fin 4 := if ch = 0 then 2 else 0
    let other := gangSet o (s.ctrlAt o t) ++ gangSet o (((s.gangs.get o).pending.map (·.2)).getD 0)
    let follow := set.all (fun m => m = ch || s.followsOn m ch)
    let led := s.paceOf ch = ch && followOf ch (s.cfgNext ch) = ch
    if !gangCtrlOk ch v || set.any (fun m => other.contains m) || !follow || (set ≠ [] && !led) || !s.ahead ch t then s.refuse k rcRange
    else if 2 ≤ (set.filter s.goingOut).length then s.refuse k rcBusy
    else ({ s with gangs := s.gangs.set ch { s.gangs.get ch with pending := some (t, v) } } : State).accept k)

/-- GANG_APPLY (R197). -/
def execGangApply (who : Req) (ch : Fin 4) (t : Nat) (s : State) : Out := clocked s (opGangApply who ch t)

/-- A channel has a program for tick `t` (R197): waiting for it, or just started in it; in a gang one with
FLAGS.GANG. -/
def State.programAt (s : State) (ch : Fin 4) (t : Nat) (gang : Bool) : Bool :=
  match (s.pacer ch).change, (s.pacer ch).program with
  | .waiting u p, _ => u = t && (!gang || bit p.flags 1)
  | _, some p => p.start = t && (!gang || bit p.flags 1)
  | _, none => false

/-- GANG_CHANGE (R35, R37, R197): at tick T the arrangement changes if every member of the old and new sets has its
program and the new set is a gang that can be: its members then take the leader's OFN (log entry 111), and their capture starts
afresh, for their rows change (log entry 68). Otherwise it stays, and GANG_STATUS records the channel that lacks one. The
specification names no code for it: a free value. -/
def gangChange (ch : Fin 4) (s : State) : State :=
  let g := s.gangs.get ch
  match g.pending with
  | none => s
  | some (t, v) =>
    if s.tick ch < t || s.applyDue ch then s
    else
      let new := gangSet ch v
      let old := gangSet ch g.ctrl
      let s1 := { s with gangs := s.gangs.set ch { g with pending := none } }
      let o : Fin 4 := if ch = 0 then 2 else 0
      let bars (m : Fin 4) : Bool := new.contains m && ((gangSet o (s.gangs.get o).ctrl).contains m || (m ≠ ch && s.paceOf m ≠ ch))
      match (chans.filter (fun m => new.contains m || old.contains m)).find? (fun m => !s.programAt m t (new.contains m) || bars m) with
      | none =>
        let s2 := ({ s1 with gangs := s1.gangs.set ch { ctrl := v, pending := none } } : State).setObj (Obj.gangStatus ch) 0
        ((forEach new (fun s m => (s.setPicture m (s.picture m).afresh).setObj (Obj.ofn m) (s2.obj (Obj.ofn ch))) s2).rehome).ended
          (Obj.gangApply ch) 0 2
      | some m =>
        let (x, s2) := s1.free64
        let code := x.toNat % 65536
        ((s2.setObj (Obj.gangStatus ch) (code * 65536 + m.val)).setCmd (Obj.gangApply ch) code 3).attnState ch (Obj.gangStatus ch)

/-- GANG_CHANGE (R197). -/
def execGangChange (ch : Fin 4) (s : State) : Out := clocked s (gangChange ch)

end Sys2Proof.Machine
end

