-- ==== Sys2Proof/Machine/Links.lean ====
section
/-! DEFINITION. Kister Link ports, link windows and exported batons (R416 to R426), the SYNC chain and the start
line (R427 to R432), attachment of inputs and ports (R28 to R30). -/

namespace Sys2Proof.Machine

/-- The number of a port. -/
def KlPort.num : Sys2Proof.KlPort → Nat
  | .kl0 => 0
  | .kl1 => 1

def eDigest : Nat := 0x0B02
def ePairCheck : Nat := 0x0B03

/-! ## Ports going down and up (R418, R419, R426) -/

/-- A port goes DOWN (R418, R426): the publications it receives are closed, those it owes an acknowledgement fail
with E_LINK_DOWN, and an active or joining pair on KL0 is SOLO (R442). -/
def State.portDown (s : State) (p : Nat) : State :=
  let s1 := (s.setObj (Obj.klState p) 4).setLink p { s.link p with rxPubs := [], fails := 0 }
  let fails (e : Nat × Pub) : Nat × Pub :=
    if e.2.peer.any (fun x => x.1 = p) then (e.1, { e.2 with peer := e.2.peer.filter (fun x => x.1 ≠ p), failed := eLinkDown }) else e
  let s2 : State := { s1 with pubs := s1.pubs.map fails,
                              runs := s1.runs.map (fun e => (e.1, { e.2 with peerOpen := e.2.peerOpen.map (fun x => (x.1, x.2 && x.1 ≠ p)) })) }
  let s3 := (s2.bump (Obj.klDownEvents p) 1 32).releaseLoads
  let s4 := s3.attn atCount noCh (Obj.klDownEvents p) (s3.obj (Obj.klDownEvents p))
  if p ≠ 0 then s4
  else
    let s5 : State := { s4 with pair := { s4.pair with swap := none, joining := false, downAt := some (s4.tick ((maskChans (bits (s4.obj Obj.pairCtrl) 25 22)).headD 0)) } }
    if s5.obj Obj.pairRole = 1 then s5.setObj Obj.pairState 4 else s5

/-- KL_FLIT_TIMEOUT (R418): no flit has arrived for 1 µs. -/
def execKlFlitTimeout (p : KlPort) (s : State) : Out :=
  clocked s (fun s => if s.portUp (KlPort.num p) then s.portDown (KlPort.num p) else s)

/-- KL_TRAINING_DONE (R419): 16 lanes, or 8 where a lane of 8 to 15 fails and DEGRADE allows it; otherwise the
port goes on training. A trained port sends IDENT. -/
def execKlTrainingDone (p : KlPort) (lanes8ok : Bool) (ok : Bool) (s : State) : Out :=
  clocked s fun s =>
    let n := KlPort.num p
    if s.obj (Obj.klState n) ≠ 1 || !ok || !s.linkReady (6 + n) || (!lanes8ok && !bit (s.obj (Obj.klCtrl n)) 29) then s
    else
      let s1 := (s.setObj (Obj.klState n) (if lanes8ok then 2 else 3)).setLink n
        { KlLink.reset with windows := (s.link n).windows, batons := (s.link n).batons, pending := (s.link n).pending }
      s1.sendKl n { type := 7, vc := 0, cls := 0, arg := 0, arg64 := 0,
                    data := (s.oct Obj.idDigest 32).take 12 ++ toLE 1 (s.obj Obj.deviceIndex) ++ toLE 1 n ++ toLE 2 0 }

/-- A write of KL_CTRL (R418, R419, R450): EN trains a port that is OFF or DOWN, on a domain that is attached; without
EN it is OFF, and the peer sees it go down. -/
def State.klCtrlSet (s : State) (n v : Nat) : State :=
  let s1 := s.setObj (Obj.klCtrl n) v
  let st := s.obj (Obj.klState n)
  if bit v 31 then
    (if (st = 0 || st = 4) && s.portSet n ≠ [] then s1.setObj (Obj.klState n) 1 else s1).lateRelease
  else
    let s2 := if bit (s.obj (Obj.klCtrl n)) 31 then s1.lingers [10 + n] else s1
    if st = 6 then s2 else (if s.portUp n then s2.portDown n else s2).setObj (Obj.klState n) 0

/-! ## Messages of the peer (R417, R423 to R425) -/

/-- IDENT (R419, R420): the peer's identity; one that is wired to another place makes the port MISWIRED. -/
def ident (n : Nat) (digest : List Byte) (index port : Nat) (s : State) : State :=
  if !s.portUp n then s
  else
    let s1 := s.setOct (Obj.klPeer n) (slice digest 0 12 ++ toLE 1 index ++ toLE 1 port ++ toLE 2 0)
    let want := xor2 (s.obj Obj.deviceIndex) (if n = 0 then 1 else 2)
    if index = want && port = n then s1 else s1.setState noCh (Obj.klState n) 5

/-- IDENT (R419). -/
def execIdent (p : KlPort) (digest : List (BitVec 8)) (index port : Nat) (s : State) : Out :=
  clocked s (ident (KlPort.num p) digest index port)

/-- A line lies in an enabled IMPORT window of a port (R422, R424). -/
def importsLine (tbl : List Byte) (a : Nat) : Bool :=
  (upto 16).any (fun i => let (l, _, n, fl) := winEntry tbl i; fl % 4 = 3 && l ≤ a && a + 64 ≤ l + n)

/-- The bytes of a line that a mask selects, written at device address `a`. -/
def State.writeMasked (s : State) (cls a mask : Nat) (data : List Byte) : State :=
  if devEnd < a + 64 || !s.memUp (chanOf a) then s
  else (((data.take 64).zipIdx.foldl (fun s p => if bit mask p.2 then s.write (a + p.2) [p.1] else s) s).pruneTags).hubLines cls a 64 true

/-- A relayed line lands in the memory of a channel of KL0's owner set (R421), with the halo rows of a member's neighbour
that is out without cover (R41), on a standby whose pair relays its source (R437). -/
def State.relayedLine (s : State) (a mask : Nat) (data : List Byte) : State :=
  let s1 := s.writeMasked 0 a mask data
  forEach (s1.portSet 0) (fun s m => match s.pipe m, (s.picture m).newest with
    | some d, some k => if s.inPair m then (s.setPicture m { s.picture m with lastRow := s.tick m }).repeatEdges m d k else s
    | _, _ => s) s1

/-- LINE_WRITE (R421, R423, R424, R437): a line inside an IMPORT window lands; another is dropped and counted, with
attention once for its publication. -/
def lineWrite (n tag addr mask : Nat) (data : List Byte) (relay : Bool) (s : State) : State :=
  if !s.portUp n then s
  else
    let a := addr / 64 * 64
    let fed := relay && n = 0 && s.obj Obj.pairRole = 2 && bit (s.obj Obj.pairCtrl) 29 &&
      (s.portSet 0).any (fun c => c.val * 2 ^ 32 ≤ a && a < (c.val + 1) * 2 ^ 32)
    let l := s.link n
    if fed then s.relayedLine a mask data
    else if !relay && importsLine l.windows a then s.writeMasked (((l.rxPubs.find? (fun x => x.tag = tag)).map RxPub.cls).getD 0) a mask data
    else
      let s1 := s.bump (Obj.klImportDrops n) 1 32
      let seen := l.rxPubs.any (fun x => x.tag = tag && x.dropped)
      if seen then s1
      else
        let s2 := s1.setLink n { l with rxPubs := l.rxPubs.map (fun x => if x.tag = tag then { x with dropped := true } else x) }
        s2.attn atCount noCh (Obj.klImportDrops n) (s2.obj (Obj.klImportDrops n))

/-- LINE_WRITE (R423, R424). -/
def execLineWrite (p : KlPort) (tag addr : Nat) (mask : Nat) (data : List (BitVec 8)) (relay : Bool) (s : State) : Out :=
  clocked s (lineWrite (KlPort.num p) tag addr mask data relay)

/-- OPEN: the publication's filter is in force at the coherence points of the owner set's memory (R423) once each has an
entry free for it (R158). -/
def openPub (n tag cls : Nat) (data : List Byte) (s : State) : State :=
  let l := s.link n
  let f := (data.zipIdx.map (fun p => (bitsOf 8 p.1.toNat).map (fun b => 8 * p.2 + b))).flatten
  (s.setLink n { l with rxPubs := l.rxPubs.filter (fun x => x.tag ≠ tag) ++
    [{ tag := tag, filter := f, dropped := false, cls := cls, opened := false }] }).acceptRx

/-- CLOSE: the publication's lines are there, held loads go on, and CLOSE_ACK answers (R423). -/
def closePub (n tag : Nat) (s : State) : State :=
  let l := s.link n
  let s1 := (s.setLink n { l with rxPubs := l.rxPubs.filter (fun x => x.tag ≠ tag) }).releaseLoads
  s1.sendKl n { type := 3, vc := 2, cls := 0, arg := tag, arg64 := 0, data := [] }

/-- CLOSE_ACK (R423): the peer has published what was forwarded to it. -/
def closeAck (n tag : Nat) (s : State) : State :=
  { s with pubs := adjust s.pubs tag (fun x => { x with peer := x.peer.filter (fun y => y ≠ (n, tag)) }) }

/-- CLOSE_ACK (R423). -/
def execCloseAck (p : KlPort) (tag : Nat) (s : State) : Out := clocked s (closeAck (KlPort.num p) tag)

/-- An enabled IMPORT entry names local baton `b` (R425). -/
def importsBaton (tbl : List Byte) (b : Nat) : Bool :=
  (upto 64).any (fun i => let e := field tbl (4 * i) 4; bit e 31 && bit e 28 && bits e 13 0 = b)

/-- FORWARDED_BATON_SIGNAL (R425, R379): a signal of the peer, applied where an IMPORT entry names the baton and the
baton is not FREE. An error value arises at the receiving baton. -/
def peerSignal (n b v code : Nat) (s : State) : State :=
  if !s.portUp n then s
  else if !importsBaton (s.link n).batons b || (look s.batons b).isNone then s.bump (Obj.klImportDrops n) 1 32
  else (if v = errValue || code ≠ 0 then s.failBaton b code b 0 0 else s.signal b v .none noCh).settle

/-- FORWARDED_BATON_SIGNAL (R425). -/
def execForwardedBatonSignal (p : KlPort) (b v code : Nat) (s : State) : Out := clocked s (peerSignal (KlPort.num p) b v code)

/-! ## Applying window and baton tables (R422, R425) -/

/-- A window entry is well formed for an owner set (R422). -/
def winEntryOk (set : List (Fin 4)) (tbl : List Byte) (i : Nat) : Bool :=
  let (l, p, n, fl) := winEntry tbl i
  l % 4096 = 0 && p % 4096 = 0 && n % 4096 = 0 && fl < 4 && reserved tbl (32 * i + 0x1C) 4 &&
  (fl % 4 ≠ 3 || p = 0) &&
  (!bit fl 0 || (4096 ≤ n && n ≤ 2 ^ 32 && l + n ≤ devEnd && chans.all (fun c =>
    set.contains c || l + n ≤ c.val * 2 ^ 32 || (c.val + 1) * 2 ^ 32 ≤ l)))

/-- The enabled EXPORT extents of a window table. -/
def exportsOf (tbl : List Byte) : List (Nat × Nat) :=
  (upto 16).filterMap (fun i => let (l, _, n, fl) := winEntry tbl i; if fl % 4 = 1 then some (l, n) else none)

/-- Two of a list of extents overlap. -/
def overlapping : List (Nat × Nat) → Bool
  | [] => false
  | x :: t => t.any (fun y => x.1 < y.1 + y.2 && y.1 < x.1 + x.2) || overlapping t

/-- KL_APPLY (R422, R425). One accepted while another waits takes its place (DESIGN CHOICE, log entry 127). -/
def opKlApply (who : Req) (n v : Nat) (s : State) : State :=
  let k := Obj.klApply n
  s.command1 who k v (fun s =>
    let w := s.oct (Obj.klWindows n) 512
    let b := s.oct (Obj.klBatons n) 256
    let set := s.portSet n
    let other := s.link (1 - n)
    let theirs := (other.pending.map (fun x => x.2.1)).getD other.windows
    if !(upto 16).all (winEntryOk set w) || overlapping (exportsOf w ++ exportsOf theirs) || (upto 64).any (fun i => bits (field b (4 * i) 4) 30 29 ≠ 0)
    then s.refuse k rcRange
    else (s.setLink n { s.link n with pending := some (s.edgeNo (set.headD 0), w, b) }).accept k)

/-- KL_APPLY (R422). -/
def execKlApply (who : Req) (p : KlPort) (v : Nat) (s : State) : Out := clocked s (opKlApply who (KlPort.num p) v)

/-- KL_TABLE_EFFECT (R422): at the owner set's next edge the tables are in force. -/
def klTableEffect (n : Nat) (s : State) : State :=
  let l := s.link n
  match l.pending with
  | none => s
  | some (t, w, b) =>
    if s.edgeNo ((s.portSet n).headD 0) ≤ t || !(s.portSet n).all s.atEdge then s
    else (s.setLink n { l with windows := w, batons := b, pending := none }).ended (Obj.klApply n) 0 2

/-- KL_TABLE_EFFECT (R422). -/
def execKlTableEffect (p : KlPort) (s : State) : Out := clocked s (klTableEffect (KlPort.num p))

/-! ## The SYNC chain (R427 to R432) -/

def syncRole (c : Nat) : Nat := bits c 31 30
def syncLead (c : Nat) : Nat := bits c 29 22
def syncComp (c : Nat) : Nat := bits c 21 14
def syncCount (c : Nat) : Nat := bits c 13 11

/-- The mark a pulse of a width is (R427): 4 TICK, 8 ARM, 12 START. -/
def markOf (width : Nat) : Option Nat := [4, 8, 12].find? (fun w => w ≤ width + 1 && width ≤ w + 1)

/-- SYNC_MARK (R427, R428, R430, R431): a mark arrives on SYNC_IN. A follower forwards it 6 cycles later and has
its edge placed; the head measures the loop and learns that every follower is armed. -/
def execSyncMark (width : Nat) (now : Nat) (s : State) : Out :=
  clocked s fun s =>
    match markOf width with
    | none => s.bump Obj.syncErrors 1 32
    | some w =>
      let c := s.obj Obj.syncCtrl
      let y := s.sync
      let t := max s.now now
      if syncRole c = 2 then
        let w' := if w = 8 && s.obj Obj.startArm = 0 then 4 else w
        { s.at now with sync := { y with mark := some (t, t + syncComp c), out := some (t + 6, w'), start := y.start || w = 12 } }
      else if syncRole c = 1 then
        let s1 := { s.at now with sync := { y with armed := y.armed || (y.run && w = 8) } }
        match y.sent with
        | none => s1
        | some u => s1.setObj Obj.syncLoop ((t - u) % 65536)
      else s

/-- SYNC_MARK_SEND (R428, R431): the head sends a mark SYNC_LEAD cycles before its PACER0 edge, with the ARM flag
while a start line waits for it to come back, and then START. -/
def execSyncMarkSend (now : Nat) (s : State) : Out :=
  clocked s fun s =>
    let c := s.obj Obj.syncCtrl
    let p := s.pacer 0
    let y := s.sync
    if syncRole c ≠ 1 || now < s.now || now + syncLead c ≠ p.edge + p.len then s
    else
      let go := y.run && y.armed
      let w := if go then 12 else if y.run then 8 else 4
      { s.at now with sync := { y with sent := some now, out := some (now, w), run := y.run && !go, armed := y.armed && !go, start := y.start || go } }

/-- SYNC_MARK_TIMEOUT (R429, R432): no mark for 4 tick periods: a follower's PACER0 goes to HOLD. -/
def execSyncMarkTimeout (s : State) : Out :=
  clocked s fun s => if ctrlLockSrc (s.pacer 0).cfg.ctrl = 4 then lockLost 0 s else s

/-- A write of SYNC_CTRL (R428, R430, R431); its reserved bits are ignored (R22). -/
def opSyncRole (who : Req) (w : Nat) (s : State) : State :=
  s.command who Obj.syncCtrl (fun s =>
    let v := bits w 31 11 * 2 ^ 11
    if syncRole v = 3 || syncLead v < 16 || syncCount v < 2 || 4 < syncCount v then s.answer rcRange
    else
      let was := syncRole (s.obj Obj.syncCtrl)
      let new := syncRole v
      let s1 := s.setObj Obj.syncCtrl v
      let s2 := if was ≠ new && (was = 1 || new = 1) then s1.setObj Obj.startValid 0 else s1
      let s3 := if was ≠ new then
          ({ s2 with sync := { sent := none, out := none, mark := none, run := false, armed := false, start := false } } : State).setObj Obj.syncLoop 0
        else s2
      s3.answer rcOk)

/-- SYNC_ROLE_WRITE (R428, R432). -/
def execSyncRoleWrite (who : Req) (v : Nat) (s : State) : Out := clocked s (opSyncRole who v)

/-- START_LINE (R431): on the head, 1 starts a start line and 0 cancels one that has not sent START. -/
def opStartLine (who : Req) (v : Nat) (s : State) : State :=
  let k := Obj.startLine
  s.command who k (fun s =>
    if 1 < v || syncRole (s.obj Obj.syncCtrl) ≠ 1 then s.refuse k rcRange
    else if v = 1 then ({ s with sync := { s.sync with run := true, armed := false } } : State).accept k
    else ({ s with sync := { s.sync with run := false, armed := false } } : State).done k)

/-- START_LINE (R431). -/
def execStartLine (who : Req) (v : Nat) (s : State) : Out := clocked s (opStartLine who v)

/-- START_LINE_EDGE (R431): at the edge that the START mark placed, the tick number is latched. -/
def startEdge (s : State) : State :=
  if !s.startDue then s
  else
    let s1 : State := { s with sync := { s.sync with start := false } }
    let s2 := ((s1.setObj Obj.startLatch (s.tick 0)).setObj Obj.startValid 1).setObj Obj.startArm 0
    let s3 := s2.attnState noCh Obj.startLatch
    if syncRole (s.obj Obj.syncCtrl) = 1 then s3.ended Obj.startLine 0 2 else s3

/-- START_LINE_EDGE (R431). -/
def execStartLineEdge (s : State) : Out := clocked s startEdge

/-! ## Attachment (R28 to R30) -/

/-- An attachable unit: its number, whether it is a port, its objects and its UNIT_ID. -/
structure Attach where
  i     : Nat
  port  : Bool
  slot  : Fin 4
  next  : Nat
  apply : Nat
  owner : Nat
  unit  : Nat
  deriving DecidableEq, Repr

/-- The objects of an attachable unit (R30, R300, R450). -/
def attachOf : Sys2Proof.AttachUnit → Attach
  | .dpin0 => ⟨0, false, 0, Obj.attachTo 0, Obj.attachApply 0, Obj.attachOwner 0, dpinId 0⟩
  | .dpin1 => ⟨1, false, 1, Obj.attachTo 1, Obj.attachApply 1, Obj.attachOwner 1, dpinId 1⟩
  | .kl0 => ⟨0, true, 2, Obj.klAttachTo 0, Obj.klAttachApply 0, Obj.klAttachOwner 0, klId 0⟩
  | .kl1 => ⟨1, true, 3, Obj.klAttachTo 1, Obj.klAttachApply 1, Obj.klAttachOwner 1, klId 1⟩

/-- A gang that is the arrangement in force at tick `t`, already or by an accepted GANG_APPLY (R30). -/
def State.gangAt (s : State) (t : Nat) (set : List (Fin 4)) : Bool :=
  [0, 2].any (fun l => set ≠ [] && gangSet l (s.ctrlAt l t) = set)

/-- A unit of a channel's set is under self-test (R496): TEST_STATUS names it as pending or running. -/
def State.underTest (s : State) (a : Attach) : Bool :=
  let target := (if a.port then 0x70 else 0x60) + a.i
  chans.any (fun c => (s.chPend.get c).test.any (fun x => x.2 = target) ||
    (bits (s.obj (Obj.testStatus c)) 15 12 = 2 && s.obj (Obj.testStatus c) % 256 = target))

/-- ATTACH_APPLY (R30): the staged owner set is checked and accepted for tick T of the Pacer its sets run on. One accepted
while another waits takes its place: tick and set are then the later ones (DESIGN CHOICE, log entry 127). -/
def opAttachApply (who : Req) (u : AttachUnit) (t : Nat) (s : State) : State :=
  let a := attachOf u
  s.command who a.apply (fun s =>
    let v := s.obj a.next
    let new := maskChans v
    let sets := maskChans (s.obj a.owner) ++ new
    let root := s.rootOf sets
    if 16 ≤ v || !(v = 0 || new.length = 1 || s.gangAt t new) || !sets.all (fun c => s.paceOf c = root) || t < s.tick root + 2
    then s.refuse a.apply rcRange
    else if s.underTest a || (s.unitImage a.unit).apply.isSome || (u = .kl0 && bits (s.obj Obj.pairCtrl) 31 30 ≠ 0)
    then s.refuse a.apply rcBusy
    else ({ s with attach := s.attach.set a.slot (some (t, v)) } : State).accept a.apply)

/-- ATTACH_APPLY (R30). -/
def execAttachApply (who : Req) (u : AttachUnit) (t : Nat) (s : State) : Out := clocked s (opAttachApply who u t)

/-- A video input passes to a new owner set (R30): the frame being captured is not completed, and an input
attached to no channel withdraws HPD. -/
def State.passInput (s : State) (i v : Nat) : State :=
  let old := s.inputSet i
  let s1 := forEach old (fun s m => s.setPicture m { s.picture m with capturing := none }) s
  let s2 := s1.setObj (Obj.attachOwner i) v
  let s1 := if s.dpinOn i then s1.lingers [8 + i] else s1
  if v = 0 then (s1.dropInput i (if s1.obj (Obj.dpinState i) = 4 then 4 else 0)).setObj (Obj.attachOwner i) 0
  else if s2.dpinOn i && s2.obj (Obj.dpinState i) = 0 then s2.setObj (Obj.dpinState i) 1 else s2

/-- A port passes to a new owner set (R30): its link stays and its tables are disabled; attached to no channel it
leaves its lanes idle. -/
def State.passPort (s : State) (i v : Nat) : State :=
  let s1 := (s.setObj (Obj.klAttachOwner i) v).setLink i { s.link i with windows := [], batons := [], pending := none }
  let s1 := if v = 0 && bit (s1.obj (Obj.klCtrl i)) 31 then s1.lingers [10 + i] else s1
  if v = 0 then (if s1.portUp i then s1.portDown i else s1).setObj (Obj.klState i) (if s1.obj (Obj.klState i) = 6 then 6 else 0)
  else if bit (s1.obj (Obj.klCtrl i)) 31 && s1.obj (Obj.klState i) = 0 then s1.setObj (Obj.klState i) 1 else s1

/-- ATTACH_EFFECT (R28, R30): at the edge of tick T, once the APPLYs and gang changes of that edge have been taken. A set that
is no owner set then, because its gang has not formed, or that shares no edge with the old one any longer, because an
APPLY has taken a Pacer out of the common one, leaves the unit where it is (log entry 88). -/
def attachEffect (u : AttachUnit) (s : State) : State :=
  let a := attachOf u
  match s.attach.get a.slot with
  | none => s
  | some (t, v) =>
    let sets := maskChans (s.obj a.owner) ++ maskChans v
    let shared := s.oneEdge sets
    if s.tick (s.rootOf sets) < t || sets.any s.gangDue || sets.any s.applyDue || (shared && !sets.all s.atEdge) then s
    else
      let s1 := { s with attach := s.attach.set a.slot none }
      if !s.isOwner v || !shared then s1.ended a.apply 0 3
      else ((if a.port then s1.passPort a.i v else s1.passInput a.i v).lateRelease).ended a.apply 0 2

/-- ATTACH_EFFECT (R30). -/
def execAttachEffect (u : AttachUnit) (s : State) : Out := clocked s (attachEffect u)

end Sys2Proof.Machine
end

