-- ==== Sys2Proof/Machine/Twins.lean ====
section
/-! DEFINITION. Twin pairs: joining, the Relay stream, applying relayed decisions, promotion and swap (R433 to
R445); result digests (R447) and the replay log's control (R448). -/

namespace Sys2Proof.Machine

/-- The channels of CH_MASK. -/
def State.pairMask (s : State) : List (Fin 4) := maskChans (bits (s.obj Obj.pairCtrl) 25 22)

/-- A write of PAIR_CTRL (R434): RELAY_TICKS 2 to 4, REQ_ROLE not 3, CONVERGE_FRAMES 1 to 255, reserved bits 0.
REQ_ROLE 0 leaves the pair. -/
def State.pairCtrlSet (s : State) (v : Nat) : State :=
  let r := bits v 28 26
  if r < 2 || 4 < r || bits v 31 30 = 3 || bits v 21 14 = 0 || bits v 13 0 ≠ 0 then s.answer rcRange
  else
    let s1 := s.setObj Obj.pairCtrl v
    (if bits v 31 30 ≠ 0 then s1
     else (({ s1 with pair := { State.reset.pair with waits := s1.pair.waits } } : State).setObj Obj.pairRole 0).setObj Obj.pairState 0).answer rcOk

/-! ## Joining (R434) -/

/-- What a join compares of one channel (R434). -/
def State.pairChan (s : State) (ch : Fin 4) : PairChan :=
  let o (k : Nat) : Nat := s.obj k
  { digest := s.oct (Obj.tpDigest ch) 32, period := o (Obj.pacerPeriod ch), pipe := ((s.pipe ch).map PipeDesc.bytes).getD [],
    timing := [o (Obj.dpHactive ch), o (Obj.dpHfront ch), o (Obj.dpHsync ch), o (Obj.dpHback ch), o (Obj.dpVactive ch), o (Obj.dpVfront ch),
      o (Obj.dpVsync ch), o (Obj.dpVback ch), o (Obj.dpLineTicks ch), o (Obj.dscSlices ch), o (Obj.dscBpp ch)],
    dpCtrl := o (Obj.dpCtrl ch), pairId := o (Obj.pairId ch), start := (s.pacer ch).program.map Program.start }

/-- A device of a pair as the other sees it in a join (R434). -/
def State.pairView (s : State) : PairView :=
  { up := s.portUp 0, valid := s.obj Obj.startValid = 1, latch := s.obj Obj.startLatch, chans := chans.map s.pairChan }

/-- PEER_OFFSET of a pair: the standby's START_LATCH minus the active's (R434). -/
def offsetOf (standby active : PairView) : Nat := (standby.latch + 2 ^ 64 - active.latch % 2 ^ 64) % 2 ^ 64

/-- Two devices agree on a channel (R434, check 3): equal in everything compared but where the program frames fall, with
MARKER_EN. -/
def chanAgrees (a b : PairChan) : Bool := { a with start := none } == { b with start := none } && bit a.dpCtrl 9

/-- Program frame boundaries fall at equal edges (R434, check 4): the active's, plus PEER_OFFSET, are the standby's. -/
def framesMeet (frameTicks : Nat) (standby active : PairView) (s a : PairChan) : Bool :=
  match s.start, a.start with
  | some u, some t => ((t : Int) + ((standby.latch : Int) - (active.latch : Int)) - (u : Int)) % ((max frameTicks 1 : Nat) : Int) = 0
  | none, none => true
  | _, _ => false

/-- The check of R434 that fails, the least one, 0 for none: KL0 UP (1) and START_VALID (2) on both devices, the channels
equal (3) with their program frames at equal edges (4), RELAY_TICKS long enough and every LEAD above it (5), LATE_SLACK with
SOURCE_MODE RELAY (6). -/
def State.joinFails (s : State) (peer : PairView) (isStandby : Bool) : Nat :=
  let r := s.relayTicks
  let mine := s.pairView
  let pipes := s.pairMask.filterMap s.pipe
  let both (c : Fin 4) (f : PairChan → PairChan → Bool) : Bool := match peer.chans[c.val]? with
    | some x => f (s.pairChan c) x
    | none => false
  let ticks (c : Fin 4) : Nat := ((s.pacer c).program.map Program.frameTicks).getD 1
  let meet (c : Fin 4) (x y : PairChan) : Bool :=
    if isStandby then framesMeet (ticks c) mine peer x y else framesMeet (ticks c) peer mine y x
  if !mine.up || !peer.up then 1
  else if !mine.valid || !peer.valid then 2
  else if !s.pairMask.all (fun c => both c chanAgrees) then 3
  else if !s.pairMask.all (fun c => both c (meet c)) then 4
  else if s.pairMask.any (fun c => (r - 1) * s.lChk c < 1600) || pipes.any (fun d => (upto d.ofCount).any (fun e => d.lead e ≤ r)) then 5
  else if bit (s.obj Obj.pairCtrl) 29 && pipes.any (fun d => d.slack < r) then 6
  else 0

/-- What a dictionary request that joins a pair does not carry: the other device as a free value (log entry 37). -/
def State.freePeer (s : State) : PairView :=
  let f := Config.figure s.fresh 0
  let c (i : Nat) : PairChan :=
    let g := Config.figure s.fresh (i + 1)
    { digest := toLE 32 (g 0), period := g 1, pipe := toLE (g 2 % 256) (g 3), timing := (upto 11).map (fun j => g (j + 4)), dpCtrl := g 15,
      pairId := g 16, start := if g 17 % 2 = 0 then none else some (g 18) }
  { up := f 0 % 2 = 1, valid := f 1 % 2 = 1, latch := f 2, chans := (upto 4).map c }

/-- PAIR_STATUS records the failing check of a join (R434). -/
def State.joinFailed (s : State) (n : Nat) : State := s.setObj Obj.pairStatus (ePairCheck * 65536 + n % 256)

/-- PAIR_JOIN (R434): on the standby; `peer` is the active, which checks the join. -/
def opPairJoin (who : Req) (v : Nat) (peer : PairView) (s : State) : State :=
  let k := Obj.pairJoin
  s.command1 who k v (fun s =>
    if bits (s.obj Obj.pairCtrl) 31 30 ≠ 2 then s.refuse k rcRange
    else match s.joinFails peer true with
      | 0 =>
        let s1 := (s.setObj Obj.peerOffset (offsetOf s.pairView peer)).setObj Obj.pairStatus 0
        ({ s1 with pair := { s1.pair with joining := true } } : State).accept k
      | n => ((s.joinFailed n).answer rcOk).setCmd k ePairCheck 3)

/-- PAIR_JOIN (R434). -/
def execPairJoin (who : Req) (v : Nat) (peer : PairView) (s : State) : Out := clocked s (opPairJoin who v peer)

/-- Shift the frame numbers a channel keeps so that its OFN and SFN are the peer's (R434). -/
def State.takeNumbers (s : State) (ch : Fin 4) (ofn sfn : Nat) : State :=
  let w (n d : Nat) : Nat := (n + d) % 2 ^ 32
  let dO := (ofn + 2 ^ 32 - s.obj (Obj.ofn ch)) % 2 ^ 32
  let dS := (sfn + 2 ^ 32 - s.obj (Obj.sfnLast ch)) % 2 ^ 32
  let x := s.picture ch
  let s1 := s.setPicture ch { x with
    slots := x.slots.map (fun f => (f.1, { f.2 with sfn := w f.2.sfn dS })),
    recs := x.recs.map (fun r => { r with ofn := w r.ofn dO, sfnA := w r.sfnA dS, sfnB := w r.sfnB dS }),
    reals := x.reals.map (fun p => (w p.1 dO, p.2.1, w p.2.2 dS)) }
  let p := s1.pacer ch
  let own (d : Decision) : Decision :=
    if d.ch ≠ ch.val then d
    else { d with bind := d.bind.map (fun r => { r with ofn := w r.ofn dO, sfnA := w r.sfnA dS, sfnB := w r.sfnB dS }),
                  begun := d.begun.map (fun x => (w x.1 dS, x.2)) }
  let s2 : State := { s1.setPacer ch { p with program := p.program.map (fun g => { g with ofnBase := w g.ofnBase dO }) } with
                      pair := { s1.pair with own := s1.pair.own.map own } }
  (s2.setObj (Obj.ofn ch) (ofn % 2 ^ 32)).setObj (Obj.sfnLast ch) (sfn % 2 ^ 32)

/-- The pair begins to join: role, JOINING, nothing counted. The decisions this device has made go on waiting for their
applying edges. -/
def State.startJoin (s : State) (role : Nat) : State :=
  let s1 := ({ s with pair := { s.pair with heard := [], swapped := none, mirrors := [], swap := none, frames := 0, clean := false, joining := false, promoted := none, downAt := none } } : State)
  (s1.setObj Obj.pairRole role).setObj Obj.pairState 1

/-- PAIR_JOIN_EFFECT (R434): at the active's next output frame start the standby is JOINING, with the active's OFN
and SFN of each channel, `numbers`. The active, whose `peer` asked to join, makes the checks; a failing one is recorded, and
otherwise PEER_OFFSET is fixed and the same frame start makes it ACTIVE and JOINING. -/
def pairJoinEffect (peer : PairView) (numbers : List (Nat × Nat)) (s : State) : State :=
  let want := bits (s.obj Obj.pairCtrl) 31 30
  let lead := s.pairMask.headD 0
  let fails := if want = 1 then s.joinFails peer false else 0
  if fails ≠ 0 then s.joinFailed fails
  else if !s.portUp 0 || !s.startsAt lead (s.tick lead) then s
  else if want = 2 && s.pair.joining then
    ((forEach s.pairMask (fun s m => match numbers[m.val]? with
        | some (ofn, sfn) => s.takeNumbers m ofn sfn
        | none => s) s).startJoin 2).ended Obj.pairJoin 0 2
  else if want = 1 then ((s.setObj Obj.peerOffset (offsetOf peer s.pairView)).setObj Obj.pairStatus 0).startJoin 1
  else s

/-- PAIR_JOIN_EFFECT (R434). -/
def execPairJoinEffect (peer : PairView) (numbers : List (Nat × Nat)) (s : State) : Out := clocked s (pairJoinEffect peer numbers)

/-! ## The Relay stream (R435, R436) -/

/-- The 64 bytes of a datum record (R435). -/
def datumBytes (d : Decision) (mirror : Bool) : List Byte :=
  let flag (b : Bool) (v : Nat) : Nat := if b then v else 0
  let r := d.bind
  let b (f : FrameRec → Nat) : Nat := (r.map f).getD 0
  let head := toLE 2 0x4454 ++ toLE 1 d.ch ++
    toLE 1 (flag d.begun.isSome 1 + flag r.isSome 2 + flag d.snap.isSome 4 + flag d.subst.isSome 8 + flag mirror 16) ++
    toLE 4 d.ofn ++ toLE 8 d.tick ++ toLE 4 ((d.begun.map (·.1)).getD 0) ++ toLE 1 (b FrameRec.kind) ++
    toLE 1 (b (fun x => (if x.again then 1 else 0) + (if x.mute then 2 else 0))) ++ toLE 2 ((d.subst.map (·.1)).getD 0) ++
    toLE 4 (b FrameRec.sfnA) ++ toLE 4 (b FrameRec.sfnB) ++ toLE 4 (b FrameRec.cut) ++ toLE 4 ((d.subst.map (·.2)).getD 0) ++
    toLE 8 ((d.snap.map (·.1)).getD 0) ++ toLE 4 ((d.snap.map (·.2)).getD 0) ++ toLE 4 d.seg ++ toLE 1 d.input ++
    toLE 1 ((d.begun.map (·.2)).getD 0) ++ toLE 2 0
  head ++ toLE 4 (crc32 head).toNat

/-- A datum record of magic, CRC and size as R435 gives them, as the decisions of the standby's tick. -/
def readDatum (b : List Byte) (offset : Nat) : Option Decision :=
  let f := field b
  let fl := f 3 1
  if b.length ≠ 64 || f 0 2 ≠ 0x4454 || f 0x3C 4 ≠ (crc32 (slice b 0 0x3C)).toNat || 3 < f 2 1 then none
  else
    let r : FrameRec := { ofn := 0, kind := f 0x14 1, slotA := 0, slotB := 0, sfnA := f 0x18 4, sfnB := f 0x1C 4,
                          again := bit (f 0x15 1) 0, mute := bit (f 0x15 1) 1, cut := f 0x20 4, tick := 0 }
    some { ch := f 2 1, tick := (f 8 8 + offset) % 2 ^ 64, ofn := f 4 4,
           begun := if bit fl 0 then some (f 0x10 4, f 0x39 1) else none,
           bind := if bit fl 1 then some r else none,
           snap := if bit fl 2 then some (f 0x28 8, f 0x30 4) else none,
           subst := if bit fl 3 then some (f 0x16 2, f 0x24 4) else none,
           seg := f 0x34 4, input := f 0x38 1, shadow := false }

/-- DATUM (R435, R436, R441, R443, R445): the record of the active's tick waits for its applying edge; one that comes after it
is discarded and counted. A device that is active, by promotion or a swap, applies only those of ticks before its swap. -/
def datum (b : List Byte) (s : State) : State :=
  if !s.portUp 0 || s.obj Obj.pairRole = 0 then s
  else match readDatum b (s.obj Obj.peerOffset) with
    | none => s
    | some d =>
      let c := toCh d.ch
      if !s.inPair d.ch || !(s.portSet 0).contains c then s
      else if d.tick + s.relayTicks ≤ s.tick c then s.bump Obj.lateDatums 1 32
      else if s.obj Obj.pairRole ≠ 2 && !s.pair.swapped.any (fun t => d.tick < t) then s
      else { s with pair := { s.pair with heard := s.pair.heard ++ [d] } }

/-- DATUM (R436). -/
def execDatum (bytes : List (BitVec 8)) (s : State) : Out := clocked s (datum bytes)

/-- At a tick edge a device of a pair closes the decisions of the tick that has ended: it notes OFN, the CRC of its
segment, 0 where it has none, and the input state, and the active sends them for a channel of KL0's owner set (R421), with
the mirror messages of the tick after them (R435). Called while the channel is still in that tick. -/
def State.sendDatum (s : State) (ch : Fin 4) : State :=
  if !s.inPair ch || s.obj Obj.pairRole = 0 then s
  else
    let t := s.tick ch
    let s1 := s.decide ch (fun d => { d with ofn := s.obj (Obj.ofn ch), seg := if (s.comp ch).seg.isSome then (s.comp ch).segCrc else 0, input := s.obj (Obj.inputState ch) })
    let ms := (s1.pair.mirrors.filter (fun m => m.1 = ch.val)).map (·.2)
    let s2 : State := { s1 with pair := { s1.pair with mirrors := s1.pair.mirrors.filter (fun m => m.1 ≠ ch.val) } }
    if s.obj Obj.pairRole ≠ 1 || !s.portUp 0 || !(s.portSet 0).contains ch then s2
    else
      match s2.pair.own.find? (fun d => d.ch = ch.val && d.tick = t) with
      | none => s2
      | some d =>
        ms.foldl (fun s m => s.sendKl 0 m)
          (s2.sendKl 0 { type := 5, vc := 0, cls := 0, arg := ch, arg64 := 0, data := datumBytes d (ms ≠ []) })

/-! ## Applying decisions (R436, R437, R439) -/

/-- The pair becomes DIVERGED where it was PAIRED; a JOINING pair counts its frames again (R437, R439). -/
def State.diverge (s : State) : State :=
  let s1 := { s with pair := { s.pair with frames := 0, clean := false } }
  if s1.obj Obj.pairState = 2 then s1.setState noCh Obj.pairState 3 else s1

/-- The record that binds frame number `a` and `b` on this device at tick `t` (R436, R437): by SFN to its own slot,
or to its newest frame, which makes the pair DIVERGED. -/
def State.bindBySfn (s : State) (ch : Fin 4) (t : Nat) (r : FrameRec) : Option (FrameRec × Bool) :=
  match (s.pacer ch).program with
  | none => none
  | some p =>
    match p.pipe with
    | none => none
    | some d =>
      match bindEntry d p.frameTicks ((t - p.start) % p.frameTicks) with
      | none => none
      | some e =>
        let x := s.picture ch
        let find (n : Nat) : Option Nat := (x.slots.find? (fun f => f.2.sfn = n)).map (·.1)
        let newest : Nat × Nat := ((x.newest.bind (fun k => (look x.slots k).map (fun f => (k, f.sfn)))).getD (r.slotA, r.sfnA))
        let at' (n : Nat) : Nat × Nat × Bool := match find n with
          | some k => (k, n, true)
          | none => (newest.1, newest.2, false)
        let a := at' r.sfnA
        let b := at' r.sfnB
        some ({ r with ofn := p.ofnAt d e t, slotA := a.1, slotB := b.1, sfnA := a.2.1, sfnB := b.2.1, tick := t }, a.2.2 && b.2.2)

/-- A relayed binding is applied. -/
def State.applyBind (s : State) (ch : Fin 4) (t : Nat) (r : FrameRec) : State :=
  match s.bindBySfn ch t r with
  | none => s
  | some (q, found) =>
    let s1 := ((s.noteRec ch q).writeRec ch q).countBind ch q
    let x := s1.picture ch
    let s2 := if q.kind = 0 then s1.setPicture ch { x with reals := x.reals.filter (fun p => p.1 ≠ q.ofn) ++ [(q.ofn, q.slotA, q.sfnA)] } else s1
    if found then s2 else s2.diverge

/-- A snapshot decided `RELAY_TICKS` ago is applied (R436): the set in force is kept, or the set at `a` is taken. -/
def State.applySnap (s : State) (ch : Fin 4) (a : Nat) : State :=
  if a = 0 then s.keepSet ch
  else
    let x := s.takeSet ch a
    match x.bad with
    | some o => s.refuseSet ch o
    | none => s.setComp ch ((s.comp ch).use x)

/-- The frame of which a row was overdue at tick `t` (R175, R436): the latest one whose deadline for the row had passed. -/
def Picture.lateFrame (p : Picture) (d : PipeDesc) (t row : Nat) : Option (Nat × SrcFrame) :=
  (p.slots.filter (fun f => rowDeadline d f.2.t0 row < t)).foldl (fun m f => match m with
    | some g => if g.2.t0 ≤ f.2.t0 then some f else m
    | none => some f) none

/-- Rows substituted at tick `t` are substituted here too (R436), in their frame, unless the channel is out of service
(R29). -/
def State.applySubst (s : State) (ch : Fin 4) (t n first : Nat) : State :=
  match if (s.outBy.get ch).isSome then none else s.pipe ch with
  | some d =>
    forEach (((upto n).map (· + first)).filter (s.ownsRow ch d)) (fun s r =>
      match (s.picture ch).lateFrame d t r with
      | some (k, f) => s.substitute ch d k f r
      | none => s) s
  | none => s

/-- With SOURCE_MODE RELAY a frame of the active begins here in the slot it names (R437). -/
def State.applyBegin (s : State) (ch : Fin 4) (t sfn slot : Nat) : State :=
  if !bit (s.obj Obj.pairCtrl) 29 then s
  else
    let s1 := s.beginFrame ch slot (sfn % 2 ^ 32) (.whole)
    let x := s1.picture ch
    s1.setPicture ch { x with slots := adjust x.slots slot (fun f => { f with t0 := t }) }

/-- What a binding decides, without this device's slots and numbers. -/
def bindWords (r : Option FrameRec) : Option (Nat × Nat × Nat × Bool × Bool × Nat) :=
  r.map (fun x => (x.kind, x.sfnA, x.sfnB, x.again, x.mute, x.cut))

/-- Decisions of a shadow that differ from those applied (R436). -/
def shadowDiffs (own : Decision) (d : Decision) : Nat :=
  (if bindWords own.bind = bindWords d.bind then 0 else 1) + (if own.snap = d.snap then 0 else 1) + (if own.subst = d.subst then 0 else 1)

/-- A row was substituted here that the active did not substitute (R437). -/
def extraRows (own d : Decision) : Bool :=
  match own.subst, d.subst with
  | none, _ => false
  | some _, none => true
  | some (n, a), some (m, b) => a < b || b + m < a + n

/-- The standby counts its frames and compares the segment of the tick (R434, R439). -/
def State.compareSeg (s : State) (ch : Fin 4) (t : Nat) (own d : Decision) : State :=
  if s.obj Obj.pairRole ≠ 2 then s
  else
    let start := s.pairMask.head? = some ch && s.startsAt ch t
    let p := s.pair
    let n := if p.clean then p.frames + 1 else 0
    let s1 : State := if start then { s with pair := { p with frames := n, clean := true } } else s
    let s2 := if start && s1.obj Obj.pairState = 1 && bits (s1.obj Obj.pairCtrl) 21 14 ≤ n then s1.setState noCh Obj.pairState 2 else s1
    if own.seg = d.seg then s2
    else
      let s3 := s2.bump Obj.divergences 1 32
      (s3.attn atCount ch Obj.divergences (s3.obj Obj.divergences)).diverge

/-- Relayed decisions are applied (R436, R437, R439). -/
def State.applyRelayed (s : State) (ch : Fin 4) (own : Option Decision) (d : Decision) : State :=
  let s1 := match d.begun with
    | some (n, k) => s.applyBegin ch d.tick n k
    | none => s
  let s2 := match d.subst with
    | some (n, a) => s1.applySubst ch d.tick n a
    | none => s1
  let s3 := match d.bind with
    | some r => s2.applyBind ch d.tick r
    | none => s2
  let s4 := match d.snap with
    | some (a, _) => s3.applySnap ch a
    | none => s3
  match own with
  | none => s4
  | some o =>
    let s5 := s4.bump Obj.shadowDiffs (shadowDiffs o d) 32
    (if extraRows o d then s5.diverge else s5).compareSeg ch d.tick o d

/-- The device's own decisions are applied (R436, R441): the record is written; rows substituted and a snapshot made as a
shadow take effect now, those that were in force have. -/
def State.applyOwn (s : State) (ch : Fin 4) (d : Decision) : State :=
  let s0 := match d.subst, d.shadow with
    | some (n, a), true => s.applySubst ch d.tick n a
    | _, _ => s
  let s1 := match d.bind with
    | some r => let s1 := s0.writeRec ch r; if d.shadow then s1.countBind ch r else s1
    | none => s0
  match d.snap, d.shadow with
  | some (a, _), true => s1.applySnap ch a
  | _, _ => s1

/-- RELAY_APPLY (R436, R441): the decisions of the oldest tick that is RELAY_TICKS back are applied, relayed ones
where they were heard. A standby that heard none waits for its promotion. -/
def relayApply (ch : Fin 4) (s : State) : State :=
  let mine (d : Decision) : Bool := d.ch = ch.val && d.tick + s.relayTicks ≤ s.tick ch
  let own := s.pair.own.find? mine
  let heard : Option Decision := match own with
    | some o => s.pair.heard.find? (fun (d : Decision) => d.ch = ch.val && d.tick = o.tick)
    | none => s.pair.heard.find? mine
  let drop (t : Nat) (s : State) : State :=
    let keep (d : Decision) : Bool := d.ch ≠ ch.val || d.tick ≠ t
    { s with pair := { s.pair with own := s.pair.own.filter keep, heard := s.pair.heard.filter keep } }
  if !s.inPair ch then s
  else match own, heard with
    | o, some d => (s.applyRelayed ch o d).settle |> drop d.tick
    | some o, none => if o.shadow && s.obj Obj.pairRole = 2 then s else s.applyOwn ch o |> drop o.tick
    | none, none => s

/-- RELAY_APPLY (R436). -/
def execRelayApply (ch : Fin 4) (s : State) : Out := clocked s (relayApply ch)

/-! ## Failover and swap (R441 to R445) -/

/-- PROMOTION (R441): at the first edge after its KL0 went DOWN, or at which it misses a datum, a standby becomes ACTIVE and
SOLO. From a missing datum on, every tick is applied from shadow. The marker of a frame that starts at this edge carries the new
role. -/
def promote (s : State) : State :=
  let lost := s.pairMask.any (fun m => (s.missing m).isSome)
  if s.obj Obj.pairRole ≠ 2 || (!lost && !s.pairMask.any s.roleDue) then s
  else
    let e := s.tick (s.pairMask.headD 0)
    let heard := if lost then s.pair.heard.filter (fun d => d.tick + s.relayTicks < e) else s.pair.heard
    let s1 : State := { s with pair := { s.pair with heard := heard, swap := none, swapped := none, promoted := some e, downAt := none } }
    let s2 := ((s1.setObj Obj.pairRole 1).setObj Obj.pairState 4).bump Obj.promotions 1 32
    s2.attn atCount noCh Obj.promotions (s2.obj Obj.promotions)

/-- PROMOTION (R441). -/
def execPromotion (s : State) : Out := clocked s promote

/-- PAIR_SWAP (R443): on the active of a PAIRED pair, for an output frame start of every channel of the pair. -/
def opPairSwap (who : Req) (t : Nat) (s : State) : State :=
  let k := Obj.pairSwap
  s.command who k (fun s =>
    let m := s.pairMask
    if s.obj Obj.pairRole ≠ 1 || s.obj Obj.pairState ≠ 2 || m.any (fun c => t < s.tick c + s.relayTicks + 1 || !s.startsAt c t)
    then s.refuse k rcRange
    else ({ s with pair := { s.pair with swap := some t } } : State).accept k)

/-- PAIR_SWAP (R443). -/
def execPairSwap (who : Req) (t : Nat) (s : State) : Out := clocked s (opPairSwap who t)

/-- A device of the pair takes a new role from tick `t` (R443): its decisions of that tick on are shadows, or no
longer; the marker of a frame that starts now carries the new role. PEER_OFFSET, the standby's tick minus the active's, changes
its sign with the roles (R434). -/
def State.takeRole (s : State) (role t : Nat) : State :=
  let flip (d : Decision) : Decision := if t ≤ d.tick then { d with shadow := role = 2 } else d
  let s1 : State := { s with pair := { s.pair with own := s.pair.own.map flip, swap := none, swapped := if role = 1 then some t else none } }
  forEach s1.pairMask (fun s m =>
    let dp := s.dps.get m
    if bit dp.cfg.ctrl 9 && (s.comp m).frame = some t then { s with dps := s.dps.set m { dp with marker := s.markerBytes m } } else s)
    ((s1.setObj Obj.pairRole role).setObj Obj.peerOffset ((2 ^ 64 - s1.obj Obj.peerOffset % 2 ^ 64) % 2 ^ 64))

/-- PAIR_SWAP_EFFECT (R443): at edge T the roles exchange, on the device that was asked and on its standby. -/
def pairSwapEffect (s : State) : State :=
  let lead := s.pairMask.headD 0
  if s.obj Obj.pairState ≠ 2 || !s.portUp 0 then s
  else match s.obj Obj.pairRole, s.pair.swap with
    | 1, some t => if s.tick lead < t then s else (s.takeRole 2 t).ended Obj.pairSwap 0 2
    | 2, _ => if s.pairMask.any (fun c => !s.startsAt c (s.tick c) || (s.missing c).isSome) then s else s.takeRole 1 (s.tick lead)
    | _, _ => s

/-- PAIR_SWAP_EFFECT (R443). -/
def execPairSwapEffect (s : State) : Out := clocked s pairSwapEffect

/-! ## Digests (R447) -/

/-- The bytes of an entry of a digest descriptor of MODE `m`. -/
def digestEntry (m : Nat) : Nat := if m = 0 then 24 else 40

/-- A pair (CATEGORY, PART_INDEX) of an entry. -/
def digestPart (e : List Byte) : Nat × Nat := (field e 0 1, field e 4 4)

/-- The entries of a descriptor. -/
def digestEntries (b : List Byte) : List (List Byte) :=
  (upto (field b 6 2)).map (fun i => slice b (0x20 + digestEntry (field b 4 1) * i) (digestEntry (field b 4 1)))

/-- Bytes a descriptor's result takes. -/
def digestOut (b : List Byte) : Nat := if field b 4 1 = 0 then 40 * field b 6 2 else 160

/-- The failing entry of a descriptor at address `a`, or none (R447); a header that fails is entry 0. -/
def digestBad (a : Nat) (b : List Byte) : Option Nat :=
  let n := field b 6 2
  if field b 0 4 ≠ 0x54534744 || 1 < field b 4 1 || !reserved b 5 1 || !reserved b 0x10 16 || n = 0 || 1024 < n ||
     devEnd < a + 0x20 + digestEntry (field b 4 1) * n || devEnd < field b 8 8 + digestOut b then some 0
  else
    let es := digestEntries b
    (upto n).find? (fun i =>
      let e := es[i]?.getD []
      !reserved e 1 3 || ((es.take i).map digestPart).contains (digestPart e) ||
      (field b 4 1 = 0 && (field e 0x10 8 = 0 || devEnd < field e 8 8 + field e 0x10 8)))

/-- A range of device addresses meets the memory of a GATED channel (R452). -/
def State.gatedAt (s : State) (a n : Nat) : Bool :=
  chans.any (fun c => s.powerNow c = 2 && a < (c.val + 1) * 2 ^ 32 && c.val * 2 ^ 32 < a + n)

/-- DIGEST_RUN (R447): refused while it needs the memory of a GATED channel (R452), for its descriptor, a part or OUT. -/
def opDigestRun (who : Req) (v : Nat) (s : State) : State :=
  let k := Obj.digestRun
  s.command1 who k v (fun s =>
    if s.digest.isSome then s.refuse k rcBusy
    else
      let a := s.obj Obj.digestDesc
      let head := s.devRead a 0x20
      let n := 0x20 + digestEntry (field head 4 1) * min (field head 6 2) 1024
      let b := s.devRead a n
      let parts := if field b 4 1 = 0 then digestEntries b else []
      if s.gatedAt a n then s.refuse k rcBusy else
      match digestBad a b with
      | some i => ((s.setObj Obj.digestStatus (eDigest * 65536 + 3 * 4096 + i)).answer rcOk).setCmd k eDigest 3
      | none =>
        if s.gatedAt (field b 8 8) (digestOut b) || parts.any (fun e => s.gatedAt (field e 8 8) (field e 0x10 8)) then s.refuse k rcBusy
        else ({ s.setObj Obj.digestStatus 4096 with digest := some b } : State).accept k)

/-- DIGEST_RUN (R447). -/
def execDigestRun (who : Req) (v : Nat) (s : State) : Out := clocked s (opDigestRun who v)

/-- Order part records by PART_INDEX. -/
def partInsert (e : List Byte) : List (List Byte) → List (List Byte)
  | [] => [e]
  | x :: t => if field e 4 4 < field x 4 4 then e :: x :: t else x :: partInsert e t

/-- D_c of COMBINE (R447). -/
def digestOfCategory (es : List (List Byte)) (c : Nat) : List Byte :=
  let mine := (es.filter (fun e => field e 0 1 = c)).foldl (fun l e => partInsert e l) []
  sha3 ((mine.map (fun e => slice e 4 36)).flatten)

/-- What a descriptor's digest writes to OUT (R447). -/
def State.digestResult (s : State) (b : List Byte) : List Byte :=
  let es := digestEntries b
  if field b 4 1 = 0 then
    (es.map (fun e => slice e 0 1 ++ toLE 3 0 ++ slice e 4 4 ++ sha3 (s.devRead (field e 8 8) (field e 0x10 8)))).flatten
  else
    let ds := ((upto 4).map (digestOfCategory es)).flatten
    ds ++ sha3 ds

/-- The parts of a descriptor that an open publication holds (R157). -/
def State.digestHeld (s : State) (b : List Byte) : Bool :=
  field b 4 1 = 0 && (digestEntries b).any (fun e => (pieces (field e 8 8) (field e 0x10 8)).any (s.heldFrom none))

/-- DIGEST_DONE (R447): the digest is written once every part could be read. -/
def digestDone (s : State) : State :=
  match s.digest with
  | none => s
  | some b =>
    if s.digestHeld b then s else
    let s1 := { (s.devWrite 3 (field b 8 8) (s.digestResult b)).setObj Obj.digestStatus 8192 with digest := none }
    s1.ended Obj.digestRun 0 2

/-- DIGEST_DONE (R447). -/
def execDigestDone (s : State) : Out := clocked s digestDone

/-! ## The replay log (R448) -/

/-- A window or baton entry of a port is enabled (R448). -/
def State.linksInUse (s : State) : Bool :=
  [0, 1].any (fun p =>
    let l := s.link p
    (upto 16).any (fun i => bit (winEntry l.windows i).2.2.2 0) || (upto 64).any (fun i => bit (field l.batons (4 * i) 4) 31))

/-- A write of REPLAY_CTRL of context `c` (R448). Enabling starts STEP and the queues' ordinals at 0. -/
def opReplayCtrl (who : Req) (c v : Nat) (s : State) : State :=
  let k := Obj.replayCtrl c
  s.command who k (fun s =>
    let qs := (s.queuesOf c).filterMap (fun q => look s.queues q)
    let chs := (qs.map Queue.ch).eraseDups
    if 1 < v then s.answer rcRange
    else if v = 0 then ({ s.setObj k 0 with replays := del s.replays c } : State).answer rcOk
    else if !(((look s.ctxs c).map Context.strict).getD false) || 2 < chs.length || bits (s.obj Obj.pairCtrl) 31 30 ≠ 0 || s.linksInUse
    then s.answer rcRange
    else if qs.any (fun q => !q.order.isEmpty || q.head.isSome) then s.answer rcBusy
    else ({ (s.setObj k 1).setObj (Obj.replayStep c) 0 with replays := put s.replays c [] } : State).answer rcOk)

/-- REPLAY_CTRL_WRITE (R448). -/
def execReplayCtrlWrite (who : Req) (c v : Nat) (s : State) : Out :=
  clocked s fun s => if c < 256 then opReplayCtrl who c v s else s.answer rcUnknown

end Sys2Proof.Machine
end

