-- ==== Sys2Proof/Machine/HostPort.lean ====
section
/-! DEFINITION. The host port: endpoint resets (R338), BAR2 (R33, R297, R309, R340), the
acknowledgement of attention (R356), Marshal-to-host notices (R358 to R360), and the T1 port (R341 to R344). -/

namespace Sys2Proof.Machine

/-! ## Endpoint resets (R338, R391, R392, R521) -/

/-- A context that an endpoint reset keeps (R392): DISPLAY_CTX of a channel whose tick program is active, or whose
TP_LOAD is checking or waits. -/
def State.keptDisplay (s : State) (c : Nat) : Bool :=
  s.displays c || chans.any (fun ch => match (s.pacer ch).change with
    | .checking _ _ x _ _ => x = c
    | .waiting _ p => p.ctx = c
    | _ => false)

/-- An endpoint reset on one context (R391, R392): torn down as by CTX_ABORT, or kept with its queues destroyed and
one host reference. -/
def State.resetCtx (s : State) (c : Nat) : State :=
  match look s.ctxs c with
  | none => s
  | some x =>
    if s.keptDisplay c then
      let s1 := forEach (s.queuesOf c) (fun s q => s.closeQueue q) s
      (s1.setCtx c { x with hostRefs := 1 }).settle
    else if x.state = .teardown then s
    else s.teardown c

/-- The reset of one function (R338, R521): its contexts, its dictionary window and requests not yet executed, its
mailboxes, its log with the events before the reset that have not been logged, its staged values and counters. -/
def State.resetFn (s : State) (f : Nat) : State :=
  let s0 := ({ s.endCycle with heldAttn := s.heldAttn.filter (fun e => e.1 ≠ f) } : State).setLog f AttnLog.reset
  let s1 := forEach (s0.ctxsOf f) State.resetCtx s0
  let mine (k : Nat) : Bool := k / 0x1000000 = reqCode (.fn f)
  let s2 : State := { s1 with
    windows := del s1.windows f, marshalQ := s1.marshalQ.filter (fun q => q.src ≠ .fn f),
    segments := s1.segments.filter (fun g => g.who ≠ .fn f),
    mboxes := del (del s1.mboxes (mbH2m f)) (mbM2h f),
    objs := s1.objs.filter (fun e => !mine e.1), octs := s1.octs.filter (fun e => !mine e.1),
    underReset := f :: s1.underReset.filter (· ≠ f) }
  s2.endResets

/-- The reset of function `f` is not complete (R338), or waits for the device to be awake (R471): its doorbell writes are
discarded. -/
def State.resetting (s : State) (f : Nat) : Bool :=
  s.underReset.contains f || s.power.resets.contains f || s.power.resets.contains 0

/-- A Function Level Reset (R338): of one VF, or of PF0 with every VF. During P2 it waits for the return (R471). -/
def State.endpointReset (s : State) (f : Nat) : State :=
  if !s.awake then { s with power := { s.power with resets := s.power.resets ++ [f] } }
  else if f = 0 then forEach (upto 16) State.resetFn s
  else if f < 16 then s.resetFn f
  else s

/-- FUNCTION_LEVEL_RESET (R338). -/
def execFunctionLevelReset (f : Nat) (s : State) : Out := clocked s (fun s => s.endpointReset f)

/-- HOT_RESET (R338). -/
def execHotReset (s : State) : Out := clocked s (fun s => s.endpointReset 0)

/-- LINK_DOWN_RESET (R338, R542): as a hot reset, and no link is negotiated. -/
def execLinkDownReset (s : State) : Out := clocked s (fun s => (s.endpointReset 0).setObj Obj.pcieLink 0)

/-- Link speeds, 1 for 2.5 to 5 for 32 GT/s, and widths (R335). -/
def linkSpeeds : List Nat := [1, 2, 3, 4, 5]
def linkWidths : List Nat := [1, 2, 4, 8]

/-- PF0 and its 15 virtual functions (R335). -/
def functions : Nat := 16

/-- Max_Payload_Size in bytes (R335). -/
def maxPayload : Nat := 512

/-- PCIE_LINK_TRAINED (R335, R364): the negotiated speed and width. -/
def execPcieLinkTrained (speed width : Nat) (s : State) : Out :=
  clocked s fun s =>
    if linkSpeeds.contains speed && linkWidths.contains width then s.setObj Obj.pcieLink (speed * 2 ^ 28 + width * 2 ^ 24) else s

/-- PCIE_CONFIG_WRITE (R337). -/
def execPcieConfigWrite (f : Nat) (busMaster atomicEn : Bool) (s : State) : Out :=
  clocked s fun s => if f < 16 then { s with pcieFns := put s.pcieFns f { busMaster := busMaster, atomicEn := atomicEn } } else s

/-! ## BAR2 (R33, R297, R309, R340) -/

/-- At an edge, the rings whose rows belong to output frames with a protected video layer are noted: those read in the frames
that have not ended, and the earlier ones for as long as a row of such a frame remains (R297, R188). -/
def State.trackHot (s : State) (ch : Fin 4) : State :=
  let x := s.picture ch
  let hot (n : Nat) : Bool := (look x.slots n).any (fun f => f.prot ≠ 0)
  let live := match s.pipe ch with
    | none => []
    | some d => (x.recs.filter (fun r => hot r.slotA || hot r.slotB)).map (fun r =>
        ({ base := s.vring ch d, rows := d.vringRows, pitch := ceilDiv (64 + 4 * d.outW) 64 * 64, ofn := r.ofn } : HotRing))
  let stays (r : HotRing) : Bool := (upto r.rows).any (fun i => s.devNat (r.base + i * r.pitch) 4 = r.ofn)
  let kept := x.hotRows.filter (fun r => !live.contains r && stays r)
  if x.hotRows = [] && live = [] then s else s.setPicture ch { x with hotRows := kept ++ live }

/-- An access of `n` bytes at device address `a` from the host may reach memory: its channel is not OFFLINE, its
memory is in service (R33, R309), and it touches no protected region (R297). -/
def State.bar2Open (s : State) (a n : Nat) : Bool :=
  let ch := chanOf a
  s.svc ch ≠ .offline && s.memUp ch && !chans.any (fun c => (s.protectedNow c).any (fun r => a < r.1 + r.2 && r.1 < a + n))

/-- A BAR2 access is one the endpoint performs (R340): from PF0, of 1 to 512 bytes within a 4 KB block. -/
def bar2Ok (f a n : Nat) : Bool := f = 0 && 1 ≤ n && n ≤ maxPayload && a / 4096 = (a + n - 1) / 4096 && a + n ≤ devEnd

/-- A read through BAR2 (R340): the bytes at the channel's coherence points; all ones where they may not be had or the read met
an uncorrectable error (R308); otherwise an Unsupported Request. A read of a held line waits (R157). -/
def State.barRead (s : State) (f addr len : Nat) (ecc : Ecc) : State :=
  let ones := List.replicate len (0xFF : Byte)
  if !bar2Ok f addr len then { s with hostRead := none }
  else if !s.bar2Open addr len then { s with hostRead := some ones }
  else match (pieces addr len).find? (s.heldFrom none) with
  | some k => s.hold .host none [k]
  | none =>
    let s0 := s.noteEcc (chanOf addr) ecc
    let s1 := if ecc.bad.isSome then s0 else (pieces addr len).foldl (fun s k => s.cacheHost k false) s0
    { s1 with hostRead := some (if ecc.bad.isSome then ones else s1.read addr len) }

/-- A write through BAR2 (R340): the bytes are written, or discarded where the memory is out of service or protected. They
pass the channel's system cache (R310), and the tag of a word left 0 goes (R145). -/
def State.barStore (s : State) (f addr : Nat) (bytes : List Byte) : State :=
  if !bar2Ok f addr bytes.length || !s.bar2Open addr bytes.length then s
  else (pieces addr bytes.length).foldl (fun s k => s.cacheHost k true) ((s.write addr bytes).pruneTags)

/-- One held BAR2 access is performed (R464). -/
def State.barPerform (s : State) : BarAccess → State
  | .read f addr len ecc => s.barRead f addr len ecc
  | .write f addr bytes => s.barStore f addr bytes

/-- A BAR2 access: while the device enters P2, is in it or returns it is held (R464), else performed. -/
def State.barAccess (s : State) (a : BarAccess) : State :=
  if s.awake then s.barPerform a else { s with barWait := s.barWait ++ [a] }

/-- BAR2_READ (R340, R464). -/
def execBar2Read (f : Nat) (addr len : Nat) (ecc : Ecc) (s : State) : Out := clocked s (fun s => s.barAccess (.read f addr len ecc))

/-- BAR2_WRITE (R340, R464). -/
def execBar2Write (f : Nat) (addr : Nat) (bytes : List (BitVec 8)) (s : State) : Out :=
  clocked s (fun s => s.barAccess (.write f addr bytes))

/-! ## Attention acknowledged (R356) -/

/-- ATTN_ACK (R356). It is executed in a cycle after that of the events before it (R355). -/
def opAttnAck (who : Req) (v : Nat) (s : State) : State :=
  s.endCycle.command who Obj.attnAck (fun s =>
    let f := reqLog who
    let l := s.logOf f
    if v < l.acked || l.newest < v then s.answer rcRange else (s.setLog f { l with acked := v }).answer rcOk)

/-- ATTN_ACK (R356). -/
def execAttnAck (who : Req) (v : Nat) (s : State) : Out := clocked s (opAttnAck who v)

/-! ## Marshal-to-host notices (R358 to R360) -/

/-- A notice that finds its mailbox full is discarded and counted for the function (R358). -/
def State.mbOverrun (s : State) (f : Nat) : State :=
  let k := own (.fn f) Obj.mbOverruns
  let s1 := s.bump k 1 32
  s1.attn atCount noCh Obj.mbOverruns (s1.obj k)

/-- Marshal sends function `f` the RESULT notice of its `seq`-th notice (R360): type 0x81, the SPACE of the
result record in bit 23, the number in USER. -/
def State.sendResult (s : State) (f ptr : Nat) (space : Bool) (seq : Nat) : State :=
  let m := s.mbox (mbM2h f)
  if m.pending then s.mbOverrun f
  else
    let tag := 0x81 * 2 ^ 24 + (if space then 2 ^ 23 else 0) + seq % 256
    (s.setMbox (mbM2h f) (m.send ptr tag)).attn atMailbox noCh Obj.mbOverruns tag

/-- MARSHAL_TO_HOST_NOTICE (R359, R360). -/
def execMarshalToHostNotice (f ptr : Nat) (h2mSeq : Nat) (s : State) : Out :=
  clocked s fun s => if f < 16 then s.sendResult f ptr false h2mSeq else s

/-- A write to M2H_TAKE (R359): discarded while no notice waits. -/
def State.m2hTake (s : State) (f rc : Nat) : State :=
  let m := s.mbox (mbM2h f)
  if f < functions && m.pending then s.setMbox (mbM2h f) (m.take (rc % 65536)) else s

/-- M2H_TAKE (R359). -/
def execM2hTake (f : Nat) (rc : Nat) (s : State) : Out := clocked s (fun s => s.m2hTake f rc)

/-! ## The T1 port (R341 to R344) -/

/-- The T1 link is up (R341). -/
def State.t1Up (s : State) : Bool := s.obj Obj.t1State ≠ 0

/-- Address acquisition starts over (R342). -/
def State.acquire (s : State) : State := if s.t1Up then (s.setObj Obj.t1State 1).setObj Obj.t1Addr 0 else s

/-- T1_LINK_CHANGE (R341, R364): the port acquires an address when its link comes up. -/
def execT1LinkChange (up : Bool) (s : State) : Out :=
  clocked s fun s =>
    if up then (if s.t1Up then s else s.setObj Obj.t1State 1) else (s.setObj Obj.t1State 0).setObj Obj.t1Addr 0

/-- An IPv4 link-local address a host may choose (R342): 169.254.1.0 to 169.254.254.255 (PRESUMED from RFC 3927, log entry
115). -/
def linkLocal (a : Nat) : Bool := 0xA9FE0100 ≤ a && a ≤ 0xA9FEFEFF

/-- The port takes an address (R342): its probes have met no conflict, and it announces the address (three probes and two
announcements: PRESUMED from RFC 3927 and RFC 5227, log entry 115). -/
def State.takeAddress (s : State) (a : Nat) : State :=
  let s1 : State := { s with t1Out := s.t1Out ++ List.replicate 3 (.probe a) ++ List.replicate 2 (.announce a), defended := none }
  (s1.setObj Obj.t1State 2).setObj Obj.t1Addr a

/-- T1_ADDRESS_ACQUIRED (R342): T1_IPV4 where it is not 0, else the link-local address chosen from T1_MAC. -/
def execT1AddressAcquired (addr : Nat) (s : State) : Out :=
  clocked s fun s =>
    let want := s.obj Obj.t1Ipv4
    if s.obj Obj.t1State ≠ 1 then s
    else if want ≠ 0 then s.takeAddress want
    else if linkLocal addr then s.takeAddress addr
    else s

/-- Cycles within which a second conflict ends the use of a link-local address: 10 s (PRESUMED from RFC 3927, log entry 115). -/
def defendInterval : Nat := 10000000000

/-- ADDRESS_CONFLICT (R342): an address of T1_IPV4 is reported in conflict; a link-local one in use is defended once in
`defendInterval` with an announcement, and otherwise chosen anew. -/
def execAddressConflict (s : State) : Out :=
  clocked s fun s =>
    if !s.t1Up then s
    else if s.obj Obj.t1Ipv4 ≠ 0 then (s.setObj Obj.t1Addr 0).setState noCh Obj.t1State 3
    else if s.obj Obj.t1State = 2 && !s.defended.any (fun t => s.now < t + defendInterval) then
      { s with t1Out := s.t1Out ++ [.announce (s.obj Obj.t1Addr)], defended := some s.now }
    else s.acquire

/-- A write of T1_MAC, T1_IPV4 or T1_NETMASK (R342): it takes effect at once and restarts address acquisition. -/
def opT1Address (who : Req) (sub : Nat) (v : List Byte) (s : State) : State :=
  let k := key 0x1020 sub
  s.command who k (fun s =>
    if sub = 1 then (if v.length ≠ 6 then s.answer rcLength else ((s.setOct k v).acquire).answer rcOk)
    else if sub = 2 || sub = 3 then (if v.length ≠ 4 then s.answer rcLength else ((s.setObj k (leNat v)).acquire).answer rcOk)
    else s.answer rcUnknown)

/-- T1_ADDRESS_WRITE (R342). -/
def execT1AddressWrite (who : Req) (sub : Nat) (v : List (BitVec 8)) (s : State) : Out := clocked s (opT1Address who sub v)

/-- ARP_REQUEST (R343): a request for the port's address is answered, and its sender enters the 16-entry cache (PRESUMED
from RFC 826, log entry 115). -/
def execArpRequest (ip mac target : Nat) (s : State) : Out :=
  clocked s fun s =>
    if s.obj Obj.t1State = 2 && target = s.obj Obj.t1Addr then
      { s with t1Out := s.t1Out ++ [.arp ip mac], arp := ((ip, mac) :: s.arp.filter (fun e => e.1 ≠ ip)).take 16 }
    else s

/-- ICMP_ECHO_REQUEST (R343): up to 1,024 bytes of data are echoed. -/
def execIcmpEchoRequest (ip ident : Nat) (data : List (BitVec 8)) (s : State) : Out :=
  clocked s fun s => if s.obj Obj.t1State = 2 && data.length ≤ 1024 then { s with t1Out := s.t1Out ++ [.echo ip ident data] } else s

/-- AS_TIME_MESSAGE (R344): the link delay, and, at cycle `now`, the time of a grandmaster the port has synchronised to. The
rate is that between the last two such messages (DESIGN CHOICE, log entry 145). -/
def execAsTimeMessage (now time : Nat) (linkDelay : Nat) (synced : Bool) (s : State) : Out :=
  clocked s fun s =>
    if s.obj Obj.t1AsEn = 0 || !s.t1Up then s
    else
      let s1 := { s.at now with asDelay := linkDelay }
      let rate := match s.asAt with
        | some t => if t < now && s.asTime < time then (time - s.asTime, now - t) else s.asRate
        | none => (1, 1)
      if synced then ({ s1 with asTime := time, asAt := some now, asRate := rate } : State).setState noCh Obj.t1AsState 2 else s1

/-- AS_SYNC_LOSS (R344): the time runs on from the last rate. -/
def execAsSyncLoss (s : State) : Out :=
  clocked s fun s => if s.obj Obj.t1AsState = 2 then s.setState noCh Obj.t1AsState 3 else s

/-- A write of T1_AS_EN (R344). -/
def State.asEnSet (s : State) (v : Nat) : State :=
  let s1 : State := if v = 0 then { s with asAt := none } else s
  (s1.setObj Obj.t1AsEn v).setState noCh Obj.t1AsState (if v = 0 then 0 else max 1 (s.obj Obj.t1AsState))

end Sys2Proof.Machine
end

