-- ==== Sys2Proof/Machine/Power.lean ====
section
/-! DEFINITION. Power states and domains (R451 to R472): parking and gating channels, unit domains, operating points,
budgets and lending, standby entry and return, pads, and the device resets of the retention rail. -/

namespace Sys2Proof.Machine

/-! ## Device reset (R521, R540, R541) -/

/-- The device is reset: everything returns to its reset state except the commands that wait, host memory and, unless
it is a power-on reset, the power counters (R472). `cause` goes to RESET_CAUSE. -/
def State.deviceReset (s : State) (powerOn : Bool) (cause : Nat) : State :=
  let r : State := { State.reset with pending := s.pending, fresh := s.fresh, mem := s.mem.filter (fun c => hostBase ≤ c.1) }
  let kept := if powerOn then r
    else (r.setObj Obj.entryAborts (s.obj Obj.entryAborts)).setObj Obj.lends (s.obj Obj.lends)
  kept.setObj Obj.resetCause cause

/-! ## Power states (R451, R452) -/

/-- POWER_STATE outside P2 (R451): P0 while every channel is ON. -/
def State.setPowerState (s : State) : State :=
  s.setObj Obj.powerState (if chans.all (fun c => s.obj (Obj.chPstate c) = 0) then 0 else 1)

/-! ## Operating points (R457, R458, R468) -/

/-- VDD_FIELD of an OPP in mV (R457). -/
def oppMv (o : Nat) : Nat := [620, 650, 680, 720, 750, 800, 850][o]?.getD 850

/-- A channel lends (R469): a PARKED or GATED one at all times. -/
def State.lends (s : State) (ch : Fin 4) : Bool := s.powerNow ch ≠ 0 || (s.lend.get ch).lending

/-- The OPP a channel is on its way to (R458, R468, R469): CLASS0_FLOOR while it lends, else the highest that its budget and
what it borrows carry. -/
def State.oppGoal (s : State) (ch : Fin 4) : Nat :=
  if s.lends ch then s.floorOf ch else s.oppFor ch (s.obj (Obj.chBudget ch) + s.obj (Obj.chBorrowed ch))

/-- The OPP a channel should run at now (R458, R470): its present one until its home OPP may take effect after lending. -/
def State.oppTarget (s : State) (ch : Fin 4) : Nat :=
  if (s.lend.get ch).backAt.any (fun t => s.now < t) then s.obj (Obj.oppCur ch) else s.oppGoal ch

/-- The OPP whose voltage the field dies need (R457): of the fastest channel, running or about to; the ramp of a lender that
comes back goes on during its 25 µs (R470). -/
def State.voltNeed (s : State) : Nat :=
  (chans.map (fun (c : Fin 4) => if s.powerNow c = 0 then max (s.obj (Obj.oppCur c)) (s.oppGoal c) else 0)).foldl max 0

/-- VREQ follows what the channels need (R458, R537): a raise takes its ramp at 10 mV/µs, at most 25 µs; a lower
code is driven once no channel needs the higher one. -/
def State.drive (s : State) : State :=
  let n := s.voltNeed
  if n = s.power.vreq then s
  else
    let ramp := min 25000 ((oppMv n - oppMv s.power.vreq) * 100)
    { s with power := { s.power with vreq := n, vreqAt := if s.power.vreq < n then s.now + ramp else s.power.vreqAt } }

/-- FREQUENCY_CHANGE (R458): at a tick edge a channel takes the OPP it should run at, once the voltage for it is
there. -/
def frequencyChange (ch : Fin 4) (s : State) : State :=
  let s0 := s.drive
  let t := s0.oppTarget ch
  let l := s0.lend.get ch
  let back := l.backAt.any (· ≤ s0.now)
  if s.marshal = .updating || !s.atEdge ch || s0.power.vreq < t || (s0.obj (Obj.oppCur ch) < t && s0.now < s0.power.vreqAt) then s0
  else
    let s1 := s0.setObj (Obj.oppCur ch) t
    ({ s1 with lend := if back then s1.lend.set ch { l with backAt := none } else s1.lend } : State).drive

/-- FREQUENCY_CHANGE (R458). -/
def execFrequencyChange (ch : Fin 4) (s : State) : Out := clocked s (frequencyChange ch)

/-- OPP_REQ (R458): refused above 6 and below CLASS0_FLOOR. -/
def opOppReq (who : Req) (ch : Fin 4) (v : Nat) (s : State) : State :=
  let k := Obj.oppReq ch
  s.command who k (fun s =>
    if 6 < v || v < s.floorOf ch then s.answer rcRange else ((s.setObj k v).drive).answer rcOk)

/-- OPP_REQ_WRITE (R458). -/
def execOppReqWrite (who : Req) (ch : Fin 4) (v : Nat) (s : State) : Out := clocked s (opOppReq who ch v)

/-! ## Budgets and lending (R468 to R470, R523) -/

/-- The sum of the four budgets. -/
def State.budgets (s : State) : Nat := (chans.map (fun (c : Fin 4) => s.obj (Obj.chBudget c))).sum

/-- CH_BUDGET (R468). -/
def opChBudget (who : Req) (ch : Fin 4) (v : Nat) (s : State) : State :=
  let k := Obj.chBudget ch
  s.command who k (fun s =>
    let sum := s.budgets - s.obj k + v
    if s.obj Obj.packageLimit < sum + 20000 || v < oppPower (s.floorOf ch) then s.answer rcRange
    else ((s.setObj k v).drive).answer rcOk)

/-- CH_BUDGET_WRITE (R468). -/
def execChBudgetWrite (who : Req) (ch : Fin 4) (v : Nat) (s : State) : Out := clocked s (opChBudget who ch v)

/-- PACKAGE_LIMIT (R472, R523). -/
def opPackageLimit (who : Req) (v : Nat) (s : State) : State :=
  let k := Obj.packageLimit
  s.command who k (fun s =>
    if v < 20000 || 85000 < v || v < s.budgets + 20000 then s.answer rcRange else (s.setObj k v).answer rcOk)

/-- PACKAGE_LIMIT_WRITE (R523). -/
def execPackageLimitWrite (who : Req) (v : Nat) (s : State) : Out := clocked s (opPackageLimit who v)

/-- Each of a channel's queues is IDLE, or its head waits (R469). -/
def State.queuesRest (s : State) (ch : Fin 4) : Bool :=
  s.queues.all (fun e => e.2.ch ≠ ch.val || e.2.idle || s.headWaits e.2)

/-- A channel has a command of classes 1 to 3 that is ready or runs (R469). -/
def State.hasWork (s : State) (ch : Fin 4) : Bool :=
  !(s.cands ch).isEmpty || s.runs.any (fun r => r.2.ch = ch.val && r.2.cls ≠ 0)

/-- What a channel lends (R469). -/
def State.lent (s : State) (ch : Fin 4) : Nat :=
  if s.powerNow ch ≠ 0 then s.obj (Obj.chBudget ch)
  else if s.lends ch then s.obj (Obj.chBudget ch) - oppPower (s.floorOf ch)
  else 0

/-- The pool of lent power is given out at an edge of channel 0 (R469). -/
def State.lendPool (s : State) : State :=
  let pool := (chans.map s.lent).sum
  let give := chans.foldl (fun (p : Nat × State) (c : Fin 4) =>
    let s := p.2
    let s1 := s.setObj (Obj.chLent c) (s.lent c)
    let b := s.obj (Obj.chBudget c)
    if s.lends c || (s.lend.get c).backAt.isSome || !s.hasWork c then (p.1, s1.setObj (Obj.chBorrowed c) 0)
    else
      let n := oppPower (s.oppFor c (b + p.1)) - b
      (p.1 - n, s1.setObj (Obj.chBorrowed c) n)) (pool, s)
  give.2.drive

/-- LEND_START (R469): at the edge that ends LEND_TICKS idle ticks a channel lends; a lender made ready at that edge
does not. -/
def lendStart (ch : Fin 4) (s : State) : State :=
  let l := s.lend.get ch
  if s.marshal = .updating || !s.atEdge ch || s.lends ch || l.idle < s.obj Obj.lendTicks || !s.queuesRest ch || s.hasWork ch then s
  else
    let s1 : State := { s with lend := s.lend.set ch { l with lending := true, backAt := none } }
    (((s1.setObj (Obj.oppCur ch) (min (s.obj (Obj.oppCur ch)) (s.floorOf ch))).setObj (Obj.chLent ch) (s1.lent ch)).bump Obj.lends 1 64).drive

/-- LEND_START (R469). -/
def execLendStart (ch : Fin 4) (s : State) : Out := clocked s (lendStart ch)

/-- Lending of a channel ends (R470): the borrowers return to their home OPPs, each at its own tick edge (R74), and the
lender's own takes effect at the first edge 25 µs on. -/
def State.endLending (s : State) (ch : Fin 4) : State :=
  let s1 : State := { s with lend := s.lend.set ch { s.lend.get ch with lending := false, idle := 0, backAt := some (s.now + 25000) } }
  (forEach chans (fun s c =>
    if s.obj (Obj.chBorrowed c) = 0 then s
    else
      let s1 := s.setObj (Obj.chBorrowed c) 0
      if s.atEdge c then s1.setObj (Obj.oppCur c) (min (s.obj (Obj.oppCur c)) (s.homeOpp c)) else s1) (s1.setObj (Obj.chLent ch) 0)).drive

/-- LEND_END (R470): at the edge after a command on the lender became ready. -/
def execLendEnd (ch : Fin 4) (s : State) : Out :=
  clocked s fun s =>
    if s.marshal = .updating || !s.atEdge ch || !(s.lend.get ch).lending || (s.queuesRest ch && !s.hasWork ch) then s else s.endLending ch

/-! ## Parking, gating and the return (R452, R453, R499) -/

/-- A self-test of a channel ends aborted (R499). -/
def State.abortTest (s : State) (ch : Fin 4) : State :=
  let k := Obj.testStatus ch
  let st := bits (s.obj k) 15 12
  if st ≠ 1 && st ≠ 2 then s
  else
    let s1 := s.setObj k (eTestAborted * 65536 + 5 * 4096 + s.obj k % 256)
    let p := s1.chPend.get ch
    let c := s1.cores.get ch
    let t := s.obj k % 256
    let s2 : State := { s1 with chPend := s1.chPend.set ch { p with test := none },
                                cores := s1.cores.set ch (if st = 2 && t ≤ 16 then { c with state := c.state.set t ((p.test.map (·.1)).getD 1) } else c) }
    (s2.setCmd (Obj.testRun ch) eTestAborted 3).attnState ch k

/-- The runs of classes 1 to 3 on a channel are killed at this edge (R453, R493, R497). -/
def State.killChannel (s : State) (ch : Fin 4) : State :=
  (forEach ((s.runs.filter (fun e => e.2.ch = ch.val && e.2.cls ≠ 0)).map (·.1)) State.kill s).settle

/-- The floor of a kind in force (R484). -/
def State.floor (s : State) (k : Nat) : Nat := s.policy.floors[k]?.getD 0

/-- A running image lies below its floor (R484). -/
def State.belowFloor (s : State) : Bool :=
  s.images.any (fun e => !e.2.needed && e.2.running.any (fun i => i.version < s.floor (unitKind e.1)))

/-- FLOOR_VIOLATION clears when no running image lies below its floor (R484). -/
def State.floorClear (s : State) : State :=
  if s.belowFloor then s else s.setObj Obj.policyFlags (setBits (s.obj Obj.policyFlags) 8 8 0)

/-- A unit whose domain is OFF has lost its images (R492); FLOOR_VIOLATION goes with the last low one (R484). -/
def State.loseImage (s : State) (u : Nat) : State :=
  ({ s with images := put s.images u { s.unitImage u with staged := none, apply := none, needed := true } } : State).floorClear

/-- A write of CH_POWER (R452): the park, gate or return takes effect at a tick edge. -/
def opChPower (who : Req) (ch : Fin 4) (v : Nat) (s : State) : State :=
  let k := Obj.chPower ch
  s.command who k (fun s =>
    let asked := s.power.p2 ≠ .awake
    let held := (s.pacer ch).program.isSome || (s.svc ch ≠ .offline && s.svc ch ≠ .covered) || asked
    let p := s.chPend.get ch
    if 2 < v then s.refuse k rcRange
    else if (v ≠ 0 && held) || (v = 0 && asked) then s.refuse k rcBusy
    else if v = 0 && s.obj (Obj.chPstate ch) = 0 then s.done k
    else
      let s1 : State := { s with chPend := s.chPend.set ch { p with power := some (v, s.edgeNo ch), was := s.powerNow ch } }
      let was := s.powerNow ch
      let s2 := s1.setObj (Obj.chPstate ch) 3
      let s3 := if v ≠ 0 || was = 0 then s2
        else
          let gated := s2.obj (Obj.memState ch) = memOff
          let s4 := if gated then s2.setObj (Obj.memState ch) memTraining else s2
          forEach slices (fun s q => if 4 ≤ q.2 && !gated then s else s.powerSlice ch q.1 true) s4
      s3.accept k)

/-- CH_POWER_ON (R452). -/
def execChPowerOn (who : Req) (ch : Fin 4) (s : State) : Out := clocked s (opChPower who ch 0)

/-- CH_POWER_PARK (R452). -/
def execChPowerPark (who : Req) (ch : Fin 4) (s : State) : Out := clocked s (opChPower who ch 1)

/-- CH_POWER_GATE (R452). -/
def execChPowerGate (who : Req) (ch : Fin 4) (s : State) : Out := clocked s (opChPower who ch 2)

/-- The domains of a channel go down: die L2 slices OFF; gated, its system cache, memory and field die too (R452). -/
def State.powerDown (s : State) (ch : Fin 4) (gate : Bool) : State :=
  let s1 := forEach slices (fun s q => if 4 ≤ q.2 then s else s.powerSlice ch q.1 false) s
  if !gate then
    (if s1.obj (Obj.memState ch) ≠ memOff then s1
     else forEach slices (fun s q => if 4 ≤ q.2 then s.powerSlice ch q.1 true else s) (s1.setObj (Obj.memState ch) memTraining))
  else
    let s2 := forEach slices (fun s q => if 4 ≤ q.2 then (s.flushLines ch q.1 (fun _ => true)).powerSlice ch q.1 false else s) s1
    let lo := ch.val * 2 ^ 32
    let c := s2.cores.get ch
    let s3 : State := { s2 with mem := zeroMem s2.mem lo (2 ^ 32),
                                cores := s2.cores.set ch { c with state := c.state.map (fun x => if x = 2 then 1 else x) } }
    ((s3.dropRanges ch (fun _ => true)).setObj (Obj.memState ch) memOff).loseImage (coresetId ch)

/-- CH_POWER_EFFECT (R453): the park or gate takes effect at the first edge after the write, and the channel lends from then on:
its OPP falls (R469). -/
def chPowerEffect (ch : Fin 4) (s : State) : State :=
  let p := s.chPend.get ch
  match p.power with
  | some (v, t) =>
    if v = 0 || s.edgeNo ch ≤ t then s
    else
      let s1 := ((s.killChannel ch).abortTest ch).powerDown ch (v = 2)
      let s2 : State := { s1 with chPend := s1.chPend.mod ch (fun x => { x with power := none }),
                                  lend := s1.lend.set ch { idle := 0, started := false, lending := false, backAt := none } }
      let s3 := if (s.lend.get ch).lending then s2 else s2.bump Obj.lends 1 64
      let s4 := (s3.setObj (Obj.chPstate ch) v).setPowerState
      ((s4.setObj (Obj.oppCur ch) (min (s4.obj (Obj.oppCur ch)) (s4.floorOf ch))).drive.sampleSummary ch).ended (Obj.chPower ch) 0 2
  | none => s

/-- CH_POWER_EFFECT (R453). -/
def execChPowerEffect (ch : Fin 4) (s : State) : Out := clocked s (chPowerEffect ch)

/-- CH_RETURN_DONE (R452, R453): the return ends at a tick edge, when the memory has trained and every slice has
invalidated; the lending of the channel ends with it (R470). -/
def chReturnDone (ch : Fin 4) (s : State) : State :=
  match (s.chPend.get ch).power with
  | some (0, t) =>
    let busy := slices.any (fun q => (s.cacheSlice ch q.1).phase = .invalidating)
    if s.edgeNo ch ≤ t || !s.atEdge ch || s.obj (Obj.memState ch) = memTraining || busy then s
    else
      let s1 : State := { s with chPend := s.chPend.mod ch (fun x => { x with power := none }) }
      ((((s1.setObj (Obj.chPstate ch) 0).setPowerState).endLending ch).sampleSummary ch).ended (Obj.chPower ch) 0 2
  | _ => s

/-- CH_RETURN_DONE (R453). -/
def execChReturnDone (ch : Fin 4) (s : State) : Out := clocked s (chReturnDone ch)

/-! ## Unit domains and pads (R455, R456, R466) -/

/-- Pad groups latch (R466): the mask in the form of PAD_LATCHED. -/
def State.latchPads (s : State) (m : Nat) : State :=
  s.setObj Obj.padLatched ((BitVec.ofNat 8 (s.obj Obj.padLatched) ||| BitVec.ofNat 8 m).toNat)

/-- The units whose enable was cleared and whose domain goes OFF at this edge of a channel are marked (R456): COMP and DP at
an output frame start, or at any edge while the channel has no frames; DPIN and KL carry no output frame. -/
def State.markOff (s : State) (ch : Fin 4) : State :=
  let due := (upto 12).filter (fun u => bit s.power.linger u && !s.enOf u && s.unitChan u = ch && (8 ≤ u || s.startsAt ch (s.tick ch)))
  { s with power := { s.power with off := setMask 12 s.power.off due } }

/-- DOMAIN_EN_OFF (R456, R466, R492): the domain of a unit whose enable was cleared goes OFF at the edge `State.markOff`
found; one that has been enabled again stays ON. Its run-time state and its images are lost and its pads latch. `u` is the
domain's number, 112 to 123. -/
def domainEnOff (pd : Nat) (s : State) : State :=
  let u := pd - 112
  if pd < 112 || 123 < pd || !bit s.power.off u then s
  else
    let s1 : State := { s with power := { s.power with linger := clearMask 12 s.power.linger [u], off := clearMask 12 s.power.off [u] } }
    let ch := toCh u
    if s.enOf u then s1
    else if u < 4 then
      (s1.setComp ch { Comp.reset with readMax := (s1.comp ch).readMax, readNext := (s1.comp ch).readNext }).loseImage (compId ch)
    else if u < 8 then
      let d := s1.dp ch
      ((((s1.setDp ch { d with attempts := 0, marker := [] }).setObj (Obj.dpState ch) (if s.obj (Obj.dpState ch) = 4 then 4 else 0)).setObj (Obj.hdcpState ch) 0).latchPads (2 ^ (u - 4))).loseImage (dpId ch)
    else if u < 10 then (s1.latchPads (2 ^ (u - 4))).loseImage (dpinId (u - 8))
    else
      let n := u - 10
      ((s1.setLink n { s1.link n with fails := 0, rxSeq := 0xFFF, rxPubs := [] }).latchPads (2 ^ (u - 4))).loseImage (klId n)

/-- DOMAIN_EN_OFF (R456). -/
def execDomainEnOff (u : Nat) (s : State) : Out := clocked s (domainEnOff u)

/-- PAD_RELEASE (R466, R471): groups whose domain is ON are released; the release of others is held. -/
def opPadRelease (who : Req) (v : Nat) (s : State) : State :=
  let k := Obj.padRelease
  s.command who k (fun s =>
    if 256 ≤ v then s.refuse k rcRange
    else
      let on := s.groupsOn v
      let s1 := s.freePads on
      let held := (BitVec.ofNat 8 s1.power.release ||| (BitVec.ofNat 8 v &&& BitVec.ofNat 8 (s.obj Obj.padLatched) &&& ~~~ BitVec.ofNat 8 on)).toNat
      ({ s1 with power := { s1.power with release := held } } : State).done k)

/-- PAD_RELEASE (R466). -/
def execPadRelease (who : Req) (v : Nat) (s : State) : Out := clocked s (opPadRelease who v)

/-! ## Standby entry (R462, R463) -/

/-- The state with the entry's phase changed. -/
def State.setP2 (s : State) (x : P2Phase) : State := { s with power := { s.power with p2 := x } }

/-- P2_ENTER (R462). -/
def opP2Enter (who : Req) (v : Nat) (s : State) : State :=
  let k := Obj.p2Enter
  s.command1 who k v (fun s =>
    let busy := chans.any (fun c => (s.pacer c).program.isSome || s.svc c = .covered || (s.chPend.get c).power.isSome) ||
      bits (s.obj Obj.pairCtrl) 31 30 ≠ 0 || syncRole (s.obj Obj.syncCtrl) ≠ 0 ||
      s.spaces.any (fun e => e.2.phase = .pending || e.2.phase = .draining) || s.power.p2 ≠ .awake
    if busy then s.refuse k rcBusy else (s.setP2 (.asked (s.edgeNo 0))).accept k)

/-- P2_ENTER (R462). -/
def execP2Enter (who : Req) (v : Nat) (s : State) : Out := clocked s (opP2Enter who v)

/-- P2_ENTRY_START (R462, R499): at channel 0's next edge no command starts any more; those that run are killed, and
self-tests end aborted. -/
def p2EntryStart (s : State) : State :=
  match s.power.p2 with
  | .asked t =>
    if s.edgeNo 0 ≤ t || !s.atEdge 0 then s
    else
      let s1 := forEach chans (fun s c => (s.killChannel c).abortTest c) s
      { s1 with power := { s1.power with p2 := .entry 1, window := s1.obj Obj.entryMode = 1, woken := 0, latched := 0 } }
  | _ => s

/-- P2_ENTRY_START (R462). -/
def execP2EntryStart (s : State) : Out := clocked s p2EntryStart

/-- An abort point stops the entry: ABORT mode, and a wake has come (R463). -/
def State.abortDue (s : State) : Bool := !s.power.window && s.power.woken ≠ 0

/-- Traffic of the Kister Link ports is open: a publication that a peer has begun (R417). -/
def State.linkTraffic (s : State) : Bool := s.links.any (fun e => !e.2.rxPubs.isEmpty)

/-- P2_ENTRY_DRAINED (R462): step E1 ends when no run, no publication and no link traffic is left. -/
def execP2EntryDrained (s : State) : Out :=
  clocked s fun s =>
    if s.power.p2 ≠ .entry 1 || !s.pubs.isEmpty || !s.runs.isEmpty || s.linkTraffic || s.abortDue then s else s.setP2 (.entry 2)

/-- Pad groups whose domains go to RET in the entry and are not latched yet. -/
def State.entryPads (s : State) : Nat :=
  ((upto 8).map (fun g => if s.domainOn (g + 4) && s.padFree g then 2 ^ g else 0)).sum

/-- P2_ENTRY_STEP_DONE (R462): one of steps E2 to E5 ends and the next begins; in WINDOW mode E2 to E4 are one. The
step that takes the link units to RET places their lanes in electrical idle and latches their pads (R466). -/
def p2StepDone (s : State) : State :=
  match s.power.p2 with
  | .entry n =>
    if n < 2 || 5 < n then s
    else
      let m := s.entryPads
      let s1 := if n = 3 || (n = 2 && s.power.window) then
          let s1 := (forEach chans (fun s c => s.setComp c { s.comp c with sent := .idle }) s).latchPads m
          { s1 with power := { s1.power with latched := m } }
        else s
      if s.abortDue then s1 else s1.setP2 (.entry (if n = 2 && s.power.window then 5 else n + 1))
  | _ => s

/-- P2_ENTRY_STEP_DONE (R462). -/
def execP2EntryStepDone (s : State) : Out := clocked s p2StepDone

/-- The return begins (R464, R465): WAKE_CAUSE takes the sources, and VRET goes to NORMAL before any domain. -/
def State.beginReturn (s : State) (cause : Nat) : State :=
  ((s.setP2 .returning).setObj Obj.wakeCause cause).setObj Obj.vretMode (setBits (s.obj Obj.vretMode) 0 0 0)

/-- P2_ENTRY_COMMIT (R460, R462): step E6. LOW_POWER is entered only below 1,200 mA, else REG_HIGH is set. A wake that
has come starts the return at once. -/
def p2Commit (ma : Nat) (s : State) : State :=
  if s.power.p2 ≠ .entry 6 then s
  else
    let s1 := ((s.setObj Obj.vretCurrent (ma % 65536)).setObj Obj.vretMode (if ma ≤ 1200 then 1 else 0x80)).setObj Obj.powerState 2
    let s2 := (s1.setP2 .standby).ended Obj.p2Enter 0 2
    if s.power.woken = 0 then s2 else s2.beginReturn s.power.woken

/-- P2_ENTRY_COMMIT (R462). -/
def execP2EntryCommit (vretCurrent : Nat) (s : State) : Out := clocked s (p2Commit vretCurrent)

/-- A wake source is of edge type (R464). -/
def edgeWake (src : Nat) : Bool := src = 1 || src = 2

/-- WAKE (R463, R464): an enabled source is asserted; sources 4 and 5 are those of an enabled video input or port. In P2 it
starts the return; during the entry it is kept for the next abort point or for the commit, but an edge in the arming window of
WINDOW mode is lost. -/
def wake (src : Nat) (inWindow : Bool) (s : State) : State :=
  let there : Bool := match src with
    | 4 => [8, 9].any s.enOf
    | 5 => [10, 11].any s.enOf
    | _ => true
  let on := src < 6 && there && (src = 0 || bit (s.obj Obj.wakeMask) src)
  match s.power.p2 with
  | .standby => if on then s.beginReturn (2 ^ src) else s
  | .entry _ =>
    if !on || (s.power.window && inWindow && edgeWake src) then s
    else { s with power := { s.power with woken := (BitVec.ofNat 6 s.power.woken ||| BitVec.ofNat 6 (2 ^ src)).toNat } }
  | _ => s

/-- WAKE (R464). -/
def execWake (src : Nat) (inWindow : Bool) (s : State) : Out := clocked s (wake src inWindow)

/-- A wake event of edge type by a BAR0 write (source 1) or a datagram (source 2) (R358, R464), and whether it is lost (R463).
Whether it falls in the arming window of WINDOW mode is not known to the model: a free value. -/
def State.wakeEdge (s : State) (src : Nat) : Bool × State :=
  if s.power.window && s.power.p2 = .entry 6 then
    let (v, s1) := s.free64
    (v.getLsbD 0, wake src (v.getLsbD 0) s1)
  else (false, wake src false s)

/-- A wake event by a BAR0 write, whose data is never lost (R463). -/
def State.edgeEvent (s : State) (src : Nat) : State := (s.wakeEdge src).2

/-- ENTRY_ABORT (R463): at an abort point the completed steps are undone in reverse order. -/
def execEntryAbort (s : State) : Out :=
  clocked s fun s =>
    match s.power.p2 with
    | .entry n => if 5 < n || !s.abortDue then s else (s.setP2 .undoing).setObj Obj.wakeCause s.power.woken
    | _ => s

/-! ## Return and brown-out (R461, R465) -/

/-- Links that come back idle (R465): display outputs, video inputs and ports train anew. -/
def State.idleLinks (s : State) : State :=
  let s1 := forEach chans (fun s c => if s.enOf (4 + c) && s.obj (Obj.dpState c) ≠ 4 then s.trainDp c else s) s
  let s2 := forEach [0, 1] (fun s i => if s.obj (Obj.dpinState i) = 2 || s.obj (Obj.dpinState i) = 3 then s.dropInput i 1 else s) s1
  forEach [0, 1] (fun s p => if s.portUp p then (s.portDown p).setObj (Obj.klState p) 1 else s) s2

/-- The return ends (R465, R460): every domain is as before entry, and attention names the cause. -/
def returnComplete (s : State) : State :=
  if s.power.p2 ≠ .returning then s
  else
    let s1 : State := { s with power := { s.power with p2 := .awake, woken := 0, latched := 0 } }
    let s2 := s1.setPowerState.idleLinks
    let s3 := if bit (s2.obj Obj.vretMode) 7 then s2.attnState noCh Obj.vretMode else s2
    s3.attnState noCh Obj.wakeCause

/-- BROWN_OUT (R461, R471): VRET overcurrent in LOW_POWER, or in the commit step, resets the device. -/
def execBrownOut (s : State) : Out :=
  clocked s fun s =>
    let low := bit (s.obj Obj.vretMode) 0 && s.power.p2 = .standby
    if low || s.power.p2 = .entry 6 then s.deviceReset false 2 else s

end Sys2Proof.Machine
end

