-- ==== Sys2Proof/Machine/Boot.lean ====
section
/-! DEFINITION. Reset and boot (R473 to R477, R495, R540 to R547), unit images, policies, identity and attestation
(R478 to R488), and live update (R489 to R492). -/

namespace Sys2Proof.Machine

/-- The bytes of an ASCII string. -/
def ascii (s : String) : List Byte := s.toList.map (fun c => BitVec.ofNat 8 c.toNat)

/-! ## Units and their images (R478 to R481) -/

/-- UNIT_IDs in ascending order (R478). -/
def unitIds : List Nat :=
  [0x00, 0x10, 0x11, 0x12, 0x13, 0x20, 0x21, 0x22, 0x23, 0x30, 0x31, 0x32, 0x33, 0x40, 0x41, 0x50, 0x51, 0x60, 0x61, 0x62, 0x63]

/-- Payload limit of a kind in bytes (R478). -/
def payloadLimit (k : Nat) : Nat := ([768, 256, 512, 256, 256, 256, 16384][k]?.getD 0) * 1024

/-- Bytes of an image header. -/
def headerSize : Nat := 8192

/-- An owner certificate that passes check 4 of R481 for bit `b` of its UNIT_MASK (R480). -/
def State.certOk (s : State) (cert root : List Byte) (b : Nat) : Bool :=
  field cert 0 4 = 0x54524543 && field cert 4 2 = 1 && field cert 6 2 < 256 && reserved cert 0x14 12 &&
  MlDsa.verify (ascii "LPX-IQ7200-CERT") root (slice cert 0 0x540) (slice cert 0x540 2420) &&
  bit (field cert 6 2) b && s.policy.certFloor ≤ field cert 0x10 4 &&
  (!bit s.policy.flags 0 || slice cert 8 8 = s.policy.owner)

/-- Checks 1 to 7 of R481 on an image header: 0, or the code of the first that fails. -/
def State.headerCheck (s : State) (h : List Byte) : Nat :=
  let u := field h 6 2
  let k := unitKind u
  let signer := field h 9 1
  let root := slice h 0x40 1312
  let cert := slice h 0x560 3764
  let len := field h 0x18 8
  if field h 0 4 ≠ 0x474D4951 || field h 4 2 ≠ 1 || !unitIds.contains u || len = 0 || payloadLimit k < len || 1 < signer ||
     1 < field h 0x0A 2 || !reserved h 0x1D88 632 || (signer = 0 && !reserved h 0x560 3764) then eImageFormat
  else if field h 8 1 ≠ 0xB0 then eImageFormat
  else if sha3 root ≠ Config.rootDigest then eImageSignature
  else if signer = 1 && !s.certOk cert root k then eImageSignature
  else if signer = 0 && bit s.policy.flags 0 && !bit s.policy.flags 1 then eImageSignature
  else if !MlDsa.verify (ascii "LPX-IQ7200-IMAGE") (if signer = 1 then slice cert 0x20 1312 else root) (slice h 0 0x1414) (slice h 0x1414 2420)
  then eImageSignature
  else if field h 0x0C 4 < s.floor k then eImageRollback
  else 0

/-- Check 8 of R481 on a whole image. -/
def payloadCheck (b : List Byte) : Nat :=
  if b.length ≠ headerSize + field b 0x18 8 || sha3 (b.drop headerSize) ≠ slice b 0x20 32 then eImageFormat else 0

/-- All eight checks of R481 on a whole image. -/
def State.imageCheck (s : State) (b : List Byte) : Nat :=
  match s.headerCheck b with
  | 0 => payloadCheck b
  | c => c

/-- What Marshal keeps of an image. -/
def imageOf (b : List Byte) (flash : Bool) : Image :=
  { signer := field b 9 1, version := field b 0x0C 4, build := field b 0x10 4, model := field b 0x14 4,
    retrain := bit (field b 0x0A 2) 0, digest := slice b 0x20 32, flash := flash }

/-- The state with a unit's images changed. -/
def State.modImage (s : State) (u : Nat) (f : UnitImage → UnitImage) : State := { s with images := put s.images u (f (s.unitImage u)) }

/-- A unit's domain is OFF (R482): a link unit's or composition's by its enable, a gated channel's field die. -/
def State.unitOff (s : State) (u : Nat) : Bool :=
  let n := u % 16
  if unitKind u = 2 then !s.domainOn n
  else if unitKind u = 3 then !s.domainOn (4 + n)
  else if unitKind u = 4 then !s.domainOn (8 + n)
  else if unitKind u = 5 then !s.domainOn (10 + n)
  else unitKind u = 6 && s.powerNow (toCh n) = 2

/-- A Marshal image starts (R474, R476): MARSHAL_STATE is LOADING, and the memories of channels 0 and 1 train. -/
def State.startMarshal (s : State) (i : Image) : State :=
  let s1 := (s.modImage 0 (fun x => { x with running := some i, needed := false })).floorClear
  forEach ([0, 1] : List (Fin 4)) (fun s n =>
    if s.obj (Obj.memState n) = memOff && s.obj (Obj.chPstate n) = 0 then s.setObj (Obj.memState n) memTraining else s)
    { s1 with marshal := .loading }

/-- A unit starts an image at once (R474, R492). -/
def State.startUnit (s : State) (u : Nat) (i : Image) : State :=
  (s.modImage u (fun x => { x with running := some i, needed := false })).floorClear

/-- An image that passed every check (R474, R476, R482, R492): Marshal's starts in ROM and RECOVERY; a unit without
one in LOADING, or one that waits for it, starts it at once; otherwise it is staged. -/
def State.takeImage (s : State) (u : Nat) (i : Image) : State :=
  let x := s.unitImage u
  if u = 0 && (s.marshal = .rom || s.marshal = .recovery) then s.startMarshal i
  else if (x.needed && x.running.isSome) || (s.marshal = .loading && x.running.isNone) then s.startUnit u i
  else s.modImage u (fun x => { x with staged := some i })

/-- The ROM reads Marshal's image: its identity has been derived, and the policy of a secure element has been read (phase 5 of
R474). -/
def State.phase5 (s : State) : Bool := s.obj Obj.idState ≠ 0 && (!bit (s.obj Obj.bootInfo) 2 || s.policyRead)

/-- Images are read from the serial flash: BOOT_SRC names it (R473), and no RECOVERY has made the host their source (R476). -/
def State.fromFlash (s : State) : Bool := !s.recovered && (bits (s.obj Obj.bootInfo) 1 0 = 0 || bits (s.obj Obj.bootInfo) 1 0 = 3)

/-- The requester's transport is the one that BOOT_SRC names (R473). -/
def State.bootFrom (s : State) (who : Req) : Bool :=
  match who with
  | .fn _ => bits (s.obj Obj.bootInfo) 1 0 = 1
  | .t1 _ _ => bits (s.obj Obj.bootInfo) 1 0 = 2

/-- Which images are received now from a requester (R473, R474, R476): in ROM Marshal's alone, from phase 5 on, on the transport
that BOOT_SRC names; in RECOVERY Marshal's on any; in LOADING those of any unit, on that transport or after a RECOVERY on any;
later all. Others are answered BUSY (DEDUCED, log entry 152). -/
def State.mayReceive (s : State) (who : Req) (u : Nat) : Bool :=
  match s.marshal with
  | .rom => u = 0 && s.phase5 && s.bootFrom who
  | .recovery => u = 0
  | .loading => s.recovered || s.bootFrom who
  | _ => true

/-- IMAGE_STATUS (R500). -/
def imageStatus (code st u : Nat) : Nat := code * 65536 + st * 4096 + u % 256

/-- A delivered image ends its reception (R476, R482): staged or started, or refused with its code; a Marshal image
that ROM would have taken leads to RECOVERY where it is refused. -/
def State.endImage (s : State) (who : Req) (b : List Byte) (code : Nat) : State :=
  let u := field b 6 2
  let s1 := if code = 0 then s.takeImage u (imageOf b false)
    else if s.marshal = .rom && s.mayReceive who u then { s with marshal := .recovery, recovered := true } else s
  s1.setObj Obj.imageStatus (imageStatus code (if code = 0 then 3 else 4) u)

/-- IMAGE_CHUNK (R482). The header is checked when it has arrived, the payload when it has (R481). -/
def opImageChunk (who : Req) (v : List Byte) (s : State) : State :=
  s.command who Obj.imageChunk (fun s =>
    let off := field v 0 4
    let n := field v 4 2
    let other := s.receiving.any (fun r => r.1 ≠ who)
    let have' := if off = 0 then [] else ((s.receiving.map (·.2)).getD [])
    let drop : State := { s with receiving := none }
    if v.length ≠ 1024 then s.answer rcLength
    else if n = 0 || 1016 < n || !reserved v (8 + n) (1016 - n) || !reserved v 6 2 then s.answer rcRange
    else if other then s.answer rcBusy
    else if off ≠ have'.length then drop.answer rcRange
    else
      let b := have' ++ slice v 8 n
      let u := field b 6 2
      let header := have'.length < headerSize && headerSize ≤ b.length
      let total := headerSize + field b 0x18 8
      let complete := headerSize ≤ b.length && b.length = total
      let code := if header then s.headerCheck b else 0
      if code ≠ 0 then (drop.endImage who b code).answer rcRange
      else if (header || complete) && (!s.mayReceive who u || s.unitOff u) then drop.answer rcBusy
      else if headerSize ≤ b.length && total < b.length then (drop.endImage who b eImageFormat).answer rcRange
      else if complete then
        let s1 := drop.endImage who b (payloadCheck b)
        (s1.attn atDone noCh Obj.imageStatus (s1.obj Obj.imageStatus)).answer rcOk
      else (({ s with receiving := some (who, b) } : State).setObj Obj.imageStatus (imageStatus 0 1 u)).answer rcOk)

/-- IMAGE_CHUNK (R482). -/
def execImageChunk (who : Req) (chunk : List (BitVec 8)) (s : State) : Out := clocked s (opImageChunk who chunk)

/-! ## Policies (R483 to R485) -/

/-- Bytes of a policy object. -/
def policySize : Nat := 6344

/-- A policy object is accepted by R483. An image inside is not needed: `root` is the vendor root's key, which the
object does not carry, so the signature is checked against the key whose digest the mask ROM holds. -/
def State.policyOk (s : State) (b : List Byte) : Bool :=
  let signer := field b 6 1
  let cert := slice b 0xA0 3764
  let root := Config.rootKey
  b.length = policySize && field b 0 4 = 0x594C4F50 && field b 4 2 = 1 && signer ≤ 1 && reserved b 7 1 && field b 0x0C 4 < 8 &&
  reserved b 0x34 4 && reserved b 0x7C 36 && (signer = 1 || reserved b 0xA0 3764) &&
  (if signer = 1 then s.certOk cert root 7 && MlDsa.verify (ascii "LPX-IQ7200-POLICY") (slice cert 0x20 1312) (slice b 0 0xF54) (slice b 0xF54 2420)
   else MlDsa.verify (ascii "LPX-IQ7200-POLICY") root (slice b 0 0xF54) (slice b 0xF54 2420)) &&
  s.policy.version < field b 8 4 &&
  (signer = 0 || s.policy.version = 0 || slice b 0x10 8 = s.policy.owner)

/-- A policy comes into force (R484): floors only rise; a running or staged image below its floor sets
FLOOR_VIOLATION, with attention. -/
def State.usePolicy (s : State) (b : List Byte) : State :=
  let floors := (upto 8).map (fun k => if k = 7 then 0 else max (s.floor k) (field b (0x18 + 4 * k) 4))
  let p : Policy :=
    { version := field b 8 4, flags := field b 0x0C 4, owner := slice b 0x10 8, floors := floors,
      allow := (upto 8).map (fun i => (field b (0x38 + 8 * i) 4, field b (0x3C + 8 * i) 4)),
      certFloor := max s.policy.certFloor (field b 0x78 4) }
  let s1 : State := { s with policy := p }
  let low := s1.images.any (fun e => ((if e.2.needed then [] else e.2.running.toList) ++ e.2.staged.toList).any (fun i => i.version < s1.floor (unitKind e.1)))
  let was := bit (s.obj Obj.policyFlags) 8
  let s2 := s1.setObj Obj.policyFlags (p.flags + (if low then 256 else 0) + 512)
  if low && !was then s2.attnState noCh Obj.policyFlags else s2

/-- POLICY_WRITE (R483). Its command status keeps E_POLICY_REFUSED (log entry 149). -/
def opPolicyWrite (who : Req) (b : List Byte) (s : State) : State :=
  s.command who Obj.policyWrite (fun s =>
    if b.length ≠ policySize then s.answer rcLength
    else if !s.policyOk b then (s.answer rcRange).setCmd Obj.policyWrite ePolicy 3
    else (s.usePolicy b).answer rcOk)

/-- POLICY_WRITE (R483). -/
def execPolicyWrite (who : Req) (policy : List (BitVec 8)) (s : State) : Out := clocked s (opPolicyWrite who policy)

/-! ## Reset and boot (R473 to R477) -/

/-- RESET_RELEASE (R473, R314): the pins are sampled, the cache slices begin to invalidate, and boot begins. -/
def execResetRelease (bootSrc : Nat) (sePresent t1Role : Bool) (boardId : Nat) (s : State) : Out :=
  clocked s fun s =>
    if s.released then s
    else
      let info := bootSrc % 4 + (if sePresent then 4 else 0) + (if t1Role then 8 else 0) + boardId % 4 * 16
      let s1 := ({ s with released := true } : State).setObj Obj.bootInfo info
      forEach chans (fun s c => forEach slices (fun s q => s.powerSlice c q.1 true) s) (s1.setObj Obj.deviceIndex (boardId % 4))

/-- RESET_ASSERT (R541): a RESET_N low pulse of 1 µs or longer. A device that is still in a reset stays in it, with the cause
that reset gave (R548). -/
def execResetAssert (durationNs : Nat) (s : State) : Out :=
  clocked s fun s => if durationNs < 1000 || !s.released then s else s.deviceReset false 1

/-- The device identity (R486): the key pair of the seed that the PUF gives. -/
def identity : MlDsa.KeyPair := MlDsa.keyGen (sha3 (ascii "LPX-IQ7200-ID" ++ slice Config.puf 0 32))

/-- IDENTITY_DERIVED (R486): after reset release the key pair is there, or ID_STATE is FAILED. -/
def execIdentityDerived (ok : Bool) (s : State) : Out :=
  clocked s fun s =>
    if !s.released || s.obj Obj.idState ≠ 0 then s
    else if ok then
      let pk := slice identity.pk 0 1312
      ((s.setOct Obj.deviceIdPubkey pk).setOct Obj.idDigest (sha3 pk)).setObj Obj.idState 1
    else s.setState noCh Obj.idState 2

/-- BOOT_POLICY_READ (R474, R476, R484): with a secure element, phase 4 ends with a policy it supplies that R483 accepts in force;
otherwise MARSHAL_STATE becomes RECOVERY. -/
def execBootPolicyRead (policy : Option (List (BitVec 8))) (s : State) : Out :=
  clocked s fun s =>
    if s.marshal ≠ .rom || s.obj Obj.idState = 0 || !bit (s.obj Obj.bootInfo) 2 || s.policyRead then s
    else
      let s1 : State := { s with policyRead := true }
      match policy.filter s.policyOk with
      | some b => s1.usePolicy b
      | none => { s1 with marshal := .recovery, recovered := true }

/-- One entry of the flash directory (R475): a unit, and the offsets of its copies A and B, 0 for none. -/
structure FlashEntry where
  unit : Nat
  a    : Nat
  b    : Nat
  deriving DecidableEq, Repr

/-- The directory of a serial flash (R475, R476); none where it is missing or malformed. -/
def flashEntries (d : List Byte) : Option (List FlashEntry) :=
  let n := field d 4 2
  let es := (upto n).map (fun i => slice d (0x10 + 16 * i) 16)
  let good (e : List Byte) : Bool :=
    unitIds.contains (field e 0 2) && reserved e 2 2 && field e 4 4 % 4096 = 0 && field e 8 4 % 4096 = 0 && reserved e 12 4
  if field d 0 4 = 0x52494451 && 1 ≤ n && n ≤ 21 && reserved d 6 10 && 0x10 + 16 * n ≤ d.length && es.all good
  then some (es.map (fun e => { unit := field e 0 2, a := field e 4 4, b := field e 8 4 })) else none

/-- A unit's image in flash and whether it is copy B: copy B counts only where copy A is absent or refused (R475, R481). -/
def State.flashImage (s : State) (r : FlashRead) (u : Nat) : Option (List Byte × Bool) :=
  match ((flashEntries r.dir).getD []).find? (fun e => e.unit = u) with
  | none => none
  | some e =>
    let copy (o : Nat) : Option (List Byte) :=
      if o = 0 then none else (look r.copies o).filter (fun b => s.imageCheck b = 0 && field b 6 2 = u)
    match copy e.a, copy e.b with
    | some b, _ => some (b, false)
    | none, some b => some (b, true)
    | none, none => none

/-- MARSHAL_IMAGE_VERIFIED (R474 to R476): in phase 5, where BOOT_SRC names the flash, Marshal's image starts, or the device
enters RECOVERY. An image that the host delivers starts on its arrival. -/
def execMarshalImageVerified (flash : FlashRead) (s : State) : Out :=
  clocked s fun s =>
    if s.marshal ≠ .rom || !s.phase5 || !s.fromFlash then s
    else match s.flashImage flash 0 with
      | none => { s with marshal := .recovery, recovered := true }
      | some (b, copyB) =>
        let s1 := s.startMarshal (imageOf b true)
        s1.setObj Obj.bootInfo (setBits (s1.obj Obj.bootInfo) 8 8 (if copyB then 1 else 0))

/-- Start one unit's image read from flash at boot. -/
def State.bootUnit (r : FlashRead) (s : State) (u : Nat) : State :=
  match s.flashImage r u with
  | some (b, _) => if u = 0 then s else s.startUnit u (imageOf b true)
  | none => s

/-- BOOT_SELF_TEST_DONE (R474, R495): C2 and C3 are tested after phase 6. Slots that failed stay unnamed, and slot 16 takes the lowest such name if it
passed; with no failure it is ARMED. -/
def execBootSelfTestDone (ch : Fin 4) (failed : List Nat) (s : State) : Out :=
  clocked s fun s =>
    if s.tested.get ch || s.marshal = .rom || s.marshal = .recovery || (2 ≤ ch.val && !s.phase6Over) then s
    else
      let bad (p : Nat) : Bool := failed.contains p
      let first := (upto 16).find? bad
      let spare := !bad 16
      let map := (upto 16).map (fun i => if !bad i then i else if spare && first = some i then 16 else 255)
      let state := (upto 17).map (fun p => if bad p then 4 else if p < 16 then 0 else if first.isSome then 0 else 2)
      ({ s with cores := s.cores.set ch { map := map, state := state }, tested := s.tested.set ch true } : State).phase7

/-! ## Electrical events (R540, R543, R547) -/

/-- SUPPLY_UNDERVOLTAGE (R540, R547): a power-on reset, held until the supplies are back. -/
def execSupplyUndervoltage (s : State) : Out := .next { s.deviceReset true 0 with halt := some .supply }

/-- SUPPLY_RESTORED (R540). -/
def execSupplyRestored (s : State) : Out := .next (if s.halt = some .supply then { s with halt := none } else s)

/-- THERMAL_ALERT (R547): THERM_ALERT_N; nothing else changes. -/
def execThermalAlert (above : Bool) (s : State) : Out := clocked s (fun s => { s with power := { s.power with hot := above } })

/-- THERMAL_TRIP (R547): every clock stops until the supplies are removed. -/
def execThermalTrip (s : State) : Out := clocked s (fun s => { s with halt := some .trip })

/-- SYS_REFCLK_LOSS (R543). -/
def execSysRefclkLoss (s : State) : Out := clocked s (fun s => { s with halt := some .refclk })

/-- SYS_REFCLK_RETURN (R543): the device is reset as at power-on. -/
def execSysRefclkReturn (s : State) : Out := .next (if s.halt = some .refclk then s.deviceReset true 0 else s)

/-! ## Attestation and HDCP keys (R487, R488) -/

/-- The signed part of an attestation quote (R487). -/
def State.quoteBody (s : State) : List Byte :=
  let flags := (if bit (s.obj Obj.policyFlags) 8 then 1 else 0) + (if bit (s.obj Obj.bootInfo) 2 then 2 else 0) +
    (if s.policy.version ≠ 0 then 4 else 0) + (if s.recovered then 8 else 0)
  let unit (u : Nat) : List Byte := match (s.unitImage u).running with
    | some i => toLE 2 u ++ toLE 1 i.signer ++ toLE 1 0 ++ toLE 4 i.version ++ slice i.digest 0 32
    | none => toLE 2 u ++ toLE 1 0xFF ++ toLE 1 0 ++ toLE 4 0 ++ List.replicate 32 0
  toLE 4 0x544F5551 ++ toLE 2 1 ++ toLE 2 21 ++ s.oct Obj.attestNonce 32 ++ s.oct Obj.idDigest 32 ++ slice Config.rootDigest 0 32 ++
  slice s.policy.owner 0 8 ++ toLE 4 s.policy.version ++ toLE 4 flags ++ toLE 8 (s.tick 0) ++ (unitIds.map unit).flatten

/-- ATTEST_RUN (R486, R487). -/
def opAttestRun (who : Req) (v : Nat) (s : State) : State :=
  let k := Obj.attestRun
  s.command1 who k v (fun s =>
    if s.quoting.isSome then s.refuse k rcBusy
    else if s.obj Obj.idState ≠ 1 then (s.answer rcRange).setCmd k eIdUnavailable 3
    else ({ s with quoting := some s.quoteBody } : State).accept k)

/-- ATTEST_RUN (R487). -/
def execAttestRun (who : Req) (v : Nat) (s : State) : Out := clocked s (opAttestRun who v)

/-- ATTEST_DONE (R487). -/
def execAttestDone (s : State) : Out :=
  clocked s fun s =>
    match s.quoting with
    | none => s
    | some b =>
      let sig := slice (MlDsa.sign identity (slice (Config.signRandom s.fresh) 0 32) (ascii "LPX-IQ7200-QUOTE") b) 0 2420
      let s1 : State := { s with quoting := none, fresh := s.fresh + 1 }
      (s1.setOct Obj.attestQuote (b ++ sig)).ended Obj.attestRun 0 2

/-- HDCP_KEYS (R488): PF0 only, in one write. -/
def opHdcpKeys (who : Req) (keys : List Byte) (s : State) : State :=
  s.command who Obj.hdcpKeys (fun s =>
    if who ≠ .fn 0 then s.answer rcNotAuth
    else if keys.length ≠ 2048 then s.answer rcLength
    else ((s.setOct Obj.hdcpKeys keys).setObj Obj.hdcpKeyState 1).answer rcOk)

/-- HDCP_KEYS (R488). -/
def execHdcpKeys (who : Req) (keys : List (BitVec 8)) (s : State) : Out := clocked s (opHdcpKeys who keys)

/-! ## Live update (R489 to R492) -/

/-- TEST_TARGET of a unit on the channels that test it (R496): COMP and Marshal have none. -/
def testTargets (u : Nat) : List Nat :=
  if unitKind u = 3 then [0x50] else if unitKind u = 4 then [0x60 + u % 16] else if unitKind u = 5 then [0x70 + u % 16]
  else if unitKind u = 6 then upto 17 ++ [0x40, 0x41, 0x42, 0x43] else []

/-- A unit is under self-test, pending or running, on a channel that may test it (R490, R496). -/
def State.unitTested (s : State) (u : Nat) : Bool :=
  chans.any (fun c =>
    let v := s.obj (Obj.testStatus c)
    let st := bits v 15 12
    (st = 1 || st = 2) && (testTargets u).contains (v % 256) && (unitKind u = 4 || unitKind u = 5 || c.val = u % 16))

/-- UPDATE_APPLY (R489, R490): the image waits for the first edge from tick T on that is still to come. -/
def opUpdateApply (who : Req) (t : Nat) (s : State) : State :=
  let k := Obj.updateApply
  s.command who k (fun s =>
    let u := s.obj Obj.updateTarget
    let x := s.unitImage u
    let serves (c : Fin 4) : Bool := u = 0 || u = coresetId c
    let model (i : Image) : Bool := chans.any (fun c => serves c && (s.pacer c).program.any (fun p => p.model ≠ i.model))
    if !unitIds.contains u then s.refuse k rcRange
    else match x.staged with
      | none => s.refuse k rcBusy
      | some i =>
        if x.apply.isSome || s.unitTested u || bits (s.obj Obj.pairCtrl) 31 30 ≠ 0 || model i then s.refuse k rcBusy
        else (s.modImage u (fun x => { x with apply := some (max t (s.tick (s.applyCh u) + 1)) })).accept k)

/-- UPDATE_APPLY (R489). -/
def execUpdateApply (who : Req) (t : Nat) (s : State) : Out := clocked s (opUpdateApply who t)

/-- An image with RETRAIN retrains its unit's link (R489). -/
def State.retrain (s : State) (u : Nat) : State :=
  let n := u % 16
  if unitKind u = 3 then s.trainDp (toCh n)
  else if unitKind u = 4 then (if s.obj (Obj.dpinState n) = 2 || s.obj (Obj.dpinState n) = 3 then s.dropInput n 1 else s)
  else if unitKind u = 5 then (if s.portUp n then (s.portDown n).setObj (Obj.klState n) 1 else s)
  else s

/-- UPDATE_APPLY_POINT (R489, R491): the staged image takes effect, or is discarded where its floor has risen. Marshal's
replacement begins. -/
def updatePoint (u : Nat) (s : State) : State :=
  let x := s.unitImage u
  match x.apply, x.staged with
  | some t, some i =>
    if !s.applyReady u t || !s.atEdge (s.applyCh u) then s
    else if i.version < s.floor (unitKind u) then
      let s1 := ((s.modImage u (fun x => { x with staged := none, apply := none })).floorClear).setCmd Obj.updateApply eImageRollback 3
      s1.attn eImageRollback noCh Obj.updateApply eImageRollback
    else
      let s1 := (s.modImage u (fun x => { x with running := some i, staged := none, apply := none, needed := false })).floorClear
      let s2 := if i.retrain then s1.retrain u else s1
      let s3 : State := if u = 0 then { s2 with marshal := .updating } else s2
      s3.ended Obj.updateApply 0 2
  | _, _ => s

/-- UPDATE_APPLY_POINT (R489). -/
def execUpdateApplyPoint (unitId : Nat) (s : State) : Out := clocked s (updatePoint unitId)

/-- UPDATE_DISCARD (R500): the staged image of a unit, and an apply of it, are gone. -/
def opUpdateDiscard (who : Req) (u : Nat) (s : State) : State :=
  let k := Obj.updateDiscard
  s.command who k (fun s =>
    if !unitIds.contains u then s.refuse k rcRange
    else ((s.modImage u (fun x => { x with staged := none, apply := none })).floorClear).done k)

/-- UPDATE_DISCARD (R489). -/
def execUpdateDiscard (who : Req) (unitId : Nat) (s : State) : Out := clocked s (opUpdateDiscard who unitId)

/-- IMAGE_RELOAD (R492): a unit whose domain has come back reloads its image from flash where it had it from there;
otherwise it is NEEDED, with attention. -/
def execImageReload (unitId : Nat) (flash : FlashRead) (s : State) : Out :=
  clocked s fun s =>
    let x := s.unitImage unitId
    if !x.needed || s.unitOff unitId then s
    else
      match x.running.any Image.flash, s.flashImage flash unitId with
      | true, some (b, _) => s.startUnit unitId (imageOf b true)
      | _, _ => s.attn atState noCh Obj.unitTable 6

end Sys2Proof.Machine
end

