-- ==== Sys2Proof/Machine/Service.lean ====
section
/-! DEFINITION. Taking channels out of service and back (R40 to R42, R493), channel resets (R494), spare-core
substitution (R495), and self-tests (R496 to R499). -/

namespace Sys2Proof.Machine

/-! ## Service changes (R40 to R42, R493) -/

/-- CH_SERVICE_STATUS (R501). -/
def svcStatus (code st mode : Nat) : Nat := code * 65536 + st * 4096 + mode

/-- The channels one service request changes: the whole gang of a leader, or the channel alone (R493). -/
def State.svcSet (s : State) (ch : Fin 4) (all : Bool) : List (Fin 4) := if all then s.ownerSet ch else [ch]

/-- Another member of the gang, in force or accepted, is out by request or will be (R42). -/
def State.secondOut (s : State) (ch : Fin 4) : Bool := (s.gangOf ch ++ s.gangNext ch).any (fun m => m ≠ ch && s.goingOut m)

/-- A write to CH_SERVICE_APPLY (R493, R42): `mode` must be the mode staged in CH_SERVICE. -/
def opChService (who : Req) (ch : Fin 4) (t mode : Nat) (s : State) : State :=
  let k := Obj.chServiceApply ch
  s.command who k (fun s =>
    let all := bit (s.obj (Obj.chService ch)) 2
    let set := s.svcSet ch all
    let leads := s.gangOf ch ≠ [] && s.leaderOf ch = ch
    let frame := s.startsAt ch t || (t ≠ 0 && (s.pacer ch).change.dueAt = some t)
    let unfit := (mode = 1 && s.gangOf ch = []) || (mode = 2 && !set.all (fun m => s.inPair m && (s.portSet 0).contains m)) ||
      (mode = 0 && set.any (fun m => (s.outBy.get m).isNone))
    if (all && (!leads || mode = 1)) || !frame || t < s.tick ch + 2 || unfit then s.refuse k rcRange
    else if mode ≠ 0 && !all && s.secondOut ch then s.refuse k rcBusy
    else
      let s1 := forEach set (fun s m => s.setObj (Obj.chServiceStatus m) (svcStatus 0 1 (s.obj (Obj.chServiceStatus m) % 4))) s
      ({ s1 with chPend := s1.chPend.mod ch (fun p => { p with svc := some { t := t, mode := mode, all := all } }) } : State).accept k)

/-- A write to CH_SERVICE_APPLY with the mode staged: the row of another mode does nothing. -/
def chServiceRow (who : Req) (ch : Fin 4) (t mode : Nat) (s : State) : State :=
  if s.obj (Obj.chService ch) % 4 = mode then opChService who ch t mode s else s

/-- SERVICE_RETURN (R493): mode 0. -/
def execServiceReturn (who : Req) (ch : Fin 4) (t : Nat) (s : State) : Out := clocked s (chServiceRow who ch t 0)

/-- SERVICE_OUT_GANG_COVER (R493): mode 1. -/
def execServiceOutGangCover (who : Req) (ch : Fin 4) (t : Nat) (s : State) : Out := clocked s (chServiceRow who ch t 1)

/-- SERVICE_OUT_TWIN_COVER (R493): mode 2. -/
def execServiceOutTwinCover (who : Req) (ch : Fin 4) (t : Nat) (s : State) : Out := clocked s (chServiceRow who ch t 2)

/-- SERVICE_OUT_NO_COVER (R493): mode 3. -/
def execServiceOutNoCover (who : Req) (ch : Fin 4) (t : Nat) (s : State) : Out := clocked s (chServiceRow who ch t 3)

/-- Neighbours in a gang: members next to each other. -/
def State.neighbours (s : State) (a b : Fin 4) : Bool := (s.gangOf a).contains b && (a.val + 1 = b.val || b.val + 1 = a.val)

/-- Two stripes together stay within 2.0 Gpixel/s on the channel that renders them (R40). -/
def State.coverRate (s : State) (m ch : Fin 4) : Bool :=
  let a := s.geom m
  let b := s.geom ch
  (a.w * a.h + b.w * b.h) * 65536 ≤ 2 * max (s.frameLen m) 1 * s.periodOf m

/-- Member `m` can cover channel `ch` from tick `t` (R40, R493). -/
def State.canCover (s : State) (m ch : Fin 4) (t : Nat) : Bool :=
  s.neighbours m ch && (s.outBy.get m).isNone && s.coverRate m ch && s.programAt m t false &&
  s.compUp ch && bit (s.dp ch).cfg.ctrl 31

/-- An enabled IMPORT window of KL0 holds the cover ring of a channel (R444, R493). -/
def State.importsCover (s : State) (ch : Fin 4) : Bool :=
  let a := s.obj (Obj.coverVringBase ch)
  (upto 16).any (fun i => let (l, _, n, fl) := winEntry (s.link 0).windows i; fl % 4 = 3 && l ≤ a && a < l + n)

/-- The conditions of a mode hold for channel `ch` at tick `t` (R493). -/
def State.svcHolds (s : State) (ch : Fin 4) (t mode : Nat) : Bool :=
  match mode with
  | 0 => s.programAt ch t false && (s.outBy.get ch ≠ some 1 || chans.any (fun m => s.neighbours m ch && s.programAt m t false))
  | 1 => chans.any (fun m => s.canCover m ch t)
  | 2 => s.obj Obj.pairState = 2 && s.importsCover ch
  | _ => true

/-- The service of a channel that has a program and is not out by request, after a change in its gang (R41, R196). -/
def State.freshService (s : State) (ch : Fin 4) : State :=
  if (s.outBy.get ch).isSome || (s.pacer ch).program.isNone then s else s.setSvc ch (s.runService ch (s.pipe ch))

/-- The descriptor a channel runs, or will run once its change has been taken at this edge. -/
def State.pipeSoon (s : State) (ch : Fin 4) : Option PipeDesc :=
  match (s.pacer ch).change with
  | .waiting t p => if t ≤ s.tick ch then p.pipe else s.pipe ch
  | _ => s.pipe ch

/-- One channel goes out or returns (R493): going out, its commands of classes 1 to 3 are killed. A channel whose memory is
FAILED stays OFFLINE (R304). -/
def State.svcTake (s : State) (ch : Fin 4) (mode : Nat) : State :=
  if mode = 0 then
    let s1 : State := { s with outBy := s.outBy.set ch none }
    s1.setSvc ch (s1.runService ch (s1.pipeSoon ch))
  else
    let s1 := (s.killChannel ch)
    ({ s1 with outBy := s1.outBy.set ch (some mode) } : State).setSvc ch (if mode = 3 || s.obj (Obj.memState ch) = memFailed then .offline else .covered)

/-- A remaining member repeats its edge rows in its slots at once where a neighbour is missing (R41). -/
def State.freshEdges (s : State) (ch : Fin 4) : State :=
  match s.pipe ch with
  | none => s
  | some d => if (s.outBy.get ch).isSome then s else forEach ((s.picture ch).slots.map (·.1)) (fun s k => s.repeatEdges ch d k) s

/-- The first edge of a channel under twin cover after KL0 went DOWN, with which its covering twin is lost (R445): the channel is
out without cover, and R41 applies to its gang (DEDUCED, log entry 151). Until then R189 repeats its rows. -/
def State.coverLost (s : State) (ch : Fin 4) : State :=
  if s.outBy.get ch ≠ some 2 || s.portUp 0 then s
  else
    let s1 := ({ s with outBy := s.outBy.set ch (some 3) } : State).setSvc ch .offline
    forEach (s1.ownerSet ch) (fun s m => (s.freshService m).freshEdges m) s1

/-- CH_SERVICE_EFFECT (R493): at tick T the change takes effect for every channel of the request if its conditions
hold for each; otherwise nothing changes, and CH_SERVICE_STATUS records a code, which the specification does not
name: a free value. -/
def chServiceEffect (ch : Fin 4) (s : State) : State :=
  match (s.chPend.get ch).svc with
  | none => s
  | some x =>
    if s.tick ch < x.t || !(s.ownerSet ch).all s.atEdge || s.gangDue ch then s
    else
      let set := s.svcSet ch x.all
      let s1 : State := { s with chPend := s.chPend.mod ch (fun p => { p with svc := none }) }
      if set.all (fun m => s1.svcHolds m x.t x.mode) then
        let s2 := forEach set (fun s m => (s.svcTake m x.mode).setObj (Obj.chServiceStatus m) (svcStatus 0 2 x.mode)) s1
        (forEach (s2.ownerSet ch) (fun s m => (s.freshService m).freshEdges m) s2).ended (Obj.chServiceApply ch) 0 2
      else
        let (v, s2) := s1.free64
        let code := v.toNat % 65536
        let s3 := forEach set (fun s m => s.setObj (Obj.chServiceStatus m) (svcStatus code 3 (s.obj (Obj.chServiceStatus m) % 4))) s2
        (s3.setCmd (Obj.chServiceApply ch) code 3).attnState ch (Obj.chServiceStatus ch)

/-- CH_SERVICE_EFFECT (R493). -/
def execChServiceEffect (ch : Fin 4) (s : State) : Out := clocked s (chServiceEffect ch)

/-! ## Channel reset (R494) -/

/-- A self-test of the channel is pending or runs. -/
def State.testing (s : State) (ch : Fin 4) : Bool :=
  bits (s.obj (Obj.testStatus ch)) 15 12 = 1 || bits (s.obj (Obj.testStatus ch)) 15 12 = 2

/-- CH_RESET (R494). -/
def opChReset (who : Req) (ch : Fin 4) (v : Nat) (s : State) : State :=
  let k := Obj.chReset ch
  s.command1 who k v (fun s =>
    let update := [pacerId ch, compId ch, dpId ch, coresetId ch].any (fun u => (s.unitImage u).apply.isSome)
    if (s.outBy.get ch).isNone || update || s.testing ch || (s.chPend.get ch).reset.isSome then s.refuse k rcBusy
    else ({ s with chPend := s.chPend.mod ch (fun p => { p with reset := some false }) } : State).accept k)

/-- CH_RESET (R494). -/
def execChReset (who : Req) (ch : Fin 4) (v : Nat) (s : State) : Out := clocked s (opChReset who ch v)

/-- The ports and inputs whose whole owner set is in reset are reset with it (R29, R421): the link trains anew, and a port's
peer sees it go DOWN. -/
def State.resetUnits (s : State) (ch : Fin 4) : State :=
  let whole (v : Nat) : Bool := bit v ch && (maskChans v).all (fun m => (s.chPend.get m).reset.isSome)
  let s1 := forEach ([0, 1].filter (fun i => whole (s.obj (Obj.attachOwner i)))) (fun s i =>
    if s.obj (Obj.dpinState i) = 2 || s.obj (Obj.dpinState i) = 3 then s.dropInput i 1 else s) s
  forEach ([0, 1].filter (fun p => whole (s.obj (Obj.klAttachOwner p)))) (fun s p =>
    if s.portUp p then (s.portDown p).setObj (Obj.klState p) 1 else s) s1

/-- The edge after CH_RESET (R494): dirty lines are written back, the domains of the field die and the system cache, as far as
CH_PSTATE powers them, go OFF and ON, and the slices invalidate; CORESETn is reloaded under R492. -/
def State.resetEdge (s : State) (ch : Fin 4) : State :=
  match (s.chPend.get ch).reset with
  | some false =>
    let p := s.powerNow ch
    let s1 := forEach (slices.filter (fun q => p = 0 || (p = 1 && 4 ≤ q.2))) (fun s q => (s.flushLines ch q.1 (fun _ => true)).powerSlice ch q.1 true) s
    let c := s1.cores.get ch
    let s2 : State := { s1 with cores := s1.cores.set ch { c with state := c.state.map (fun x => if x = 2 then 1 else x) },
                                chPend := s1.chPend.mod ch (fun p => { p with reset := some true }) }
    ((s2.dropRanges ch (fun _ => true)).loseImage (coresetId ch)).resetUnits ch
  | _ => s

/-- CH_RESET_DONE (R494): once every slice has invalidated. -/
def execChResetDone (ch : Fin 4) (s : State) : Out :=
  clocked s fun s =>
    match (s.chPend.get ch).reset with
    | some true =>
      if slices.any (fun q => (s.cacheSlice ch q.1).phase = .invalidating) then s
      else
        let s1 : State := { s with chPend := s.chPend.mod ch (fun p => { p with reset := none }) }
        s1.ended (Obj.chReset ch) 0 2
    | _ => s

/-! ## Substitution (R495) -/

/-- The unnamed slot of a channel: the one that no logical core names. -/
def CoreSlots.spare (c : CoreSlots) : Option Nat := (upto 17).find? (fun p => !c.map.contains p)

/-- SUBST_APPLY (R83, R149, R495): the active program passes R82 unchanged, so nothing but the spare's state refuses it. -/
def opSubstApply (who : Req) (ch : Fin 4) (t : Nat) (s : State) : State :=
  let k := Obj.substApply ch
  s.command who k (fun s =>
    let c := s.cores.get ch
    let armed := c.spare.any (fun p => c.state[p]? = some 2)
    if !armed || (s.chPend.get ch).subst.isSome then s.refuse k rcBusy
    else ({ s with chPend := s.chPend.mod ch (fun p => { p with subst := some (max t (s.tick ch + 1), s.obj (Obj.substLogical ch) % 16) }) } : State).accept k)

/-- SUBST_APPLY (R495). -/
def execSubstApply (who : Req) (ch : Fin 4) (t : Nat) (s : State) : Out := clocked s (opSubstApply who ch t)

/-- SUBST_EFFECT (R495): the logical core takes the unnamed slot, whose range cache starts empty (R334), and its former slot
becomes UNNAMED. A spare that is no longer ARMED at T (it was tested, or its channel gated or reset, in between), of which
the specification says nothing, leaves the map as it is, and the command ends with status 3 (DESIGN CHOICE, log entry 138). -/
def substEffect (ch : Fin 4) (s : State) : State :=
  match (s.chPend.get ch).subst with
  | none => s
  | some (t, l) =>
    if s.tick ch < t || !s.atEdge ch then s
    else
      let c := s.cores.get ch
      let s1 : State := { s with chPend := s.chPend.mod ch (fun p => { p with subst := none }) }
      match c.spare with
      | none => s1.ended (Obj.substApply ch) 0 3
      | some p =>
        if c.state[p]? ≠ some 2 then s1.ended (Obj.substApply ch) 0 3
        else
          let old := c.map[l]?.getD 0
          let x : CoreSlots := { map := c.map.set l p, state := (c.state.set p 0).set old 1 }
          (({ s1 with cores := s1.cores.set ch x } : State).dropRanges ch (· = p)).ended (Obj.substApply ch) 0 2

/-- SUBST_EFFECT (R495). -/
def execSubstEffect (ch : Fin 4) (s : State) : Out := clocked s (substEffect ch)

/-! ## Isolation clamps (R467) -/

/-- The pads of the device outside PCIe and T1, which no clamp holds. -/
inductive Pad where
  | dpLanes (ch : Fin 4) | dpAux (ch : Fin 4) | dpinAux (i : Dpin) | dpinHpd (i : Dpin) | klLanes (p : KlPort) | syncOut
  deriving DecidableEq, Repr

/-- What a pad shows: what its domain drives, the level latched when that went down, or a clamped value. A latched lane is
idle (R466). -/
inductive PadLevel where
  | driven | latched | idle | highZ | low
  deriving DecidableEq, Repr

/-- The pad group of a pad, whose domain is PD(116 + group); SYNC_OUT belongs to the Pacer block, which is ON in normal
service (log entry 112). -/
def Pad.group : Pad → Option Nat
  | .dpLanes ch => some ch
  | .dpAux ch => some ch
  | .dpinAux i => some (4 + Dpin.num i)
  | .dpinHpd i => some (4 + Dpin.num i)
  | .klLanes p => some (6 + KlPort.num p)
  | .syncOut => none

/-- The value a pad is clamped to. -/
def Pad.clamp : Pad → PadLevel
  | .dpLanes _ => .idle
  | .dpAux _ => .highZ
  | .dpinAux _ => .highZ
  | .dpinHpd _ => .low
  | .klLanes _ => .idle
  | .syncOut => .low

/-- Isolation cells clamp the pads of group `g`: while its domain is not ON in start-up, under self-test or in RECOVERY (R467),
and after a thermal trip (R547). -/
def State.clamped (s : State) (g : Nat) : Bool :=
  let on := s.domainOn (g + 4) && s.power.p2 ≠ .standby && s.power.p2 ≠ .returning
  s.halt = some .trip || !on && ((!s.domainOn (g + 4) && !bit s.power.reached (g + 4)) || s.groupTested g || s.marshal = .recovery)

/-- What a pad shows (R466, R467): a clamp goes before a latch, which shows again when the clamp ends. -/
def State.padLevel (s : State) (p : Pad) : PadLevel :=
  match p.group with
  | none => if s.halt = some .trip then p.clamp else if s.power.p2 = .standby || s.power.p2 = .returning then .latched else .driven
  | some g => if s.clamped g then p.clamp else if s.padFree g then .driven else .latched

/-! ## Self-tests (R496 to R498) -/

/-- TEST_STATUS (R501). -/
def testWord (code st target : Nat) : Nat := code * 65536 + st * 4096 + target % 256

/-- The code of TEST_TARGET names a unit (R496). -/
def testTargetOk (v : Nat) : Bool :=
  v ≤ 0x10 || (0x20 ≤ v && v ≤ 0x23) || v = 0x30 || v = 0x31 || (0x40 ≤ v && v ≤ 0x43) || v = 0x50 || v = 0x60 || v = 0x61 || v = 0x70 || v = 0x71

/-- The cache slice of a target, with its bit. -/
def testSlice (v : Nat) : Option (Slice × Nat) :=
  if 0x20 ≤ v && v ≤ 0x23 then some (.l2 (toCh (v - 0x20)), v - 0x20)
  else if v = 0x30 then some (.sc 0, 4) else if v = 0x31 then some (.sc 1, 5) else none

/-- The precondition of a target (R496). -/
def State.testReady (s : State) (ch : Fin 4) (v : Nat) : Bool :=
  if v ≤ 0x10 then !(s.cores.get ch).map.contains v
  else match testSlice v with
  | some (sl, _) => (s.cacheSlice ch sl).phase.code (s.tick ch) = 0
  | none =>
    if v < 0x50 then (s.outBy.get ch).isSome || !(s.pacer ch).program.any (fun p => bit p.unitsUsed (4 + v % 16))
    else if v = 0x50 then !bit (s.dp ch).cfg.ctrl 31
    else if v < 0x70 then
      s.obj (Obj.attachOwner (v % 16)) = chansMask (s.ownerSet ch) && s.leaderOf ch = ch && !bit (s.obj (Obj.dpinCtrl (v % 16))) 31
    else s.obj (Obj.klAttachOwner (v % 16)) = chansMask (s.ownerSet ch) && s.leaderOf ch = ch && !bit (s.obj (Obj.klCtrl (v % 16))) 31

/-- The unit whose pending update bars a test of a target (R496). -/
def testUnit (ch v : Nat) : Option Nat :=
  if v ≤ 0x10 || (0x40 ≤ v && v ≤ 0x43) then some (coresetId ch)
  else if v = 0x50 then some (dpId ch)
  else if v = 0x60 || v = 0x61 then some (dpinId (v % 16))
  else if v = 0x70 || v = 0x71 then some (klId (v % 16))
  else none

/-- TEST_RUN (R496). -/
def opTestRun (who : Req) (ch : Fin 4) (t : Nat) (s : State) : State :=
  let k := Obj.testRun ch
  s.command who k (fun s =>
    let v := s.obj (Obj.testTarget ch)
    let apply := (testUnit ch v).any (fun u => (s.unitImage u).apply.isSome)
    if !testTargetOk v then s.refuse k rcRange
    else if !s.testReady ch v || s.testing ch || apply || s.obj (Obj.chPstate ch) ≠ 0 || s.marshal ≠ .running then s.refuse k rcBusy
    else
      let s1 := s.setObj (Obj.testStatus ch) (testWord 0 1 v)
      ({ s1 with chPend := s1.chPend.mod ch (fun p => { p with test := some (max t (s.tick ch + 1), v) }) } : State).accept k)

/-- TEST_RUN (R496). -/
def execTestRun (who : Req) (ch : Fin 4) (t : Nat) (s : State) : Out := clocked s (opTestRun who ch t)

/-- The range cache of a tested unit, by its number (R319, R334): a core slot's own, or a fixed-function engine's. -/
def testRanges (v : Nat) : Option Nat :=
  if v ≤ 0x10 then some v else if 0x40 ≤ v && v ≤ 0x43 then some (17 + v % 16) else none

/-- TEST_START (R497): from T the unit starts nothing, what runs on it is killed, and its range cache is lost. The slot's
state is kept for a test that ends aborted. -/
def testStart (ch : Fin 4) (s : State) : State :=
  match (s.chPend.get ch).test with
  | none => s
  | some (t, v) =>
    if bits (s.obj (Obj.testStatus ch)) 15 12 ≠ 1 || s.tick ch < t || !s.atEdge ch || !s.awake then s
    else
      let s1 := s.setObj (Obj.testStatus ch) (testWord 0 2 v)
      let c := s1.cores.get ch
      let s2 : State := { s1 with
        chPend := s1.chPend.mod ch (fun p => { p with test := some (c.state[v]?.getD 1, v) }),
        cores := s1.cores.set ch (if v ≤ 0x10 then { c with state := c.state.set v 3 } else c) }
      let on := (s2.runs.filter (fun e => e.2.ch = ch.val && e.2.cls ≠ 0 && 0x40 ≤ v && v ≤ 0x43 && bit e.2.units (4 + v % 16))).map (·.1)
      ((forEach on State.kill s2).dropRanges ch (fun u => some u = testRanges v)).settle

/-- TEST_START (R497). -/
def execTestStart (ch : Fin 4) (s : State) : Out := clocked s (testStart ch)

/-- The bit of a target in UNIT_HEALTH (R501); core slots have none. -/
def healthBit (v : Nat) : Option Nat :=
  match testSlice v with
  | some (_, b) => some b
  | none =>
    if 0x40 ≤ v && v ≤ 0x43 then some (6 + v % 16)
    else if v = 0x50 then some 10
    else if v = 0x60 || v = 0x61 then some (11 + v % 16)
    else if v = 0x70 || v = 0x71 then some (13 + v % 16)
    else none

/-- The outcome of a test goes to UNIT_HEALTH: of every channel for a video input or a port (R497). -/
def State.setHealth (s : State) (ch : Fin 4) (v : Nat) (failed : Bool) : State :=
  match healthBit v with
  | none => s
  | some b => forEach (if 11 ≤ b then chans else [ch]) (fun s c =>
      let k := Obj.unitHealth c
      s.setObj k (setBits (s.obj k) b b (if failed then 1 else 0))) s

/-- The state objects of a tested unit (R495, R497). A video input or a port that passes is no longer FAILED, and trains where
it is enabled and attached (R296, R418). -/
def State.testedState (s : State) (ch : Fin 4) (v : Nat) (passed : Bool) : State :=
  if v ≤ 0x10 then
    let c := s.cores.get ch
    { s with cores := s.cores.set ch { c with state := c.state.set v (if passed then 2 else 4) } }
  else if v = 0x60 || v = 0x61 then
    (if passed then (if s.obj (Obj.dpinState (v % 16)) = 4 then s.setObj (Obj.dpinState (v % 16)) (if s.dpinOn (v % 16) && s.inputSet (v % 16) ≠ [] then 1 else 0) else s) else s.setObj (Obj.dpinState (v % 16)) 4)
  else if v = 0x70 || v = 0x71 then
    (if passed then (if s.obj (Obj.klState (v % 16)) = 6 then s.setObj (Obj.klState (v % 16)) (if bit (s.obj (Obj.klCtrl (v % 16))) 31 && s.portSet (v % 16) ≠ [] then 1 else 0) else s) else s.setObj (Obj.klState (v % 16)) 6)
  else s

/-- TEST_DONE (R497): a unit that passes returns to its former state, a core slot is ARMED; one that fails is FAILED,
recorded, with attention. -/
def testDone (ch : Fin 4) (passed : Bool) (s : State) : State :=
  let k := Obj.testStatus ch
  if bits (s.obj k) 15 12 ≠ 2 || !s.atEdge ch then s
  else
    let v := s.obj k % 256
    let s1 := s.setObj k (testWord 0 (if passed then 3 else 4) v)
    let s2 : State := { s1 with chPend := s1.chPend.mod ch (fun p => { p with test := none }) }
    let s3 := (s2.setHealth ch v (!passed)).testedState ch v passed
    if passed then s3.ended (Obj.testRun ch) 0 2
    else
      let s4 := s3.setCmd (Obj.testRun ch) 0 2
      if v ≤ 0x10 then s4.attn atState ch (Obj.slotState ch) 4 else s4.attnState ch (Obj.unitHealth ch)

/-- TEST_DONE (R497). -/
def execTestDone (ch : Fin 4) (passed : Bool) (s : State) : Out := clocked s (testDone ch passed)

end Sys2Proof.Machine
end

