-- ==== Sys2Proof/Machine/Observe.lean ====
section
/-! DEFINITION. Observation: trace records and their export (R505 to R510), split reports (R511, R512), and the
host-kept values with the restore block (R522 to R528). -/

namespace Sys2Proof.Machine

/-! ## Records that a tick forms (R506) -/

/-- The low 12 bits of the lap counters of a channel, side by side (R506). -/
def State.lapWord (s : State) (ch : Fin 4) : Nat :=
  s.obj (Obj.lapLaunch ch) % 4096 + s.obj (Obj.lapBearing ch) % 4096 * 2 ^ 12 + s.obj (Obj.lapTraverse ch) % 4096 * 2 ^ 24 +
  s.obj (Obj.lapRaster ch) % 4096 * 2 ^ 36 + s.obj (Obj.lapCopy ch) % 4096 * 2 ^ 48

/-- TRACE_MARK (R506): at every edge of an enabled channel whose tick number is a multiple of MARK_INTERVAL, once. -/
def execTraceMark (ch : Fin 4) (s : State) : Out :=
  clocked s fun s =>
    let o := s.observe.get ch
    let n := bits o.filter.ctrl 15 0
    if n = 0 || s.tick ch % n ≠ 0 || o.marked = some (s.tick ch) then s
    else ({ s with observe := s.observe.set ch { o with marked := some (s.tick ch) } } : State).emit 1 ch 8 0 0 s.chState (s.lapWord ch)

/-- TRACE_TIMEREF (R506): at every 2,048th edge of channel 0 while T1_AS_STATE is 2 or 3, the 802.1AS time at that edge. -/
def execTraceTimeref (s : State) : Out :=
  clocked s fun s =>
    let o := s.observe.get 0
    let st := s.obj Obj.t1AsState
    if (st ≠ 2 && st ≠ 3) || s.tick 0 % 2048 ≠ 0 || o.refd = some (s.tick 0) then s
    else ({ s with observe := s.observe.set 0 { o with refd := some (s.tick 0) } } : State).emit 2 noCh 8 0 0 st (s.asNow (s.pacer 0).edge)

/-! ## Export (R509, R510) -/

/-- The 32 bytes of a record (R505). -/
def TraceRec.bytes (r : TraceRec) : List Byte :=
  toLE 1 r.type ++ toLE 1 r.chan ++ toLE 1 r.unit ++ toLE 1 r.cls ++ toLE 4 r.seq ++ toLE 8 r.tick ++ toLE 2 r.cycle ++ toLE 2 0 ++
  toLE 4 r.arg0 ++ toLE 8 r.arg1

/-- Records leave over T1 (R510), or through the host ring. -/
def State.traceToT1 (s : State) : Bool := bit s.observe.c0.filter.ctrl 30

/-- Export goes on (R509): Marshal is not being replaced, and the device is not in P2. -/
def State.exporting (s : State) : Bool := s.marshal ≠ .updating && s.awake

/-- CONSUMED of the host ring. -/
def State.ringConsumed (s : State) (r : TraceRing) : Nat := s.readNat (r.desc + 0x18) 8

/-- PF0 may write host memory (R337). -/
def State.busMaster (s : State) (f : Nat) : Bool := (s.pcieFn f).busMaster

/-- Up to `n` records of earlier cycles go to the host ring in SEQ order, and WPTR after them (R507, R509). -/
def State.exportRing (s : State) (n : Nat) : State :=
  match s.traceRing with
  | none => s
  | some r =>
    if s.traceToT1 || !s.exporting || !s.busMaster 0 then s
    else
      let room := r.entries - (r.wptr - s.ringConsumed r)
      let out := (s.traceBuf.takeWhile (fun x => x.kept < s.now)).take (min n room)
      if out = [] then s
      else
        let s1 := out.zipIdx.foldl (fun (s : State) q => s.write (r.base + 32 * ((r.wptr + q.2) % r.entries)) q.1.bytes) s
        let w := r.wptr + out.length
        let s2 := (s1.write (r.desc + 0x10) (toLE 8 w)).pruneTags
        ({ s2 with traceBuf := s2.traceBuf.drop out.length, traceRing := some { r with wptr := w } } : State).bump Obj.traceExported out.length 64

/-- TRACE_DATAGRAM_SEND (R510): 45 records are ready, or the oldest has waited 1 ms. -/
def execTraceDatagramSend (s : State) : Out :=
  clocked s fun s =>
    let old := s.traceBuf.takeWhile (fun x => x.kept < s.now)
    let n := old.length
    let due := 45 ≤ n || (s.traceBuf.head?.any (fun r => r.kept + 1000000 ≤ s.now))
    if !s.traceToT1 || !s.exporting || s.obj Obj.t1State ≠ 2 || !due then s
    else
      let out := old.take 45
      let head := toLE 2 0x5054 ++ toLE 2 out.length ++ toLE 4 ((out.head?.map TraceRec.seq).getD 0) ++ (s.oct Obj.idDigest 32).take 8
      let f : T1Frame := .udp (s.obj Obj.traceDestIp) (s.obj Obj.traceDestPort) (head ++ (out.map TraceRec.bytes).flatten)
      ({ s with t1Out := s.t1Out ++ [f], traceBuf := s.traceBuf.drop out.length } : State).bump Obj.traceExported out.length 64

/-- TRACE_STATE (R516): off; capturing; capturing with export paused, by R509 or because the ring is full or PF0 may
not write; or no ring named. -/
def State.traceState (s : State) : Nat :=
  if !bit s.observe.c0.filter.ctrl 31 then 0
  else if s.traceToT1 then (if s.exporting then 1 else 2)
  else match s.traceRing with
    | none => 3
    | some r => if !s.exporting || !s.busMaster 0 || r.entries ≤ r.wptr - s.ringConsumed r then 2 else 1

/-- The trace filter that the objects hold (R507, R516). -/
def State.filterNow (s : State) : TraceFilter :=
  { ctrl := s.obj Obj.traceCtrl, types := s.obj Obj.traceTypes, classes := s.obj Obj.traceClasses, ctx := s.obj Obj.traceCtx,
    watch := match look s.octs Obj.traceWatch with
      | none => List.replicate 16 0xFFFF
      | some b => (upto 16).map (fun i => field b (2 * i) 2) }

/-! ## Split counters (R511, R512) -/

/-- REPORT_CLOSE (R511): at the edge at which the open report has its length. -/
def execReportClose (ch : Fin 4) (s : State) : Out :=
  clocked s fun s => if !s.reportDue ch || !s.atEdge ch then s else s.closeReport ch

/-- SPLIT_CLEAR (R512): at the next edge. -/
def opSplitClear (who : Req) (ch : Fin 4) (v : Nat) (s : State) : State :=
  let k := Obj.splitClear ch
  s.command1 who k v (fun s => ({ s with observe := s.observe.mod ch (fun o => { o with clear := true }) } : State).accept k)

/-- SPLIT_CLEAR (R512). -/
def execSplitClear (who : Req) (ch : Fin 4) (v : Nat) (s : State) : Out := clocked s (opSplitClear who ch v)

/-- The edge after SPLIT_CLEAR: RUNS and MAX_SEAL of every slot are 0. -/
def State.clearStage (s : State) (ch : Fin 4) : State :=
  let o := s.observe.get ch
  if !o.clear then s
  else ({ s with observe := s.observe.set ch { o with clear := false, stage := [] } } : State).ended (Obj.splitClear ch) 0 2

/-- An entry of SPLIT_WINDOW (R511): IDLE is what the others leave of the window's cycles. -/
def SplitWin.bytes (x : SplitWin) : List Byte :=
  toLE 4 x.owner ++ toLE 4 x.backfill ++ toLE 4 x.killed ++ toLE 4 (x.cycles - x.owner - x.backfill - x.killed) ++
  toLE 2 (min x.starts 0xFFFF) ++ toLE 2 (min x.seals 0xFFFF) ++ toLE 2 (min x.kills 0xFFFF) ++ toLE 2 0 ++ toLE 4 x.slack ++ toLE 4 0

/-- SPLIT_WINDOW (R511). Before the first report closes it is all 0; a window that has never been open counts nothing,
and nothing sealed in it. -/
def State.splitWindow (s : State) (ch : Fin 4) : List Byte :=
  let zero : SplitWin := { owner := 0, backfill := 0, killed := 0, cycles := 0, starts := 0, seals := 0, kills := 0, slack := 0xFFFFFFFF, lastSeal := none }
  if s.obj (Obj.reportSeq ch) = 0 then List.replicate 2048 0
  else ((upto 64).map (fun i => ((look (s.observe.get ch).closed i).getD zero).bytes)).flatten

/-- The byte at offset `i` of SPLIT_STAGE (R512). -/
def State.splitStageByte (s : State) (ch : Fin 4) (i : Nat) : Byte :=
  let k := i / 8
  let x := (look (s.observe.get ch).stage k).getD { runs := 0, max := 0 }
  let m := ((s.pacer ch).program.map (fun p => (look p.seals k).getD 0)).getD 0
  ((toLE 4 x.runs ++ toLE 2 (min x.max 0xFFFF) ++ toLE 2 (min m 0xFFFF))[i % 8]?).getD 0

/-! ## Host-kept values (R522 to R528) -/

def eRestoreFormat : Nat := 0x0F01
def eRestoreValue : Nat := 0x0F02

/-- The host-kept objects in rank order, with their sizes (R522). -/
def keptObjs : List (Nat × Nat) :=
  [(Obj.t1Netmask, 4), (Obj.t1Gateway, 4), (Obj.t1Mac, 6), (Obj.t1Ipv4, 4), (Obj.entryMode, 1), (Obj.wakeMask, 4)] ++
  (upto 4).map (fun n => (Obj.chBudget n, 4)) ++ [(Obj.packageLimit, 4)] ++ (upto 4).map (fun n => (Obj.oppReq n, 1))

/-- T1_MAC (R342): as written, or the default made of the digest of the device identity key. -/
def State.macBytes (s : State) : List Byte :=
  match look s.octs Obj.t1Mac with
  | some b => slice b 0 6
  | none => [0x02, 0x4C, 0x50] ++ (s.oct Obj.idDigest 32).take 3

/-- The value of a host-kept object, as bytes. -/
def State.keptBytes (s : State) (e : Nat × Nat) : List Byte := if e.1 = Obj.t1Mac then s.macBytes else toLE e.2 (s.obj e.1)

/-- WAKE_MASK as it is kept (R22, R464): bit 0 reads 1, and the bits of no source are ignored. -/
def wakeMaskOf (v : Nat) : Nat := setBits (v % 64) 0 0 1

/-- The value a host-kept object takes when `v` is written to it. -/
def keptValue (k v : Nat) : Nat := if k = Obj.wakeMask then wakeMaskOf v else v

/-- RWS_SNAPSHOT (R526): a restore block that holds the current values. -/
def State.snapshotBlock (s : State) : List Byte :=
  let entry (e : Nat × Nat) : List Byte :=
    toLE 2 (e.1 / 256) ++ toLE 1 e.1 ++ toLE 1 0 ++ toLE 2 e.2 ++ toLE 2 0 ++ slice (s.keptBytes e) 0 8
  slice (toLE 4 0x54534552 ++ toLE 2 1 ++ toLE 2 15 ++ List.replicate 56 0 ++ (keptObjs.map entry).flatten) 0 304

/-- An entry of a restore block (R524). -/
structure RestoreEntry where
  key   : Nat
  len   : Nat
  value : List Byte
  deriving DecidableEq, Repr

/-- Entry `i` of a block. -/
def restoreEntry (b : List Byte) (i : Nat) : RestoreEntry :=
  let e := slice b (0x40 + 16 * i) 16
  { key := key (field e 0 2) (field e 2 1), len := field e 4 2, value := slice e 8 8 }

/-- The structure of a block is right (R524, R525). -/
def restoreShape (b : List Byte) : Bool :=
  let n := field b 6 2
  field b 0 4 = 0x54534552 && field b 4 2 = 1 && 1 ≤ n && n ≤ 15 && reserved b 8 24 && reserved b 0x26 26 && reserved b (0x40 + 16 * n) (304 - (0x40 + 16 * n))

/-- The reply code with which entry `i` fails the checks of its form (R525), if it does. -/
def entryCode (b : List Byte) (i : Nat) : Nat :=
  let e := restoreEntry b i
  let raw := slice b (0x40 + 16 * i) 16
  if (objRow (e.key / 256) (e.key % 256)).isNone then rcUnknown
  else match keptObjs.find? (fun o => o.1 = e.key) with
    | none => rcAccess
    | some o =>
      if e.len ≠ o.2 || !reserved raw 3 1 || !reserved raw 6 2 || !reserved e.value o.2 (8 - o.2) then rcLength
      else if (upto i).any (fun j => (restoreEntry b j).key = e.key) then rcRange
      else rcOk

/-- The value an object would have with a block's entries in place. -/
def State.finalValue (s : State) (es : List RestoreEntry) (k : Nat) : Nat :=
  match es.find? (fun e => e.key = k) with
  | some e => field e.value 0 e.len
  | none => s.obj k

/-- A value of a block breaks the rules of its object (R525): R458, R468 and R523 on the final values. -/
def State.valueBad (s : State) (es : List RestoreEntry) (k : Nat) : Bool :=
  let v := s.finalValue es k
  let sum := (chans.map (fun (c : Fin 4) => s.finalValue es (Obj.chBudget c))).sum
  let limit := s.finalValue es Obj.packageLimit
  if k = Obj.entryMode then 1 < v
  else if k = Obj.packageLimit then v < 20000 || 85000 < v || limit < sum + 20000
  else match chans.find? (fun (c : Fin 4) => k = Obj.chBudget c), chans.find? (fun (c : Fin 4) => k = Obj.oppReq c) with
    | some c, _ => v < oppPower (s.floorOf c) || limit < sum + 20000
    | _, some c => 6 < v || v < s.floorOf c
    | _, _ => false

/-- How a restore block ends (R525): the error code, the reply code and index of the failing entry, and the number of
values changed. -/
structure Restored where
  code    : Nat
  reply   : Nat
  entry   : Nat
  applied : Nat
  deriving DecidableEq, Repr

/-- One value of a block is written. -/
def State.restoreOne (s : State) (e : RestoreEntry) : State :=
  if e.key = Obj.t1Mac then (if slice e.value 0 6 = s.macBytes then s else s.setOct e.key (slice e.value 0 6))
  else s.setObj e.key (keptValue e.key (field e.value 0 e.len))

/-- A restore block is applied, whole or not at all (R525). -/
def State.restore (s : State) (b : List Byte) : Restored × State :=
  let n := field b 6 2
  let refused (code reply entry : Nat) : Restored × State :=
    (⟨code, reply, entry, 0⟩, s.setObj Obj.restoreStatus (code * 65536 + 2 * 4096 + reply * 256 + entry))
  if !restoreShape b then refused eRestoreFormat 0 0xFF
  else match (upto n).find? (fun i => entryCode b i ≠ rcOk) with
    | some i => refused eRestoreFormat (entryCode b i) i
    | none =>
      let es := (upto n).map (restoreEntry b)
      let ranked := keptObjs.filterMap (fun o => es.find? (fun e => e.key = o.1))
      match ranked.find? (fun e => s.valueBad es e.key) with
      | some e => refused eRestoreValue rcRange ((es.findIdx? (fun x => x.key = e.key)).getD 0)
      | none =>
        let s1 := ranked.foldl State.restoreOne s
        let changed := keptObjs.filter (fun o => s.keptBytes o ≠ s1.keptBytes o)
        let s2 := if changed.any (fun o => o.1 / 256 = 0x1020) then s1.acquire else s1
        (⟨0, 0, 0xFF, changed.length⟩, s2.drive.setObj Obj.restoreStatus (1 * 4096 + 0xFF))

/-- RESTORE_WRITE (R527): answered with OK, the code of the failing entry, or OUT_OF_RANGE for the structure. -/
def opRestoreWrite (who : Req) (b : List Byte) (s : State) : State :=
  s.command who Obj.restoreWrite (fun s =>
    if b.length ≠ 304 then s.answer rcLength
    else if s.marshal ≠ .running then s.answer rcBusy
    else
      let (r, s1) := s.restore b
      s1.answer (if r.code = 0 then rcOk else if r.entry = 0xFF then rcRange else r.reply))

/-- RESTORE_WRITE (R527). -/
def execRestoreWrite (who : Req) (block : List (BitVec 8)) (s : State) : Out := clocked s (opRestoreWrite who block)

end Sys2Proof.Machine
end

