-- ==== Sys2Proof/Machine/Notices.lean ====
section
/-! DEFINITION. Doorbells of queues (R362), notices from the host to Marshal (R358 to R360, R482, R483, R509, R527),
and the moments at which waiting notices are taken (R474, R491, R465). -/

namespace Sys2Proof.Machine

/-! ## Queue doorbells (R362) -/

/-- QUEUE_DB (R362): sets WPTR and RUNG; a write for a queue that does not exist, that another function owns, whose
context is in TEARDOWN (R387), or past its entries is discarded and counted. In P2 it wakes the device (R464). -/
def queueDb (f q wptr : Nat) (s : State) : State :=
  let drop : State :=
    let k := own (.fn f) Obj.doorbellDrops
    let s1 := s.bump k 1 32
    s1.attn atCount noCh Obj.doorbellDrops (s1.obj k)
  if 16 ≤ f || 2048 ≤ q || s.resetting f then s
  else match look s.queues q with
    | none => drop
    | some x =>
      let mine := (look s.ctxs x.ctx).any (fun c => c.owner = f && c.state ≠ .teardown)
      if !mine || x.entries ≤ wptr then drop else s.setQueue q { x with wptr := wptr, rung := true, idle := false }

/-- QUEUE_DB (R362). -/
def execQueueDb (f q : Nat) (wptr : Nat) (s : State) : Out := clocked s (fun s => queueDb f q wptr (s.edgeEvent 1))

/-! ## Memory a notice names (R359) -/

/-- The key of address `a` in the space a SPACE bit names. -/
def spaceKey (dev : Bool) (a : Nat) : Nat := if dev then a else hostBase + a

/-- Marshal reaches `n` bytes at an address (R337, R359): host memory with PF0's Bus Master Enable, device memory that
is in service. -/
def State.reaches (s : State) (dev : Bool) (a n : Nat) : Bool :=
  if dev then a + n ≤ devEnd && s.memUp (chanOf a) else s.busMaster 0 && a + n ≤ 2 ^ 64

/-! ## The content of notices -/

/-- The largest image: a core set's. -/
def imageLimit : Nat := headerSize + 16384 * 1024

/-- The 64-byte result record of an exchange block (R482). -/
def resultRecord (code unit version : Nat) (digest : List Byte) : List Byte :=
  toLE 2 code ++ toLE 2 unit ++ toLE 1 (if code = 0 then 0 else 1) ++ toLE 3 0 ++ toLE 4 version ++ slice digest 0 32 ++ List.replicate 20 0

/-- A notice is answered with a return code (R358). -/
def State.takeWith (s : State) (f rc : Nat) : State := s.setMbox (mbH2m f) ((s.mbox (mbH2m f)).take rc)

/-- An exchange block's result record is written and the RESULT notice sent (R360, R482). -/
def State.finishExchange (s : State) (f ptr : Nat) (dev : Bool) (record : List Byte) : State :=
  let s1 := (s.write (spaceKey dev ptr + 0x40) record).pruneTags
  s1.sendResult f (ptr + 0x40) dev ((s1.mbox (mbH2m f)).seq)

/-- An IMAGE notice (R474, R476, R481, R482): the image is received, checked, and staged, started or refused. With a good header,
one of a unit whose domain is OFF, or one Marshal does not take in its state, is answered with BUSY. -/
def State.takeImageNotice (s : State) (f ptr : Nat) (dev : Bool) : State :=
  let a := s.readNat (spaceKey dev ptr) 8
  let n := s.readNat (spaceKey dev ptr + 8) 8
  if s.receiving.isSome then s.takeWith f 3
  else if !s.reaches dev a n then s.takeWith f 2
  else
    let b := if n ≤ imageLimit then s.read (spaceKey dev a) n else s.read (spaceKey dev a) headerSize
    let u := field b 6 2
    let header := if n < headerSize then eImageFormat else s.headerCheck b
    if header = 0 && (!s.mayReceive (.fn f) u || s.unitOff u) then s.takeWith f 3
    else
      let code := if header = 0 then payloadCheck b else header
      let s1 := (s.takeWith f 0).endImage (.fn f) b code
      let s2 := s1.attn atDone noCh Obj.imageStatus (s1.obj Obj.imageStatus)
      s2.finishExchange f ptr dev (resultRecord code u (field b 0x0C 4) (slice b 0x20 32))

/-- A POLICY notice (R482, R483). The specification names no digest of a policy: free bytes. -/
def State.takePolicyNotice (s : State) (f ptr : Nat) (dev : Bool) : State :=
  let a := s.readNat (spaceKey dev ptr) 8
  let n := s.readNat (spaceKey dev ptr + 8) 8
  if !s.reaches dev a n then s.takeWith f 2
  else
    let b := s.read (spaceKey dev a) (min n (policySize + 1))
    let ok := s.policyOk b
    let s1 := s.takeWith f 0
    let s2 := if ok then s1.usePolicy b else s1
    let (digest, s3) := s2.freeBytes 32
    s3.finishExchange f ptr dev (resultRecord (if ok then 0 else ePolicy) 0xFFFF (field b 8 4) digest)

/-- A TRACE_RING notice (R509): the ring starts at WPTR 0; a malformed descriptor is REFUSED. BASE is a bus address. -/
def State.takeRingNotice (s : State) (f ptr : Nat) (dev : Bool) : State :=
  let d := spaceKey dev ptr
  let base := s.readNat d 8
  let n := s.readNat (d + 8) 4
  let pow := (upto 21).any (fun i => 6 ≤ i && n = 2 ^ i)
  if base % 32 ≠ 0 || !pow || s.readNat (d + 0x0C) 4 ≠ 0 then s.takeWith f 4
  else { s.takeWith f 0 with traceRing := some { desc := d, base := hostBase + base, entries := n, wptr := 0 } }

/-- A RESTORE notice (R527): the block is applied or refused, its device-written fields are filled, and RESULT names
them. -/
def State.takeRestoreNotice (s : State) (f ptr : Nat) (dev : Bool) : State :=
  let (r, s1) := (s.takeWith f 0).restore (s.read (spaceKey dev ptr) 304)
  let fields := toLE 2 r.code ++ toLE 1 (if r.code = 0 then 0 else 1) ++ toLE 1 r.entry ++ toLE 2 r.applied ++ List.replicate 26 0
  let s2 := (s1.write (spaceKey dev ptr + 0x20) fields).pruneTags
  s2.sendResult f (ptr + 0x20) dev ((s2.mbox (mbH2m f)).seq)

/-- Bytes at the pointer of a notice of a type. -/
def noticeSize (type : Nat) : Nat := if type = 3 then 32 else if type = 4 then 304 else 128

/-- Marshal takes notices of a type now (R358, R476, R491, R527): images and policies outside an update, the others
in RUNNING. -/
def State.takesNow (s : State) (type : Nat) : Bool := s.awake && s.marshal ≠ .updating && (type < 3 || s.marshal = .running)

/-- Marshal takes the notice that waits in a function's mailbox, if it may (R358 to R360). -/
def State.takeNotice (s : State) (f : Nat) : State :=
  let m := s.mbox (mbH2m f)
  let type := m.tag / 2 ^ 24
  let dev := bit m.tag 23
  if !m.pending || !s.takesNow type then s
  else if f ≠ 0 || type = 0 || 4 < type then s.takeWith f 1
  else if m.ptr % 8 ≠ 0 || !s.reaches dev m.ptr (noticeSize type) then s.takeWith f 2
  else match type with
    | 1 => s.takeImageNotice f m.ptr dev
    | 2 => s.takePolicyNotice f m.ptr dev
    | 3 => s.takeRingNotice f m.ptr dev
    | _ => s.takeRestoreNotice f m.ptr dev

/-- Marshal takes every notice that waits and that it may take. -/
def State.takeNotices (s : State) : State := forEach (upto 16) State.takeNotice s

/-- A function sends Marshal a notice (R358): discarded and counted where one waits. -/
def State.sendNotice (s : State) (f type ptr : Nat) (dev : Bool) (user : Nat) : State :=
  if 16 ≤ f then s
  else
    let s1 := s.edgeEvent 1
    let m := s1.mbox (mbH2m f)
    if m.pending then (s1.setMbox (mbH2m f) { m with reg := ptr % 2 ^ 64 }).mbOverrun f
    else
      let tag := type * 2 ^ 24 + (if dev then 2 ^ 23 else 0) + user % 2 ^ 23
      (s1.setMbox (mbH2m f) (m.send (ptr % 2 ^ 64) tag)).takeNotice f

/-- IMAGE (R482). -/
def execImage (f ptr : Nat) (space : Bool) (user : Nat) (s : State) : Out := clocked s (fun s => s.sendNotice f 1 ptr space user)

/-- POLICY (R483). -/
def execPolicy (f ptr : Nat) (space : Bool) (user : Nat) (s : State) : Out := clocked s (fun s => s.sendNotice f 2 ptr space user)

/-- TRACE_RING (R509). -/
def execTraceRing (f ptr : Nat) (space : Bool) (user : Nat) (s : State) : Out := clocked s (fun s => s.sendNotice f 3 ptr space user)

/-- RESTORE (R527). -/
def execRestore (f ptr : Nat) (space : Bool) (user : Nat) (s : State) : Out := clocked s (fun s => s.sendNotice f 4 ptr space user)

/-! ## When waiting notices are taken -/

/-- UNIT_IMAGES_STARTED (R474): where they come from flash, the unit images start in ascending UNIT_ID; those a host delivers
started on their arrival. MARSHAL_STATE is RUNNING. -/
def execUnitImagesStarted (flash : FlashRead) (s : State) : Out :=
  clocked s fun s =>
    if s.marshal ≠ .loading then s
    else
      let s1 := if s.fromFlash then forEach unitIds (State.bootUnit flash) s else s
      ({ s1 with marshal := .running } : State).takeNotices

/-- The events held while Marshal was replaced are logged, in the order in which they arose (R491). -/
def State.logHeld (s : State) : State :=
  forEach s.heldAttn State.logOne { s.endCycle with heldAttn := [] }

/-- MARSHAL_UPDATE_DONE (R491): Marshal runs again. -/
def execMarshalUpdateDone (s : State) : Out :=
  clocked s fun s => if s.marshal ≠ .updating then s else ({ s with marshal := .running } : State).logHeld.takeNotices

/-- What was held while the device slept or entered is taken (R463, R464, R471): BAR2 accesses, releases of pads, endpoint
resets, and the notices that wait (in that order, log entry 146). -/
def State.afterSleep (s : State) : State :=
  let s1 : State := { s with barWait := [], power := { s.power with resets := [] } }
  (forEach s.power.resets State.endpointReset (s.barWait.foldl State.barPerform s1).lateRelease).takeNotices

/-- RETURN_COMPLETE (R465): the return ends, and what was held is taken. -/
def execReturnComplete (s : State) : Out :=
  clocked s fun s => if s.power.p2 ≠ .returning then s else (returnComplete s).afterSleep

/-- ENTRY_UNDO_DONE (R463): the latches of the entry are released, and what was held is taken. -/
def execEntryUndoDone (s : State) : Out :=
  clocked s fun s =>
    if s.power.p2 ≠ .undoing then s
    else
      let s1 := (s.freePads s.power.latched).bump Obj.entryAborts 1 32
      (({ s1 with power := { s1.power with p2 := .awake, woken := 0, latched := 0 } } : State).ended Obj.p2Enter 0 3).afterSleep

end Sys2Proof.Machine
end

