-- ==== Sys2Proof/Machine/Tick.lean ====
section
/-! DEFINITION. Tick edges (R52 to R61, R73 to R75) and what happens at them: the trim of a locked Pacer, the closing
of every window, the program frame (R78, R368), and the values that follow a written object only at an edge. -/

namespace Sys2Proof.Machine

/-! ## The lock of a Pacer (R53 to R55) -/

/-- The trim limits of a Pacer, in units of 2^-16 ns (R54). -/
def trimLimits (c : PacerCfg) : Nat × Nat :=
  let p := periodField c.period
  (ceilDiv (p * (1000000 - ctrlRange c.ctrl)) 1000000, p * (1000000 + ctrlRange c.ctrl) / 1000000)

/-- References within ±1 cycle that make a Pacer LOCKED (R55). -/
def lockNeed (src : Nat) : Nat := if src = 1 || src = 2 then 16 else 64

/-- Ticks of an input frame, N = round(input frame period / P) (R55); the stream's rate is in 0.01 Hz. -/
def State.lockTicks (s : State) (p : Pacer) : Nat :=
  let f := 10 ^ 11 * 65536 / max (((look s.streams (ctrlLockSrc p.cfg.ctrl - 1)).map StreamFmt.rate).getD 1) 1
  let n := periodField p.cfg.period
  max 1 ((2 * f + n) / (2 * n))

/-- The edge error of the tick that ends at cycle `e`, where a reference gives one, and the aim from then on (R55, R429):
the target of a video input's first reference is the cycle it arrived in, and the nearest target of those N ticks apart
counts for a later one; the k-th edge of 802.1AS is to fall k periods after the first; a mark of the SYNC chain places
the edge itself. `ref` is the cycle of the tick in which the input's first pixel arrived; for 802.1AS the reference is the
synchronised time of the edge, in ns (R344). Ticks between a reference and its target count with the length of the tick that ends (log entry 87). -/
def State.edgeError (s : State) (p : Pacer) (e : Nat) (ref : Option Nat) : Option Int × Option (Nat × Nat) :=
  let src := ctrlLockSrc p.cfg.ctrl
  if src = 4 then
    ((s.sync.mark.filter (fun m => p.edge ≤ m.1)).map (fun m => (e : Int) - (m.2 : Int)), none)
  else match (if src = 3 then (if s.obj Obj.t1AsState = 2 then some (s.asNow e) else none) else ref), p.aim with
  | none, a => (none, a)
  | some c, none => (some 0, some (if src = 3 then (p.tick + 1, c) else (p.tick + s.lockTicks p, c)))
  | some c, some (t, a) =>
    if src = 3 then (some ((c : Int) - ((a + (p.tick + 1 - t) * periodField p.cfg.period / 65536 : Nat) : Int)), some (t, a))
    else
      let n := s.lockTicks p
      let u := t + (p.tick + n / 2 - t) / n * n
      (some (((p.tick : Int) - (u : Int)) * (p.len : Int) + (c : Int) - (a : Int)), some (u + n, a))

/-- A lost source that has returned: from this edge the Pacer acquires again (R55). -/
def Pacer.resume (p : Pacer) : Pacer :=
  if p.lock = .hold && p.back then { p with lock := .acquiring, lockRun := 0, atLimit := false, back := false } else p

/-- A Pacer's lock at an edge (R54, R55): `want` is the period that steers toward the reference, for which the rules give no law
(log entry 154), `err` the edge error of a reference in the tick that ends. The run that locks is of consecutive edges for 802.1AS and of consecutive ticks for
SYNC_IN (R55, R429): one without a reference breaks it. -/
def Pacer.trim (p : Pacer) (want : Nat) (err : Option Int) : Pacer :=
  let src := ctrlLockSrc p.cfg.ctrl
  if src = 0 || p.lock = .free || p.lock = .hold then p
  else
    let (lo, hi) := trimLimits p.cfg
    let eff := max lo (min hi want)
    let out := want < lo || hi < want
    let q := { p with effPeriod := eff, atLimit := out }
    match err with
    | none => if src = 3 || src = 4 then { q with lockRun := 0 } else q
    | some e =>
      if p.lock = .locked then (if 4 < e.natAbs then { q with lock := .acquiring, lockRun := 0 } else q)
      else
        let run := if e.natAbs ≤ 1 && !out then p.lockRun + 1 else 0
        if lockNeed src ≤ run then { q with lock := .locked, lockRun := 0 } else { q with lockRun := run }

/-! ## What is taken at an edge (R74, R178) -/

/-- Something is still to be taken at the present edge of a channel: a change, relayed decisions (R436), a frame of the host
(R176), the binding of an output frame, the start of one, or the snapshot of its set (R262). -/
def State.edgeOpen (s : State) (ch : Fin 4) : Bool := s.edgeDue ch || s.relayDue ch || s.hostDue ch || (s.bindDue ch).isSome || s.frameDue ch || s.snapDue ch

/-- WINDOW_OPEN (R61, R78): at its START cycle a window of a map opens, where it is enabled and none of the
map is open, and each class 0 slot of the current variant in that window is dispatched. What a tick edge brings has been
taken before (R74). -/
def execWindowOpen (ch : Fin 4) (map window : Nat) (s : State) : Out :=
  clocked s fun s =>
    let p := s.pacer ch
    let regs := mapRegs p.cfg.windows map
    if 4 ≤ map || s.edgeOpen ch then s
    else match windowSpan regs window p.len, p.wins.get (toCh map) with
    | some (a, e), none =>
      if p.len ≤ a then s
      else
        let w := regs[window]?.getD 0
        let o : OpenWindow :=
          { index := window, cls := winClass w, backfill := winBackfill w, start := a, stop := min e p.len }
        let slots := (s.curSlots ch).zipIdx.foldl (fun ps q =>
            if q.1.window = window && unitMapOf p.cfg.unitMap q.1.unit = map && winClass w = 0 && ps[q.2]? = some .idle
            then ps.set q.2 .waiting else ps) p.slots
        (s.at (p.edge + a)).setPacer ch { p with wins := p.wins.set (toCh map) (some o), slots := slots, opened := true }
    | _, _ => s

/-! ## What a new tick brings -/

/-- At a program frame boundary the Pacer signals its status baton with the program frames completed (R368), while its
program is active (R493). -/
def State.frameBoundary (s : State) (ch : Fin 4) : State :=
  let p := s.pacer ch
  match p.program with
  | none => s
  | some g =>
    if (s.outBy.get ch).isSome || s.tick ch ≤ g.start || s.frameTick ch g ≠ 0 then s
    else
      let s1 := s.setPacer ch { p with program := some { g with frames := g.frames + 1 } }
      (s1.signal g.baton (g.frames + 1) (.program ch) ch).settle

/-- Heads that were ready count another tick, where their unit could have worked (R385): their wait is over, and no other
launch has reserved a quad they name (R373). -/
def State.countReady (s : State) (ch : Fin 4) : State :=
  let serving := s.svc ch ≠ .covered && s.svc ch ≠ .offline
  let one (qn : Nat) (q : Queue) : Queue :=
    match q.head with
    | some h =>
      if h.phase = .fetched || h.phase = .killed then
        let reserved := h.cmd.op = 1 && (bitsOf 8 (unitsOf q.engine h.cmd)).any (s.heldUnits ch (.queue qn h.track)).contains
        if !s.waitOver q (.queue qn h.track) h.cmd || reserved then { q with readyTicks := 0 }
        else if !serving || !(bitsOf 8 (unitsOf q.engine h.cmd)).all (s.unitUp ch) then q
        else { q with readyTicks := q.readyTicks + 1 }
      else { q with readyTicks := 0 }
    | none => { q with readyTicks := 0 }
  { s with queues := s.queues.map (fun e => if e.2.ch = ch.val then (e.1, one e.1 e.2) else e) }

/-- The first command of a queue, its head or a node of its launch, that waits for room in its ring (R382). -/
def State.ringWaiter (s : State) (qn : Nat) (q : Queue) : Option Cmd :=
  ((s.fetchedHeads qn q).find? (fun p => p.2.cmd.ring && !s.ringRoom q p.1 p.2.cmd)).map (fun p => p.2.cmd)

/-- A queue one of whose commands waits for room in its ring reads CONSUMED again (R382). A read that lacks a right faults the
context; one that an open publication holds is a held load (R157). -/
def State.rereadConsumed (s : State) (ch : Fin 4) : State :=
  forEach ((s.queues.filter (fun e => e.2.ch = ch.val && !e.2.stopped)).map (·.1)) (fun s qn =>
    match look s.queues qn with
    | none => s
    | some q =>
      match if q.ring = 0 then none else s.ringWaiter qn q with
      | none => s
      | some c =>
        match s.loadV (s.queueXlat q) q.ring 4 with
        | .ok b => s.setQueue qn { q with consumed := leNat b }
        | .error e =>
          match heldAt e with
          | some k => s.hold (.queue qn) (some ch) [k]
          | none => (s.contextFault q.ctx eTranslation qn ch (if c.signalEn then some c.sigBaton else none)).settle) s

/-- Values that follow a written object at an edge: STRICT_ALL (R105, in a pair R438), CACHE_RES (R313), protected content (R321) and the
trace filter (R507). -/
def State.latch (s : State) (ch : Fin 4) : State :=
  let (xs, more, s) := s.takeWaits ch (fun e => match e with
    | .strictAll b => some b
    | _ => none)
  let strict := if more then xs.getLast?.getD (s.latched.get ch).strictAll else s.obj (Obj.strictAll ch) = 1
  { s with latched := s.latched.mod ch (fun l => { l with strictAll := strict, cacheRes := s.obj (Obj.cacheRes ch), protect := s.protectedNow ch }), observe := s.observe.mod ch (fun o => { o with filter := s.filterNow }) }

/-- The idle ticks of a channel in sequence (R469). -/
def State.countIdle (s : State) (ch : Fin 4) : State :=
  let l := s.lend.get ch
  let n := if l.started || !s.queuesRest ch then 0 else l.idle + 1
  { s with lend := s.lend.set ch { l with idle := n, started := false } }

/-- No publication is open at the coherence point a slice belongs to. -/
def State.pointIdle (s : State) (ch : Fin 4) (sl : Slice) : Bool :=
  let pt : CohPoint := match sl with
    | .l2 _ => .l2 ch
    | .sc _ => .sc ch
  s.openAt pt true + s.openAt pt false = 0

/-- At an edge the addresses of a departed slice that holds no dirty line and no open publication pass to its partner, and
its lines are discarded; one whose enable bit is set again goes on to return (R315). -/
def State.passSlices (s : State) (ch : Fin 4) : State :=
  forEach slices (fun s p =>
    if (s.cacheSlice ch p.1).phase ≠ .drained || !s.pointIdle ch p.1 then s
    else s.setSlice ch p.1 { phase := if bit (s.obj (Obj.cacheCtrl ch)) p.2 then .invalidating else .off, lines := [], trackers := [] }) s

/-- A channel's new tick begins: the slots of its variant are to be dispatched, its next segment is composed unless an
output frame starts with it, and what waited for an edge holds. -/
def State.beginTick (s : State) (ch : Fin 4) : State :=
  let s0 := s.coverLost ch
  let s1 := s0.setPacer ch { s0.pacer ch with slots := (s0.curSlots ch).map (fun _ => SlotPhase.idle) }
  let s2 := (((s1.frameBoundary ch).countReady ch).rereadConsumed ch).countIdle ch
  let s3 : State := { s2 with observe := s2.observe.mod ch (fun o => { o with ticks := o.ticks + 1 }) }
  let s4 := ((((((s3.trackHot ch).latch ch).clearStage ch).resetEdge ch).markOff ch).passSlices ch).sampleSummary ch
  if s4.frameDue ch then s4.setComp ch { s4.comp ch with seg := none } else s4.composeTick ch

/-- A channel crosses an edge at cycle `e` (R57, R61): the tick's decisions are sent (R435), its segment is handed to DPn
(R190), every window closes under the new time stamp (R506), and the new tick begins. `f` gives the Pacer its tick
number, length and accumulator. -/
def State.crossEdge (s : State) (ch : Fin 4) (e : Nat) (f : Pacer → Pacer) : State :=
  let v := s.variantNow ch
  let slots := s.curSlots ch
  let s1 := ((s.sendDatum ch).handOver ch (s.outTick ch)).at e
  let p := s1.pacer ch
  let s2 := s1.setPacer ch { f p with count := p.count + 1, lastLen := e - p.edge, edge := e, opened := false }
  (forEach (upto 4) (fun s m => closeMap ch m v slots s) s2).beginTick ch

/-- Pacers count (R27, R465): not in P2, nor while the device returns from it. -/
def State.ticking (s : State) : Bool := s.power.p2 ≠ .standby && s.power.p2 ≠ .returning

/-- The trim of a Pacer at the edge at cycle `e`, with the aim of its lock (R54, R55). -/
def State.lockStep (s : State) (p : Pacer) (e period : Nat) (ref : Option Nat) : Pacer :=
  let (err, aim) := s.edgeError p e ref
  if p.lock = .acquiring || p.lock = .locked then { (p.trim period err) with aim := aim } else p.resume

/-- A Pacer that runs on its own period ends its tick, and those that follow it with it (R53 to R58). What an edge brings
is taken before the next edge (R74). -/
def tickEdge (ch : Fin 4) (period : Nat) (ref : Option Nat) (s : State) : State :=
  let p := s.pacer ch
  if !s.ticking || p.following || p.transition || (ch :: s.followers ch).any s.edgeOpen then s
  else
    let e := p.edge + p.len
    let q := s.lockStep p e period ref
    let (len, acc) := tickLength q.effPeriod q.acc
    let own (x : Pacer) : Pacer :=
      { x with tick := x.tick + 1, len := len, acc := acc, accPrev := q.acc, effPeriod := q.effPeriod, lock := q.lock,
               lockRun := q.lockRun, atLimit := q.atLimit, aim := q.aim, back := q.back }
    let s1 := s.crossEdge ch e own
    let s2 := forEach (s.followers ch) (fun s m =>
      s.crossEdge m e (fun x => { x with tick := p.tick + 1, len := len, accPrev := x.acc })) s1
    let s3 := (if q.atLimit && !p.atLimit then s2.attn atState ch (Obj.pacerCtrl ch) (lockCode q.lock) else s2).unlocked ch p.lock
    if ch ≠ 0 then s3
    else (if s3.marshal = .updating then s3 else s3.lendPool).exportRing (p.len / 32)

/-- TICK_EDGE (R57). A Pacer that follows another has its edges at its leader's. -/
def execTickEdge (ch : Fin 4) (period : Nat) (ref : Option Nat) (ecc : Ecc) (s : State) : Out :=
  clocked s (compReads ch ecc (tickEdge ch period ref))

/-- FOLLOW_START (R58): a transition tick ends at its leader's edge, and the follower takes the leader's edges, tick
lengths and tick number. -/
def followStart (ch : Fin 4) (s : State) : State :=
  let p := s.pacer ch
  let q := s.pacer (followOf ch p.cfg)
  if !p.transition || q.edge < p.edge + p.len || s.edgeOpen ch then s
  else s.crossEdge ch q.edge (fun x => { x.follow q with accPrev := x.acc })

/-- FOLLOW_START (R58). -/
def execFollowStart (ch : Fin 4) (ecc : Ecc) (s : State) : Out := clocked s (compReads ch ecc (followStart ch))

end Sys2Proof.Machine
end

