-- ==== Sys2Proof/Machine/Views.lean ====
section
/-! DEFINITION. What a dictionary READ returns (R346, R364, R399, R500, R516, R520): the objects whose value the
device forms when they are read, beside those that are stored. -/

namespace Sys2Proof.Machine

/-! ## Contexts, batons, queues, courses (R381, R399) -/

/-- The device references of a context (R386): its queues, its courses, and its commands from fetch to completion, those
of a tick program's slots from their start. -/
def State.deviceRefs (s : State) (c : Nat) : Nat :=
  let qs := s.queues.filter (fun e => e.2.ctx = c)
  let nodes (l : Launch) : Nat := (l.phases.filter (fun p => match p with
    | .fetched _ => true
    | _ => false)).length
  let mine (l : Launch) : Bool := (look s.queues l.queue).any (fun q => q.ctx = c)
  let slot (o : Origin) : Bool := match o with
    | .slot _ _ _ => true
    | _ => false
  qs.length + (s.courses.filter (fun e => e.2.ctx = c)).length + (qs.map (fun e => e.2.order.length)).sum +
    (s.runs.filter (fun e => e.2.ctx = c && slot e.2.origin)).length + (s.pubs.filter (fun e => e.2.ctx = c && slot e.2.origin)).length +
    ((s.launches.filter (fun e => mine e.2)).map (fun e => nodes e.2)).sum

/-- CTX_STATE, CTX_OWNER, CTX_AS and CTX_REFS (R399). -/
def State.ctxView (s : State) (c sub : Nat) : Nat :=
  match look s.ctxs c with
  | none => 0
  | some x =>
    match sub with
    | 2 => (match x.state with
      | .active => 1
      | .faulted => 2
      | .teardown => 3)
    | 3 => x.owner
    | 4 => x.asid
    | _ => min x.hostRefs 0xFFFF * 65536 + min (s.deviceRefs c) 0xFFFF

/-- CTX_FAULT (R399). -/
def State.faultView (s : State) (c : Nat) : List Byte :=
  match look s.ctxs c with
  | none => List.replicate 16 0
  | some x => toLE 2 x.fault.code ++ toLE 2 x.fault.queue ++ toLE 1 x.fault.chan ++ toLE 3 0 ++ toLE 8 x.fault.tick

/-- TENANT_USED (R399). -/
def State.tenantUsed (s : State) (t : Nat) : Nat :=
  (s.tenantBatons t).length * 2 ^ 32 + (s.ctxsOf t).length * 2 ^ 16 + (s.tenantQueues t).length

/-- LAST_SIGNALLER of a baton (R381). -/
def Signaller.code : Signaller → Nat
  | .none => 0
  | .queue q => 0x1000 + q % 0x1000
  | .host f => 0x2000 + f
  | .t1 => 0x2100
  | .program ch => 0x3000 + ch
  | .marshal => 0x4000

/-- Queue heads that wait on a baton (R381). -/
def State.waiters (s : State) (b : Nat) : Nat :=
  (s.queues.filter (fun e => e.2.head.any (fun h =>
    h.phase = .fetched && h.cmd.waitEn && h.cmd.waitBaton = b && !s.waitMet h.cmd))).length

/-- The 32 bytes of a baton in BATON_VIEW (R381). -/
def State.batonBytes (s : State) (b : Nat) : List Byte :=
  match look s.batons b with
  | none => List.replicate 32 0
  | some x =>
    toLE 8 x.value ++ toLE 8 x.lastTick ++ toLE 2 (s.waiters b) ++ toLE 2 x.lastSig.code ++ toLE 2 (x.owner.getD 0xFFFF) ++
    toLE 1 x.refs ++ toLE 1 (if x.inError then 2 else 1) ++ toLE 2 x.errCode ++ toLE 2 x.errOrig ++ toLE 4 x.errDet

/-- A requester sees a baton: every one to PF0 and T1, those of its tenant's range to a VF (R381). -/
def State.seesBaton (s : State) (who : Req) (b : Nat) : Bool := reqFn who = 0 || s.inTenant (reqFn who) b

/-- A queue's objects (R369, R399): staged values of a FREE queue are the requester's own. -/
def State.queueView (s : State) (who : Req) (q sub : Nat) : Nat :=
  match look s.queues q with
  | none => if sub ≤ 4 then s.stagedObj who (key (0x1800 + q) sub) else 0
  | some x =>
    match sub with
    | 1 => x.base
    | 2 => x.entries
    | 3 => x.ring
    | 4 => x.ringN
    | 7 => s.qStatus x
    | 8 => x.rptr
    | 9 => x.lap
    | _ => x.ringDrops

/-- A course's objects (R394, R395, R399). -/
def State.courseView (s : State) (who : Req) (k sub : Nat) : Nat :=
  if sub = 1 then s.stagedObj who (Obj.courseAddr k)
  else match look s.courses k with
  | none => 0
  | some x =>
    match sub with
    | 5 => x.version
    | 6 => ((x.versions.getLast?).map (·.1)).getD 0
    | _ => x.code * 65536 + (match x.state with
      | .checking => 1
      | .ready => 2
      | .refused => 3) * 4096 + x.failNode % 1024

/-! ## Channels, Pacers, memory (R62, R310, R520) -/

/-- CH_SUMMARY (R520): every field as the channel's last tick edge left it. -/
def State.summary (s : State) (ch : Fin 4) : Nat :=
  let gang := match (s.gangOf ch).length with
    | 2 => 1
    | 4 => 2
    | _ => 0
  (s.svc ch).code + (if (s.latched.get ch).ready then 4 else 0) + (if bits (s.obj (Obj.tpStatus ch)) 15 12 = 3 then 8 else 0) +
    (s.latched.get ch).pstate * 16 + gang * 64

/-- PACER_CTRL as it reads (R62 table): the staged fields with APPLY_PENDING and LOCK_STATE. -/
def State.pacerCtrlView (s : State) (ch : Fin 4) : Nat :=
  let p := s.pacer ch
  s.obj (Obj.pacerCtrl ch) + (if p.pending.isSome then 2 ^ 31 else 0) + lockCode p.lock * 64

/-- An address space's objects that the device forms (R329 table). -/
def State.spaceView (s : State) (k sub : Nat) : Nat :=
  let x := s.space k
  match sub with
  | 6 => x.status
  | 7 => x.newest.num
  | 8 => x.ack
  | _ => s.chunksUsed k (toCh (sub - 0x0D))

/-- The state of a domain (R454, R455): 0 OFF, 1 RET, 2 ON. A read is served outside P2 only. -/
def State.domainState (s : State) (d : Nat) : Nat :=
  let pst (ch parked : Nat) : Nat := match s.powerNow (toCh ch) with
    | 1 => parked
    | 2 => 0
    | _ => 2
  let on (b : Bool) : Nat := if b then 2 else 0
  if d < 68 then
    let ch := d / 17
    let st := ((s.cores.get (toCh ch)).state[d % 17]?).getD 1
    if st = 1 || st = 4 then 0 else pst ch (if d % 17 = 16 then 2 else 1)
  else if d < 100 then pst ((d - 68) / 8) (if (d - 68) % 8 < 4 then 0 else 1)
  else if d < 108 then pst ((d - 100) / 2) 2
  else if d < 112 then 2
  else if d < 124 then on (s.domainOn (d - 112))
  else if d < 128 then pst (d - 124) 2
  else 0

/-- PD_STATE (R455): two bits a domain. -/
def State.pdState (s : State) : List Byte :=
  (upto 32).map (fun i => BitVec.ofNat 8 ((upto 4).map (fun j => s.domainState (4 * i + j) * 4 ^ j)).sum)

/-! ## Units and images (R500) -/

/-- A unit is FAILED (R497): DP, DPIN and KL units, by UNIT_HEALTH. -/
def State.imageUnitFailed (s : State) (u : Nat) : Bool :=
  let n := u % 16
  if unitKind u = 3 then bit (s.obj (Obj.unitHealth n)) 10
  else if unitKind u = 4 then bit (s.obj (Obj.unitHealth 0)) (11 + n)
  else if unitKind u = 5 then bit (s.obj (Obj.unitHealth 0)) (13 + n)
  else false

/-- A unit's STATE in UNIT_TABLE (R500). A unit that lost its image with its domain and whose domain is OFF has none. -/
def State.unitState (s : State) (u : Nat) : Nat :=
  let x := s.unitImage u
  if s.imageUnitFailed u then 5
  else if s.unitTested u then 4
  else if x.needed then (if s.unitOff u then 0 else 6)
  else if x.apply.isSome then 3
  else if x.staged.isSome then 2
  else if x.running.isSome then 1
  else 0

/-- An entry of UNIT_TABLE (R500). -/
def State.unitEntry (s : State) (u : Nat) : List Byte :=
  let x := s.unitImage u
  let r (f : Image → Nat) : Nat := (x.running.map f).getD 0
  toLE 2 u ++ toLE 1 (s.unitState u) ++ toLE 1 (r Image.signer) ++ toLE 4 (r Image.version) ++ toLE 4 (r Image.build) ++
  toLE 4 ((x.staged.map Image.version).getD 0) ++ slice ((x.running.map Image.digest).getD []) 0 32

/-- UNIT_TABLE (R500). -/
def State.unitTable (s : State) : List Byte := (unitIds.map s.unitEntry).flatten

/-! ## Attention, identity, tables -/

/-- The bytes of an attention entry (R355). -/
def AttnEntry.bytes (e : AttnEntry) : List Byte :=
  toLE 4 e.seq ++ toLE 2 e.code ++ toLE 1 e.channel ++ toLE 1 0 ++ toLE 2 e.index ++ toLE 1 e.sub ++ toLE 1 0 ++ toLE 4 e.detail ++ toLE 8 e.tick

/-- Entries a function's log retains (R355). -/
def logSize (f : Nat) : Nat := if f = 0 then 256 else 64

/-- The byte at offset `i` of ATTN_LOG (R355): the entry for SEQ s lies at 24 × (s mod size). -/
def State.attnByte (s : State) (f i : Nat) : Byte :=
  match (s.logOf f).entries.find? (fun e => e.seq % logSize f = i / 24) with
  | some e => (e.bytes[i % 24]?).getD 0
  | none => 0

/-- The byte at offset `i` of BUILTIN_TABLE (R270, R273): four decode tables of 4,097 knots as U32, three encode tables of
1,217 knots as U16. -/
def State.builtinByte (s : State) (ch : Fin 4) (i : Nat) : Byte :=
  let white := s.obj (Obj.sdrWhite ch)
  let peak := s.obj (Obj.hlgPeak ch)
  let v := if i < 65552 then decodeKnot (i / 16388) white peak (i % 16388 / 4) / 256 ^ (i % 4)
    else encodeKnot ((i - 65552) / 2434) white peak ((i - 65552) % 2434 / 2) / 256 ^ ((i - 65552) % 2)
  BitVec.ofNat 8 v

/-- The acknowledge register of a mailbox, in the layout of H2M_ACK (R359). -/
def Mailbox.ackWord (m : Mailbox) : Nat := (if m.pending then 2 ^ 31 else 0) + m.seq % 256 * 65536 + m.rc % 65536

/-! ## The value a requester reads -/

/-- The objects under a Pacer's indices that the device forms. -/
def State.pacerView (s : State) (ch : Fin 4) (sub : Nat) : Option Nat :=
  match sub with
  | 1 => some (s.pacerCtrlView ch)
  | 5 => some (s.tick ch)
  | 6 => some (s.pacer ch).lastLen
  | 7 => some (s.lChk ch)
  | _ => none

/-- Attention, per requester (R356, R364). -/
def State.attnView (s : State) (f sub : Nat) : Option Nat :=
  let l := s.logOf f
  match sub with
  | 1 => some (s.now / 1000000 % 2 ^ 32)
  | 2 => some l.newest
  | 3 => some l.acked
  | 4 => some l.first
  | 5 => some l.dropped
  | _ => none

/-- A numeric object that the device forms when it is read; none for one that is stored. `b` and `n` are the block base
and instance of its index. -/
def State.numView (s : State) (who : Req) (b n sub : Nat) : Option Nat :=
  let ch := toCh n
  match b with
  | 0x1001 => s.attnView (reqLog who) sub
  | 0x1010 => if sub = 1 then none else some (s.obj (own (.fn (reqLog who)) (key b sub)))
  | 0x1100 => some (s.ctxView n sub)
  | 0x1200 => if sub = 5 then some (s.tenantUsed n) else none
  | 0x1400 => some (s.courseView who n sub)
  | 0x1800 => some (s.queueView who n sub)
  | 0x2000 => s.pacerView ch sub
  | 0x3000 => some (s.summary ch)
  | 0x3200 => if sub = 2 then some (s.pipeStatus ch) else none
  | 0x3320 => some (s.mbox (mbChan n (sub - 1))).ackWord
  | 0x4010 => if sub = 2 then some (s.cacheState ch) else none
  | 0x4020 => if sub = 3 then some (s.allocState ch) else if sub = 4 then some (s.allocFree ch) else none
  | 0x4800 => if (6 ≤ sub && sub ≤ 8) || (0x0D ≤ sub && sub ≤ 0x10) then some (s.spaceView n sub) else none
  | 0x9000 => if sub = 7 then some s.modelVersion else none
  | 0x9020 => if sub = 2 then some s.policy.version else none
  | 0xA000 => if sub = 8 then some s.traceState else if sub = 0x0C then some s.traceBuf.length else none
  | _ => none

/-- An octet or string object that the device forms when it is read, as its byte at an offset; none for one that is
stored. -/
def State.octView (s : State) (who : Req) (b n sub : Nat) : Option (Nat → Byte) :=
  let ch := toCh n
  let l (x : List Byte) : Option (Nat → Byte) := some (fun i => (x[i]?).getD 0)
  match b with
  | 0x1000 => if sub = 1 then l (ascii "Llynpex") else if sub = 2 then l (ascii "LPX-IQ7200") else l (toLE 16 Config.serial)
  | 0x1001 => some (s.attnByte (reqLog who))
  | 0x1003 => l s.snapshotBlock
  | 0x1020 => l s.macBytes
  | 0x1100 => l (s.faultView n)
  | 0x1300 =>
    if sub = 1 then some (fun i => if s.seesBaton who (i / 8) then ((s.batonBytes (i / 8))[i % 8]?).getD 0 else 0)
    else some (fun i => if s.seesBaton who (i / 32) then ((s.batonBytes (i / 32))[i % 32]?).getD 0 else 0)
  | 0x3360 => if sub = 5 then l ((s.cores.get ch).map.map (BitVec.ofNat 8)) else l ((s.cores.get ch).state.map (BitVec.ofNat 8))
  | 0x5000 => l s.pdState
  | 0x6000 => if sub = 0x0E then some (s.builtinByte ch) else none
  | 0x9000 => if sub = 3 then l Config.rootDigest else none
  | 0x9010 => if sub = 3 then l s.unitTable else none
  | 0x9020 => if sub = 4 then l (s.policy.floors.map (toLE 4)).flatten else l s.policy.owner
  | 0xA000 => l (((s.filterNow).watch.map (toLE 2)).flatten)
  | 0xA100 => if sub = 3 then l (s.splitWindow ch) else some (s.splitStageByte ch)
  | _ => none

/-- An object's size as a requester sees it (R346, R364): a VF's ATTN_LOG is 1,536 bytes. -/
def objSize (who : Req) (b : Nat) (r : ObjRow) : Nat :=
  if b = 0x1001 && r.sub = 6 && reqLog who ≠ 0 then 1536 else r.ty.size

/-- `len` bytes of an object from `off` (R346). -/
def State.readObject (s : State) (who : Req) (b n : Nat) (r : ObjRow) (k off len : Nat) : List Byte :=
  if r.acc = .cmd then ((toLE 4 ((look s.cmdStatus k).getD 0)).drop off).take len
  else if r.ty.isOctets then
    match s.octView who b n r.sub with
    | some f => (upto len).map (fun i => f (off + i))
    | none => ((s.oct k r.ty.size).drop off).take len
  else
    let v := (s.numView who b n r.sub).getD (s.obj k)
    ((toLE r.ty.size v).drop off).take len

end Sys2Proof.Machine
end

