-- ==== Sys2Proof/Machine/Dictionary.lean ====
section
/-! DEFINITION. The dictionary as Marshal serves it (R345 to R352): object writes, the two transports, READ and WRITE
requests and their replies. -/

namespace Sys2Proof.Machine

/-! ## Writes of objects without a row of their own (R21, R22) -/

/-- The fields [hi:lo] of a number, the other bits 0. -/
def keepBits (v : Nat) (fs : List (Nat × Nat)) : Nat := (fs.map (fun f => bits v f.1 f.2 * 2 ^ f.2)).sum

/-- The value a written object takes (R22): reserved bits of register maps are ignored, bit 0 of TRACE_TYPES reads 1
and WAKE_MASK's always-enabled source stays set. PACER0's FOLLOW_CH cannot be written. -/
def writtenValue (b n sub v : Nat) : Nat :=
  match b with
  | 0x2000 => if sub = 1 then keepBits v (if n = 0 then [(30, 28), (25, 16)] else [(30, 16)])
    else if sub = 2 then v % 2 ^ 29 else v % 2 ^ 16
  | 0x2010 | 0x2011 | 0x2012 | 0x2013 => keepBits v [(31, 28), (13, 0)]
  | 0x3210 => keepBits v [(31, 4)]
  | 0x4800 => if sub = 4 then v % 2 else v
  | 0x5000 => if sub = 4 then wakeMaskOf v else v
  | 0x7000 => if sub = 1 then keepBits v [(31, 7)] else v
  | 0x8000 => if sub = 1 then keepBits v [(31, 23)] else if sub = 7 then v % 16 else v
  | 0xA000 => if sub = 1 then keepBits v [(31, 30), (27, 24), (15, 0)] else if sub = 2 then setBits v 0 0 1 else if sub = 3 then v % 16 else v
  | 0xB000 => keepBits v [(31, 14)]
  | 0xC000 => if sub = 1 then keepBits v [(31, 31), (29, 29)] else if sub = 11 then v % 16 else v
  | _ => v

/-- The values an object's description admits (R351): a write outside them is refused with OUT_OF_RANGE. -/
def valueOk (b n sub v : Nat) : Bool :=
  let within (lo hi : Nat) : Bool := decide (lo ≤ v) && decide (v ≤ hi)
  match b, sub with
  | 0x3210, 1 => !(n = 2 && bits v 31 30 = 2)
  | 0x3310, 6 => within 1 1000000
  | 0x3360, 1 => within 0 7
  | 0x3360, 7 => within 0 15
  | 0x4000, 3 => within 1 1000
  | 0x4000, 4 => within 1 31
  | 0x4010, 3 => within 0 12
  | 0x4800, 2 => within 0 4096
  | 0x5000, 3 => within 0 1
  | 0x5000, 14 => within 1 1000000
  | 0x6000, 5 => within 48 1000
  | 0x6000, 6 => within 100 4000
  | 0x7000, 10 => within 1 8
  | 0x8000, 1 => bits v 25 24 ≠ 3
  | 0xA000, 4 => v ≤ 255 || v = 0xFFFF
  | 0xA100, 1 => within 1 500000
  | 0xB200, 2 => v % 64 = 0
  | 0xB200, 3 => within 2 1048576
  | _, _ => true

/-- A write that does more than store its value: what it does (R295, R344, R418, R434). -/
def State.writeHook (s : State) (b n sub v : Nat) : State :=
  match b, sub with
  | 0x1020, 7 => s.asEnSet v
  | 0x8000, 1 => s.dpinCtrlSet n v
  | 0xC000, 1 => s.klCtrlSet n v
  | _, _ => s.setObj (key' b n sub) v
where
  /-- The key of the object at instance `n` of a block (R518). -/
  key' (b n sub : Nat) : Nat :=
    key (match b with
      | 0x2000 | 0x2010 | 0x2011 | 0x2012 | 0x2013 | 0x2020 | 0x4000 | 0x4010 | 0x4020 | 0x5100 | 0x6000 | 0x7000 | 0x8000 | 0xA100 | 0xC000 => b + 0x100 * n
      | 0x3000 | 0x3100 | 0x3200 | 0x3210 | 0x3300 | 0x3310 | 0x3360 => b + 0x400 * n
      | 0x3340 => b + n / 16 * 0x400 + n % 16
      | 0x4800 | 0xB200 => b + n
      | _ => b) sub

/-- The tick at which a stored value takes effect on a standby (R438): for STRICT_ALL and FILL as both devices hold it back,
for others the tick after the write's. -/
def State.storeTick (s : State) (b n sub : Nat) : Nat :=
  let ch := toCh n
  if b = 0x3100 && sub = 1 then s.tick ch + 1 + s.relay ch
  else if b = 0x6000 && sub = 4 then s.frameEffect ch
  else s.tick ch + 1

/-- STRICT_ALL and FILL wait in a pair (R438). -/
def State.pairStore (s : State) (b n sub : Nat) (bytes : List Byte) : State :=
  let ch := toCh n
  if 4 ≤ n || !s.inPair ch then s
  else if b = 0x3100 && sub = 1 then s.pairWait ch (s.tick ch + s.edgesToEffect ch) (.strictAll (leNat bytes = 1))
  else if b = 0x6000 && sub = 4 then s.pairWait ch (s.pair.effect.getD (s.frameEffect ch)) (.fill bytes)
  else s

/-- A write of an object without a row of its own (R21, R22, R369, R438): checked against its values, then stored,
staged, or taken at once. Staged values of queues and courses are the requester's own. -/
def State.storeObject (s : State) (who : Req) (b n sub k v : Nat) (bytes : List Byte) (octets : Bool) : State :=
  if b = 0x1400 then (s.setObj (own who k) v).answer rcOk
  else if b = 0x1800 then
    (if (look s.queues n).isSome then s.answer rcBusy else (s.setObj (own who k) v).answer rcOk)
  else if s.standbyBars k then s.answer rcBusy
  else s.mirrored k bytes (s.storeTick b n sub) fun s =>
    if octets then ((s.setOct k bytes).pairStore b n sub bytes).answer rcOk
    else
      let w := writtenValue b n sub v
      if !valueOk b n sub w then s.answer rcRange
      else if b = 0xB000 then s.pairCtrlSet w
      else ((s.writeHook b n sub w).pairStore b n sub bytes).answer rcOk

/-! ## Writes of objects with a row of their own -/

/-- The rows of the chapters on contexts, queues, batons, courses and heats. -/
def workOp (who : Req) (b n sub v : Nat) (bytes : List Byte) : Option (State → State) :=
  match b, sub with
  | 0x1100, 1 => some (opCtxCreate who n v)
  | 0x1100, 6 => some (opCtxHold who n v)
  | 0x1100, 7 => some (opCtxRelease who n v)
  | 0x1100, 8 => some (opCtxAbort who n v)
  | 0x1100, 10 => some (opBatonCreate who n v)
  | 0x1100, 11 => some (opBatonRelease who n v)
  | 0x1100, 12 => some (opBatonShare who n v)
  | 0x1200, _ => some (opTenantQuota who n sub v)
  | 0x1300, 3 => some (fun s =>
      if reserved bytes 2 6 then opBatonSignal who (field bytes 0 2) (field bytes 8 8) s else s.refuse Obj.batonSignal rcRange)
  | 0x1300, 4 => some (fun s =>
      if reserved bytes 4 4 then opBatonFail who (field bytes 0 2) (field bytes 2 2) s else s.refuse Obj.batonFail rcRange)
  | 0x1400, 2 => some (opCourseCreate who n v)
  | 0x1400, 3 => some (opCoursePatch who n v)
  | 0x1400, 4 => some (opCourseDestroy who n v)
  | 0x1800, 5 => some (opQCreate who n v)
  | 0x1800, 6 => some (opQDestroy who n v)
  | 0x3340, 2 => some (opHeatCreate who (toCh (n / 16)) (n % 16) v)
  | 0x3340, 3 => some (opHeatDestroy who (toCh (n / 16)) (n % 16) v)
  | 0xB100, 2 => some (opDigestRun who v)
  | 0xB200, 1 => some (opReplayCtrl who n v)
  | _, _ => none

/-- A write whose check asks the timing model (R83, R315, R495) or the twin (R434): their answers are not part of a
dictionary request, so they are free values. -/
def State.asked (s : State) (f : BitVec 64 → State → State) : State := let (x, s1) := s.free64; f x s1

/-- The rows of a channel's Pacer, program, pipeline, composition and output, memory and service. -/
def channelOp (who : Req) (b n sub v : Nat) : Option (State → State) :=
  let ch := toCh n
  match b, sub with
  | 0x2000, 4 => some (fun s => s.asked (fun _ => opApply who ch v (s.freeFigures ch)))
  | 0x2020, 2 => some (opTpLoad who ch v)
  | 0x2020, 6 => some (opTpUnload who ch v)
  | 0x3200, 14 => some (opSrcSubmit who ch v)
  | 0x3210, 2 => some (opGangApply who ch v)
  | 0x3360, 2 => some (fun s => opChService who ch v (s.obj (Obj.chService ch) % 4) s)
  | 0x3360, 4 => some (opChReset who ch v)
  | 0x3360, 8 => some (opSubstApply who ch v)
  | 0x3360, 10 => some (opTestRun who ch v)
  | 0x4000, 2 => some (opMemRetrain who ch v)
  | 0x4010, 1 => some (fun s => s.asked (fun x => opCacheCtrl who ch v (x.getLsbD 0)))
  | 0x4010, 3 => some (fun s => s.asked (fun x => opCacheRes who ch v (x.getLsbD 0)))
  | 0x4020, 1 => some (opAllocPool who ch false v)
  | 0x4020, 2 => some (opAllocPool who ch true v)
  | 0x4800, 5 => some (opAsInstall who n v)
  | 0x4800, 17 => some (opAllocTrim who n v)
  | 0x5100, 1 => some (opChPower who ch v)
  | 0x5100, 3 => some (opOppReq who ch v)
  | 0x5100, 6 => some (opChBudget who ch v)
  | 0x6010, 2 => some (opClosureClear who ch v)
  | 0x7000, 11 => some (opDpApply who ch v)
  | 0xA100, 5 => some (opSplitClear who ch v)
  | _, _ => none

/-- The rows of the device: host port, links and twins, power, bring-up and update. -/
def deviceOp (who : Req) (b n sub v : Nat) (bytes : List Byte) : Option (State → State) :=
  match b, sub with
  | 0x1001, 3 => some (opAttnAck who v)
  | 0x1003, 2 => some (opRestoreWrite who bytes)
  | 0x1020, 1 => some (opT1Address who 1 bytes)
  | 0x1020, 2 => some (opT1Address who 2 bytes)
  | 0x1020, 3 => some (opT1Address who 3 bytes)
  | 0x5000, 2 => some (opP2Enter who v)
  | 0x5000, 8 => some (opPadRelease who v)
  | 0x5000, 13 => some (opPackageLimit who v)
  | 0x8000, 8 => some (opAttachApply who (if n = 0 then .dpin0 else .dpin1) v)
  | 0x9010, 1 => some (opImageChunk who bytes)
  | 0x9010, 5 => some (opUpdateApply who v)
  | 0x9010, 6 => some (opUpdateDiscard who v)
  | 0x9020, 1 => some (opPolicyWrite who bytes)
  | 0x9030, 2 => some (opAttestRun who v)
  | 0x9040, 1 => some (opHdcpKeys who bytes)
  | 0xB000, 2 => some (fun s => s.asked (fun _ => opPairJoin who v s.freePeer))
  | 0xB000, 3 => some (opPairSwap who v)
  | 0xC000, 6 => some (opKlApply who n v)
  | 0xC000, 12 => some (opAttachApply who (if n = 0 then .kl0 else .kl1) v)
  | 0xC200, 1 => some (opSyncRole who v)
  | 0xC200, 3 => some (opStartLine who v)
  | _, _ => none

/-- What a write of an object with a row of its own does. -/
def rowOp (who : Req) (b n sub v : Nat) (bytes : List Byte) : Option (State → State) :=
  (workOp who b n sub v bytes).orElse (fun _ => (channelOp who b n sub v).orElse (fun _ => deviceOp who b n sub v bytes))

/-- A whole value written to an object (R21, R346, R352): refused by the gate, the access right or the type, and
otherwise executed. -/
def State.writeObject (s : State) (who : Req) (index sub : Nat) (bytes : List Byte) : State :=
  let k := key index sub
  match objRow index sub with
  | none => s.answer (if strayGang index sub then s.strayCode who index sub else rcUnknown)
  | some (r, n) =>
    let b := ((blockOf index).map (·.1)).getD 0
    let turn (c : Nat) : State := if r.acc = .cmd then s.refuse k c else s.answer c
    let v := leNat bytes
    match s.gate who index sub with
    | 0 =>
      if r.acc = .ro then s.answer rcAccess
      else if bytes.length ≠ r.ty.size then turn rcLength
      else if r.ty = .bool && 1 < v then turn rcRange
      else match rowOp who b n sub v bytes with
        | some f => f s
        | none => s.storeObject who b n sub k v bytes r.ty.isOctets
    | c => turn c

/-- GENERIC_OBJECT_WRITE (R21). A request that waits does nothing yet. -/
def execGenericObjectWrite (who : Req) (index sub : Nat) (value : List (BitVec 8)) (s : State) : Out :=
  clocked s fun s => if s.requestsWait then s else s.writeObject who index sub value

/-! ## Frames (R345, R346) -/

/-- The header fields of a request frame (R345). -/
def frameOp (b : List Byte) : Nat := field b 3 1
def frameTag (b : List Byte) : Nat := field b 4 2
def frameIndex (b : List Byte) : Nat := field b 6 2
def frameSub (b : List Byte) : Nat := field b 8 1
def frameFlags (b : List Byte) : Nat := field b 9 1
def frameCount (b : List Byte) : Nat := field b 0x0A 2
def frameOff (b : List Byte) : Nat := field b 0x0C 4

/-- MAGIC of a frame (R345). -/
def frameMagic : Nat := 0x5144

/-- The bytes of a frame's header. -/
def frameHead : Nat := 24

/-- The frame of a request is one that Marshal executes (R345, R349, R351). -/
def frameGood (q : DictRequest) : Bool :=
  let b := q.frame
  let tagged : Bool := match q.src with
    | .fn _ => frameTag b = q.tag
    | .t1 _ _ => true
  field b 0 2 = frameMagic && field b 2 1 = 1 && (frameOp b = 1 || frameOp b = 2) && frameFlags b < 2 && reserved b 0x10 8 && tagged

/-- A reply to a request frame (R345): it copies MAGIC, VERSION, TAG, INDEX, SUB and OFFSET and sets OP[7]. -/
def replyFrame (b : List Byte) (rsw size : Nat) (data : List Byte) : List Byte :=
  slice b 0 3 ++ toLE 1 (frameOp b % 128 + 128) ++ slice b 4 5 ++ toLE 1 0 ++ toLE 2 data.length ++ slice b 0x0C 4 ++
  toLE 4 rsw ++ toLE 4 size ++ data

/-! ## The transports (R348 to R350) -/

/-- The dictionary window of a function, all zero before its first request (R349). -/
def State.window (s : State) (f : Nat) : DictWindow :=
  (look s.windows f).getD { req := [], reply := [], busy := false, overrun := false, tag := 0 }

/-- The state with a function's dictionary window replaced. -/
def State.setWindow (s : State) (f : Nat) (w : DictWindow) : State := { s with windows := put s.windows f w }

/-- DICT_DOORBELL (R349, R363): the request in DICT_REQ, `frame`, is copied and BUSY is set; while BUSY the write is
discarded and sets OVERRUN, as are the writes to DICT_REQ before it. -/
def doorbell (f tag : Nat) (frame : List Byte) (s : State) : State :=
  if 16 ≤ f || s.resetting f then s
  else
    let w := s.window f
    if w.busy then s.setWindow f { w with overrun := true }
    else
      let b := slice frame 0 2048
      let s1 := s.setWindow f { w with req := b, busy := true, overrun := false }
      { s1 with marshalQ := s1.marshalQ ++ [{ src := .fn f, tag := tag % 65536, frame := b, admitted := false }] }

/-- DICT_DOORBELL (R349). As a BAR0 write it wakes a device in P2 (R464). -/
def execDictDoorbell (f : Nat) (tag : Nat) (frame : List (BitVec 8)) (s : State) : Out :=
  clocked s fun s => doorbell f tag frame (if f < 16 then s.edgeEvent 1 else s)

/-- The T1 clients with one made the most recently heard; a ninth displaces the least recently heard (R348). -/
def heardFrom (l : List T1Client) (ip port : Nat) : List T1Client :=
  let c := (l.find? (fun c => c.ip = ip && c.port = port)).getD { ip := ip, port := port, kept := [] }
  (c :: l.filter (fun c => c.ip ≠ ip || c.port ≠ port)).take 8

/-- The kept reply of a T1 client to a TAG (R348). -/
def State.keptReply (s : State) (ip port tag : Nat) : Option (List Byte) :=
  (s.t1Clients.find? (fun c => c.ip = ip && c.port = port)).bind (fun c => look c.kept tag)

/-- A kept reply goes again, with the RSW sampled afresh but for its REPLY_CODE (R348). -/
def State.sendAgain (s : State) (ip port : Nat) (b : List Byte) : State :=
  let code := bits (field b 0x10 4) 11 8
  let s1 := s.bump Obj.dictDuplicates 1 32
  { s1 with t1Out := s1.t1Out ++ [.udp ip port (patch b 0x10 (toLE 4 (s1.rsw 0 code)))] }

/-- A datagram is dropped and counted (R348, R464). -/
def State.dropDatagram (s : State) : State := s.bump Obj.dictDrops 1 32

/-- A datagram is too short, has a wrong MAGIC, or is not as long as its OP makes it (R348). -/
def datagramBad (b : List Byte) : Bool :=
  b.length < frameHead || field b 0 2 ≠ frameMagic ||
  b.length ≠ (if frameOp b = 1 then frameHead else frameHead + frameCount b)

/-- The device enters P2 or is in it: wake sources count (R464). -/
def State.sleeping (s : State) : Bool :=
  match s.power.p2 with
  | .entry _ => true
  | .standby => true
  | _ => false

/-- T1_DICT_DATAGRAM (R348, R464): a datagram to port 19544 is dropped, answered again as a duplicate, or waits for
Marshal; with its wake source masked it is dropped in P2, else it wakes the device. One whose wake is lost is dropped, and not
counted (R463; log entry 144). -/
def datagram (ip port : Nat) (b : List Byte) (s : State) : State :=
  if s.obj Obj.t1State ≠ 2 then s
  else if s.sleeping && !bit (s.obj Obj.wakeMask) 2 then s.dropDatagram
  else
    let (lost, s1) := s.wakeEdge 2
    if lost then s1
    else if datagramBad b then s1.dropDatagram
    else
      let tag := frameTag b
      let s2 : State := { s1 with t1Clients := heardFrom s1.t1Clients ip port }
      if s2.marshalQ.any (fun q => q.src = .t1 ip port && q.tag = tag) then s2.bump Obj.dictDuplicates 1 32
      else match s2.requestsWait, s2.keptReply ip port tag with
        | false, some r => s2.sendAgain ip port r
        | _, _ =>
          let waiting := s2.marshalQ.filter (fun q => match q.src with
            | .t1 _ _ => true
            | .fn _ => false)
          if 32 ≤ waiting.length then s2.dropDatagram
          else { s2 with marshalQ := s2.marshalQ ++ [{ src := .t1 ip port, tag := tag, frame := b, admitted := s2.t1May ip }] }

/-- T1_DICT_DATAGRAM (R348). -/
def execT1DictDatagram (ip port : Nat) (payload : List (BitVec 8)) (s : State) : Out := clocked s (datagram ip port payload)

/-! ## Requests (R346 to R353) -/

/-- The segment buffer of a requester (R347). -/
def State.segmentOf (s : State) (who : Req) : Option Segment := s.segments.find? (fun g => g.who = who)

/-- The state with a requester's segment buffer replaced. -/
def State.setSegment (s : State) (who : Req) (g : Option Segment) : State :=
  { s with segments := s.segments.filter (fun x => x.who ≠ who) ++ g.toList }

/-- One segment of a write to an object of `n` bytes (R347): it begins or continues the requester's sequence; the last
one writes the object if all its bytes are there. -/
def State.writeSegment (s : State) (who : Req) (index sub n off : Nat) (more : Bool) (data : List Byte) : State :=
  let seen : Option (List Byte) :=
    if off = 0 then some []
    else (s.segmentOf who).bind (fun g => if g.index = index && g.sub = sub && g.data.length = off then some g.data else none)
  let gone := s.setSegment who none
  match seen with
  | none => gone.answer rcLength
  | some d =>
    let all := d ++ data
    if n < all.length then gone.answer rcLength
    else if more then (s.setSegment who (some { who := who, index := index, sub := sub, data := all })).answer rcOk
    else if all.length ≠ n then gone.answer rcLength
    else gone.writeObject who index sub all

/-- A WRITE request (R346, R347): objects of more than 1,024 bytes in segments, others whole. -/
def State.serveWrite (s : State) (who : Req) (b : List Byte) : State :=
  let index := frameIndex b
  let sub := frameSub b
  let n := frameCount b
  let off := frameOff b
  let more := bit (frameFlags b) 0
  let data := slice b frameHead n
  match objRow index sub, s.gate who index sub with
  | some (r, _), 0 =>
    let long : State := if r.acc = .cmd then s.refuse (key index sub) rcLength else s.answer rcLength
    if 1024 < n then long
    else if r.acc = .ro then s.answer rcAccess
    else if 1024 < r.ty.size then s.writeSegment who index sub r.ty.size off more data
    else if more || off ≠ 0 then long
    else s.writeObject who index sub data
  | _, _ => s.writeObject who index sub data

/-- A READ request (R346): the reply code and the bytes. -/
def State.serveRead (s : State) (who : Req) (b : List Byte) : Nat × List Byte :=
  let index := frameIndex b
  let sub := frameSub b
  let off := frameOff b
  match objRow index sub, s.gate who index sub with
  | some (r, n), 0 =>
    let base := ((blockOf index).map (·.1)).getD 0
    let size := if r.acc = .cmd then 4 else objSize who base r
    let len := if frameCount b = 0 then min (size - off) 1024 else frameCount b
    if r.acc = .wo then (rcAccess, [])
    else if 1024 < frameCount b || size ≤ off || size < off + len then (rcLength, [])
    else (rcOk, s.readObject who base n r (key index sub) off len)
  | none, _ => (rcUnknown, [])
  | some _, c => (c, [])

/-- SIZE of a reply (R345, R346): the object's size for the requester, 4 for a READ of a CMD object. -/
def replySize (who : Req) (b : List Byte) : Nat :=
  match objRow (frameIndex b) (frameSub b) with
  | none => 0
  | some (r, _) =>
    if r.acc = .cmd && frameOp b = 1 then 4 else objSize who (((blockOf (frameIndex b)).map (·.1)).getD 0) r

/-- A reply goes back to its requester (R348, R349): into the function's window, or as a datagram whose bytes are kept
for the client. -/
def State.sendReply (s : State) (q : DictRequest) (r : List Byte) : State :=
  match q.src with
  | .fn f =>
    let w := s.window f
    s.setWindow f { w with reply := patch w.reply 0 r, busy := false, tag := q.tag }
  | .t1 ip port =>
    let keep (c : T1Client) : T1Client :=
      if c.ip = ip && c.port = port then { c with kept := ((q.tag, r) :: c.kept).take 16 } else c
    { s with t1Out := s.t1Out ++ [.udp ip port r], t1Clients := s.t1Clients.map keep }

/-- ARG1 of a DICT record (R506): the function, or 0x100 for T1. -/
def reqWord : Req → Nat
  | .fn f => f
  | .t1 _ _ => 0x100

/-- The request at the head of the queue is executed and answered (R346, R350, R353). A request whose window TAG
differs is answered but not executed (R349). -/
def State.serve (s : State) (q : DictRequest) : State :=
  let b := q.frame
  let who := q.src
  let finish (s : State) (size : Nat) (data : List Byte) : State :=
    s.sendReply q (replyFrame b (s.rsw (reqLog who) s.reply) size data)
  let counted : Bool := match who with
    | .fn _ => frameTag b = q.tag
    | .t1 _ _ => true
  let s1 := if counted then s.bump Obj.dictRequests 1 64 else s
  if !frameGood q then finish (s1.answer rcMalformed) (replySize who b) []
  else if frameOp b = 1 then
    let (c, data) := s1.serveRead who b
    finish (s1.answer c) (replySize who b) data
  else
    let s2 := s1.emit 15 noCh 12 0 0 (frameIndex b * 256 + frameSub b) (reqWord who)
    finish (s2.serveWrite who b) (replySize who b) []

/-- The request at the head of Marshal's queue is taken where it is one of a kind (R350); a T1 request whose reply is
kept by now is answered again. Requests wait while Marshal is replaced and during P2 (R352, R464). One is executed in a cycle
after that of the events before it (R355). -/
def State.serveHead (s : State) (write : Bool) : State :=
  if s.requestsWait then s
  else match s.marshalQ with
    | [] => s
    | q :: rest =>
      if (frameGood q && frameOp q.frame = 2) ≠ write then s
      else
        let s1 : State := { s.endCycle with marshalQ := rest }
        let served : State := { ({ s1 with queuedOk := q.admitted } : State).serve q with queuedOk := false }
        match q.src with
        | .fn _ => served
        | .t1 ip port => match s1.keptReply ip port q.tag with
          | some r => s1.sendAgain ip port r
          | none => served

/-- DICT_READ (R346): Marshal executes the READ at the head of its queue. A request that is neither a READ nor a WRITE, or
malformed, is answered here with MALFORMED (R351). -/
def execDictRead (s : State) : Out := clocked s (fun s => s.serveHead false)

/-- DICT_WRITE (R346, R347): Marshal executes the WRITE at the head of its queue. -/
def execDictWrite (s : State) : Out := clocked s (fun s => s.serveHead true)

end Sys2Proof.Machine
end

