-- ==== Sys2Proof/Machine/Integer.lean ====
section
/-! DEFINITION. The integer and conversion instructions (R86, R118). -/

namespace Sys2Proof.Machine

/-- A result narrowed to `n` bits: clamped in the saturating form, and wrapping otherwise (R86). -/
def narrowTo (n : Nat) (sat : Bool) (v : Int) : Int :=
  if sat then max (-(2 ^ (n - 1) : Nat)) (min v ((2 ^ (n - 1) : Nat) - 1)) else v

/-- A two-operand instruction over the active lanes: exact result, then narrowed. -/
def intBinary (s : State) (g : GroupRef) (ty : IntTy) (sat : Bool) (d a b : Nat) (f : Int → Int → Int) : State :=
  let k := tyRegs ty
  issueRegs s g [(d, k), (a, k), (b, k)] (fun x => x.eachLane (fun y l =>
    y.setVal ty l d (narrowTo (tyBits ty) sat (f (x.sval ty l a) (x.sval ty l b)))))

/-- INT_ADD (R86). -/
def execIntAdd (g : GroupRef) (ty : IntTy) (sat : Bool) (d a b : Nat) (s : State) : Out :=
  clocked s fun s => intBinary s g ty sat d a b (· + ·)

/-- INT_SUBTRACT (R86). -/
def execIntSubtract (g : GroupRef) (ty : IntTy) (sat : Bool) (d a b : Nat) (s : State) : Out :=
  clocked s fun s => intBinary s g ty sat d a b (· - ·)

/-- INT_MULTIPLY (R86). -/
def execIntMultiply (g : GroupRef) (ty : IntTy) (sat : Bool) (d a b : Nat) (s : State) : Out :=
  clocked s fun s => intBinary s g ty sat d a b (· * ·)

/-- INT_MULTIPLY_ADD: a * b + c, exact before it is narrowed (R86, R118). -/
def execIntMultiplyAdd (g : GroupRef) (ty : IntTy) (sat : Bool) (d a b c : Nat) (s : State) : Out :=
  clocked s fun s =>
    let k := tyRegs ty
    issueRegs s g [(d, k), (a, k), (b, k), (c, k)] (fun x => x.eachLane (fun y l =>
      y.setVal ty l d (narrowTo (tyBits ty) sat (x.sval ty l a * x.sval ty l b + x.sval ty l c))))

/-- A shift by less than the width (R86): left wraps, a signed right shift is arithmetic. -/
def shiftVal (n : Nat) (k : ShiftKind) (v : Nat) (c : Nat) : Int :=
  match k with
  | .left => (v * 2 ^ c : Nat)
  | .rightLogical => (v / 2 ^ c : Nat)
  | .rightArith => signed n v / (2 ^ c : Nat)

/-- The kinds of shift by number. -/
def shiftNo : ShiftKind → Nat
  | .left => 0
  | .rightLogical => 1
  | .rightArith => 2

/-- INT_SHIFT (R86, R118). The count is register b's value; a count at or above the width leaves a free
value of its operands in the destination (log entry 11). -/
def execIntShift (g : GroupRef) (ty : IntTy) (k : ShiftKind) (d a b : Nat) (s : State) : Out :=
  clocked s fun s =>
    let n := tyRegs ty
    issueRegs s g [(d, n), (a, n), (b, 1)] (fun x => x.eachLane (fun y l =>
      let c := (x.reg l b).toNat
      y.setVal ty l d (if c < tyBits ty then shiftVal (tyBits ty) k (x.val ty l a) c
        else ((Config.wideShift (tyBits ty) (shiftNo k) (x.val ty l a) c).toNat : Int))))

/-- A bitwise operation on n-bit values. -/
def logicVal (n : Nat) (op : LogicOp) (a b : Nat) : Nat :=
  match op with
  | .and => (BitVec.ofNat n a &&& BitVec.ofNat n b).toNat
  | .or => (BitVec.ofNat n a ||| BitVec.ofNat n b).toNat
  | .xor => (BitVec.ofNat n a ^^^ BitVec.ofNat n b).toNat
  | .not => (~~~BitVec.ofNat n a).toNat

/-- INT_LOGIC (R118); NOT reads only its first operand. -/
def execIntLogic (g : GroupRef) (ty : IntTy) (op : LogicOp) (d a b : Nat) (s : State) : Out :=
  clocked s fun s =>
    let k := tyRegs ty
    issueRegs s g [(d, k), (a, k), (b, k)] (fun x => x.eachLane (fun y l =>
      y.setVal ty l d (logicVal (tyBits ty) op (x.val ty l a) (x.val ty l b) : Nat)))

/-- A relation between two values. -/
def cmpVal (op : CmpOp) (a b : Int) : Bool :=
  match op with
  | .eq => a = b
  | .ne => a ≠ b
  | .lt => a < b
  | .le => a ≤ b
  | .gt => b < a
  | .ge => b ≤ a

/-- INT_COMPARE (R118): 1 where the relation holds and 0 where it does not (log entry 12). -/
def execIntCompare (g : GroupRef) (ty : IntTy) (op : CmpOp) (sgn : Bool) (d a b : Nat) (s : State) : Out :=
  clocked s fun s =>
    let k := tyRegs ty
    issueRegs s g [(d, 1), (a, k), (b, k)] (fun x => x.eachLane (fun y l =>
      let u := if sgn then x.sval ty l a else (x.val ty l a : Nat)
      let v := if sgn then x.sval ty l b else (x.val ty l b : Nat)
      y.setReg l d (if cmpVal op u v then 1 else 0)))

/-- INT_SELECT (R118): the first operand where the predicate register is not 0. -/
def execIntSelect (g : GroupRef) (ty : IntTy) (d p a b : Nat) (s : State) : Out :=
  clocked s fun s =>
    let k := tyRegs ty
    issueRegs s g [(d, k), (p, 1), (a, k), (b, k)] (fun x => x.eachLane (fun y l =>
      y.setVal ty l d (if x.reg l p ≠ 0 then x.sval ty l a else x.sval ty l b)))

/-- A conversion to `dst`; one that does not widen (narrow) is not a defined instruction (R118). -/
def convert (s : State) (g : GroupRef) (ok : Bool) (src dst : IntTy) (d a : Nat) (f : Group → Nat → Int) : State :=
  issue s g [(d, tyRegs dst), (a, tyRegs src)] (fun r b x =>
    if !ok then s.faultGroup g eIllegal
    else s.putGroup g r b (x.eachLane (fun y l => y.setVal dst l d (f x l))).next)

/-- WIDEN (R118): sign or zero extension. -/
def execWiden (g : GroupRef) (src dst : IntTy) (sgn : Bool) (d a : Nat) (s : State) : Out :=
  clocked s fun s => convert s g (tyBits src < tyBits dst) src dst d a (fun x l =>
    if sgn then x.sval src l a else (x.val src l a : Nat))

/-- NARROW with saturation (R118). -/
def execNarrow (g : GroupRef) (src dst : IntTy) (d a : Nat) (s : State) : Out :=
  clocked s fun s => convert s g (tyBits dst < tyBits src) src dst d a (fun x l =>
    narrowTo (tyBits dst) true (x.sval src l a))

/-- Element bits of a block format (R88). -/
def fmtBits : BlockFmt → Nat
  | .b4 => 4
  | .b8 => 8
  | .b16 => 16

/-- BLOCK_ELEMENT_PACK (R118): the low element bits of 32 / bits registers, from `a` on, into register `d`,
element 0 in the lowest bits as R89 stores them (log entry 13). -/
def execBlockElementPack (g : GroupRef) (fmt : BlockFmt) (d a : Nat) (s : State) : Out :=
  clocked s fun s =>
    let n := fmtBits fmt
    let c := 32 / n
    issueRegs s g [(d, 1), (a, c)] (fun x => x.eachLane (fun y l =>
      y.setReg l d (BitVec.ofNat 32
        ((upto c).map (fun i => ((x.reg l (a + i)).toNat % 2 ^ n) * 2 ^ (n * i))).sum)))

/-- BLOCK_ELEMENT_UNPACK (R118): each element of register `a`, sign-extended, to a register from `d` on. -/
def execBlockElementUnpack (g : GroupRef) (fmt : BlockFmt) (d a : Nat) (s : State) : Out :=
  clocked s fun s =>
    let n := fmtBits fmt
    let c := 32 / n
    issueRegs s g [(d, c), (a, 1)] (fun x => x.eachLane (fun y l =>
      (upto c).foldl (fun y i =>
        y.setReg l (d + i) (BitVec.ofInt 32 (signed n ((x.reg l a).toNat / 2 ^ (n * i))))) y))

end Sys2Proof.Machine
end

