-- ==== Sys2Proof/Machine/Peer.lean ====
section
/-! DEFINITION. Flits of a Kister Link port and the messages they deliver (R416 to R418), and mirrored writes on the
standby (R438). -/

namespace Sys2Proof.Machine

/-! ## Mirrored writes (R438) -/

/-- The value a mirrored write has on the standby: a tick argument T is T + PEER_OFFSET; the T of TP_LOAD or TP_UNLOAD
that names the next program frame boundary stays 0. -/
def State.peerValue (s : State) (index sub : Nat) (v : List Byte) : List Byte :=
  let ticked := (index % 0x100 = 0x20 && (sub = 2 || sub = 6)) || (0x7000 ≤ index && sub = 0x0B) || (0x3000 ≤ index && index < 0x4000 && index % 0x400 = 0x210 && sub = 2)
  let t := leNat v
  if !ticked || (t = 0 && index % 0x100 = 0x20) then v else toLE 8 ((t + s.obj Obj.peerOffset) % 2 ^ 64)

/-- MIRROR (R438): the standby executes the active's write as it arrives, also while its Marshal is being replaced; where the
effect waits for an edge, it is that of the active's tick `tick`. A write refused here makes the pair DIVERGED. The standby's
own refusal of host writes does not apply to it. The value fills whole slots (R417): as many bytes of it count as the
object has. -/
def mirror (index sub tick : Nat) (value : List Byte) (s : State) : State :=
  let k := key index sub
  if !s.awake || !s.portUp 0 || s.obj Obj.pairRole ≠ 2 || !s.standbyBars k then s
  else
    let n := ((objRow index sub).map (fun r => r.1.ty.size)).getD value.length
    let v := if value.length ≤ n then value else slice value 0 n
    let at' := (tick + s.obj Obj.peerOffset) % 2 ^ 64
    let s1 : State := { s.setObj Obj.pairRole 0 with
                        marshal := if s.marshal = .updating then .running else s.marshal, pair := { s.pair with effect := some at' } }
    let s2 := s1.writeObject (.fn 0) index sub (s.peerValue index sub v)
    let s3 : State := { s2.setObj Obj.pairRole 2 with marshal := s.marshal, reply := s.reply, pair := { s2.pair with effect := none } }
    if s2.reply = rcOk then s3 else s3.diverge

/-- MIRROR (R438). -/
def execMirror (index sub : Nat) (tick : Nat) (value : List (BitVec 8)) (s : State) : Out :=
  clocked s (mirror index sub tick value)

/-! ## Flits (R416 to R418) -/

/-- A message that has arrived whole (R417). The tag of a window line is that of the newest publication open on the
port. -/
def deliver (n : Nat) (s : State) (m : KlMsg) : State :=
  match m.type with
  | 0 => lineWrite n (((s.link n).rxPubs.getLast?.map RxPub.tag).getD 0) (m.arg * 64) m.arg64 m.data (m.vc = 0) s
  | 1 => openPub n m.arg m.cls m.data s
  | 2 => closePub n m.arg s
  | 3 => closeAck n m.arg s
  | 4 => peerSignal n (bits m.arg 13 0) m.arg64 (bits m.arg 31 16) s
  | 5 => if n = 0 then datum m.data s else s
  | 6 => if n = 0 then mirror (bits m.arg 23 8) (bits m.arg 7 0) m.arg64 m.data s else s
  | 7 => ident n (m.data.take 12) (field m.data 12 1) (field m.data 13 1) s
  | _ => s

/-- Data slots a message of a type has (R417). -/
def slotsOk (type n : Nat) : Bool :=
  match type with
  | 0 => n = 4
  | 1 => n = 32
  | 2 => n = 0
  | 3 => n = 0
  | 4 => n = 0
  | 5 => n = 4
  | 6 => 1 ≤ n && n ≤ 32
  | 7 => n = 1
  | _ => false

/-- The messages that are whole in a run of slots, and the slots after them (R417). A slot that is no header of Table:
Message header fills its flit up (log entry 126). `fuel` bounds the slots. -/
def readMsgs : Nat → List Byte → List KlMsg × List Byte
  | 0, b => ([], b)
  | fuel + 1, b =>
    let n := field b 2 1
    let ctl := field b 1 1
    if b.length < 16 then ([], b)
    else if !slotsOk (field b 0 1) n || 16 ≤ ctl || ctl % 4 = 3 || !reserved b 3 1 then readMsgs fuel (b.drop 16)
    else if b.length < 16 + 16 * n then ([], b)
    else
      let m : KlMsg := { type := field b 0 1, vc := ctl % 4, cls := ctl / 4, arg := field b 4 4, arg64 := field b 8 8, data := slice b 16 (16 * n) }
      let (ms, rest) := readMsgs fuel (b.drop (16 + 16 * n))
      (m :: ms, rest)

/-- Slots a message took go back to the sender (R416, R417). -/
def KlLink.owe (l : KlLink) (m : KlMsg) : KlLink :=
  let vc := toCh m.vc
  { l with owed := l.owed.set vc (l.owed.get vc + 1 + m.data.length / 16) }

/-- The payload of a DATA flit joins the slots before it, and the messages that are whole are delivered (R417). -/
def takePayload (n : Nat) (payload : List Byte) (s : State) : State :=
  let l := s.link n
  let (ms, rest) := readMsgs 64 (l.rxSlots ++ payload)
  ms.foldl (deliver n) (s.setLink n (ms.foldl KlLink.owe { l with rxSlots := rest }))

/-- The flits up to number `ack` have arrived (R416, R418). -/
def KlLink.acked (l : KlLink) (ack : Nat) : KlLink :=
  if l.replay.any (fun f => field f 0 2 % 4096 = ack)
  then { l with replay := (l.replay.dropWhile (fun f => field f 0 2 % 4096 ≠ ack)).drop 1 } else l

/-- The flits from number `seq` on go again (R418). -/
def State.sendAgainFrom (s : State) (n seq : Nat) : State :=
  match (s.link n).replay.dropWhile (fun f => field f 0 2 % 4096 ≠ seq) with
  | [] => s
  | fs => { s.bump (Obj.klRetries n) 1 64 with klOut := s.klOut ++ fs.map (fun f => (n, f)) }

/-- A flit's CRC holds (R416). -/
def flitGood (b : List Byte) : Bool := b.length = 218 && field b 0xD6 4 = (crc32 (slice b 0 0xD6)).toNat

/-- FLIT_RECEIVE (R416, R418): up to three symbols are corrected and counted; a flit that fails its CRC is asked for
again with a NAK, and after eight failures the port is DOWN. A DATA flit that comes in its turn delivers its messages. NAK makes
this side send again, and TRAIN tells that the far device resets the link. -/
def flitReceive (n : Nat) (fl : Flit) (s : State) : State :=
  if !s.portUp n then s
  else
    let l := s.link n
    let b := fl.bytes
    let next := (l.rxSeq + 1) % 4096
    let s1 := if 1 ≤ fl.symErrors && fl.symErrors ≤ 3 then s.bump (Obj.klFecCorrected n) 1 64 else s
    if 3 < fl.symErrors || !flitGood b then
      (if 7 ≤ l.fails then s1.portDown n else (s1.setLink n { l with fails := l.fails + 1 }).sendFlit n 2 next [])
    else
      let s2 := s1.setLink n (l.acked (field b 2 2 % 4096))
      match field b 0 2 / 4096 with
      | 1 =>
        if field b 0 2 % 4096 ≠ next then s2
        else takePayload n (slice b 6 208) (s2.setLink n { s2.link n with fails := 0, rxSeq := next })
      | 2 => s2.sendAgainFrom n (field b 0 2 % 4096)
      | 3 => s2.portDown n
      | _ => s2

/-- FLIT_RECEIVE (R418). -/
def execFlitReceive (p : KlPort) (fl : Flit) (s : State) : Out := clocked s (flitReceive (KlPort.num p) fl)

end Sys2Proof.Machine
end

