-- ==== Sys2Proof/Machine/Dispatch.lean ====
section
/-! DEFINITION. The dispatch: one arm per command of the block, each one direct call of its meaning. -/

namespace Sys2Proof.Machine

/-- The effect of a command on everything but the queue of waiting commands. -/
def exec (i : Instr) (s : State) : Host.Outcome State Fault Refusal :=
  match i with
  | .dictRead => Sys2Proof.Machine.execDictRead s
  | .dictWrite => Sys2Proof.Machine.execDictWrite s
  | .genericObjectWrite who index sub value => Sys2Proof.Machine.execGenericObjectWrite who index sub value s
  | .dictDoorbell f tag frame => Sys2Proof.Machine.execDictDoorbell f tag frame s
  | .t1DictDatagram ip port payload => Sys2Proof.Machine.execT1DictDatagram ip port payload s
  | .attachApply who u t => Sys2Proof.Machine.execAttachApply who u t s
  | .attachEffect u => Sys2Proof.Machine.execAttachEffect u s
  | .tickEdge ch period ref ecc => Sys2Proof.Machine.execTickEdge ch period ref ecc s
  | .lockSourceLost ch => Sys2Proof.Machine.execLockSourceLost ch s
  | .lockSourceReturn ch => Sys2Proof.Machine.execLockSourceReturn ch s
  | .apply who ch v ms => Sys2Proof.Machine.execApply who ch v ms s
  | .pacerApplyEffect ch => Sys2Proof.Machine.execPacerApplyEffect ch s
  | .followStart ch ecc => Sys2Proof.Machine.execFollowStart ch ecc s
  | .windowOpen ch map window => Sys2Proof.Machine.execWindowOpen ch map window s
  | .windowClose ch map => Sys2Proof.Machine.execWindowClose ch map s
  | .wcetOverrun run => Sys2Proof.Machine.execWcetOverrun run s
  | .engineFetch q ecc => Sys2Proof.Machine.execEngineFetch q ecc s
  | .commandStart ch eng now ecc => Sys2Proof.Machine.execCommandStart ch eng now ecc s
  | .commandSeal run now ports => Sys2Proof.Machine.execCommandSeal run now ports s
  | .openMarker run pt => Sys2Proof.Machine.execOpenMarker run pt s
  | .closeMarker pub pt now err => Sys2Proof.Machine.execCloseMarker pub pt now err s
  | .publicationEnd pub => Sys2Proof.Machine.execPublicationEnd pub s
  | .tpLoad who ch t => Sys2Proof.Machine.execTpLoad who ch t s
  | .loadCheckDone ch m => Sys2Proof.Machine.execLoadCheckDone ch m s
  | .tpSwitch ch => Sys2Proof.Machine.execTpSwitch ch s
  | .tpUnload who ch t => Sys2Proof.Machine.execTpUnload who ch t s
  | .tpUnloadEffect ch => Sys2Proof.Machine.execTpUnloadEffect ch s
  | .intAdd g ty sat d a b => Sys2Proof.Machine.execIntAdd g ty sat d a b s
  | .intSubtract g ty sat d a b => Sys2Proof.Machine.execIntSubtract g ty sat d a b s
  | .intMultiply g ty sat d a b => Sys2Proof.Machine.execIntMultiply g ty sat d a b s
  | .intMultiplyAdd g ty sat d a b c => Sys2Proof.Machine.execIntMultiplyAdd g ty sat d a b c s
  | .intShift g ty k d a b => Sys2Proof.Machine.execIntShift g ty k d a b s
  | .intLogic g ty op d a b => Sys2Proof.Machine.execIntLogic g ty op d a b s
  | .intCompare g ty op signed d a b => Sys2Proof.Machine.execIntCompare g ty op signed d a b s
  | .intSelect g ty d p a b => Sys2Proof.Machine.execIntSelect g ty d p a b s
  | .widen g src dst signed d a => Sys2Proof.Machine.execWiden g src dst signed d a s
  | .narrow g src dst d a => Sys2Proof.Machine.execNarrow g src dst d a s
  | .blockElementPack g fmt d a => Sys2Proof.Machine.execBlockElementPack g fmt d a s
  | .blockElementUnpack g fmt d a => Sys2Proof.Machine.execBlockElementUnpack g fmt d a s
  | .bra g mr p target reconv => Sys2Proof.Machine.execBra g mr p target reconv s
  | .brx g mr r reconv => Sys2Proof.Machine.execBrx g mr r reconv s
  | .call g mr target reconv => Sys2Proof.Machine.execCall g mr target reconv s
  | .ret g => Sys2Proof.Machine.execRet g s
  | .exit g mr => Sys2Proof.Machine.execExit g mr s
  | .readSpecialRegister g r d now => Sys2Proof.Machine.execReadSpecialRegister g r d now s
  | .ld g sp size d a rank ecc => Sys2Proof.Machine.execLd g sp size d a rank ecc s
  | .st g sp size v a rank => Sys2Proof.Machine.execSt g sp size v a rank s
  | .constantLoad g size d a ecc => Sys2Proof.Machine.execConstantLoad g size d a ecc s
  | .atomAdd g f v => Sys2Proof.Machine.execAtomAdd g f v s
  | .atomSub g f v => Sys2Proof.Machine.execAtomSub g f v s
  | .atomMin g f signed v => Sys2Proof.Machine.execAtomMin g f signed v s
  | .atomMax g f signed v => Sys2Proof.Machine.execAtomMax g f signed v s
  | .atomAnd g f v => Sys2Proof.Machine.execAtomAnd g f v s
  | .atomOr g f v => Sys2Proof.Machine.execAtomOr g f v s
  | .atomXor g f v => Sys2Proof.Machine.execAtomXor g f v s
  | .atomSadd g f v => Sys2Proof.Machine.execAtomSadd g f v s
  | .atomSsub g f v => Sys2Proof.Machine.execAtomSsub g f v s
  | .atomExch g f v => Sys2Proof.Machine.execAtomExch g f v s
  | .atomExchLock g f v now => Sys2Proof.Machine.execAtomExchLock g f v now s
  | .atomCas g f cmp v => Sys2Proof.Machine.execAtomCas g f cmp v s
  | .atomCasLock g f cmp v now => Sys2Proof.Machine.execAtomCasLock g f cmp v now s
  | .atomUnlock g f => Sys2Proof.Machine.execAtomUnlock g f s
  | .siblingWaitExpiry u addr => Sys2Proof.Machine.execSiblingWaitExpiry u addr s
  | .appendG g desc v d ecc => Sys2Proof.Machine.execAppendG g desc v d ecc s
  | .fenceG g => Sys2Proof.Machine.execFenceG g s
  | .fenceB g => Sys2Proof.Machine.execFenceB g s
  | .fenceC g => Sys2Proof.Machine.execFenceC g s
  | .fenceD g => Sys2Proof.Machine.execFenceD g s
  | .fenceS g => Sys2Proof.Machine.execFenceS g s
  | .barB g n => Sys2Proof.Machine.execBarB g n s
  | .barC g => Sys2Proof.Machine.execBarC g s
  | .alloc g d size align ecc => Sys2Proof.Machine.execAlloc g d size align ecc s
  | .allocF g d size align ecc => Sys2Proof.Machine.execAllocF g d size align ecc s
  | .free g a ecc => Sys2Proof.Machine.execFree g a ecc s
  | .commit g status => Sys2Proof.Machine.execCommit g status s
  | .blockStart run core => Sys2Proof.Machine.execBlockStart run core s
  | .mopen g t f cfg va vb sp i0 j0 k0 n ecc => Sys2Proof.Machine.execMopen g t f cfg va vb sp i0 j0 k0 n ecc s
  | .mresume g t f recAddr cfg va vb sp i0 j0 k0 n ecc => Sys2Proof.Machine.execMresume g t f recAddr cfg va vb sp i0 j0 k0 n ecc s
  | .mstep g t k ecc => Sys2Proof.Machine.execMstep g t k ecc s
  | .mmerge g t u => Sys2Proof.Machine.execMmerge g t u s
  | .mmerger g t recAddr sp ecc => Sys2Proof.Machine.execMmerger g t recAddr sp ecc s
  | .msave g t recAddr sp => Sys2Proof.Machine.execMsave g t recAddr sp s
  | .mepi g t desc vo sp io bo ecc => Sys2Proof.Machine.execMepi g t desc vo sp io bo ecc s
  | .mclose g t => Sys2Proof.Machine.execMclose g t s
  | .tex g d src u v smp ecc => Sys2Proof.Machine.execTex g d src u v smp ecc s
  | .rayq g d src h ecc => Sys2Proof.Machine.execRayq g d src h ecc s
  | .fence q => Sys2Proof.Machine.execFence q s
  | .launch run => Sys2Proof.Machine.execLaunch run s
  | .bearingSearch run ecc => Sys2Proof.Machine.execBearingSearch run ecc s
  | .bearingRefine run ecc => Sys2Proof.Machine.execBearingRefine run ecc s
  | .bearingOcclude run ecc => Sys2Proof.Machine.execBearingOcclude run ecc s
  | .traverseRays run ecc => Sys2Proof.Machine.execTraverseRays run ecc s
  | .traversePatch run ecc => Sys2Proof.Machine.execTraversePatch run ecc s
  | .rasterBinned run ecc => Sys2Proof.Machine.execRasterBinned run ecc s
  | .rasterDirect run ecc => Sys2Proof.Machine.execRasterDirect run ecc s
  | .rasterAuto run ecc => Sys2Proof.Machine.execRasterAuto run ecc s
  | .poolGrowReturn run => Sys2Proof.Machine.execPoolGrowReturn run s
  | .copy run ecc => Sys2Proof.Machine.execCopy run ecc s
  | .fill run => Sys2Proof.Machine.execFill run s
  | .notify q => Sys2Proof.Machine.execNotify q s
  | .take run => Sys2Proof.Machine.execTake run s
  | .course q => Sys2Proof.Machine.execCourse q s
  | .heatStep q ecc => Sys2Proof.Machine.execHeatStep q ecc s
  | .admissionComplete ch heat => Sys2Proof.Machine.execAdmissionComplete ch heat s
  | .sourceRowCapture n row planes => Sys2Proof.Machine.execSourceRowCapture n row planes s
  | .rowDeadline ch => Sys2Proof.Machine.execRowDeadline ch s
  | .streamMismatch n => Sys2Proof.Machine.execStreamMismatch n s
  | .inputLossTimeout ch => Sys2Proof.Machine.execInputLossTimeout ch s
  | .srcSubmit who ch slot => Sys2Proof.Machine.execSrcSubmit who ch slot s
  | .hostFrameBegin ch => Sys2Proof.Machine.execHostFrameBegin ch s
  | .frameBinding ch => Sys2Proof.Machine.execFrameBinding ch s
  | .outputFrameStart ch ecc => Sys2Proof.Machine.execOutputFrameStart ch ecc s
  | .gangApply who ch t => Sys2Proof.Machine.execGangApply who ch t s
  | .gangChange ch => Sys2Proof.Machine.execGangChange ch s
  | .safePictureStart => Sys2Proof.Machine.execSafePictureStart s
  | .setSnapshot ch ecc => Sys2Proof.Machine.execSetSnapshot ch ecc s
  | .lutBankLoadDone ch ecc => Sys2Proof.Machine.execLutBankLoadDone ch ecc s
  | .closureClear who ch mask => Sys2Proof.Machine.execClosureClear who ch mask s
  | .dpApply who ch t => Sys2Proof.Machine.execDpApply who ch t s
  | .dpTimingEffect ch => Sys2Proof.Machine.execDpTimingEffect ch s
  | .dpTrainingDone ch ok => Sys2Proof.Machine.execDpTrainingDone ch ok s
  | .hpdLowTimeout ch => Sys2Proof.Machine.execHpdLowTimeout ch s
  | .hpdReturn ch => Sys2Proof.Machine.execHpdReturn ch s
  | .irqHpd ch laneUnlocked => Sys2Proof.Machine.execIrqHpd ch laneUnlocked s
  | .hdcpLoss ch => Sys2Proof.Machine.execHdcpLoss ch s
  | .dpinLinkLoss n => Sys2Proof.Machine.execDpinLinkLoss n s
  | .dpinStreamPresent n fmt => Sys2Proof.Machine.execDpinStreamPresent n fmt s
  | .memTrainingDone ch ok => Sys2Proof.Machine.execMemTrainingDone ch ok s
  | .memTempReport ch hot => Sys2Proof.Machine.execMemTempReport ch hot s
  | .trackStep ch movement => Sys2Proof.Machine.execTrackStep ch movement s
  | .memRetrain who ch v => Sys2Proof.Machine.execMemRetrain who ch v s
  | .memRetrainDone ch ok => Sys2Proof.Machine.execMemRetrainDone ch ok s
  | .cacheCtrlWrite who ch v passes => Sys2Proof.Machine.execCacheCtrlWrite who ch v passes s
  | .cacheInvalidateDone ch sl => Sys2Proof.Machine.execCacheInvalidateDone ch sl s
  | .cacheHandoverDone ch sl => Sys2Proof.Machine.execCacheHandoverDone ch sl s
  | .cacheReturnScanDone ch sl => Sys2Proof.Machine.execCacheReturnScanDone ch sl s
  | .allocPoolWrite who ch chunks v => Sys2Proof.Machine.execAllocPoolWrite who ch chunks v s
  | .allocPoolEffect ch => Sys2Proof.Machine.execAllocPoolEffect ch s
  | .chunkZeroed ch chunk => Sys2Proof.Machine.execChunkZeroed ch chunk s
  | .allocTrim who k v => Sys2Proof.Machine.execAllocTrim who k v s
  | .trimSelect ch k => Sys2Proof.Machine.execTrimSelect ch k s
  | .trimDrainDone k => Sys2Proof.Machine.execTrimDrainDone k s
  | .asInstall who k v => Sys2Proof.Machine.execAsInstall who k v s
  | .asCheckDone k ecc => Sys2Proof.Machine.execAsCheckDone k ecc s
  | .asGenEffect ch k => Sys2Proof.Machine.execAsGenEffect ch k s
  | .asDrainDone k => Sys2Proof.Machine.execAsDrainDone k s
  | .bar2Read f addr len ecc => Sys2Proof.Machine.execBar2Read f addr len ecc s
  | .bar2Write f addr bytes => Sys2Proof.Machine.execBar2Write f addr bytes s
  | .functionLevelReset f => Sys2Proof.Machine.execFunctionLevelReset f s
  | .hotReset => Sys2Proof.Machine.execHotReset s
  | .linkDownReset => Sys2Proof.Machine.execLinkDownReset s
  | .t1AddressWrite who sub v => Sys2Proof.Machine.execT1AddressWrite who sub v s
  | .arpRequest ip mac target => Sys2Proof.Machine.execArpRequest ip mac target s
  | .icmpEchoRequest ip no data => Sys2Proof.Machine.execIcmpEchoRequest ip no data s
  | .addressConflict => Sys2Proof.Machine.execAddressConflict s
  | .asTimeMessage now time linkDelay synced => Sys2Proof.Machine.execAsTimeMessage now time linkDelay synced s
  | .asSyncLoss => Sys2Proof.Machine.execAsSyncLoss s
  | .image f ptr space user => Sys2Proof.Machine.execImage f ptr space user s
  | .policy f ptr space user => Sys2Proof.Machine.execPolicy f ptr space user s
  | .traceRing f ptr space user => Sys2Proof.Machine.execTraceRing f ptr space user s
  | .restore f ptr space user => Sys2Proof.Machine.execRestore f ptr space user s
  | .marshalToHostNotice f ptr h2mSeq => Sys2Proof.Machine.execMarshalToHostNotice f ptr h2mSeq s
  | .m2hTake f rc => Sys2Proof.Machine.execM2hTake f rc s
  | .attnAck who v => Sys2Proof.Machine.execAttnAck who v s
  | .queueDb f q wptr => Sys2Proof.Machine.execQueueDb f q wptr s
  | .fetcherSample q => Sys2Proof.Machine.execFetcherSample q s
  | .ctxCreate who c v => Sys2Proof.Machine.execCtxCreate who c v s
  | .ctxHold who c v => Sys2Proof.Machine.execCtxHold who c v s
  | .ctxRelease who c v => Sys2Proof.Machine.execCtxRelease who c v s
  | .ctxAbort who c v => Sys2Proof.Machine.execCtxAbort who c v s
  | .teardownEdge ch c => Sys2Proof.Machine.execTeardownEdge ch c s
  | .teardownComplete c => Sys2Proof.Machine.execTeardownComplete c s
  | .ctxBatonCreate who c b => Sys2Proof.Machine.execCtxBatonCreate who c b s
  | .ctxBatonRelease who c b => Sys2Proof.Machine.execCtxBatonRelease who c b s
  | .ctxBatonShare who c v => Sys2Proof.Machine.execCtxBatonShare who c v s
  | .batonSignal who b v => Sys2Proof.Machine.execBatonSignal who b v s
  | .batonFail who b code => Sys2Proof.Machine.execBatonFail who b code s
  | .tenantQuotaWrite who t sub v => Sys2Proof.Machine.execTenantQuotaWrite who t sub v s
  | .qCreate who q v => Sys2Proof.Machine.execQCreate who q v s
  | .qDestroy who q v => Sys2Proof.Machine.execQDestroy who q v s
  | .queueClosed q => Sys2Proof.Machine.execQueueClosed q s
  | .queueStall q => Sys2Proof.Machine.execQueueStall q s
  | .courseCreate who k v => Sys2Proof.Machine.execCourseCreate who k v s
  | .coursePatch who k v => Sys2Proof.Machine.execCoursePatch who k v s
  | .courseVersionEffect k => Sys2Proof.Machine.execCourseVersionEffect k s
  | .courseDestroy who k v => Sys2Proof.Machine.execCourseDestroy who k v s
  | .heatCreate who ch h c => Sys2Proof.Machine.execHeatCreate who ch h c s
  | .heatDestroy who ch h v => Sys2Proof.Machine.execHeatDestroy who ch h v s
  | .flitReceive p fl => Sys2Proof.Machine.execFlitReceive p fl s
  | .klFlitTimeout p => Sys2Proof.Machine.execKlFlitTimeout p s
  | .klTrainingDone p lanes8ok ok => Sys2Proof.Machine.execKlTrainingDone p lanes8ok ok s
  | .ident p digest index port => Sys2Proof.Machine.execIdent p digest index port s
  | .lineWrite p tag addr mask data relay => Sys2Proof.Machine.execLineWrite p tag addr mask data relay s
  | .closeAck p tag => Sys2Proof.Machine.execCloseAck p tag s
  | .forwardedBatonSignal p b v code => Sys2Proof.Machine.execForwardedBatonSignal p b v code s
  | .klApply who p v => Sys2Proof.Machine.execKlApply who p v s
  | .klTableEffect p => Sys2Proof.Machine.execKlTableEffect p s
  | .syncMark width now => Sys2Proof.Machine.execSyncMark width now s
  | .syncMarkSend now => Sys2Proof.Machine.execSyncMarkSend now s
  | .syncMarkTimeout => Sys2Proof.Machine.execSyncMarkTimeout s
  | .syncRoleWrite who v => Sys2Proof.Machine.execSyncRoleWrite who v s
  | .startLine who v => Sys2Proof.Machine.execStartLine who v s
  | .startLineEdge => Sys2Proof.Machine.execStartLineEdge s
  | .pairJoin who v peer => Sys2Proof.Machine.execPairJoin who v peer s
  | .pairJoinEffect peer numbers => Sys2Proof.Machine.execPairJoinEffect peer numbers s
  | .datum bytes => Sys2Proof.Machine.execDatum bytes s
  | .relayApply ch => Sys2Proof.Machine.execRelayApply ch s
  | .mirror index sub tick value => Sys2Proof.Machine.execMirror index sub tick value s
  | .promotion => Sys2Proof.Machine.execPromotion s
  | .pairSwap who t => Sys2Proof.Machine.execPairSwap who t s
  | .pairSwapEffect => Sys2Proof.Machine.execPairSwapEffect s
  | .digestRun who v => Sys2Proof.Machine.execDigestRun who v s
  | .digestDone => Sys2Proof.Machine.execDigestDone s
  | .replayCtrlWrite who c v => Sys2Proof.Machine.execReplayCtrlWrite who c v s
  | .chPowerOn who ch => Sys2Proof.Machine.execChPowerOn who ch s
  | .chPowerPark who ch => Sys2Proof.Machine.execChPowerPark who ch s
  | .chPowerGate who ch => Sys2Proof.Machine.execChPowerGate who ch s
  | .chPowerEffect ch => Sys2Proof.Machine.execChPowerEffect ch s
  | .chReturnDone ch => Sys2Proof.Machine.execChReturnDone ch s
  | .domainEnOff u => Sys2Proof.Machine.execDomainEnOff u s
  | .oppReqWrite who ch v => Sys2Proof.Machine.execOppReqWrite who ch v s
  | .frequencyChange ch => Sys2Proof.Machine.execFrequencyChange ch s
  | .chBudgetWrite who ch v => Sys2Proof.Machine.execChBudgetWrite who ch v s
  | .packageLimitWrite who v => Sys2Proof.Machine.execPackageLimitWrite who v s
  | .lendStart ch => Sys2Proof.Machine.execLendStart ch s
  | .lendEnd ch => Sys2Proof.Machine.execLendEnd ch s
  | .p2Enter who v => Sys2Proof.Machine.execP2Enter who v s
  | .p2EntryStart => Sys2Proof.Machine.execP2EntryStart s
  | .p2EntryDrained => Sys2Proof.Machine.execP2EntryDrained s
  | .p2EntryCommit vretCurrent => Sys2Proof.Machine.execP2EntryCommit vretCurrent s
  | .wake src inWindow => Sys2Proof.Machine.execWake src inWindow s
  | .entryAbort => Sys2Proof.Machine.execEntryAbort s
  | .returnComplete => Sys2Proof.Machine.execReturnComplete s
  | .brownOut => Sys2Proof.Machine.execBrownOut s
  | .padRelease who v => Sys2Proof.Machine.execPadRelease who v s
  | .resetRelease bootSrc sePresent t1Role boardId => Sys2Proof.Machine.execResetRelease bootSrc sePresent t1Role boardId s
  | .resetAssert durationNs => Sys2Proof.Machine.execResetAssert durationNs s
  | .bootPolicyRead policy => Sys2Proof.Machine.execBootPolicyRead policy s
  | .marshalImageVerified flash => Sys2Proof.Machine.execMarshalImageVerified flash s
  | .unitImagesStarted flash => Sys2Proof.Machine.execUnitImagesStarted flash s
  | .imageChunk who chunk => Sys2Proof.Machine.execImageChunk who chunk s
  | .policyWrite who policy => Sys2Proof.Machine.execPolicyWrite who policy s
  | .attestRun who v => Sys2Proof.Machine.execAttestRun who v s
  | .attestDone => Sys2Proof.Machine.execAttestDone s
  | .hdcpKeys who keys => Sys2Proof.Machine.execHdcpKeys who keys s
  | .updateApply who t => Sys2Proof.Machine.execUpdateApply who t s
  | .updateApplyPoint unitId => Sys2Proof.Machine.execUpdateApplyPoint unitId s
  | .marshalUpdateDone => Sys2Proof.Machine.execMarshalUpdateDone s
  | .updateDiscard who unitId => Sys2Proof.Machine.execUpdateDiscard who unitId s
  | .serviceReturn who ch t => Sys2Proof.Machine.execServiceReturn who ch t s
  | .serviceOutGangCover who ch t => Sys2Proof.Machine.execServiceOutGangCover who ch t s
  | .serviceOutTwinCover who ch t => Sys2Proof.Machine.execServiceOutTwinCover who ch t s
  | .serviceOutNoCover who ch t => Sys2Proof.Machine.execServiceOutNoCover who ch t s
  | .chServiceEffect ch => Sys2Proof.Machine.execChServiceEffect ch s
  | .chReset who ch v => Sys2Proof.Machine.execChReset who ch v s
  | .chResetDone ch => Sys2Proof.Machine.execChResetDone ch s
  | .substApply who ch t => Sys2Proof.Machine.execSubstApply who ch t s
  | .substEffect ch => Sys2Proof.Machine.execSubstEffect ch s
  | .testRun who ch t => Sys2Proof.Machine.execTestRun who ch t s
  | .testStart ch => Sys2Proof.Machine.execTestStart ch s
  | .testDone ch passed => Sys2Proof.Machine.execTestDone ch passed s
  | .imageReload unitId flash => Sys2Proof.Machine.execImageReload unitId flash s
  | .traceMark ch => Sys2Proof.Machine.execTraceMark ch s
  | .traceTimeref => Sys2Proof.Machine.execTraceTimeref s
  | .traceDatagramSend => Sys2Proof.Machine.execTraceDatagramSend s
  | .reportClose ch => Sys2Proof.Machine.execReportClose ch s
  | .splitClear who ch v => Sys2Proof.Machine.execSplitClear who ch v s
  | .restoreWrite who block => Sys2Proof.Machine.execRestoreWrite who block s
  | .supplyUndervoltage => Sys2Proof.Machine.execSupplyUndervoltage s
  | .thermalAlert above => Sys2Proof.Machine.execThermalAlert above s
  | .thermalTrip => Sys2Proof.Machine.execThermalTrip s
  | .sysRefclkLoss => Sys2Proof.Machine.execSysRefclkLoss s
  | .hdcpAuthDone ch type1 => Sys2Proof.Machine.execHdcpAuthDone ch type1 s
  | .dpinLinkTrained n rate lanes => Sys2Proof.Machine.execDpinLinkTrained n rate lanes s
  | .t1LinkChange up => Sys2Proof.Machine.execT1LinkChange up s
  | .t1AddressAcquired addr => Sys2Proof.Machine.execT1AddressAcquired addr s
  | .pcieLinkTrained speed width => Sys2Proof.Machine.execPcieLinkTrained speed width s
  | .pcieConfigWrite f busMaster atomicEn => Sys2Proof.Machine.execPcieConfigWrite f busMaster atomicEn s
  | .sysRefclkReturn => Sys2Proof.Machine.execSysRefclkReturn s
  | .supplyRestored => Sys2Proof.Machine.execSupplyRestored s
  | .identityDerived ok => Sys2Proof.Machine.execIdentityDerived ok s
  | .bootSelfTestDone ch failed => Sys2Proof.Machine.execBootSelfTestDone ch failed s
  | .courseCheckDone k ecc => Sys2Proof.Machine.execCourseCheckDone k ecc s
  | .p2EntryStepDone => Sys2Proof.Machine.execP2EntryStepDone s
  | .entryUndoDone => Sys2Proof.Machine.execEntryUndoDone s

end Sys2Proof.Machine
end

