-- ==== Sys2Proof/Machine/Endpoint.lean ====
section
/-! DEFINITION. The PCI Express endpoint as the host's bus sees it (R335 to R340): what a function's configuration offers, the
Requester ID of what the device sends, BAR0 by offset and size, and the requests it completes as unsupported. The rows of the
command table name the same accesses one by one; this file says which access is which. -/

namespace Sys2Proof.Machine

/-! ## Configuration (R335, R336) -/

/-- One base address register: its bytes, and whether it is 64-bit and prefetchable (R336). -/
structure Bar where
  size     : Nat
  wide     : Bool
  prefetch : Bool
  deriving DecidableEq, Repr

/-- The BAR `n` of function `f` (R336): PF0 has BAR0 and BAR2, a VF has BAR0 alone. -/
def barOf (f n : Nat) : Option Bar :=
  if f = 0 && n = 0 then some { size := 0x400000, wide := true, prefetch := false }
  else if f = 0 && n = 2 then some { size := devEnd, wide := true, prefetch := true }
  else if f < functions && n = 0 then some { size := 0x10000, wide := true, prefetch := false }
  else none

/-- What the configuration space of a function offers (R335). -/
structure FnConfig where
  payload  : Nat
  readReq  : Nat
  tags     : Nat
  intPin   : Nat
  msi      : Bool
  relaxed  : Bool
  idOrder  : Bool
  atomics  : List Nat
  complete : Bool
  ats      : Bool
  pasid    : Bool
  l0s      : Bool
  deriving DecidableEq, Repr

/-- Table: PCI Express support (R335), the same for every function: bytes of Max_Payload_Size and Max_Read_Request_Size,
outstanding non-posted requests, no interrupts, neither ordering attribute set, AtomicOps of 4 and 8 bytes sent and none
completed, no address translation services, no PASID, no L0s. -/
def fnConfig : FnConfig :=
  { payload := maxPayload, readReq := 4096, tags := 256, intPin := 0, msi := false, relaxed := false, idOrder := false,
    atomics := [4, 8], complete := false, ats := false, pasid := false, l0s := false }

/-- Power state of the link (R335, R462, R465): L1.2 from entry step E5 on where the host permits it, until the return. -/
inductive LinkPower where
  | l0 | l12
  deriving DecidableEq, Repr

/-- The state of the link; `permit` is the host's, by ASPM. -/
def State.linkPower (s : State) (permit : Bool) : LinkPower :=
  match s.power.p2 with
  | .entry 6 => if permit then .l12 else .l0
  | .standby => if permit then .l12 else .l0
  | _ => .l0

/-! ## Requester IDs (R337) -/

/-- The function in the Requester ID of a request for a command: the owner of the command's context. -/
def Xlat.requester (x : Xlat) : Nat := x.fn

/-- The function in the Requester ID of Marshal's own requests. -/
def marshalRequester : Nat := 0

/-! ## BAR0 (R339) -/

/-- An access of `size` bytes at `off` is aligned and of one of the sizes. -/
def sized (off size : Nat) (l : List Nat) : Bool := l.contains size && off % size = 0

/-- DICT_ACK (R349). -/
def DictWindow.ackWord (w : DictWindow) : Nat := (if w.busy then 2 ^ 31 else 0) + (if w.overrun then 2 ^ 30 else 0) + w.tag % 65536

/-- QUEUE_DB of a queue (R362); that of a queue the function does not own was never written by it and holds its reset value. -/
def State.queueDbWord (s : State) (f q : Nat) : Nat :=
  match look s.queues q with
  | some x =>
    if s.ctxFn x.ctx = f then x.wptr % 2 ^ 32 + (if x.rung then 2 ^ 32 else 0) + (if x.idle then 2 ^ 33 else 0) else 2 ^ 33
  | none => 2 ^ 33

/-- A read of function `f`'s BAR0 (R339): a write-only register, a reserved offset, another size or alignment, and what lies
above 0xFFFF read 0. The pointer and tag of no waiting notice are open values (log entry 147). -/
def State.bar0Read (s : State) (f off size : Nat) : Nat :=
  let w := s.window f
  let m := s.mbox (mbM2h f)
  let waiting (v : Nat) : Nat := if m.pending then v else (Config.freeValue s.fresh).toNat % 256 ^ size
  if functions ≤ f then 0
  else if off < 0x800 then (if sized off size [4, 8] then field w.req off size else 0)
  else if off < 0x1000 then (if sized off size [4, 8] then field w.reply (off - 0x800) size else 0)
  else if off = 0x1004 && size = 4 then w.ackWord
  else if off = 0x2000 && size = 8 then (s.mbox (mbH2m f)).reg
  else if off = 0x200C && size = 4 then (s.mbox (mbH2m f)).ackWord
  else if off = 0x2040 && size = 8 then waiting m.ptr
  else if off = 0x2048 && size = 4 then waiting m.tag
  else if off = 0x204C && size = 4 then m.ackWord
  else if 0x8000 ≤ off && off < 0xC000 && sized off size [8] then s.queueDbWord f ((off - 0x8000) / 8)
  else 0

/-- A write to function `f`'s BAR0 (R339, R349, R358, R359, R362): other offsets, sizes and alignments have no effect. -/
def State.bar0Write (s : State) (f off size v : Nat) : State :=
  let w := s.window f
  let m := s.mbox (mbH2m f)
  if functions ≤ f then s
  else if off < 0x800 then
    (if !sized off size [4, 8] || w.busy then s else s.setWindow f { w with req := patch (slice w.req 0 2048) off (toLE size v) })
  else if off = 0x1000 && size = 4 then doorbell f (v % 65536) w.req (s.edgeEvent 1)
  else if off = 0x2000 && size = 8 then s.setMbox (mbH2m f) { m with reg := v }
  else if off = 0x2008 && size = 4 then s.sendNotice f (v / 2 ^ 24) m.reg (bit v 23) (v % 2 ^ 23)
  else if off = 0x2050 && size = 4 then s.m2hTake f v
  else if 0x8000 ≤ off && off < 0xC000 && off % 8 = 0 && (size = 4 || size = 8) then queueDb f ((off - 0x8000) / 8) (v % 2 ^ 32) (s.edgeEvent 1)
  else s

/-! ## Requests of the host (R335, R340) -/

/-- A request of the host to a BAR: what it is, at an offset, with its data or length. -/
inductive HostRequest where
  | read (bar off len : Nat)
  | write (bar off : Nat) (data : List Byte)
  | atomic (bar : Nat)
  | io (bar : Nat)
  deriving DecidableEq, Repr

/-- A request to function `f` is completed as Unsupported Request (R335, R336, R340): an AtomicOp and an I/O request always,
and an access to a BAR that the function has not, or that BAR2 does not accept. -/
def HostRequest.unsupported (f : Nat) : HostRequest → Bool
  | .read bar off len => (barOf f bar).isNone || (bar = 2 && !bar2Ok f off len)
  | .write bar off data => (barOf f bar).isNone || (bar = 2 && !bar2Ok f off data.length)
  | .atomic _ => true
  | .io _ => true

/-- A request of the host acts (R339, R340): the state after it, and the bytes a read of BAR0 returns. BAR2's are in
`hostRead`; `ecc` tells the errors its read meets. -/
def State.hostRequest (s : State) (f : Nat) (q : HostRequest) (ecc : Ecc) : State × Option (List Byte) :=
  if q.unsupported f then (s, none)
  else match q with
  | .read 0 off len => (s, some (toLE len (s.bar0Read f off len)))
  | .write 0 off data => (s.bar0Write f off data.length (leNat data), none)
  | .read _ off len => (s.barAccess (.read f off len ecc), none)
  | .write _ off data => (s.barAccess (.write f off data), none)
  | _ => (s, none)

end Sys2Proof.Machine
end

