-- ==== Sys2Proof/Machine/Ethernet.lean ====
section
/-! DEFINITION. The T1 port on the wire (R341 to R343): which Ethernet frames and IPv4 datagrams it takes, the command each one
is, and the packets it sends. The layouts of Ethernet II, ARP, IPv4, ICMP and UDP are those of their standards (PRESUMED, log
entry 115). -/

namespace Sys2Proof.Machine

/-- A number whose most significant byte comes first. -/
def beNat (b : List Byte) : Nat := b.foldl (fun n x => 256 * n + x.toNat) 0

/-- The field of `n` bytes at `off`, most significant byte first. -/
def beField (b : List Byte) (off n : Nat) : Nat := beNat (slice b off n)

/-- A number in `n` bytes, most significant first. -/
def toBE (n v : Nat) : List Byte := (toLE n v).reverse

/-! ## Frames (R341) -/

/-- Largest frame in bytes, with its FCS (R341), and the smallest (PRESUMED from IEEE 802.3). -/
def frameMax : Nat := 1518
def frameMin : Nat := 64

/-- EtherType of a frame. -/
def etherType (b : List Byte) : Nat := beField b 12 2

/-- The port takes a frame (R341): untagged Ethernet II, not jumbo, its FCS good. Pause frames are among those ignored. -/
def frameTaken (b : List Byte) : Bool :=
  frameMin ≤ b.length && b.length ≤ frameMax && 0x600 ≤ etherType b && etherType b ≠ 0x8100 && etherType b ≠ 0x88A8 &&
  etherType b ≠ 0x8808 && field b (b.length - 4) 4 = (crc32 (b.take (b.length - 4))).toNat

/-- A frame is addressed to the port: to its MAC address, or to all. -/
def State.addressed (s : State) (b : List Byte) : Bool := b.take 6 = s.macBytes || b.take 6 = List.replicate 6 0xFF

/-! ## Internet packets (R343) -/

/-- The sum of the 16-bit words of bytes, most significant byte first. -/
def wordSum : List Byte → Nat
  | [] => 0
  | [a] => 256 * a.toNat
  | a :: b :: t => 256 * a.toNat + b.toNat + wordSum t

/-- The Internet checksum of bytes. -/
def inetSum (b : List Byte) : Nat := let n := wordSum b; if n = 0 then 65535 else 65535 - ((n - 1) % 65535 + 1)

/-- Bytes with their checksum in place are sound. -/
def inetOk (b : List Byte) : Bool := inetSum b = 0

/-- The pseudo header of a UDP datagram. -/
def pseudo (src dst len : Nat) : List Byte := toBE 4 src ++ toBE 4 dst ++ toBE 2 17 ++ toBE 2 len

/-- An IPv4 packet that the port takes (R343): unicast to its address, without options, whole, and its header sound. -/
def State.packetTaken (s : State) (b : List Byte) : Bool :=
  let n := beField b 2 2
  beField b 0 1 = 0x45 && 20 ≤ n && n ≤ b.length && beField b 6 2 % 0x4000 = 0 && inetOk (b.take 20) &&
  beField b 16 4 = s.obj Obj.t1Addr

/-- A UDP datagram from `src` is sound (R343): its length is, and its checksum where it has one. -/
def udpOk (src dst : Nat) (u : List Byte) : Bool :=
  let n := beField u 4 2
  8 ≤ n && n ≤ u.length && (beField u 6 2 = 0 || inetOk (pseudo src dst n ++ u.take n))

/-- The command that an IPv4 packet for the port is (R343): an ICMP echo request, or a dictionary datagram. -/
def packetCommand (b : List Byte) : Option Instr :=
  let src := beField b 12 4
  let p := (b.take (beField b 2 2)).drop 20
  match beField b 9 1 with
  | 1 => if beField p 0 2 = 0x0800 && 8 ≤ p.length && inetOk p then some (.icmpEchoRequest src (beField p 4 4) (p.drop 8)) else none
  | 17 =>
    if udpOk src (beField b 16 4) p && beField p 2 2 = 19544 then
      some (.t1DictDatagram src (beField p 0 2) ((p.take (beField p 4 2)).drop 8))
    else none
  | _ => none

/-- The command that an ARP packet is (R342, R343): the sender's claim of the port's own address is a conflict, and a request is
answered. -/
def State.arpCommand (s : State) (b : List Byte) : Option Instr :=
  let src := beField b 14 4
  let mac := beField b 8 6
  if beField b 0 6 ≠ 0x000108000604 || s.obj Obj.t1Addr = 0 then none
  else if src = s.obj Obj.t1Addr && mac ≠ beNat s.macBytes then some .addressConflict
  else if beField b 6 2 = 1 then some (.arpRequest src mac (beField b 24 4))
  else none

/-- The command that a frame which arrives at the port is; none where the port discards it without a reply (R341, R343). -/
def State.frameCommand (s : State) (b : List Byte) : Option Instr :=
  let p := (b.take (b.length - 4)).drop 14
  if !s.t1Up || !frameTaken b || !s.addressed b then none
  else if etherType b = 0x0806 then s.arpCommand p
  else if etherType b = 0x0800 && s.packetTaken p && b.take 6 = s.macBytes then packetCommand p
  else none

/-! ## What the port sends (R343) -/

/-- An IPv4 packet of the port: TTL 64 and a sound header. `id` is its identification. -/
def State.packet (s : State) (id proto dst : Nat) (p : List Byte) : List Byte :=
  let h (c : Nat) : List Byte :=
    toBE 2 0x4500 ++ toBE 2 (20 + p.length) ++ toBE 2 id ++ toBE 2 0 ++ toBE 1 64 ++ toBE 1 proto ++ toBE 2 c ++
    toBE 4 (s.obj Obj.t1Addr) ++ toBE 4 dst
  h (inetSum (h 0)) ++ p

/-- A UDP datagram from port 19544, its checksum always sent: 0xFFFF stands for 0. -/
def State.udpOut (s : State) (dst port : Nat) (data : List Byte) : List Byte :=
  let n := 8 + data.length
  let u (c : Nat) : List Byte := toBE 2 19544 ++ toBE 2 port ++ toBE 2 n ++ toBE 2 c ++ data
  let c := inetSum (pseudo (s.obj Obj.t1Addr) dst n ++ u 0)
  u (if c = 0 then 65535 else c)

/-- An ICMP echo reply. -/
def echoOut (no : Nat) (data : List Byte) : List Byte :=
  let e (c : Nat) : List Byte := toBE 2 0 ++ toBE 2 c ++ toBE 4 no ++ data
  e (inetSum (e 0))

/-- An ARP packet of the port for Ethernet and IPv4. -/
def State.arpOut (s : State) (op sender mac target : Nat) : List Byte :=
  toBE 6 0x000108000604 ++ toBE 2 op ++ s.macBytes ++ toBE 4 sender ++ toBE 6 mac ++ toBE 4 target

/-- The EtherType and the packet of what the port sends. -/
def State.wire (s : State) (id : Nat) : T1Frame → Nat × List Byte
  | .probe a => (0x0806, s.arpOut 1 0 0 a)
  | .announce a => (0x0806, s.arpOut 1 a 0 a)
  | .arp ip mac => (0x0806, s.arpOut 2 (s.obj Obj.t1Addr) mac ip)
  | .echo ip no data => (0x0800, s.packet id 1 ip (echoOut no data))
  | .udp ip port data => (0x0800, s.packet id 17 ip (s.udpOut ip port data))

/-- The next hop of traffic the device starts itself (R343): the address on the port's own network, else T1_GATEWAY. A reply
goes to the Ethernet and IPv4 source of its request. -/
def State.nextHop (s : State) (dst : Nat) : Nat :=
  let net (a : Nat) : BitVec 32 := BitVec.ofNat 32 a &&& BitVec.ofNat 32 (s.obj Obj.t1Netmask)
  if net dst = net (s.obj Obj.t1Addr) then dst else s.obj Obj.t1Gateway

end Sys2Proof.Machine
end

