-- ==== Sys2Proof/WellFormed.lean ====
section
/-! DEFINITION. Well-formed commands: every operand lies in the range that the rule of its row gives the operand's field
(numbers of functions, queues, contexts, registers and tiles; the width of a dictionary object; the length of a frame).
A meaning does not rely on it: what the specification does with a value out of range is part of the meaning. -/

namespace Sys2Proof

/-- A number of `n` bits. -/
def fits (n v : Nat) : Bool := decide (v < 2 ^ n)

/-- A requester: one of 16 functions (R335), or an IPv4 address and UDP port (R348). -/
def reqOk : Req → Bool
  | .fn f => decide (f < 16)
  | .t1 ip port => fits 32 ip && fits 16 port

/-- A register number (R112). -/
def regOk (r : Nat) : Bool := decide (r < 256)

/-- An access size of 1, 2, 4, 8 or 16 bytes (R125). -/
def sizeOk (n : Nat) : Bool := [1, 2, 4, 8, 16].contains n

/-- The registers of an atomic form (R131, R151). -/
def formOk (f : AtomForm) : Bool := regOk f.addr && regOk f.rank && regOk f.dst

/-- The register of an indirect call (R120). -/
def targetOk : CallTarget → Bool
  | .direct _ => true
  | .indirect r => regOk r

/-- A flit's symbols and its data bytes (R416). -/
def flitOk (fl : Flit) : Bool := decide (fl.symErrors ≤ 224) && decide (fl.bytes.length = 218)

/-- The other device of a pair, in the sizes of its objects (R434). -/
def peerOk (p : PairView) : Bool :=
  fits 64 p.latch && decide (p.chans.length = 4) && p.chans.all (fun c =>
    decide (c.digest.length = 32) && fits 32 c.period && decide (c.timing.length = 11) && c.timing.all (fits 16) && fits 32 c.dpCtrl &&
    fits 8 c.pairId && (match c.start with
      | some t => fits 64 t
      | none => true))

/-- The OFN and the SFN that a join takes over, one pair for each channel (R434). -/
def numbersOk (l : List (Nat × Nat)) : Bool := decide (l.length = 4) && l.all (fun p => fits 32 p.1 && fits 32 p.2)

/-- The ports whose peer has accepted an OPEN (R423). -/
def portsOk (l : List Nat) : Bool := l.all (fun p => decide (p < 2))

/-- Every operand of a command is in range. The rows of the table stand together by what their operands must meet. -/
def Instr.wellFormed : Instr → Bool
  | .genericObjectWrite who index sub _ => reqOk who && fits 16 index && fits 8 sub
  | .dictDoorbell f tag frame => decide (f < 16) && fits 16 tag && decide (frame.length ≤ 2048)
  | .t1DictDatagram ip port payload => fits 32 ip && fits 16 port && decide (payload.length ≤ 1472)
  | .attachApply who _ t | .tpLoad who _ t | .tpUnload who _ t | .gangApply who _ t | .dpApply who _ t | .pairSwap who t
  | .updateApply who t | .serviceReturn who _ t | .serviceOutGangCover who _ t | .serviceOutTwinCover who _ t
  | .serviceOutNoCover who _ t | .substApply who _ t | .testRun who _ t => reqOk who && fits 64 t
  | .apply who _ v _ | .memRetrain who _ v | .klApply who _ v | .startLine who v | .digestRun who v
  | .oppReqWrite who _ v | .p2Enter who v | .attestRun who v | .chReset who _ v | .splitClear who _ v => reqOk who && fits 8 v
  | .windowOpen _ map window => decide (map < 4) && decide (window < 8)
  | .windowClose _ map => decide (map < 4)
  | .engineFetch q _ | .fence q | .notify q | .course q | .heatStep q _ | .fetcherSample q | .queueClosed q | .queueStall q => decide (q < 2048)
  | .intAdd _ _ _ d a b | .intSubtract _ _ _ d a b | .intMultiply _ _ _ d a b | .intShift _ _ _ d a b
  | .intLogic _ _ _ d a b | .intCompare _ _ _ _ d a b => regOk d && regOk a && regOk b
  | .intMultiplyAdd _ _ _ d a b c => regOk d && regOk a && regOk b && regOk c
  | .intSelect _ _ d p a b => regOk d && regOk p && regOk a && regOk b
  | .widen _ _ _ _ d a | .narrow _ _ _ d a | .blockElementPack _ _ d a | .blockElementUnpack _ _ d a => regOk d && regOk a
  | .bra _ _ p _ _ => regOk p
  | .brx _ _ r _ => regOk r
  | .call _ _ target _ => targetOk target
  | .readSpecialRegister _ _ d _ => regOk d
  | .ld _ _ size d a rank _ => sizeOk size && regOk d && regOk a && regOk rank
  | .st _ _ size v a rank => sizeOk size && regOk v && regOk a && regOk rank
  | .constantLoad _ size d a _ => sizeOk size && regOk d && regOk a
  | .atomAdd _ f v | .atomSub _ f v | .atomMin _ f _ v | .atomMax _ f _ v | .atomAnd _ f v | .atomOr _ f v
  | .atomXor _ f v | .atomSadd _ f v | .atomSsub _ f v | .atomExch _ f v | .atomExchLock _ f v _ => formOk f && regOk v
  | .atomCas _ f cmp v | .atomCasLock _ f cmp v _ => formOk f && regOk cmp && regOk v
  | .atomUnlock _ f => formOk f
  | .appendG _ desc v d _ => regOk desc && regOk v && regOk d
  | .barB _ n => decide (n < 16)
  | .alloc _ d size align _ | .allocF _ d size align _ => regOk d && regOk size && regOk align
  | .free _ a _ => regOk a
  | .commit _ status => fits 16 status
  | .mopen _ t _ _ _ _ _ _ _ _ _ _ | .mresume _ t _ _ _ _ _ _ _ _ _ _ _ | .mstep _ t _ _ | .mmerger _ t _ _ _
  | .msave _ t _ _ | .mepi _ t _ _ _ _ _ _ | .mclose _ t => decide (t < 4)
  | .mmerge _ t u => decide (t < 4) && decide (u < 4)
  | .tex _ d src u v smp _ => regOk d && regOk src && regOk u && regOk v && regOk smp
  | .rayq _ d src h _ => regOk d && regOk src && regOk h
  | .admissionComplete _ heat => decide (heat < 16)
  | .srcSubmit who _ slot => reqOk who && fits 8 slot
  | .closureClear who _ mask => reqOk who && fits 16 mask
  | .cacheCtrlWrite who _ v _ | .attnAck who v | .syncRoleWrite who v | .chBudgetWrite who _ v | .packageLimitWrite who v => reqOk who && fits 32 v
  | .allocPoolWrite who _ _ v => reqOk who && fits 64 v
  | .allocTrim who k v | .asInstall who k v | .coursePatch who k v | .courseDestroy who k v => reqOk who && decide (k < 256) && fits 8 v
  | .trimSelect _ k | .trimDrainDone k | .asCheckDone k _ | .asGenEffect _ k | .asDrainDone k | .courseVersionEffect k
  | .courseCheckDone k _ => decide (k < 256)
  | .bar2Read f addr _ _ => decide (f < 16) && fits 64 addr
  | .bar2Write f addr bytes => decide (f < 16) && fits 64 addr && decide (bytes.length ≤ 512)
  | .functionLevelReset f | .pcieConfigWrite f _ _ => decide (f < 16)
  | .t1AddressWrite who sub v => reqOk who && fits 8 sub && decide (v.length ≤ 6)
  | .arpRequest ip mac target => fits 32 ip && fits 48 mac && fits 32 target
  | .icmpEchoRequest ip no data => fits 32 ip && fits 32 no && decide (data.length ≤ 1024)
  | .asTimeMessage _ time _ _ => fits 64 time
  | .image f ptr _ user | .policy f ptr _ user | .traceRing f ptr _ user | .restore f ptr _ user => decide (f < 16) && fits 64 ptr && fits 23 user
  | .marshalToHostNotice f ptr h2mSeq => decide (f < 16) && fits 64 ptr && fits 8 h2mSeq
  | .m2hTake f rc => decide (f < 16) && fits 16 rc
  | .queueDb f q wptr => decide (f < 16) && decide (q < 2048) && fits 32 wptr
  | .ctxCreate who c v | .ctxBatonShare who c v => reqOk who && decide (c < 256) && fits 32 v
  | .ctxHold who c v | .ctxRelease who c v | .ctxAbort who c v | .replayCtrlWrite who c v => reqOk who && decide (c < 256) && fits 8 v
  | .teardownEdge _ c | .teardownComplete c => decide (c < 256)
  | .ctxBatonCreate who c b | .ctxBatonRelease who c b => reqOk who && decide (c < 256) && fits 16 b
  | .batonSignal who b v => reqOk who && fits 16 b && fits 64 v
  | .batonFail who b code => reqOk who && fits 16 b && fits 16 code
  | .tenantQuotaWrite who t sub v => reqOk who && decide (t < 16) && fits 8 sub && fits 16 v
  | .qCreate who q v => reqOk who && decide (q < 2048) && fits 32 v
  | .qDestroy who q v => reqOk who && decide (q < 2048) && fits 8 v
  | .courseCreate who k v => reqOk who && decide (k < 256) && fits 16 v
  | .heatCreate who _ h c => reqOk who && decide (h < 16) && fits 8 c
  | .heatDestroy who _ h v => reqOk who && decide (h < 16) && fits 8 v
  | .flitReceive _ fl => flitOk fl
  | .ident _ digest index port => decide (digest.length = 12) && fits 8 index && fits 8 port
  | .lineWrite _ tag addr mask data _ => fits 32 tag && fits 64 addr && fits 64 mask && decide (data.length = 64)
  | .closeAck _ tag => fits 32 tag
  | .forwardedBatonSignal _ b v code => fits 14 b && fits 64 v && fits 16 code
  | .pairJoin who v peer => reqOk who && fits 8 v && peerOk peer
  | .pairJoinEffect peer numbers => peerOk peer && numbersOk numbers
  | .datum bytes => decide (bytes.length = 64)
  | .mirror index sub tick value => fits 16 index && fits 8 sub && fits 64 tick && decide (value.length ≤ 512)
  | .chPowerOn who _ | .chPowerPark who _ | .chPowerGate who _ => reqOk who
  | .p2EntryCommit vretCurrent => fits 16 vretCurrent
  | .padRelease who v => reqOk who && fits 16 v
  | .resetRelease bootSrc _ _ boardId => fits 2 bootSrc && fits 2 boardId
  | .imageChunk who chunk => reqOk who && decide (chunk.length = 1024)
  | .policyWrite who b => reqOk who && decide (b.length = 6344)
  | .hdcpKeys who keys => reqOk who && decide (keys.length = 2048)
  | .updateDiscard who unitId => reqOk who && fits 16 unitId
  | .restoreWrite who block => reqOk who && decide (block.length = 304)
  | .dpinLinkTrained _ rate lanes => decide (rate ≤ 5) && decide (lanes ≤ 2)
  | .t1AddressAcquired addr => fits 32 addr
  | .commandSeal _ _ ports => portsOk ports
  | .dictRead | .dictWrite | .attachEffect _ | .tickEdge _ _ _ _ | .lockSourceLost _ | .lockSourceReturn _
  | .pacerApplyEffect _ | .followStart _ _ | .wcetOverrun _ | .commandStart _ _ _ _ | .openMarker _ _
  | .closeMarker _ _ _ _ | .publicationEnd _ | .loadCheckDone _ _ | .tpSwitch _ | .tpUnloadEffect _ | .ret _ | .exit _ _
  | .siblingWaitExpiry _ _ | .fenceG _ | .fenceB _ | .fenceC _ | .fenceD _ | .fenceS _ | .barC _ | .blockStart _ _
  | .launch _ | .bearingSearch _ _ | .bearingRefine _ _ | .bearingOcclude _ _ | .traverseRays _ _ | .traversePatch _ _
  | .rasterBinned _ _ | .rasterDirect _ _ | .rasterAuto _ _ | .poolGrowReturn _ | .copy _ _ | .fill _ | .take _
  | .sourceRowCapture _ _ _ | .rowDeadline _ | .streamMismatch _ | .inputLossTimeout _ | .hostFrameBegin _
  | .frameBinding _ | .outputFrameStart _ _ | .gangChange _ | .safePictureStart | .setSnapshot _ _ | .lutBankLoadDone _ _
  | .dpTimingEffect _ | .dpTrainingDone _ _ | .hpdLowTimeout _ | .hpdReturn _ | .irqHpd _ _ | .hdcpLoss _
  | .dpinLinkLoss _ | .dpinStreamPresent _ _ | .memTrainingDone _ _ | .memTempReport _ _ | .trackStep _ _
  | .memRetrainDone _ _ | .cacheInvalidateDone _ _ | .cacheHandoverDone _ _ | .cacheReturnScanDone _ _
  | .allocPoolEffect _ | .chunkZeroed _ _ | .hotReset | .linkDownReset | .addressConflict | .asSyncLoss
  | .klFlitTimeout _ | .klTrainingDone _ _ _ | .klTableEffect _ | .syncMark _ _ | .syncMarkSend _ | .syncMarkTimeout
  | .startLineEdge | .relayApply _ | .promotion | .pairSwapEffect | .digestDone | .chPowerEffect _ | .chReturnDone _
  | .domainEnOff _ | .frequencyChange _ | .lendStart _ | .lendEnd _ | .p2EntryStart | .p2EntryDrained | .wake _ _
  | .entryAbort | .returnComplete | .brownOut | .resetAssert _ | .bootPolicyRead _ | .marshalImageVerified _
  | .unitImagesStarted _ | .attestDone | .updateApplyPoint _ | .marshalUpdateDone | .chServiceEffect _ | .chResetDone _
  | .substEffect _ | .testStart _ | .testDone _ _ | .imageReload _ _ | .traceMark _ | .traceDatagramSend | .reportClose _
  | .supplyUndervoltage | .thermalAlert _ | .thermalTrip | .sysRefclkLoss | .hdcpAuthDone _ _ | .t1LinkChange _
  | .pcieLinkTrained _ _ | .sysRefclkReturn | .supplyRestored | .identityDerived _ | .bootSelfTestDone _ _
  | .p2EntryStepDone | .entryUndoDone | .traceTimeref => true

end Sys2Proof
end

