-- ==== Sys2Proof/Safety.lean ====
section
/-! DEFINITION. The terms in which statements about the block are made: what a command does, the instruction a group of
lanes may issue, what a command leaves alone, and the invariant of the state. -/

namespace Sys2Proof.Machine

/-- The command acts on the state and answers a next state of which `p` holds. -/
def Does (i : Instr) (s : State) (p : State → Prop) : Prop := ∃ t, exec i s = .next t ∧ p t

/-- The clocks run (R540, R543, R547). -/
abbrev State.clocksRun (s : State) : Prop := s.halt = none

/-- A dictionary request of a requester on an object is served now (R352, R464, R485): Marshal runs, the device is awake,
and the gate lets the request through. -/
abbrev State.serves' (s : State) (who : Req) (k : Nat) : Prop :=
  s.halt = none ∧ s.requestsWait = false ∧ s.gate who ((k / 256) % 65536) (k % 256) = rcOk ∧ s.standbyBars k = false

/-- Every byte of memory reads as before. -/
def sameMem (s t : State) : Prop := ∀ a, t.byteAt a = s.byteAt a

/-- Every byte of memory outside `n` bytes from `a` reads as before. -/
def sameMemBut (s t : State) (a n : Nat) : Prop := ∀ b, b < a ∨ a + n ≤ b → t.byteAt b = s.byteAt b

/-- Every numeric object but those of `l` reads as before. -/
def sameObjsBut (s t : State) (l : List Nat) : Prop := ∀ k, k ∉ l → t.obj k = s.obj k

/-- The group an instruction names. -/
def State.group (s : State) (g : GroupRef) : Option Group := (s.findGroup g).map (fun p => p.2.2)

/-- A group issues an instruction that names these registers (R116, R118): it waits for nothing, has an active lane, and
every register lies below REGS and below 256. -/
def State.issues (s : State) (g : GroupRef) (names : List (Nat × Nat)) : Bool :=
  match s.findGroup g with
  | none => false
  | some (r, _, x) => x.wait = .none && x.mask ≠ 0 && regsOk r names && names.all (fun p => p.1 + p.2 ≤ 256)

/-- The result of integer arithmetic at `n` bits (R86): exact, then clamped in the saturating form and otherwise wrapped. -/
def intResult (n : Nat) (sat : Bool) (v : Int) : Int :=
  if sat then (if v < -(2 ^ (n - 1) : Nat) then -(2 ^ (n - 1) : Nat) else if (2 ^ (n - 1) : Nat) - 1 < v then (2 ^ (n - 1) : Nat) - 1 else v)
  else Int.bmod v (2 ^ n)

/-- The canonical form of the state: bytes of memory and numeric objects are listed by strictly rising key, and none at the value
that an unlisted one reads as, so that equal memories and equal dictionaries are equal data. -/
def State.canonical (s : State) : Prop := Memory.wf s.mem = true ∧ Objects.wf s.objs = true

/-- Nothing waits to be settled: no head and no node has a wait that the error value satisfies (R378), and no course launch
is over (R396). -/
def State.quiet (s : State) : Prop := s.errorHead = none ∧ s.errorNode = none ∧ s.overLaunch = none

/-- Nothing but the registers and program counter of one group has changed (R118): the state is as before but for the runs,
and each register that is none of `d` to `d + n - 1` of an active lane is as before. -/
def onlyRegs (s t : State) (x y : Group) (d n : Nat) : Prop :=
  t = { s with runs := t.runs } ∧ ∀ l r, l < 32 → r < 256 → (l ∉ x.active ∨ r < d ∨ d + n ≤ r) → y.reg l r = x.reg l r

/-- The counters that accesses of memory grow whatever their data: those of the system caches (R310) and of errors that were
corrected on the way (R308, R415). -/
def accessCounters : List Nat :=
  (chans.map (fun n : Fin 4 => [Obj.scHits n, Obj.scMisses n, Obj.scStreamFills n, Obj.scWritebacks n, Obj.eccCorrected n,
    Obj.hlCorrected n, Obj.ringCorrected n])).flatten

/-- Beside the runs only that has changed which accesses of memory touch whatever their data: the caches, what the range and
owner caches remember, and the counters. -/
def onlyAccess (s t : State) : Prop :=
  t = { s with runs := t.runs, caches := t.caches, ranges := t.ranges, owners := t.owners, texCaches := t.texCaches, objs := t.objs } ∧
  sameObjsBut s t accessCounters

/-- An atomic on words of channel memory and, where `hostOk`, at device scope of host memory (R131 to R133): the lane `l` reads
the word at key `at' l`, writes `op` of it and, in a fetch form, returns the prior value; nothing outside the lanes' words
changes. A word that two lanes name is written by them in turn, so what it then holds is said of a lane that shares its word
with no other. `inStrict` says that a form without a fetch runs at once in strict order too. -/
def atomGlobal (s : State) (i : Instr) (g : GroupRef) (f : AtomForm) (fetch hostOk inStrict : Bool) (vals : List Nat)
    (op : Group → Nat → Nat → Nat) : Prop :=
  ∀ (r : Run) (b : Block) (x : Group) (at' : Nat → Nat), s.clocksRun → s.issues g (atomRegs f fetch vals) = true →
    s.findGroup g = some (r, b, x) → f.space = .global → (f.scope = .device ∨ f.scope = .system) → f.ecc.bad = none →
    (r.strict = false ∨ (inStrict = true ∧ fetch = false)) →
    (∀ l ∈ x.active, x.pair l f.addr % AtomBytes f = 0 ∧
      s.isHeld (toCh r.ch) (at' l) = false ∧
      (at' l < hostBase ∨ (hostOk = true ∧ f.scope = .device ∧ (s.pcieFn (s.ctxFn r.ctx)).atomicEn = true)) ∧
      ∃ p q, s.translate (s.runXlat r (some b.core)) (x.pair l f.addr) rightA = .ok (at' l, p, q)) →
    Does i s (fun t => (∀ l ∈ x.active, (∀ m ∈ x.active, m ≠ l → at' m + AtomBytes f ≤ at' l ∨ at' l + AtomBytes f ≤ at' m) →
        t.readNat (at' l) (AtomBytes f) = op x l (s.readNat (at' l) (AtomBytes f)) % 2 ^ (8 * AtomBytes f) ∧
        (fetch = true → ∃ y, t.group g = some y ∧ y.words l f.dst (AtomBytes f / 4) = s.readNat (at' l) (AtomBytes f))) ∧
      (∀ a, (∀ l ∈ x.active, a < at' l ∨ at' l + AtomBytes f ≤ a) → t.byteAt a = s.byteAt a) ∧
      sameObjsBut s t accessCounters ∧ t.ctxs = s.ctxs ∧ t.queues = s.queues ∧ t.pacers = s.pacers)

/-- An atomic on words of block-local storage, the block's own or that of a rank of its cluster (R131): as `atomGlobal`, with
memory unchanged. -/
def atomLocal (s : State) (i : Instr) (g : GroupRef) (f : AtomForm) (fetch inStrict : Bool) (vals : List Nat)
    (op : Group → Nat → Nat → Nat) : Prop :=
  ∀ (r : Run) (b home : Block) (x : Group), s.clocksRun → s.issues g (atomRegs f fetch vals) = true →
    s.findGroup g = some (r, b, x) → f.ecc.bad = none →
    ((f.space = .blockLocal ∧ (f.scope = .group ∨ f.scope = .block) ∧ home = b) ∨
     (f.space = .cluster ∧ f.scope = .cluster ∧ f.rank < max (lbCluster r.body) 1 ∧ r.rankBlock b f.rank = some home)) →
    (r.strict = false ∨ (f.scope = .group ∧ fetch = true) ∨ (inStrict = true ∧ fetch = false)) →
    (∀ l ∈ x.active, (x.reg l f.addr).toNat % AtomBytes f = 0 ∧ r.inBls (x.reg l f.addr).toNat (AtomBytes f) = true) →
    Does i s (fun t => t.mem = s.mem ∧ ∃ (r' : Run) (h' : Block), look t.runs g.run = some r' ∧ r'.block home.index = some h' ∧
      ∀ l ∈ x.active, (∀ m ∈ x.active, m ≠ l → (x.reg m f.addr).toNat + AtomBytes f ≤ (x.reg l f.addr).toNat ∨
          (x.reg l f.addr).toNat + AtomBytes f ≤ (x.reg m f.addr).toNat) →
        leNat (h'.blsRead (x.reg l f.addr).toNat (AtomBytes f)) =
          op x l (leNat (home.blsRead (x.reg l f.addr).toNat (AtomBytes f))) % 2 ^ (8 * AtomBytes f))

end Sys2Proof.Machine
end

