-- ==== Sys2Proof/Certificates/Slice0/Obligations.lean ====
section
/-! DEFINITION. The statements for the provers. Each says what commands of one kind do: the state they need, the state they
answer, and what they leave as it was. -/

open Sys2Proof Sys2Proof.Machine

/-- Each step takes the command at the front of the queue and runs it on the state with the rest of the queue; with nothing
waiting the block idles (log entry 20: the model's choice). -/
def Obligations.StepRunsTheFrontCommand : Prop :=
  (∀ (c : Instr) (rest : List Instr) (s : State), s.pending = c :: rest → step s = exec c { s with pending := rest }) ∧
  (∀ s : State, s.pending = [] → step s = .next s)

/-- While every clock stands still, or the power-on reset holds, no command but those that end the stop changes anything.
Electrical events: an undervoltage resets the device as at power-on and holds it until the supplies are back, with RESET_CAUSE
0; a thermal trip and the loss of SYS_REFCLK stop every clock; the return of SYS_REFCLK resets the device as at power-on;
THERM_ALERT_N changes nothing but itself. -/
def Obligations.ClocksStopsAndElectricalEvents : Prop :=
  (∀ (i : Instr) (s : State) (h : Halt), s.halt = some h →
    i ∉ [Instr.supplyUndervoltage, Instr.supplyRestored, Instr.sysRefclkReturn] → exec i s = .next s) ∧
  (∀ s : State, Does .supplyUndervoltage s (fun t => t.halt = some .supply ∧ t.obj Obj.resetCause = 0 ∧ t.marshal = .rom ∧
    t.runs = [] ∧ t.ctxs = [] ∧ t.queues = [] ∧ t.batons = [] ∧ t.pending = s.pending)) ∧
  (∀ s : State, s.halt = some .supply → Does .supplyRestored s (fun t => t = { s with halt := none })) ∧
  (∀ s : State, s.clocksRun → Does .thermalTrip s (fun t => t = { s with halt := some .trip })) ∧
  (∀ s : State, s.clocksRun → Does .sysRefclkLoss s (fun t => t = { s with halt := some .refclk })) ∧
  (∀ s : State, s.halt = some .refclk → Does .sysRefclkReturn s (fun t => t.halt = none ∧ t.obj Obj.resetCause = 0 ∧
    t.marshal = .rom ∧ t.runs = [] ∧ t.ctxs = [] ∧ t.queues = [] ∧ t.pending = s.pending)) ∧
  (∀ (s : State) (above : Bool), s.clocksRun → Does (.thermalAlert above) s (fun t =>
    t = { s with power := { s.power with hot := above } }))

/-- A READ of a whole object that stands at the head of Marshal's queue is answered with OK, the object's bytes and their number,
in the function's window, which is then no longer busy and shows the doorbell's TAG. A WRITE at the head of Marshal's queue
does what the write of its object does, and is answered in the function's window with the reply code of that write. -/
def Obligations.RequestsAreExecutedAndAnswered : Prop :=
  (∀ (s : State) (q : DictRequest) (rest : List DictRequest) (f n : Nat) (r : ObjRow),
    s.clocksRun → s.requestsWait = false → s.marshalQ = q :: rest → q.src = .fn f → frameGood q = true →
    frameOp q.frame = 1 → frameCount q.frame = 0 → frameOff q.frame = 0 →
    objRow (frameIndex q.frame) (frameSub q.frame) = some (r, n) → r.acc ≠ .wo → r.acc ≠ .cmd → r.ty.size ≤ 1024 → 0 < r.ty.size →
    s.gate (.fn f) (frameIndex q.frame) (frameSub q.frame) = rcOk → r.ty.size = objSize (.fn f) (((blockOf (frameIndex q.frame)).map (·.1)).getD 0) r →
    Does .dictRead s (fun t => ∃ u : State, u = ({ s.endCycle with marshalQ := rest, queuedOk := q.admitted } : State).bump Obj.dictRequests 1 64 ∧
      t.marshalQ = rest ∧ t.reply = rcOk ∧ (t.window f).busy = false ∧ (t.window f).tag = q.tag ∧
      (t.window f).reply = patch (s.window f).reply 0 (replyFrame q.frame (u.rsw f rcOk) r.ty.size
        (u.readObject (.fn f) (((blockOf (frameIndex q.frame)).map (·.1)).getD 0) n r
          (key (frameIndex q.frame) (frameSub q.frame)) 0 r.ty.size)) ∧
      t.obj Obj.dictRequests = (s.obj Obj.dictRequests + 1) % 2 ^ 64 ∧
      sameObjsBut s.endCycle t [Obj.dictRequests] ∧ t.mem = s.mem ∧ t.pacers = s.pacers ∧ t.octs = s.octs)) ∧
  (∀ (s : State) (q : DictRequest) (rest : List DictRequest) (f n : Nat) (r : ObjRow),
    s.clocksRun → s.requestsWait = false → s.marshalQ = q :: rest → q.src = .fn f → frameGood q = true →
    frameOp q.frame = 2 → frameFlags q.frame = 0 → frameOff q.frame = 0 → frameCount q.frame ≤ 1024 →
    objRow (frameIndex q.frame) (frameSub q.frame) = some (r, n) → r.ty.size ≤ 1024 →
    Does .dictWrite s (fun t => ∃ u w : State,
      u = (({ s.endCycle with marshalQ := rest, queuedOk := q.admitted } : State).bump Obj.dictRequests 1 64).emit 15 noCh 12 0 0
        (frameIndex q.frame * 256 + frameSub q.frame) f ∧
      exec (.genericObjectWrite (.fn f) (frameIndex q.frame) (frameSub q.frame) (slice q.frame 24 (frameCount q.frame))) u = .next w ∧
      t = { w.setWindow f { w.window f with
        reply := patch (w.window f).reply 0 (replyFrame q.frame (w.rsw f w.reply) (replySize (.fn f) q.frame) []),
        busy := false, tag := q.tag } with queuedOk := false }))

/-- A write of a dictionary object: one with a row of its own does what its row does; the others store the written value, with its
reserved bits ignored, and answer OK, or answer OUT_OF_RANGE outside their values, outside a pair and but for the objects
whose write does more (staged values, PAIR_CTRL, T1_AS_EN, DPIN_CTRL, KL_CTRL). Nothing else changes. PF0's write of
UPDATE_TARGET completes in every state in which Marshal runs and the device is awake. A write of a RO object, of a wrong
length, of a BOOL above 1 or of an object this device does not define only answers with the code of Table: Reply codes, and
one that waits does nothing. -/
def Obligations.ObjectWriteStoresOrRefuses : Prop :=
  (∀ (s : State) (who : Req) (index sub n b : Nat) (r : ObjRow) (bytes : List Byte),
    s.clocksRun → s.requestsWait = false → objRow index sub = some (r, n) → b = ((blockOf index).map (·.1)).getD 0 →
    s.gate who index sub = rcOk → r.acc ≠ .ro → bytes.length = r.ty.size → (r.ty = .bool → leNat bytes ≤ 1) →
    (∀ f, rowOp who b n sub (leNat bytes) bytes = some f → Does (.genericObjectWrite who index sub bytes) s (fun t => t = f s)) ∧
    (rowOp who b n sub (leNat bytes) bytes = none → bits (s.obj Obj.pairCtrl) 31 30 = 0 → b ∉ [0x1400, 0x1800, 0xB000] →
      (b, sub) ∉ [(0x1020, 7), (0x8000, 1), (0xC000, 1)] →
      (r.ty.isOctets = true → Does (.genericObjectWrite who index sub bytes) s (fun t => t = (s.setOct (key index sub) bytes).answer rcOk)) ∧
      (r.ty.isOctets = false → valueOk b n sub (writtenValue b n sub (leNat bytes)) = true →
        Does (.genericObjectWrite who index sub bytes) s (fun t =>
          t = (s.setObj (State.writeHook.key' b n sub) (writtenValue b n sub (leNat bytes))).answer rcOk)) ∧
      (r.ty.isOctets = false → valueOk b n sub (writtenValue b n sub (leNat bytes)) = false →
        Does (.genericObjectWrite who index sub bytes) s (fun t => t = s.answer rcRange)))) ∧
  (∀ (s : State) (who : Req) (index sub : Nat) (bytes : List Byte), s.clocksRun → s.requestsWait = true →
    Does (.genericObjectWrite who index sub bytes) s (fun t => t = s)) ∧
  (∀ (s : State) (who : Req) (index sub n : Nat) (r : ObjRow) (bytes : List Byte),
    s.clocksRun → s.requestsWait = false → objRow index sub = some (r, n) → s.gate who index sub = rcOk →
    (r.acc = .ro → Does (.genericObjectWrite who index sub bytes) s (fun t => t = s.answer rcAccess)) ∧
    (r.acc ≠ .ro → r.acc ≠ .cmd → bytes.length ≠ r.ty.size → Does (.genericObjectWrite who index sub bytes) s (fun t => t = s.answer rcLength)) ∧
    (r.acc ≠ .ro → r.acc ≠ .cmd → r.ty = .bool → bytes.length = 1 → 1 < leNat bytes →
      Does (.genericObjectWrite who index sub bytes) s (fun t => t = s.answer rcRange))) ∧
  (∀ (s : State) (who : Req) (k : Nat) (bytes : List Byte),
    s.clocksRun → s.requestsWait = false → k ∈ [Obj.updateTarget, Obj.wakeMask, Obj.traceDestIp, Obj.traceDestPort, Obj.digestDesc,
      Obj.serial] → s.gate who (k / 256) (k % 256) = rcOk →
    (k = Obj.updateTarget → bytes.length = 2 →
      Does (.genericObjectWrite who (k / 256) (k % 256) bytes) s (fun t => t = (s.setObj k (leNat bytes)).answer rcOk)) ∧
    (k = Obj.traceDestIp → bytes.length = 4 →
      Does (.genericObjectWrite who (k / 256) (k % 256) bytes) s (fun t => t = (s.setObj k (leNat bytes)).answer rcOk)) ∧
    (k = Obj.traceDestPort → bytes.length = 2 →
      Does (.genericObjectWrite who (k / 256) (k % 256) bytes) s (fun t => t = (s.setObj k (leNat bytes)).answer rcOk)) ∧
    (k = Obj.serial → Does (.genericObjectWrite who (k / 256) (k % 256) bytes) s (fun t => t = s.answer rcAccess)) ∧
    (k = Obj.traceDestPort → bytes.length ≠ 2 → Does (.genericObjectWrite who (k / 256) (k % 256) bytes) s (fun t => t = s.answer rcLength))) ∧
  (∀ (s : State) (who : Req) (index sub : Nat) (bytes : List Byte), s.clocksRun → s.requestsWait = false →
    objRow index sub = none → strayGang index sub = false →
    Does (.genericObjectWrite who index sub bytes) s (fun t => t = s.answer rcUnknown)) ∧
  (∀ (s : State) (v : Nat), s.clocksRun → s.marshal = .running → s.awake = true → v < 65536 →
    Does (.genericObjectWrite (.fn 0) (Obj.updateTarget / 256) (Obj.updateTarget % 256) (toLE 2 v)) s (fun t =>
      t = (s.setObj Obj.updateTarget v).answer rcOk))

/-- A doorbell of a function whose window is not busy takes the request: it is copied, BUSY is set, OVERRUN is cleared and the
request waits behind the others. While BUSY is set, the doorbell only sets OVERRUN, and while the function's reset is not
complete it does nothing. It is what a write of four bytes at offset 0x1000 of BAR0 does, and QUEUE_DB what a write at its own
offset does. A datagram: a well-formed new request of a T1 client waits for Marshal; a malformed one, and one that finds 32 T1
requests waiting, is dropped and counted; a duplicate of a kept request is answered again and counted, and is not executed. -/
def Obligations.DoorbellsAndDatagrams : Prop :=
  (∀ (s : State) (f tag : Nat) (frame : List Byte), s.clocksRun → s.power.p2 = .awake → f < 16 → s.resetting f = false → (s.window f).busy = false →
    Does (.dictDoorbell f tag frame) s (fun t =>
      t = { s.setWindow f { s.window f with req := slice frame 0 2048, busy := true, overrun := false } with
        marshalQ := s.marshalQ ++ [{ src := .fn f, tag := tag % 65536, frame := slice frame 0 2048, admitted := false }] })) ∧
  (∀ (s : State) (f tag : Nat) (frame : List Byte), s.clocksRun → s.power.p2 = .awake → f < 16 → s.resetting f = false → (s.window f).busy = true →
    Does (.dictDoorbell f tag frame) s (fun t => t = s.setWindow f { s.window f with overrun := true })) ∧
  (∀ (s : State) (f tag : Nat) (frame : List Byte), s.clocksRun → s.power.p2 = .awake → s.resetting f = true →
    Does (.dictDoorbell f tag frame) s (fun t => t = s)) ∧
  (∀ (s : State) (f v : Nat), s.clocksRun → f < 16 →
    Does (.dictDoorbell f (v % 65536) (s.window f).req) s (fun t => t = s.bar0Write f 0x1000 4 v) ∧
    ∀ q < 2048, ∀ size ∈ [4, 8], Does (.queueDb f q (v % 2 ^ 32)) s (fun t => t = s.bar0Write f (0x8000 + 8 * q) size v)) ∧
  (∀ (s : State) (ip port : Nat) (b : List Byte), s.clocksRun → s.power.p2 = .awake → s.obj Obj.t1State = 2 → datagramBad b = true →
    Does (.t1DictDatagram ip port b) s (fun t => t = s.bump Obj.dictDrops 1 32)) ∧
  (∀ (s : State) (ip port : Nat) (b : List Byte), s.clocksRun → s.power.p2 = .awake → s.obj Obj.t1State = 2 → datagramBad b = false →
    (s.marshalQ.any (fun q => q.src = .t1 ip port && q.tag = frameTag b)) = false →
    ({ s with t1Clients := heardFrom s.t1Clients ip port } : State).keptReply ip port (frameTag b) = none →
    (s.marshalQ.filter (fun q => match q.src with | .t1 _ _ => true | .fn _ => false)).length < 32 →
    Does (.t1DictDatagram ip port b) s (fun t =>
      t = { s with t1Clients := heardFrom s.t1Clients ip port,
                   marshalQ := s.marshalQ ++ [{ src := .t1 ip port, tag := frameTag b, frame := b, admitted := s.t1May ip }] })) ∧
  (∀ (s : State) (ip port : Nat) (b : List Byte), s.clocksRun → s.power.p2 = .awake → s.obj Obj.t1State = 2 → datagramBad b = false →
    (s.marshalQ.any (fun q => q.src = .t1 ip port && q.tag = frameTag b)) = true →
    Does (.t1DictDatagram ip port b) s (fun t => t.marshalQ = s.marshalQ ∧ t.t1Out = s.t1Out ∧
      t.obj Obj.dictDuplicates = (s.obj Obj.dictDuplicates + 1) % 2 ^ 32 ∧ t.obj Obj.dictDrops = s.obj Obj.dictDrops)) ∧
  (∀ (s : State) (ip port : Nat) (b : List Byte), s.clocksRun → s.power.p2 = .awake → s.obj Obj.t1State = 2 → datagramBad b = false →
    (s.marshalQ.any (fun q => q.src = .t1 ip port && q.tag = frameTag b)) = false →
    ({ s with t1Clients := heardFrom s.t1Clients ip port } : State).keptReply ip port (frameTag b) = none →
    32 ≤ (s.marshalQ.filter (fun q => match q.src with | .t1 _ _ => true | .fn _ => false)).length →
    Does (.t1DictDatagram ip port b) s (fun t => t.marshalQ = s.marshalQ ∧ t.t1Out = s.t1Out ∧
      t.obj Obj.dictDrops = (s.obj Obj.dictDrops + 1) % 2 ^ 32 ∧ sameObjsBut s t [Obj.dictDrops])) ∧
  (∀ (s : State) (ip port : Nat) (b r : List Byte), s.clocksRun → s.power.p2 = .awake → s.requestsWait = false → s.obj Obj.t1State = 2 →
    datagramBad b = false → (s.marshalQ.any (fun q => q.src = .t1 ip port && q.tag = frameTag b)) = false →
    ({ s with t1Clients := heardFrom s.t1Clients ip port } : State).keptReply ip port (frameTag b) = some r →
    Does (.t1DictDatagram ip port b) s (fun t => t.marshalQ = s.marshalQ ∧ (∃ d, t.t1Out = s.t1Out ++ [.udp ip port d] ∧
        d.drop 0x14 = r.drop 0x14 ∧ d.take 0x10 = slice r 0 0x10) ∧
      t.obj Obj.dictDuplicates = (s.obj Obj.dictDuplicates + 1) % 2 ^ 32 ∧ t.reply = s.reply))

/-- ATTACH_APPLY of a good owner set for a tick at least 2 ahead is accepted and only pends; at its tick, once the gang changes
and APPLYs of that edge have been taken, the unit passes to the new owner set, and a port's tables are disabled. A set that is
neither 0, a single channel nor a gang in force at that tick is refused with OUT_OF_RANGE. A unit whose sets share no edge at
its tick, or whose new set is no owner set then, stays where it is with command status 3 (log entry 88: the model's choice). -/
def Obligations.AttachmentChangesAtItsTick : Prop :=
  (∀ (s : State) (who : Req) (u : AttachUnit) (T : Nat), s.serves' who (attachOf u).apply →
    s.obj (attachOf u).next < 16 →
    (s.obj (attachOf u).next = 0 ∨ (maskChans (s.obj (attachOf u).next)).length = 1 ∨ s.gangAt T (maskChans (s.obj (attachOf u).next)) = true) →
    (∀ c ∈ maskChans (s.obj (attachOf u).owner) ++ maskChans (s.obj (attachOf u).next),
      s.paceOf c = ((maskChans (s.obj (attachOf u).owner) ++ maskChans (s.obj (attachOf u).next)).map s.paceOf).headD 0) →
    s.tick (((maskChans (s.obj (attachOf u).owner) ++ maskChans (s.obj (attachOf u).next)).map s.paceOf).headD 0) + 2 ≤ T →
    s.underTest (attachOf u) = false → (s.unitImage (attachOf u).unit).apply = none → bits (s.obj Obj.pairCtrl) 31 30 = 0 →
    Does (.attachApply who u T) s (fun t =>
      t = ({ s with attach := s.attach.set (attachOf u).slot (some (T, s.obj (attachOf u).next)) } : State).accept (attachOf u).apply)) ∧
  (∀ (s : State) (who : Req) (u : AttachUnit) (T : Nat), s.serves' who (attachOf u).apply → 16 ≤ s.obj (attachOf u).next →
    Does (.attachApply who u T) s (fun t => t = s.refuse (attachOf u).apply rcRange)) ∧
  (∀ (s : State) (who : Req) (u : AttachUnit) (T : Nat), s.serves' who (attachOf u).apply → s.obj (attachOf u).next ≠ 0 →
    (maskChans (s.obj (attachOf u).next)).length ≠ 1 → s.gangAt T (maskChans (s.obj (attachOf u).next)) = false →
    Does (.attachApply who u T) s (fun t => t = s.refuse (attachOf u).apply rcRange)) ∧
  (∀ (s : State) (u : AttachUnit) (T v : Nat), s.clocksRun → s.attach.get (attachOf u).slot = some (T, v) →
    T ≤ s.tick (((maskChans (s.obj (attachOf u).owner) ++ maskChans v).map s.paceOf).headD 0) →
    (maskChans (s.obj (attachOf u).owner) ++ maskChans v).any s.gangDue = false → (maskChans (s.obj (attachOf u).owner) ++ maskChans v).any s.applyDue = false →
    (s.isOwner v = false ∧ (maskChans (s.obj (attachOf u).owner) ++ maskChans v).all s.atEdge = true ∨ s.oneEdge (maskChans (s.obj (attachOf u).owner) ++ maskChans v) = false) →
    Does (.attachEffect u) s (fun t =>
      t = ({ s with attach := s.attach.set (attachOf u).slot none } : State).ended (attachOf u).apply 0 3)) ∧
  (∀ (s : State) (T v : Nat), s.clocksRun → s.attach.get 3 = some (T, v) → v ≠ 0 → s.isOwner v = true →
    (maskChans (s.obj (Obj.klAttachOwner 1)) ++ maskChans v).any s.gangDue = false → (maskChans (s.obj (Obj.klAttachOwner 1)) ++ maskChans v).any s.applyDue = false →
    s.oneEdge (maskChans (s.obj (Obj.klAttachOwner 1)) ++ maskChans v) = true → (maskChans (s.obj (Obj.klAttachOwner 1)) ++ maskChans v).all s.atEdge = true →
    T ≤ s.tick (((maskChans (s.obj (Obj.klAttachOwner 1)) ++ maskChans v).map s.paceOf).headD 0) →
    Does (.attachEffect .kl1) s (fun t => t.attach = s.attach.set 3 none ∧ t.obj (Obj.klAttachOwner 1) = v ∧
      (t.link 1).windows = [] ∧ (t.link 1).batons = [] ∧ (t.link 1).pending = none ∧ t.mem = s.mem ∧ t.pacers = s.pacers ∧
      look t.cmdStatus (Obj.klAttachApply 1) = some (cmdWord 0 2) ∧
      sameObjsBut s t [Obj.klAttachOwner 1, Obj.klState 1, Obj.padLatched])) ∧
  (∀ (s : State) (T v : Nat), s.clocksRun → s.attach.get 0 = some (T, v) → v ≠ 0 → s.isOwner v = true →
    (maskChans (s.obj (Obj.attachOwner 0)) ++ maskChans v).any s.gangDue = false → (maskChans (s.obj (Obj.attachOwner 0)) ++ maskChans v).any s.applyDue = false →
    s.oneEdge (maskChans (s.obj (Obj.attachOwner 0)) ++ maskChans v) = true → (maskChans (s.obj (Obj.attachOwner 0)) ++ maskChans v).all s.atEdge = true →
    T ≤ s.tick (((maskChans (s.obj (Obj.attachOwner 0)) ++ maskChans v).map s.paceOf).headD 0) →
    Does (.attachEffect .dpin0) s (fun t => t.attach = s.attach.set 0 none ∧ t.obj (Obj.attachOwner 0) = v ∧
      (∀ m ∈ s.inputSet 0, (t.pictures.get m).capturing = none) ∧ t.mem = s.mem ∧ t.pacers = s.pacers ∧
      look t.cmdStatus (Obj.attachApply 0) = some (cmdWord 0 2) ∧
      sameObjsBut s t [Obj.attachOwner 0, Obj.dpinState 0, Obj.padLatched]))

/-- A Pacer that runs on its own period ends its tick at its edge: the tick number grows by one, the new tick starts where the old
one ended, its length and the accumulator follow from the effective period and the fraction, the length of the ended tick is
kept, and every window is closed. While something is still to be taken at the present edge, of the channel or of one that
follows it, the tick does not end. The trim of a locked Pacer keeps the effective period within LOCK_RANGE. The loss of a
Pacer's lock source holds the trim, makes LOCK_STATE HOLD and raises attention; its return makes the Pacer acquire from the
next edge, while the source is present. -/
def Obligations.TickEdgesAndLock : Prop :=
  (∀ (s : State) (ch : Fin 4) (period : Nat) (ref : Option Nat) (ecc : Ecc), s.clocksRun → s.ticking = true →
    (s.pacer ch).following = false → (s.pacer ch).transition = false → (ch :: s.followers ch).any s.edgeOpen = false →
    Does (.tickEdge ch period ref ecc) s (fun t =>
      t.tick ch = s.tick ch + 1 ∧ (t.pacer ch).edge = (s.pacer ch).edge + (s.pacer ch).len ∧
      (t.pacer ch).lastLen = (s.pacer ch).len ∧ 
      (t.pacer ch).effPeriod = (s.lockStep (s.pacer ch) ((s.pacer ch).edge + (s.pacer ch).len) period ref).effPeriod ∧
      (t.pacer ch).lock = (s.lockStep (s.pacer ch) ((s.pacer ch).edge + (s.pacer ch).len) period ref).lock ∧
      ((t.pacer ch).len, (t.pacer ch).acc) =
        tickLength (s.lockStep (s.pacer ch) ((s.pacer ch).edge + (s.pacer ch).len) period ref).effPeriod (s.pacer ch).acc ∧
      ∀ m, (t.pacer ch).wins.get m = none)) ∧
  (∀ (s : State) (ch : Fin 4) (period : Nat) (ref : Option Nat) (ecc : Ecc), s.clocksRun →
    (ch :: s.followers ch).any s.edgeOpen = true →
    Does (.tickEdge ch period ref ecc) s (fun t => t.pacers = s.pacers ∧ t.mem = s.mem ∧ t.runs = s.runs)) ∧
  (∀ (p : Pacer) (want : Nat) (err : Option Int), (p.lock = .acquiring ∨ p.lock = .locked) → ctrlLockSrc p.cfg.ctrl ≠ 0 →
    (trimLimits p.cfg).1 ≤ (p.trim want err).effPeriod ∧ (p.trim want err).effPeriod ≤ (trimLimits p.cfg).2) ∧
  (∀ (p : Pacer) (want : Nat) (err : Option Int), ctrlLockSrc p.cfg.ctrl = 0 → p.trim want err = p) ∧
  (∀ (s : State) (ch : Fin 4), s.clocksRun → s.marshal ≠ .updating → ctrlLockSrc (s.pacer ch).cfg.ctrl ≠ 0 →
    ((s.pacer ch).lock = .acquiring ∨ (s.pacer ch).lock = .locked) →
    Does (.lockSourceLost ch) s (fun t => t.pacers = s.pacers.set ch { s.pacer ch with lock := .hold, lockRun := 0, back := false } ∧
      t.raised = raiseIn (0, s.attnEntry atState ch (Obj.pacerCtrl ch) 3) s.raised ∧ t.mem = s.mem ∧
      sameObjsBut s t [Obj.startValid, Obj.pairState])) ∧
  (∀ (s : State) (ch : Fin 4), s.clocksRun → ctrlLockSrc (s.pacer ch).cfg.ctrl ≠ 0 → (s.pacer ch).lock = .hold →
    s.lockPresent (ctrlLockSrc (s.pacer ch).cfg.ctrl) ch = true →
    Does (.lockSourceReturn ch) s (fun t => t = s.setPacer ch { s.pacer ch with back := true })) ∧
  (∀ (s : State) (p : Pacer) (e period : Nat) (ref : Option Nat), p.lock = .hold → p.back = true →
    (s.lockStep p e period ref).lock = .acquiring ∧ (s.lockStep p e period ref).lockRun = 0 ∧ (s.lockStep p e period ref).back = false)

/-- APPLY of a staged copy that passes its checks is accepted for the next edge and changes no active register; one out of range
is refused. At that edge the staged copy becomes active, the tick's length follows the new settings, for the Pacers that
follow as well, a lock source that was not in effect acquires, and following a leader whose edge falls there takes the
leader's tick number and length; otherwise a transition tick to the leader's edge begins, at whose end the follower takes the
leader's edges. An edge or an APPLY of the leader that comes at or before the same cycle comes first. -/
def Obligations.ApplyTakesEffectAtTheEdge : Prop :=
  (∀ (s : State) (who : Req) (ch : Fin 4) (ms : List ModelFigures), s.serves' who (Obj.apply ch) → s.inPair ch = false →
    s.gangOf ch = [] → s.applyOk ch (s.stagedCfg ch) ms = true →
    Does (.apply who ch 1 ms) s (fun t => t = (s.setPacer ch
      { s.pacer ch with pending := some (s.stagedCfg ch), applyAt := s.edgeNo ch + s.edgesToEffect ch, floors := s.floorsUnder ch ms }).accept (Obj.apply ch))) ∧
  (∀ (s : State) (who : Req) (ch : Fin 4) (ms : List ModelFigures), s.serves' who (Obj.apply ch) → s.inPair ch = false →
    (periodField (s.stagedCfg ch).period < 0x01F40000 ∨ 0x1F400000 < periodField (s.stagedCfg ch).period ∨
      1000 < ctrlRange (s.stagedCfg ch).ctrl ∨ 4 < ctrlLockSrc (s.stagedCfg ch).ctrl ∨
      s.applyOk ch (s.stagedCfg ch) ms = false) →
    Does (.apply who ch 1 ms) s (fun t => t = s.refuse (Obj.apply ch) rcRange)) ∧
  (∀ (s : State) (ch : Fin 4) (c : PacerCfg), s.clocksRun → (s.pacer ch).pending = some c → (s.pacer ch).applyAt ≤ s.edgeNo ch →
    s.atEdge ch = true → followOf ch c = ch →
    Does (.pacerApplyEffect ch) s (fun t => (t.pacer ch).cfg = c ∧ (t.pacer ch).pending = none ∧ (t.pacer ch).following = false ∧
      t.tick ch = s.tick ch ∧ (t.pacer ch).edge = (s.pacer ch).edge ∧
      ((t.pacer ch).len, (t.pacer ch).acc) = tickLength (newPeriod (s.pacer ch).cfg c ((s.pacer ch).following || (s.pacer ch).transition) (s.pacer ch).effPeriod) (s.pacer ch).accPrev ∧
      (ctrlLockSrc c.ctrl = 0 → ctrlLockSrc (s.pacer ch).cfg.ctrl ≠ 0 → (t.pacer ch).lock = .free) ∧
      (ctrlLockSrc c.ctrl ≠ 0 → ((s.pacer ch).following = true ∨ ctrlLockSrc (s.pacer ch).cfg.ctrl ≠ ctrlLockSrc c.ctrl) →
        s.lockPresent (ctrlLockSrc c.ctrl) ch = true → (t.pacer ch).lock = .acquiring) ∧
      (∀ m ∈ s.followers ch, (t.pacer m).len = (t.pacer ch).len ∧ t.tick m = s.tick m) ∧ look t.cmdStatus (Obj.apply ch) = some (cmdWord 0 2))) ∧
  (∀ (s : State) (ch : Fin 4) (c : PacerCfg), s.clocksRun → (s.pacer ch).pending = some c → (s.pacer ch).applyAt ≤ s.edgeNo ch →
    s.atEdge ch = true → followOf ch c ≠ ch → (s.pacer ch).following = false → (s.pacer ch).transition = false →
    ((s.pacer ch).edge < (s.pacer (followOf ch c)).edge + (s.pacer (followOf ch c)).len → s.applyDue (followOf ch c) = false →
    Does (.pacerApplyEffect ch) s (fun t => (t.pacer ch).cfg = c ∧ (t.pacer ch).pending = none ∧
      ((s.pacer (followOf ch c)).edge = (s.pacer ch).edge → (t.pacer ch).following = true ∧ t.tick ch = s.tick (followOf ch c) ∧
        (t.pacer ch).len = (s.pacer (followOf ch c)).len) ∧
      ((s.pacer (followOf ch c)).edge ≠ (s.pacer ch).edge → (t.pacer ch).transition = true ∧ (t.pacer ch).following = false ∧
        t.tick ch = s.tick ch ∧
        (t.pacer ch).len = (s.pacer (followOf ch c)).edge + (s.pacer (followOf ch c)).len - (s.pacer ch).edge))) ∧
    ((s.pacer (followOf ch c)).edge + (s.pacer (followOf ch c)).len ≤ (s.pacer ch).edge ∨ s.applyDue (followOf ch c) = true →
      Does (.pacerApplyEffect ch) s (fun t => t = s))) ∧
  (∀ (s : State) (ch : Fin 4) (ecc : Ecc), s.clocksRun → (s.pacer ch).transition = true → s.edgeOpen ch = false →
    (s.pacer ch).edge + (s.pacer ch).len ≤ (s.pacer (followOf ch (s.pacer ch).cfg)).edge →
    Does (.followStart ch ecc) s (fun t => (t.pacer ch).following = true ∧ (t.pacer ch).transition = false ∧
      t.tick ch = s.tick (followOf ch (s.pacer ch).cfg) ∧
      (t.pacer ch).edge = (s.pacer (followOf ch (s.pacer ch).cfg)).edge ∧
      (t.pacer ch).len = (s.pacer (followOf ch (s.pacer ch).cfg)).len ∧ ∀ m, (t.pacer ch).wins.get m = none))

/-- A window opens at its START cycle, once all that an edge brings has been taken, and dispatches the class 0 slots of the
current variant in it; at its close no command of its map runs any more. A command of classes 1 to 3 that has not sealed when
its window closes is killed: the class's kill counter grows by one and KILLED_CYCLES by the cycles it ran; it no longer runs
and nothing of it is published. Where its queue is the only one, open, and of an active context, the command is back at the
head of the queue. A command of classes 1 to 3 that has not sealed WCET' cycles after its start is stopped, and its context is
faulted with E_WCET_OVERRUN; it does not restart. -/
def Obligations.WindowsKillsAndOverruns : Prop :=
  (∀ (s : State) (ch m : Fin 4) (w a e : Nat), s.clocksRun →
    windowSpan (mapRegs (s.pacer ch).cfg.windows m) w (s.pacer ch).len = some (a, e) → (s.pacer ch).wins.get m = none →
    a < (s.pacer ch).len → s.edgeOpen ch = false →
    Does (.windowOpen ch m w) s (fun t => t = { s.at ((s.pacer ch).edge + a) with pacers := t.pacers } ∧
      t.now = max s.now ((s.pacer ch).edge + a) ∧ t.tick ch = s.tick ch ∧ (t.pacer ch).cfg = (s.pacer ch).cfg ∧
      (t.pacer ch).wins = (s.pacer ch).wins.set m (some (OpenWindow.mk w
        (winClass ((mapRegs (s.pacer ch).cfg.windows m)[w]?.getD 0))
        (winBackfill ((mapRegs (s.pacer ch).cfg.windows m)[w]?.getD 0)) a (min e (s.pacer ch).len))) ∧
      ∀ (i : Nat) (sl : Slot), (s.curSlots ch)[i]? = some sl → (s.pacer ch).slots[i]? = some .idle → sl.window = w →
        unitMapOf (s.pacer ch).cfg.unitMap sl.unit = m → winClass ((mapRegs (s.pacer ch).cfg.windows m)[w]?.getD 0) = 0 →
        (t.pacer ch).slots[i]? = some .waiting)) ∧
  (∀ (s : State) (ch m : Fin 4) (w : OpenWindow), s.clocksRun → (s.pacer ch).wins.get m = some w →
    Does (.windowClose ch m) s (fun t => (t.pacer ch).wins.get m = none ∧
      (∀ n, n ≠ m → (t.pacer ch).wins.get n = (s.pacer ch).wins.get n) ∧ t.tick ch = s.tick ch ∧
      ∀ (id : Nat) (r : Run), look s.runs id = some r → r.ch = ch.val → r.map = m.val → look t.runs id = none)) ∧
  (∀ (s : State) (ch m : Fin 4) (w : OpenWindow) (id : Nat) (r : Run), s.clocksRun → (s.pacer ch).wins.get m = some w →
    look s.runs id = some r → s.runsIn ch m = [id] → r.ch = ch.val → r.map = m.val → r.cls ∈ [1, 2, 3] →
    max s.now ((s.pacer ch).edge + w.stop) - r.start < r.wcet →
    Does (.windowClose ch m) s (fun t =>
      t.obj (killKey ch r.cls) = (s.obj (killKey ch r.cls) + 1) % 2 ^ 64 ∧
      t.obj (Obj.killedCycles ch) = (s.obj (Obj.killedCycles ch) + (max s.now ((s.pacer ch).edge + w.stop) - r.start)) % 2 ^ 64 ∧
      look t.runs id = none ∧ t.pubs = s.pubs ∧
      ∀ (q k : Nat) (x : Queue) (h : Head), s.queues = [(q, x)] → s.launches = [] → s.courses = [] → r.origin = .queue q k →
        x.head = some h → s.killCode r = none →
        ∃ y, look t.queues q = some y ∧ y.head = some { h with phase := .killed })) ∧
  (∀ (s : State) (id : Nat) (r : Run) (x : Context), s.clocksRun → look s.runs id = some r → r.cls ≠ 0 → r.start + r.wcet ≤ s.windowEnd r →
    look s.ctxs r.ctx = some x → x.state = .active →
    Does (.wcetOverrun id) s (fun t => look t.runs id = none ∧
      look t.ctxs r.ctx = some { x with state := .faulted, fault := FaultRec.mk eWcetOverrun (s.originQueue r.origin) (toCh r.ch).val (s.tick (toCh r.ch)) } ∧
      t.now = max s.now (r.start + r.wcet) ∧ ∀ q y, look t.queues q = some y → y.ctx = r.ctx → y.stopped = true))

/-- TP_LOAD on a READY channel that is ON starts the check of the program at TP_ADDR, with the objects as they stand, and
TP_STATUS shows it; a change that may no longer be replaced refuses it. A check that passes leaves the load waiting for its
tick, which for T = 0 is the next program frame boundary; one that fails shows its code with state 4 and raises attention, and
where a gang's members do not fit each other it ends the load of every one. A load whose tick has come before its check has
passed is refused with E_LATENCY_BOUND. -/
def Obligations.TickProgramLoad : Prop :=
  (∀ (s : State) (who : Req) (ch : Fin 4) (T : Nat), s.serves' who (Obj.tpLoad ch) → s.inPair ch = false →
    s.obj (Obj.chPstate ch) = 0 → s.ready ch = true → s.changeFixed ch = false →
    Does (.tpLoad who ch T) s (fun t =>
      t = (((s.setComp ch { s.comp ch with readNext := s.obj (Obj.compReadMax ch) }).setPacer ch { s.pacer ch with change := .checking T (s.obj (Obj.tpAddr ch)) (s.obj (Obj.displayCtx ch)) (s.obj (Obj.tpBaton ch)) (s.obj (Obj.pipeAddr ch)) }).setObj (Obj.tpStatus ch) 0x1000).accept (Obj.tpLoad ch))) ∧
  (∀ (s : State) (who : Req) (ch : Fin 4) (T : Nat), s.serves' who (Obj.tpLoad ch) → s.inPair ch = false →
    (s.obj (Obj.chPstate ch) ≠ 0 ∨ s.ready ch = false ∨ s.changeFixed ch = true) → Does (.tpLoad who ch T) s (fun t => t = s.refuse (Obj.tpLoad ch) rcBusy)) ∧
  (∀ (s : State) (ch : Fin 4) (T0 T a ctx b pa : Nat) (m : ModelFigures) (p : Program), s.clocksRun →
    (s.pacer ch).change = .checking T0 a ctx b pa → (T0 = 0 ∨ s.tick ch < T0) →
    T = (if T0 = 0 then max (s.nextBoundary ch) (s.tick ch + s.relay ch + 1) else T0) → s.checkProgram ch T a ctx b pa m = .ok p →
    Does (.loadCheckDone ch m) s (fun t => (t.pacer ch).change = .waiting T p ∧ (t.pacer ch).program = (s.pacer ch).program ∧
      t.obj (Obj.tpStatus ch) = 0x2000 ∧ t.mem = s.mem)) ∧
  (∀ (s : State) (ch : Fin 4) (T a ctx b pa code v mp w : Nat) (m : ModelFigures), s.clocksRun →
    (s.pacer ch).change = .checking T a ctx b pa → s.tick ch < T → s.checkProgram ch T a ctx b pa m = .error (code, v, mp, w) →
    (code ≠ ePipeFormat ∨ s.gangMisfit ch (s.checkGang ch (field (s.devRead a 64) 0x10 4)) ⟨s.devRead pa 0x68⟩ T = false) → s.marshal ≠ .updating →
    Does (.loadCheckDone ch m) s (fun t => (t.pacer ch).change = .none ∧ (t.pacer ch).program = (s.pacer ch).program ∧
      t.obj (Obj.tpStatus ch) = tpStatus code 4 v mp w ∧
      t.raised = raiseIn (0, s.attnEntry code ch (Obj.tpStatus ch) (tpStatus code 4 v mp w)) s.raised)) ∧
  (∀ (s : State) (ch n : Fin 4) (T a ctx b pa v mp w : Nat) (m : ModelFigures), s.clocksRun →
    (s.pacer ch).change = .checking T a ctx b pa → s.tick ch < T → s.checkProgram ch T a ctx b pa m = .error (ePipeFormat, v, mp, w) →
    s.gangMisfit ch (s.checkGang ch (field (s.devRead a 64) 0x10 4)) ⟨s.devRead pa 0x68⟩ T = true →
    n ∈ s.checkGang ch (field (s.devRead a 64) 0x10 4) → (n = ch ∨ (s.pacer n).change.loadAt T = true) →
    Does (.loadCheckDone ch m) s (fun t => (t.pacer n).change = .none ∧ (t.pacer n).program = (s.pacer n).program ∧
      bits (t.obj (Obj.tpStatus n)) 15 12 = 4 ∧ bits (t.obj (Obj.tpStatus n)) 31 16 = ePipeFormat)) ∧
  (∀ (s : State) (ch : Fin 4) (T a ctx b pa : Nat), s.clocksRun → (s.pacer ch).change = .checking T a ctx b pa → T ≠ 0 →
    T ≤ s.tick ch → Does (.tpSwitch ch) s (fun t => (t.pacer ch).change = .none ∧ (t.pacer ch).program = (s.pacer ch).program ∧
      t.obj (Obj.tpStatus ch) = tpStatus eLatency 4 0 0 0))

/-- At its tick a checked program starts with that tick as its tick 0, is shown as active with its digest and latency, and the
channel takes its service state, unless its memory has failed; changes of the same edge are taken first. TP_UNLOAD of an
active program, on the leader for its whole gang, is accepted for a later program frame boundary, the next one where T is 0;
and at that tick the program ends: no slot is left, TP_STATUS and TP_LATENCY read 0, INPUT_STATE is IDLE and the channel is
OFFLINE. -/
def Obligations.TickProgramSwitchAndUnload : Prop :=
  (∀ (s : State) (ch : Fin 4) (T : Nat) (p : Program), s.clocksRun → (s.pacer ch).change = .waiting T p → T ≤ s.tick ch →
    s.atEdge ch = true → s.applyDue ch = false → s.applyDue (s.paceOf ch) = false → s.gangDue ch = false → s.dpDue ch = false →
    Does (.tpSwitch ch) s (fun t => (t.pacer ch).change = .none ∧
      (t.pacer ch).program = some { p with start := s.tick ch, frames := 0, ofnBase := (s.obj (Obj.ofn ch) + 1) % 2 ^ 32 } ∧
      t.obj (Obj.tpStatus ch) = 0x3000 ∧ t.obj (Obj.tpLatency ch) = p.latency ∧ t.obj (Obj.class0Floor ch) = p.floorOpp ∧
      look t.octs (Obj.tpDigest ch) = some p.digest ∧ t.tick ch = s.tick ch ∧
      (t.comp ch).readMax = (s.comp ch).readNext ∧
      (s.outBy.get ch = none → if s.obj (Obj.memState ch) = 4 then t.svc ch = .offline else t.svc ch = .reduced ∨ t.svc ch = .inService))) ∧
  (∀ (s : State) (who : Req) (ch : Fin 4) (T : Nat), s.serves' who (Obj.tpUnload ch) → s.inPair ch = false →
    (s.pacer ch).program ≠ none → s.leaderOf ch = ch → (s.ownerSet ch).any s.changeFixed = false →
    (T = 0 ∨ (s.isBoundary ch T = true ∧ s.tick ch + 2 ≤ T)) →
    Does (.tpUnload who ch T) s (fun t =>
      (∀ m, t.pacer m = if m ∈ s.ownerSet ch
        then { s.pacer m with change := .unload (if T = 0 then s.nextBoundary ch else T) } else s.pacer m) ∧
      (∀ m ∈ s.ownerSet ch, (s.pacer m).program ≠ none → t.obj (Obj.tpStatus m) = 0x3000) ∧ t.mem = s.mem ∧ t.runs = s.runs ∧
      sameObjsBut s t (chans.map (fun m : Fin 4 => Obj.tpStatus m)))) ∧
  (∀ (s : State) (who : Req) (ch : Fin 4) (T : Nat), s.serves' who (Obj.tpUnload ch) → s.inPair ch = false →
    ((s.pacer ch).program = none ∨ s.leaderOf ch ≠ ch ∨ (s.ownerSet ch).any s.changeFixed = true) → Does (.tpUnload who ch T) s (fun t => t = s.refuse (Obj.tpUnload ch) rcBusy)) ∧
  (∀ (s : State) (who : Req) (ch : Fin 4) (T : Nat), s.serves' who (Obj.tpUnload ch) → s.inPair ch = false →
    (s.pacer ch).program ≠ none → s.leaderOf ch = ch → (s.ownerSet ch).any s.changeFixed = false → T ≠ 0 →
    (T < s.tick ch + 2 ∨ s.isBoundary ch T = false) →
    Does (.tpUnload who ch T) s (fun t => t = s.refuse (Obj.tpUnload ch) rcRange)) ∧
  (∀ (s : State) (ch : Fin 4) (T : Nat), s.clocksRun → (s.pacer ch).change = .unload T → T ≤ s.tick ch →
    s.atEdge ch = true → s.gangDue ch = false →
    Does (.tpUnloadEffect ch) s (fun t => (t.pacer ch).program = none ∧ (t.pacer ch).change = .none ∧ (t.pacer ch).slots = [] ∧
      t.obj (Obj.tpStatus ch) = 0 ∧ t.obj (Obj.tpLatency ch) = 0 ∧ t.obj (Obj.inputState ch) = 0 ∧ t.svc ch = .offline ∧
      (t.gangs.get ch).ctrl = 0 ∧ t.mem = s.mem ∧ t.runs = s.runs ∧ t.tick ch = s.tick ch))

/-- An engine fetches the next command of a queue's buffer: a command that passes its checks becomes the head, and one that faults
makes its context FAULTED with the code of the check. The errors its reads meet are counted, and one that cannot be corrected
faults the context with E_MEMORY_ERROR. A fetch that an open publication holds takes nothing. -/
def Obligations.EngineFetchesOrFaults : Prop :=
  (∀ (s u : State) (q : Nat) (ecc : Ecc) (x : Queue) (g f : Fetched), s.clocksRun → look s.queues q = some x → x.stopped = false →
    x.closing = false → s.ctxActive x.ctx = true → x.head = none → x.bufOff < x.bufBytes → ecc.bad = none → u = s.noteEcc (toCh x.ch) ecc →
    g = u.fetchAt x.ctx (toCh x.ch) x.engine x.cls (x.bufAddr + x.bufOff) (x.bufBytes - x.bufOff) →
    f = (u.touchFetch x x.engine (x.bufAddr + x.bufOff) g.size).stampFetched x.ctx (toCh x.ch) x.engine x.cls g → f.fault = 0 → f.code = 0 →
    (f.cmd.ring = false ∨ x.ring = 0) → f.cmd.waitEn = false → s.quiet →
    Does (.engineFetch q ecc) s (fun t => (∃ (y : Queue) (h : Head), look t.queues q = some y ∧ y.head = some h ∧ h.phase = .fetched ∧
      h.cmd = f.cmd ∧ y.bufOff = x.bufOff + f.size ∧ y.rptr = x.rptr) ∧
      t.mem = s.mem ∧ t.runs = s.runs ∧ t.ctxs = s.ctxs)) ∧
  (∀ (s u : State) (q : Nat) (ecc : Ecc) (x : Queue) (g f : Fetched) (c : Context), s.clocksRun → look s.queues q = some x → x.stopped = false →
    x.closing = false → look s.ctxs x.ctx = some c → c.state = .active → x.head = none → x.bufOff < x.bufBytes → ecc.bad = none →
    u = s.noteEcc (toCh x.ch) ecc →
    g = u.fetchAt x.ctx (toCh x.ch) x.engine x.cls (x.bufAddr + x.bufOff) (x.bufBytes - x.bufOff) →
    f = (u.touchFetch x x.engine (x.bufAddr + x.bufOff) g.size).stampFetched x.ctx (toCh x.ch) x.engine x.cls g → f.heldKey = none → f.fault ≠ 0 →
    (f.cmd.ring = false ∨ x.ring = 0) →
    Does (.engineFetch q ecc) s (fun t =>
      look t.ctxs x.ctx = some { c with state := .faulted, fault := FaultRec.mk f.fault q x.ch (s.tick (stampCh x.ch)) } ∧
      ∃ y, look t.queues q = some y ∧ y.stopped = true ∧ y.head = none)) ∧
  (∀ (s : State) (q : Nat) (ecc : Ecc) (x : Queue) (c : Context), s.clocksRun → look s.queues q = some x → x.stopped = false →
    x.closing = false → look s.ctxs x.ctx = some c → c.state = .active → ecc.bad ≠ none →
    Does (.engineFetch q ecc) s (fun t =>
      look t.ctxs x.ctx = some { c with state := .faulted, fault := FaultRec.mk eMemError q x.ch (s.tick (stampCh x.ch)) } ∧
      ∃ y, look t.queues q = some y ∧ y.stopped = true)) ∧
  (∀ (s u : State) (q k : Nat) (ecc : Ecc) (x : Queue) (g f : Fetched), s.clocksRun → look s.queues q = some x → x.stopped = false →
    x.closing = false → s.ctxActive x.ctx = true → x.head = none → x.bufOff < x.bufBytes → ecc.bad = none → u = s.noteEcc (toCh x.ch) ecc →
    g = u.fetchAt x.ctx (toCh x.ch) x.engine x.cls (x.bufAddr + x.bufOff) (x.bufBytes - x.bufOff) →
    f = (u.touchFetch x x.engine (x.bufAddr + x.bufOff) g.size).stampFetched x.ctx (toCh x.ch) x.engine x.cls g → f.heldKey = some k →
    (f.cmd.ring = false ∨ x.ring = 0) →
    Does (.engineFetch q ecc) s (fun t => t.queues = s.queues ∧ t.ctxs = s.ctxs ∧ t.mem = s.mem ∧ t.nextId = s.nextId))

/-- COMMAND_START starts the class 0 slot that is due, as a LAUNCH; and, where no slot is due, the first command that may start on
the engine, with WCET' at the clock the channel runs at. The corrected errors its reads met are counted and the reads that
open publications hold are noted first, and reservations are dropped and made before the choice. A command of another engine
that goes before it and shares a unit keeps it from starting; a time outside the present tick starts nothing. -/
def Obligations.CommandStarts : Prop :=
  (∀ (s u : State) (ch : Fin 4) (now i m : Nat) (ecc : Ecc) (sl : Slot) (c : Cmd) (w : OpenWindow), s.clocksRun → s.now ≤ now →
    (s.pacer ch).edge ≤ now → now < (s.pacer ch).edge + (s.pacer ch).len → ecc.bad = none → u = (s.noteEcc ch ecc).holdStarts ch 0 →
    (u.at now).readySlot ch 0 (now - (s.pacer ch).edge) = some (i, sl, c, m, w) → c.op = 1 → launchCheck c.body = 0 →
    i < (s.pacer ch).slots.length →
    Does (.commandStart ch .launch now ecc) s (fun t => (t.pacer ch).slots[i]? = some (.running s.nextId) ∧
      ∃ r, look t.runs s.nextId = some r ∧ r.origin = .slot ch.val (s.variantNow ch) i ∧ r.start = now ∧ r.cmd = c ∧ r.cls = 0 ∧
        r.finished = false ∧ t.now = now ∧ t.mem = s.mem)) ∧
  (∀ (s u v : State) (ch : Fin 4) (eng : Engine) (now m : Nat) (ecc : Ecc) (k : Cand) (w : OpenWindow), s.clocksRun → s.now ≤ now →
    (s.pacer ch).edge ≤ now → now < (s.pacer ch).edge + (s.pacer ch).len → ecc.bad = none → u = (s.noteEcc ch ecc).holdStarts ch (engNo eng) →
    (u.at now).readySlot ch (engNo eng) (now - (s.pacer ch).edge) = none → (s.lend.get ch).lending = false → (s.lend.get ch).backAt = none →
    (∀ a ∈ u.cands ch, a.eng = engNo eng → a.killed = false) →
    v = [1, 2, 3].foldl (fun x cls => x.addHold ch (u.cands ch) (now - (s.pacer ch).edge) cls) (u.dropHolds ch (u.cands ch)) →
    leastCand ((u.cands ch).filter (fun a => a.eng = engNo eng && v.mayStart ch (u.cands ch) (now - (s.pacer ch).edge) a)) = some k →
    v.windowAt ch k.units (now - (s.pacer ch).edge) = some (m, w) → k.cmd.op ≠ 5 →
    Does (.commandStart ch eng now ecc) s (fun t => ∃ r, look t.runs s.nextId = some r ∧ r.origin = k.origin ∧ r.start = now ∧
      r.cmd = k.cmd ∧ r.ctx = k.ctx ∧ r.units = k.units ∧ r.map = m ∧ r.window = w.index ∧ r.wcet = s.wcetCycles ch k.cmd.wcet ∧
      r.finished = false ∧ t.now = now ∧ t.mem = s.mem ∧ t.pubs = s.pubs)) ∧
  (∀ (s : State) (ch : Fin 4) (now : Nat) (a k : Cand), a ∈ s.cands ch → a.eng ≠ k.eng → a.meets k = true →
    s.canStart ch (s.cands ch) (now - (s.pacer ch).edge) a = true → s.candBefore ch a k = true →
    s.mayStart ch (s.cands ch) (now - (s.pacer ch).edge) k = false) ∧
  (∀ (s : State) (ch : Fin 4) (eng : Engine) (now : Nat) (ecc : Ecc), s.clocksRun →
    (now < s.now ∨ now < (s.pacer ch).edge ∨ (s.pacer ch).edge + (s.pacer ch).len ≤ now) →
    Does (.commandStart ch eng now ecc) s (fun t => t = s))

/-- Publication: a coherence point with a free entry accepts the OPEN marker of a finished command with the filter of its staged
lines, and one without makes it wait, counted once; once every point has accepted, the command seals before its window's end
and before WCET' cycles have passed, and its outputs stand in a publication, memory still unchanged by them; the first CLOSE
marker of a channel's points lands its bytes, but for a line its path has lost, which keeps what it held before and fails the
command, as a line that a later CLOSE loses does; and the end of the publication completes the command. Bytes for host memory
are discarded while the function may not master the bus. -/
def Obligations.PublicationOpensSealsClosesEnds : Prop :=
  (∀ (s : State) (id : Nat) (pt : CohPoint) (r : Run), s.clocksRun → look s.runs id = some r → r.finished = true →
    pt ∈ s.runPoints r → (r.opens.any (fun o => o.1 = pt)) = false → s.openAt pt true + s.openAt pt false < 64 →
    (r.cls = 0 ∨ s.openAt pt false < 48) → (r.opens ≠ [] ∨ s.links = []) →
    Does (.openMarker id pt) s (fun t => t = s.setRun id
      { r with opens := r.opens ++ [(pt, filterOf r.allStaged (pointCh pt))], peerOpen := if r.opens = [] then [] else r.peerOpen })) ∧
  (∀ (s : State) (id : Nat) (pt : CohPoint) (r : Run), s.clocksRun → look s.runs id = some r → r.finished = true →
    pt ∈ s.runPoints r → (r.opens.any (fun o => o.1 = pt)) = false →
    (64 ≤ s.openAt pt true + s.openAt pt false ∨ (r.cls ≠ 0 ∧ 48 ≤ s.openAt pt false)) → r.waited = false →
    Does (.openMarker id pt) s (fun t =>
      t = (s.bump (Obj.pubTableWaits (pointCh pt)) 1 32).setRun id { r with waited := true })) ∧
  (∀ (s : State) (id now q k : Nat) (ports : List Nat) (r : Run) (w : OpenWindow), s.clocksRun → look s.runs id = some r → r.finished = true →
    r.origin = .queue q k → s.now ≤ now → (s.pacer (toCh r.ch)).wins.get (toCh r.map) = some w →
    now < (s.pacer (toCh r.ch)).edge + w.stop → (r.cls = 0 ∨ now < r.start + r.wcet) → (∀ pt ∈ s.runPoints r, r.opens.any (fun o => o.1 = pt) = true) →
    (∀ x ∈ r.peerOpen, x.2 = true → x.1 ∈ ports) → r.defers = [] →
    Does (.commandSeal id now ports) s (fun t => look t.runs id = none ∧ t.now = now ∧ t.mem = s.mem ∧ (∀ g ∈ t.tags, g.run ≠ id) ∧
      ∃ p, look t.pubs id = some p ∧ p.cells = r.allStaged ∧ p.opens = r.opens ∧ p.status = r.status ∧ p.origin = r.origin)) ∧
  (∀ (s : State) (id now : Nat) (ports : List Nat) (r : Run), s.clocksRun → look s.runs id = some r →
    ((r.cls ≠ 0 ∧ r.start + r.wcet ≤ now) ∨ (∃ x ∈ r.peerOpen, x.2 = true ∧ x.1 ∉ ports)) →
    Does (.commandSeal id now ports) s (fun t => t = s)) ∧
  (∀ (s : State) (id now : Nat) (err : Ecc) (pt : CohPoint) (p : Pub), s.clocksRun → look s.pubs id = some p →
    (p.opens.any (fun o => o.1 = pt)) = true → (pointCh pt).val ∉ p.landed → p.defers = [] → Memory.wf s.mem = true →
    (∀ a, err.bad = some a → look p.prior (a / 64) = none) →
    Does (.closeMarker id pt now err) s (fun t =>
      (∀ b, t.byteAt b = if err.bad.map (fun a => a / 64) = some (b / 64) then s.byteAt b
        else readCell (writeCells s.mem (p.cells.filter (fun c => decide (c.1 < devEnd) && decide (chanOf c.1 = pointCh pt)))) b) ∧
      ∃ y, look t.pubs id = some y ∧ y.opens = p.opens.filter (fun o => o.1 ≠ pt) ∧ y.landed = (pointCh pt).val :: p.landed ∧
        y.cells = p.cells ∧ y.failed = if p.failed = 0 ∧ err.bad ≠ none then eMemError else p.failed)) ∧
  (∀ (s : State) (id now a : Nat) (err : Ecc) (pt : CohPoint) (p : Pub), s.clocksRun → look s.pubs id = some p →
    (p.opens.any (fun o => o.1 = pt)) = true → (pointCh pt).val ∈ p.landed → Memory.wf s.mem = true →
    (err.bad = none ∨ err.bad = some a) → (∀ bs, look p.prior (a / 64) = some bs → bs.length = 64) →
    Does (.closeMarker id pt now err) s (fun t =>
      (∀ b, t.byteAt b = if err.bad = some a ∧ b / 64 = a / 64 then ((look p.prior (a / 64)).map (fun l => l.getD (b % 64) 0)).getD (s.byteAt b)
        else s.byteAt b))) ∧
  (∀ (s : State) (id q k b : Nat) (p : Pub) (x : Queue) (y : Baton) (c : Nat), s.clocksRun → look s.pubs id = some p → p.opens = [] → p.peer = [] →
    p.failed = 0 → (p.cells.all (fun c => decide (c.1 < devEnd)) = true ∨ (s.pcieFn (s.ctxFn p.ctx)).busMaster = true) → p.claims = [] → p.origin = .queue q k → look s.queues q = some x → x.order = [⟨k, p.cmd, none⟩] → p.cmd.ring = false →
    p.cmd.signalEn = true → p.cmd.sigBaton = b → look s.batons b = some y → y.owner = some c → y.value < p.cmd.sigValue →
    p.cmd.sigValue < errValue → s.links = [] → s.quiet → look s.replays x.ctx = none →
    Does (.publicationEnd id) s (fun t => look t.pubs id = none ∧
      (∃ z, look t.queues q = some z ∧ z.order = []) ∧
      t.mem = writeCells s.mem (p.cells.filter (fun c => decide (devEnd ≤ c.1))) ∧
      look t.batons b = some { y with value := p.cmd.sigValue, lastSig := .queue q, lastTick := s.tick (stampCh x.ch) })) ∧
  (∀ (s : State) (id : Nat) (p : Pub), s.clocksRun → look s.pubs id = some p → p.opens = [] → p.peer = [] → p.origin = .slot p.ch 0 0 →
    (s.pcieFn (s.ctxFn p.ctx)).busMaster = false →
    Does (.publicationEnd id) s (fun t => look t.pubs id = none ∧ (p.cells.any (fun c => decide (devEnd ≤ c.1)) = true → t.mem = s.mem)))

/-- Integer add, subtract, multiply and multiply-add give each active lane the exact result, clamped in the saturating form and
otherwise wrapped, and change nothing but the destination register and the program counter of the group. -/
def Obligations.IntegerArithmetic : Prop :=
  (∀ (s : State) (g : GroupRef) (ty : IntTy) (sat : Bool) (d a b : Nat), s.clocksRun →
    s.issues g [(d, tyRegs ty), (a, tyRegs ty), (b, tyRegs ty)] = true →
    Does (.intAdd g ty sat d a b) s (fun t => ∃ x y, s.group g = some x ∧ t.group g = some y ∧
      (∀ l ∈ x.active, y.sval ty l d = intResult (tyBits ty) sat (x.sval ty l a + x.sval ty l b)) ∧ onlyRegs s t x y d (tyRegs ty))) ∧
  (∀ (s : State) (g : GroupRef) (ty : IntTy) (sat : Bool) (d a b : Nat), s.clocksRun →
    s.issues g [(d, tyRegs ty), (a, tyRegs ty), (b, tyRegs ty)] = true →
    Does (.intSubtract g ty sat d a b) s (fun t => ∃ x y, s.group g = some x ∧ t.group g = some y ∧
      (∀ l ∈ x.active, y.sval ty l d = intResult (tyBits ty) sat (x.sval ty l a - x.sval ty l b)) ∧ onlyRegs s t x y d (tyRegs ty))) ∧
  (∀ (s : State) (g : GroupRef) (ty : IntTy) (sat : Bool) (d a b : Nat), s.clocksRun →
    s.issues g [(d, tyRegs ty), (a, tyRegs ty), (b, tyRegs ty)] = true →
    Does (.intMultiply g ty sat d a b) s (fun t => ∃ x y, s.group g = some x ∧ t.group g = some y ∧
      (∀ l ∈ x.active, y.sval ty l d = intResult (tyBits ty) sat (x.sval ty l a * x.sval ty l b)) ∧ onlyRegs s t x y d (tyRegs ty))) ∧
  (∀ (s : State) (g : GroupRef) (ty : IntTy) (sat : Bool) (d a b c : Nat), s.clocksRun →
    s.issues g [(d, tyRegs ty), (a, tyRegs ty), (b, tyRegs ty), (c, tyRegs ty)] = true →
    Does (.intMultiplyAdd g ty sat d a b c) s (fun t => ∃ x y, s.group g = some x ∧ t.group g = some y ∧
      (∀ l ∈ x.active, y.sval ty l d = intResult (tyBits ty) sat (x.sval ty l a * x.sval ty l b + x.sval ty l c)) ∧
      onlyRegs s t x y d (tyRegs ty)))

/-- Shifts, bitwise logic, comparison and selection. A shift by less than the width is exact and wraps to the left, and is
arithmetic or logical to the right; a shift by the width or more runs, and only its result is open (log entry 11), the same
for equal operands. A comparison leaves 1 where its relation holds and 0 where not (log entry 12: the model's choice). -/
def Obligations.ShiftLogicCompareSelect : Prop :=
  (∀ (s : State) (g : GroupRef) (ty : IntTy) (k : ShiftKind) (d a b : Nat) (x : Group), s.clocksRun →
    s.issues g [(d, tyRegs ty), (a, tyRegs ty), (b, 1)] = true → s.group g = some x → (∀ l ∈ x.active, (x.reg l b).toNat < tyBits ty) →
    Does (.intShift g ty k d a b) s (fun t => ∃ y, t.group g = some y ∧
      (∀ l ∈ x.active, y.sval ty l d = intResult (tyBits ty) false (match k with
        | .left => x.sval ty l a * (2 ^ (x.reg l b).toNat : Nat)
        | .rightLogical => (x.val ty l a / 2 ^ (x.reg l b).toNat : Nat)
        | .rightArith => x.sval ty l a / (2 ^ (x.reg l b).toNat : Nat))) ∧ onlyRegs s t x y d (tyRegs ty))) ∧
  (∀ (s : State) (g : GroupRef) (ty : IntTy) (k : ShiftKind) (d a b : Nat) (x : Group), s.clocksRun →
    s.issues g [(d, tyRegs ty), (a, tyRegs ty), (b, 1)] = true → s.group g = some x →
    Does (.intShift g ty k d a b) s (fun t => ∃ y, t.group g = some y ∧ onlyRegs s t x y d (tyRegs ty) ∧
      ∀ l m, l ∈ x.active → m ∈ x.active → tyBits ty ≤ (x.reg l b).toNat → x.reg m b = x.reg l b → x.val ty m a = x.val ty l a →
        y.val ty m d = y.val ty l d)) ∧
  (∀ (s : State) (g : GroupRef) (ty : IntTy) (op : LogicOp) (d a b : Nat), s.clocksRun →
    s.issues g [(d, tyRegs ty), (a, tyRegs ty), (b, tyRegs ty)] = true →
    Does (.intLogic g ty op d a b) s (fun t => ∃ x y, s.group g = some x ∧ t.group g = some y ∧
      (∀ l ∈ x.active, BitVec.ofNat (tyBits ty) (y.val ty l d) = (match op with
        | .and => BitVec.ofNat (tyBits ty) (x.val ty l a) &&& BitVec.ofNat (tyBits ty) (x.val ty l b)
        | .or => BitVec.ofNat (tyBits ty) (x.val ty l a) ||| BitVec.ofNat (tyBits ty) (x.val ty l b)
        | .xor => BitVec.ofNat (tyBits ty) (x.val ty l a) ^^^ BitVec.ofNat (tyBits ty) (x.val ty l b)
        | .not => ~~~BitVec.ofNat (tyBits ty) (x.val ty l a))) ∧ onlyRegs s t x y d (tyRegs ty))) ∧
  (∀ (s : State) (g : GroupRef) (ty : IntTy) (op : CmpOp) (sgn : Bool) (d a b : Nat), s.clocksRun →
    s.issues g [(d, 1), (a, tyRegs ty), (b, tyRegs ty)] = true →
    Does (.intCompare g ty op sgn d a b) s (fun t => ∃ x y, s.group g = some x ∧ t.group g = some y ∧
      (∀ l ∈ x.active, y.reg l d = if cmpVal op (if sgn then x.sval ty l a else (x.val ty l a : Nat))
        (if sgn then x.sval ty l b else (x.val ty l b : Nat)) then 1 else 0) ∧ onlyRegs s t x y d 1)) ∧
  (∀ (s : State) (g : GroupRef) (ty : IntTy) (d p a b : Nat), s.clocksRun →
    s.issues g [(d, tyRegs ty), (p, 1), (a, tyRegs ty), (b, tyRegs ty)] = true →
    Does (.intSelect g ty d p a b) s (fun t => ∃ x y, s.group g = some x ∧ t.group g = some y ∧
      (∀ l ∈ x.active, y.sval ty l d = if x.reg l p ≠ 0 then x.sval ty l a else x.sval ty l b) ∧ onlyRegs s t x y d (tyRegs ty)))

/-- Conversions: widening extends by sign or zero, narrowing saturates; packing puts the low bits of each register in its element
of the word, element 0 lowest, and unpacking extends each element by its sign (log entry 13). -/
def Obligations.ConversionsAndBlockElements : Prop :=
  (∀ (s : State) (g : GroupRef) (src dst : IntTy) (sgn : Bool) (d a : Nat), s.clocksRun → tyBits src < tyBits dst →
    s.issues g [(d, tyRegs dst), (a, tyRegs src)] = true →
    Does (.widen g src dst sgn d a) s (fun t => ∃ x y, s.group g = some x ∧ t.group g = some y ∧
      (∀ l ∈ x.active, y.sval dst l d = if sgn then x.sval src l a else (x.val src l a : Nat)) ∧ onlyRegs s t x y d (tyRegs dst))) ∧
  (∀ (s : State) (g : GroupRef) (src dst : IntTy) (d a : Nat), s.clocksRun → tyBits dst < tyBits src →
    s.issues g [(d, tyRegs dst), (a, tyRegs src)] = true →
    Does (.narrow g src dst d a) s (fun t => ∃ x y, s.group g = some x ∧ t.group g = some y ∧
      (∀ l ∈ x.active, y.sval dst l d = intResult (tyBits dst) true (x.sval src l a)) ∧ onlyRegs s t x y d (tyRegs dst))) ∧
  (∀ (s : State) (g : GroupRef) (fmt : BlockFmt) (d a : Nat), s.clocksRun → s.issues g [(d, 1), (a, 32 / fmtBits fmt)] = true →
    Does (.blockElementPack g fmt d a) s (fun t => ∃ x y, s.group g = some x ∧ t.group g = some y ∧
      (∀ l ∈ x.active, ∀ i < 32 / fmtBits fmt,
        (y.reg l d).toNat / 2 ^ (fmtBits fmt * i) % 2 ^ fmtBits fmt = (x.reg l (a + i)).toNat % 2 ^ fmtBits fmt) ∧
      onlyRegs s t x y d 1)) ∧
  (∀ (s : State) (g : GroupRef) (fmt : BlockFmt) (d a : Nat), s.clocksRun → s.issues g [(d, 32 / fmtBits fmt), (a, 1)] = true →
    Does (.blockElementUnpack g fmt d a) s (fun t => ∃ x y, s.group g = some x ∧ t.group g = some y ∧
      (∀ l ∈ x.active, ∀ i < 32 / fmtBits fmt,
        (y.reg l (d + i)).toInt = signed (fmtBits fmt) ((x.reg l a).toNat / 2 ^ (fmtBits fmt * i))) ∧
      onlyRegs s t x y d (32 / fmtBits fmt)))

/-- Branches, calls and returns move the group, with reconvergence at the top entry's address. A divergent BRA runs the lanes that
fall through first and keeps the taken path and the reconvergence entry on the stack. RET with no call outstanding runs, and
only its address is open (log entry 14). EXIT ends the active lanes. -/
def Obligations.ControlFlow : Prop :=
  (∀ (s : State) (g : GroupRef) (mr : Bool) (p target reconv : Nat) (x : Group), s.clocksRun → s.issues g [(p, 1)] = true →
    s.group g = some x → (∀ l ∈ x.active, x.reg l p ≠ 0) →
    Does (.bra g mr p target reconv) s (fun t => t = { s with runs := t.runs } ∧ t.group g = some (x.goto target))) ∧
  (∀ (s : State) (g : GroupRef) (mr : Bool) (p target reconv : Nat) (x : Group), s.clocksRun → s.issues g [(p, 1)] = true →
    s.group g = some x → (∀ l ∈ x.active, x.reg l p = 0) →
    Does (.bra g mr p target reconv) s (fun t => t = { s with runs := t.runs } ∧ t.group g = some x.next)) ∧
  (∀ (s : State) (g : GroupRef) (p target reconv : Nat) (x : Group), s.clocksRun → s.issues g [(p, 1)] = true →
    s.group g = some x → (∃ l ∈ x.active, x.reg l p ≠ 0) → (∃ l ∈ x.active, x.reg l p = 0) → x.stack.length ≤ 30 → x.pc + 8 ≠ reconv →
    Does (.bra g false p target reconv) s (fun t => t = { s with runs := t.runs } ∧ ∃ y, t.group g = some y ∧ y.pc = x.pc + 8 ∧
      y.active = x.active.filter (fun l => x.reg l p = 0) ∧
      y.stack = StackEntry.mk reconv target (maskOf (x.active.filter (fun l => x.reg l p ≠ 0))) x.calls ::
        StackEntry.mk reconv reconv x.mask x.calls :: x.stack)) ∧
  (∀ (s : State) (g : GroupRef) (mr : Bool) (r reconv a : Nat) (x : Group), s.clocksRun → s.issues g [(r, 2)] = true →
    s.group g = some x → (∀ l ∈ x.active, x.pair l r = a) →
    Does (.brx g mr r reconv) s (fun t => t = { s with runs := t.runs } ∧ t.group g = some (x.goto a))) ∧
  (∀ (s : State) (g : GroupRef) (mr : Bool) (a reconv : Nat) (x : Group), s.clocksRun → s.issues g [] = true → s.group g = some x →
    Does (.call g mr (.direct a) reconv) s (fun t => t = { s with runs := t.runs } ∧
      t.group g = some ({ x with calls := (x.pc + 8) :: x.calls }.goto a))) ∧
  (∀ (s : State) (g : GroupRef) (x : Group) (a : Nat) (l : List Nat), s.clocksRun → s.issues g [] = true → s.group g = some x →
    x.calls = a :: l →
    Does (.ret g) s (fun t => t = { s with runs := t.runs } ∧ t.group g = some ({ x with calls := l }.goto a))) ∧
  (∀ (s : State) (g : GroupRef) (x : Group), s.clocksRun → s.issues g [] = true → s.group g = some x → x.calls = [] →
    Does (.ret g) s (fun t => t = { s with runs := t.runs } ∧ ∃ a, t.group g = some (x.goto a))) ∧
  (∀ (s : State) (g : GroupRef) (x : Group), s.clocksRun → s.issues g [] = true → s.group g = some x →
    Does (.exit g false) s (fun t => t = { s with runs := t.runs } ∧
      ∃ (r : Run) (b : Block) (y : Group), look t.runs g.run = some r ∧ r.block g.block = some b ∧ b.groups[g.group]? = some y ∧
        y.exited = x.exited ||| x.mask)) ∧
  (∀ (x : Group) (e : StackEntry), x.stack = [e] →
    (x.goto e.reconv).pc = e.addr ∧ (x.goto e.reconv).mask = e.mask &&& ~~~x.exited ∧ (x.goto e.reconv).stack = [] ∧
    (x.goto e.reconv).calls = e.calls)

/-- A special register reads its value of Table: Special registers in every active lane; CLOCK reads the tick number and the cycle
in relaxed order, and stops a command in strict order with E_VARYING_INPUT. -/
def Obligations.SpecialRegisters : Prop :=
  (∀ (s : State) (g : GroupRef) (sr : SpecialReg) (d now : Nat) (r : Run) (b : Block) (x : Group), s.clocksRun → sr ≠ .clock →
    s.issues g [(d, 1)] = true → s.findGroup g = some (r, b, x) → (∀ l ∈ x.active, specialValue g r b x l sr ≠ none) →
    Does (.readSpecialRegister g sr d now) s (fun t => ∃ y, t.group g = some y ∧ t.now = max s.now now ∧ t.mem = s.mem ∧
      (∀ l ∈ x.active, (y.reg l d).toNat = (match sr with
        | .lane => l
        | .group => g.group
        | .blockX => (if x.frag = none then b.index else 0) % lbGridX r.body
        | .blockY => (if x.frag = none then b.index else 0) / lbGridX r.body % lbGridY r.body
        | .blockZ => (if x.frag = none then b.index else 0) / lbGridX r.body / lbGridY r.body
        | .blockId => if x.frag = none then b.index else 0
        | .gridX => lbGridX r.body
        | .gridY => lbGridY r.body
        | .gridZ => lbGridZ r.body
        | .channel => r.ch
        | .context => r.ctx
        | .cls => r.cls
        | .strict => if r.strict then 1 else 0
        | _ => (specialValue g r b x l sr).getD 0) % 2 ^ 32) ∧
      ∀ l n, l < 32 → n < 256 → (l ∉ x.active ∨ n ≠ d) → y.reg l n = x.reg l n)) ∧
  (∀ (s : State) (g : GroupRef) (d now : Nat) (r : Run) (b : Block) (x : Group), s.clocksRun → s.issues g [(d, 3)] = true →
    s.findGroup g = some (r, b, x) → r.strict = false →
    Does (.readSpecialRegister g .clock d now) s (fun t => ∃ y, t.group g = some y ∧ t.now = max s.now now ∧ ∀ l ∈ x.active,
      y.pair l d = s.tick (toCh r.ch) % 2 ^ 64 ∧
      (y.reg l (d + 2)).toNat = (max s.now now - (s.pacer (toCh r.ch)).edge) % 2 ^ 32)) ∧
  (∀ (s : State) (g : GroupRef) (d now : Nat) (r : Run) (b : Block) (x : Group) (c : Context), s.clocksRun → s.issues g [(d, 3)] = true →
    s.findGroup g = some (r, b, x) → r.strict = true → r.cls ≠ 0 → look s.ctxs r.ctx = some c → c.state = .active →
    Does (.readSpecialRegister g .clock d now) s (fun t => look t.runs g.run = none ∧
      ∃ c', look t.ctxs r.ctx = some c' ∧ c'.state = .faulted ∧ c'.fault.code = eVarying))

/-- A load puts the bytes at each active lane's address in its registers: from the block's own storage, from that of a rank of its
cluster, from a render tile, and from global memory with the block's own staged bytes in place. A global load that an open
publication holds leaves the group waiting. A constant load reads the parameter block, and waits at its place where a
publication holds it. Nothing but the destination registers and the group's place changes, beside the caches and the counters
of accesses; a load that meets an uncorrectable error stops its command with E_MEMORY_ERROR. -/
def Obligations.Loads : Prop :=
  (∀ (s : State) (g : GroupRef) (size d a rank : Nat) (e : Ecc) (r : Run) (b : Block) (x : Group), s.clocksRun →
    s.issues g [(d, accessRegs size), (a, 1)] = true → s.findGroup g = some (r, b, x) → accessSize size = true →
    (∀ l ∈ x.active, (x.reg l a).toNat % size = 0 ∧ r.inBls (x.reg l a).toNat size = true) →
    Does (.ld g .blockLocal size d a rank e) s (fun t => ∃ y, t.group g = some y ∧ onlyRegs s t x y d (accessRegs size) ∧
      ∀ l ∈ x.active, y.words l d (accessRegs size) = leNat (b.blsRead (x.reg l a).toNat size))) ∧
  (∀ (s : State) (g : GroupRef) (size d a rank : Nat) (e : Ecc) (r : Run) (b home : Block) (x : Group), s.clocksRun →
    s.issues g [(d, accessRegs size), (a, 1)] = true → s.findGroup g = some (r, b, x) → accessSize size = true →
    rank < max (lbCluster r.body) 1 → r.rankBlock b rank = some home →
    (∀ l ∈ x.active, (x.reg l a).toNat % size = 0 ∧ r.inBls (x.reg l a).toNat size = true) →
    Does (.ld g .cluster size d a rank e) s (fun t => ∃ y, t.group g = some y ∧ onlyRegs s t x y d (accessRegs size) ∧
      ∀ l ∈ x.active, y.words l d (accessRegs size) = leNat (home.blsRead (x.reg l a).toNat size))) ∧
  (∀ (s : State) (g : GroupRef) (size d a rank : Nat) (e : Ecc) (r : Run) (b : Block) (x : Group) (p : Pass) (at' : Nat → Nat), s.clocksRun →
    s.issues g [(d, accessRegs size), (a, 1)] = true → s.findGroup g = some (r, b, x) → accessSize size = true → r.pass = some p →
    (∀ l ∈ x.active, tileKey (some p) x.frag l (x.reg l a).toNat size false = .ok (at' l)) →
    Does (.ld g .renderTile size d a rank e) s (fun t => ∃ y, t.group g = some y ∧ onlyRegs s t x y d (accessRegs size) ∧
      ∀ l ∈ x.active, y.words l d (accessRegs size) = leNat (readMem p.pix (at' l) size))) ∧
  (∀ (s : State) (g : GroupRef) (size d a rank : Nat) (r : Run) (b : Block) (x : Group) (e : Ecc) (at' : Nat → Nat), s.clocksRun →
    s.issues g [(d, accessRegs size), (a, 2)] = true → s.findGroup g = some (r, b, x) → accessSize size = true → e.bad = none →
    (∀ l ∈ x.active, x.pair l a % size = 0 ∧ s.isHeld (toCh r.ch) (at' l) = false ∧
      ∃ p q, s.translate (s.runXlat r (some b.core)) (x.pair l a) rightR = .ok (at' l, p, q)) →
    Does (.ld g .global size d a rank e) s (fun t => t.mem = s.mem ∧ t.pubs = s.pubs ∧ t.ctxs = s.ctxs ∧ sameObjsBut s t accessCounters ∧ ∃ y, t.group g = some y ∧
      (∀ l ∈ x.active, y.words l d (accessRegs size) = s.blockLoad b (at' l) size) ∧
      ∀ l n, l < 32 → n < 256 → (l ∉ x.active ∨ n < d ∨ d + accessRegs size ≤ n) → y.reg l n = x.reg l n)) ∧
  (∀ (s : State) (g : GroupRef) (size d a rank : Nat) (r : Run) (b : Block) (x : Group) (e : Ecc) (at' : Nat → Nat), s.clocksRun →
    s.issues g [(d, accessRegs size), (a, 2)] = true → s.findGroup g = some (r, b, x) → accessSize size = true → e.bad = none →
    (∀ l ∈ x.active, x.pair l a % size = 0 ∧ ∃ p q, s.translate (s.runXlat r (some b.core)) (x.pair l a) rightR = .ok (at' l, p, q)) →
    (∃ l ∈ x.active, s.isHeld (toCh r.ch) (at' l) = true) →
    Does (.ld g .global size d a rank e) s (fun t => t.mem = s.mem ∧ ∃ y, t.group g = some y ∧
      y.wait = .load d size (x.active.map (fun l => (l, at' l))) ∧ y.regs = x.regs)) ∧
  (∀ (s : State) (g : GroupRef) (size d a rank : Nat) (r : Run) (b : Block) (x : Group) (e : Ecc) (at' : Nat → Nat) (c : Context), s.clocksRun →
    s.issues g [(d, accessRegs size), (a, 2)] = true → s.findGroup g = some (r, b, x) → accessSize size = true → e.bad ≠ none →
    (∀ l ∈ x.active, x.pair l a % size = 0 ∧ ∃ p q, s.translate (s.runXlat r (some b.core)) (x.pair l a) rightR = .ok (at' l, p, q)) →
    r.cls ≠ 0 → look s.ctxs r.ctx = some c → c.state = .active →
    Does (.ld g .global size d a rank e) s (fun t => look t.runs g.run = none ∧
      ∃ c', look t.ctxs r.ctx = some c' ∧ c'.state = .faulted ∧ c'.fault.code = eMemError)) ∧
  (∀ (s : State) (g : GroupRef) (size d a l : Nat) (e : Ecc) (r : Run) (b : Block) (x : Group) (er k : Nat), s.clocksRun →
    s.issues g [(d, accessRegs size), (a, 1)] = true → s.findGroup g = some (r, b, x) → accessSize size = true → x.active = [l] →
    (x.reg l a).toNat % size = 0 → (x.reg l a).toNat + size ≤ field r.body 0x10 2 →
    s.loadV (s.runXlat r (some b.core)) (field r.body 0x08 8 + (x.reg l a).toNat) size = .error er → heldAt er = some k →
    Does (.constantLoad g size d a e) s (fun t => t.runs = s.runs ∧ t.mem = s.mem ∧ t.ctxs = s.ctxs)) ∧
  (∀ (s : State) (g : GroupRef) (size d a : Nat) (e : Ecc) (r : Run) (b : Block) (x : Group) (bytes : Nat → List Byte), s.clocksRun →
    s.issues g [(d, accessRegs size), (a, 1)] = true → s.findGroup g = some (r, b, x) → accessSize size = true →
    (∀ l ∈ x.active, (x.reg l a).toNat % size = 0 ∧ (x.reg l a).toNat + size ≤ field r.body 0x10 2 ∧
      s.loadV (s.runXlat r (some b.core)) (field r.body 0x08 8 + (x.reg l a).toNat) size = .ok (bytes l)) → e.bad = none →
    Does (.constantLoad g size d a e) s (fun t => t.mem = s.mem ∧ t.pubs = s.pubs ∧ t.ctxs = s.ctxs ∧ sameObjsBut s t accessCounters ∧
      ∃ y, t.group g = some y ∧ (∀ l n, l < 32 → n < 256 → (l ∉ x.active ∨ n < d ∨ d + accessRegs size ≤ n) → y.reg l n = x.reg l n) ∧
      ∀ l ∈ x.active, y.words l d (accessRegs size) = leNat (bytes l) % 2 ^ (32 * accessRegs size)))

/-- A store writes tile memory at once and stages a global store: each active lane's bytes stand at its address (of lanes that
overlap, the highest), every other byte of the storage is as before, and memory itself is unchanged. A store to a rank's
block-local storage, or to a render tile outside its depth, is made at once as well. -/
def Obligations.Stores : Prop :=
  (∀ (s : State) (g : GroupRef) (size v a rank : Nat) (r : Run) (b : Block) (x : Group), s.clocksRun →
    s.issues g [(v, accessRegs size), (a, 1)] = true → s.findGroup g = some (r, b, x) → accessSize size = true →
    (∀ l ∈ x.active, (x.reg l a).toNat % size = 0 ∧ r.inBls (x.reg l a).toNat size = true) →
    Does (.st g .blockLocal size v a rank) s (fun t => t = { s with runs := t.runs, tags := t.tags } ∧
      ∃ (r' : Run) (b' : Block) (y : Group), t.findGroup g = some (r', b', y) ∧ y.regs = x.regs ∧
      (∀ off, (∀ l ∈ x.active, off < (x.reg l a).toNat ∨ (x.reg l a).toNat + size ≤ off) → b'.blsByte off = b.blsByte off) ∧
      ∀ l ∈ x.active, (∀ m ∈ x.active, l < m → (x.reg m a).toNat + size ≤ (x.reg l a).toNat ∨ (x.reg l a).toNat + size ≤ (x.reg m a).toNat) →
        b'.blsRead (x.reg l a).toNat size = toLE size (x.data l v size))) ∧
  (∀ (s : State) (g : GroupRef) (size v a rank : Nat) (r : Run) (b : Block) (x : Group) (at' : Nat → Nat) (cells : List Host.Cell), s.clocksRun →
    s.issues g [(v, accessRegs size), (a, 2)] = true → s.findGroup g = some (r, b, x) → accessSize size = true →
    (∀ l ∈ x.active, x.pair l a % size = 0 ∧ ∃ p q, s.translate (s.runXlat r (some b.core)) (x.pair l a) rightW = .ok (at' l, p, q)) →
    cells = (x.active.map (fun l => (upto size).map (fun i => (at' l + i, ((toLE size (x.data l v size)).drop i).headD 0)))).flatten →
    r.commitUse b.core cells ≤ r.commitRoom →
    Does (.st g .global size v a rank) s (fun t => onlyAccess s t ∧
      ∃ (r' : Run) (b' : Block) (y : Group), t.findGroup g = some (r', b', y) ∧ y.regs = x.regs ∧ b'.staged = stage b.staged cells ∧
      b'.bls = b.bls)) ∧
  (∀ (s : State) (g : GroupRef) (size v a rank : Nat) (r : Run) (b home : Block) (x : Group), s.clocksRun →
    s.issues g [(v, accessRegs size), (a, 1)] = true → s.findGroup g = some (r, b, x) → accessSize size = true →
    rank < max (lbCluster r.body) 1 → r.rankBlock b rank = some home → home.index ≠ b.index →
    (∀ l ∈ x.active, (x.reg l a).toNat % size = 0 ∧ r.inBls (x.reg l a).toNat size = true) →
    Does (.st g .cluster size v a rank) s (fun t => t = { s with runs := t.runs, tags := t.tags } ∧
      ∃ (r' : Run) (h' b' : Block), look t.runs g.run = some r' ∧ r'.block home.index = some h' ∧ r'.block b.index = some b' ∧ b'.bls = b.bls ∧
      (∀ off, (∀ l ∈ x.active, off < (x.reg l a).toNat ∨ (x.reg l a).toNat + size ≤ off) → h'.blsByte off = home.blsByte off) ∧
      ∀ l ∈ x.active, (∀ m ∈ x.active, l < m → (x.reg m a).toNat + size ≤ (x.reg l a).toNat ∨ (x.reg l a).toNat + size ≤ (x.reg m a).toNat) →
        h'.blsRead (x.reg l a).toNat size = toLE size (x.data l v size))) ∧
  (∀ (s : State) (g : GroupRef) (size v a rank : Nat) (r : Run) (b : Block) (x : Group) (p : Pass) (at' : Nat → Nat), s.clocksRun →
    s.issues g [(v, accessRegs size), (a, 1)] = true → s.findGroup g = some (r, b, x) → accessSize size = true → r.pass = some p →
    (∀ l ∈ x.active, tileKey (some p) x.frag l (x.reg l a).toNat size true = .ok (at' l)) →
    Does (.st g .renderTile size v a rank) s (fun t => t = { s with runs := t.runs } ∧
      ∃ (r' : Run) (p' : Pass), look t.runs g.run = some r' ∧ r'.pass = some p' ∧
      (∀ k, (∀ l ∈ x.active, k < at' l ∨ at' l + size ≤ k) → readMem p'.pix k 1 = readMem p.pix k 1) ∧
      ∀ l ∈ x.active, (∀ m ∈ x.active, l < m → at' m + size ≤ at' l ∨ at' l + size ≤ at' m) →
        readMem p'.pix (at' l) size = toLE size (x.data l v size)))

/-- The atomics on a word of channel memory, and for the device-scope forms that R133 gives of host memory, and on a word of
block-local storage, the block's own or its cluster's: what each writes and what a fetch form returns; no other byte changes,
and no object but the counters of accesses. An atomic on a word that an open publication holds changes nothing and waits at
its place. In strict order the forms without a fetch run, and a fetch form above group scope stops its command. SADD and SSUB
saturate on arrival in relaxed order; in strict order those without a fetch are deferred, one operation of each lane, on
memory or on a word of block-local storage, and nothing they name changes until the seal. -/
def Obligations.AtomicOperations : Prop :=
  (∀ (s : State) (g : GroupRef) (f : AtomForm) (v : Nat),
    (atomGlobal s (.atomAdd g f v) g f f.fetch f.fetch true [v] (fun x l old => old + x.atomVal f l v) ∧
     atomLocal s (.atomAdd g f v) g f f.fetch true [v] (fun x l old => old + x.atomVal f l v)) ∧
    (atomGlobal s (.atomSub g f v) g f f.fetch false true [v] (fun x l old => old + 2 ^ (8 * AtomBytes f) - x.atomVal f l v) ∧
     atomLocal s (.atomSub g f v) g f f.fetch true [v] (fun x l old => old + 2 ^ (8 * AtomBytes f) - x.atomVal f l v)) ∧
    (atomGlobal s (.atomMin g f false v) g f f.fetch false true [v] (fun x l old => min old (x.atomVal f l v)) ∧
     atomLocal s (.atomMin g f false v) g f f.fetch true [v] (fun x l old => min old (x.atomVal f l v))) ∧
    (atomGlobal s (.atomMin g f true v) g f f.fetch false true [v] (fun x l old =>
       if atomSigned f (x.atomVal f l v) < atomSigned f old then x.atomVal f l v else old) ∧
     atomLocal s (.atomMin g f true v) g f f.fetch true [v] (fun x l old =>
       if atomSigned f (x.atomVal f l v) < atomSigned f old then x.atomVal f l v else old)) ∧
    (atomGlobal s (.atomMax g f false v) g f f.fetch false true [v] (fun x l old => max old (x.atomVal f l v)) ∧
     atomLocal s (.atomMax g f false v) g f f.fetch true [v] (fun x l old => max old (x.atomVal f l v))) ∧
    (atomGlobal s (.atomMax g f true v) g f f.fetch false true [v] (fun x l old =>
       if atomSigned f old < atomSigned f (x.atomVal f l v) then x.atomVal f l v else old) ∧
     atomLocal s (.atomMax g f true v) g f f.fetch true [v] (fun x l old =>
       if atomSigned f old < atomSigned f (x.atomVal f l v) then x.atomVal f l v else old)) ∧
    (atomGlobal s (.atomAnd g f v) g f f.fetch false true [v] (fun x l old => Nat.land old (x.atomVal f l v)) ∧
     atomLocal s (.atomAnd g f v) g f f.fetch true [v] (fun x l old => Nat.land old (x.atomVal f l v))) ∧
    (atomGlobal s (.atomOr g f v) g f f.fetch false true [v] (fun x l old => Nat.lor old (x.atomVal f l v)) ∧
     atomLocal s (.atomOr g f v) g f f.fetch true [v] (fun x l old => Nat.lor old (x.atomVal f l v))) ∧
    (atomGlobal s (.atomXor g f v) g f f.fetch false true [v] (fun x l old => Nat.xor old (x.atomVal f l v)) ∧
     atomLocal s (.atomXor g f v) g f f.fetch true [v] (fun x l old => Nat.xor old (x.atomVal f l v))) ∧
    (atomGlobal s (.atomExch g f v) g f true true true [v] (fun x l _ => x.atomVal f l v) ∧
     atomLocal s (.atomExch g f v) g f true true [v] (fun x l _ => x.atomVal f l v)) ∧
    (∀ cmp, atomGlobal s (.atomCas g f cmp v) g f true true true [cmp, v] (fun x l old => if old = x.atomVal f l cmp then x.atomVal f l v else old) ∧
      atomLocal s (.atomCas g f cmp v) g f true true [cmp, v] (fun x l old => if old = x.atomVal f l cmp then x.atomVal f l v else old))) ∧
  (∀ (s : State) (g : GroupRef) (f : AtomForm) (v : Nat) (r : Run) (b : Block) (x : Group), s.clocksRun →
    s.issues g (atomRegs f true [v]) = true → s.findGroup g = some (r, b, x) → f.fetch = true →
    ((f.space = .blockLocal ∧ f.scope = .block) ∨ (f.space = .cluster ∧ f.scope = .cluster) ∨
     (f.space = .global ∧ (f.scope = .device ∨ f.scope = .system))) → r.strict = true →
    ∀ i ∈ [Instr.atomAdd g f v, .atomSub g f v, .atomMin g f false v, .atomMax g f true v, .atomAnd g f v, .atomOr g f v, .atomXor g f v,
      .atomExch g f v, .atomSadd g f v, .atomSsub g f v], Does i s (fun t => t = s.faultRun g.run eVarying)) ∧
  (∀ (s : State) (g : GroupRef) (f : AtomForm) (v l k : Nat) (r : Run) (b : Block) (x : Group), s.clocksRun →
    s.issues g (atomRegs f f.fetch [v]) = true → s.findGroup g = some (r, b, x) → f.space = .global → f.scope = .device → r.strict = false →
    x.active = [l] → x.pair l f.addr % AtomBytes f = 0 → k < hostBase → s.isHeld (toCh r.ch) k = true →
    (∃ p q, s.translate (s.runXlat r (some b.core)) (x.pair l f.addr) rightA = .ok (k, p, q)) →
    ∀ i ∈ [Instr.atomAdd g f v, .atomSub g f v, .atomMin g f false v, .atomMax g f true v, .atomAnd g f v, .atomOr g f v, .atomXor g f v,
      .atomSadd g f v, .atomSsub g f v], Does i s (fun t => t.runs = s.runs ∧ t.mem = s.mem ∧ t.ctxs = s.ctxs)) ∧
  (∀ (s : State) (g : GroupRef) (f : AtomForm) (v : Nat) (sub : Bool),
    let i : Instr := if sub then .atomSsub g f v else .atomSadd g f v
    let op (x : Group) (l old : Nat) : Nat := unsigned (8 * AtomBytes f) (intResult (8 * AtomBytes f) true
      (if sub then atomSigned f old - atomSigned f (x.atomVal f l v) else atomSigned f old + atomSigned f (x.atomVal f l v)))
    atomGlobal s i g f f.fetch false false [v] op ∧ atomLocal s i g f f.fetch false [v] op) ∧
  (∀ (s : State) (g : GroupRef) (f : AtomForm) (v : Nat) (r : Run) (b : Block) (x : Group) (at' : Nat → Nat) (sub : Bool), s.clocksRun →
    s.issues g (atomRegs f false [v]) = true → s.findGroup g = some (r, b, x) → r.strict = true → f.fetch = false → f.space = .global →
    (f.scope = .device ∨ f.scope = .system) → (∀ l ∈ x.active, x.pair l f.addr % AtomBytes f = 0 ∧ at' l < hostBase ∧
      ∃ p q, s.translate (s.runXlat r (some b.core)) (x.pair l f.addr) rightA = .ok (at' l, p, q)) →
    r.deferCount + x.active.length ≤ 65536 →
    ({ r with defers := r.defers ++ x.active.map (fun l => Defer.mk b.index g.group l x.issued
        (if sub then .ssub f.is64 else .sadd f.is64) none (at' l) (x.atomVal f l v) 0) } : Run).commitUse b.core [] ≤ r.commitRoom →
    Does (if sub then .atomSsub g f v else .atomSadd g f v) s (fun t => onlyAccess s t ∧
      ∃ r', look t.runs g.run = some r' ∧ r'.defers = r.defers ++ x.active.map (fun l => Defer.mk b.index g.group l x.issued
        (if sub then .ssub f.is64 else .sadd f.is64) none (at' l) (x.atomVal f l v) 0))) ∧
  (∀ (s : State) (g : GroupRef) (f : AtomForm) (v : Nat) (r : Run) (b : Block) (x : Group) (sub : Bool), s.clocksRun →
    s.issues g (atomRegs f false [v]) = true → s.findGroup g = some (r, b, x) → r.strict = true → f.fetch = false → f.space = .blockLocal →
    (f.scope = .group ∨ f.scope = .block) →
    (∀ l ∈ x.active, (x.reg l f.addr).toNat % AtomBytes f = 0 ∧ r.inBls (x.reg l f.addr).toNat (AtomBytes f) = true) →
    r.deferCount + x.active.length ≤ 65536 →
    ({ r with defers := r.defers ++ x.active.map (fun l => Defer.mk b.index g.group l x.issued
        (if sub then .ssub f.is64 else .sadd f.is64) (some b.index) (x.reg l f.addr).toNat (x.atomVal f l v) 0) } : Run).commitUse b.core [] ≤ r.commitRoom →
    Does (if sub then .atomSsub g f v else .atomSadd g f v) s (fun t => t = { s with runs := t.runs } ∧
      ∃ (r' : Run) (b' : Block), look t.runs g.run = some r' ∧ r'.block b.index = some b' ∧ b'.bls = b.bls ∧
        r'.defers = r.defers ++ x.active.map (fun l => Defer.mk b.index g.group l x.issued
          (if sub then .ssub f.is64 else .sadd f.is64) (some b.index) (x.reg l f.addr).toNat (x.atomVal f l v) 0)))

/-- Locks: EXCH.LOCK and CAS.LOCK by one lane acquire a word that stands at 0 (or at the compared value), write it and tag it for
their holder; UNLOCK writes 0 and its tag goes. The record of a sibling wait that began first expires first; one that expires
with a further failure faults the context of the holder with E_SIBLING_WAIT, and otherwise only drops its record. -/
def Obligations.Locks : Prop :=
  (∀ (s : State) (g : GroupRef) (f : AtomForm) (v now l k : Nat) (r : Run) (b : Block) (x : Group), s.clocksRun →
    s.issues g (atomRegs f true [v]) = true → s.findGroup g = some (r, b, x) → f.ecc.bad = none → f.space = .global → f.scope = .device → r.strict = false →
    x.active = [l] → x.pair l f.addr % AtomBytes f = 0 → k < hostBase → s.isHeld (toCh r.ch) k = false →
    (∃ p q, s.translate (s.runXlat r (some b.core)) (x.pair l f.addr) rightA = .ok (k, p, q)) → s.readNat k (AtomBytes f) = 0 →
    x.atomVal f l v ≠ 0 → (s.tags.filter (fun t => t.unit = .channel (toCh r.ch))).length < 1024 →
    Does (.atomExchLock g f v now) s (fun t => t.readNat k (AtomBytes f) = x.atomVal f l v ∧
      Tag.mk (.channel (toCh r.ch)) k none f.is64 g.run r.ctx b.core g.block g.group l none false ∈ t.tags ∧
      (∀ a, a < k ∨ k + AtomBytes f ≤ a → t.byteAt a = s.byteAt a) ∧
      ∃ y, t.group g = some y ∧ y.words l f.dst (AtomBytes f / 4) = 0)) ∧
  (∀ (s : State) (g : GroupRef) (f : AtomForm) (cmp v now l k : Nat) (r : Run) (b : Block) (x : Group), s.clocksRun →
    s.issues g (atomRegs f true [cmp, v]) = true → s.findGroup g = some (r, b, x) → f.ecc.bad = none → f.space = .global → f.scope = .device →
    r.strict = false → x.active = [l] → x.pair l f.addr % AtomBytes f = 0 → k < hostBase → s.isHeld (toCh r.ch) k = false →
    (∃ p q, s.translate (s.runXlat r (some b.core)) (x.pair l f.addr) rightA = .ok (k, p, q)) → s.readNat k (AtomBytes f) = x.atomVal f l cmp →
    x.atomVal f l v ≠ 0 → (s.tags.filter (fun t => t.unit = .channel (toCh r.ch))).length < 1024 →
    Does (.atomCasLock g f cmp v now) s (fun t => t.readNat k (AtomBytes f) = x.atomVal f l v ∧
      Tag.mk (.channel (toCh r.ch)) k none f.is64 g.run r.ctx b.core g.block g.group l none false ∈ t.tags ∧
      (∀ a, a < k ∨ k + AtomBytes f ≤ a → t.byteAt a = s.byteAt a) ∧
      ∃ y, t.group g = some y ∧ y.words l f.dst (AtomBytes f / 4) = x.atomVal f l cmp)) ∧
  (∀ (s : State) (g : GroupRef) (f : AtomForm) (cmp v now l k : Nat) (r : Run) (b : Block) (x : Group), s.clocksRun →
    s.issues g (atomRegs f true [cmp, v]) = true → s.findGroup g = some (r, b, x) → f.ecc.bad = none → f.space = .global → f.scope = .device →
    r.strict = false → x.active = [l] → x.pair l f.addr % AtomBytes f = 0 → k < hostBase → s.isHeld (toCh r.ch) k = false →
    (∃ p q, s.translate (s.runXlat r (some b.core)) (x.pair l f.addr) rightA = .ok (k, p, q)) → s.readNat k (AtomBytes f) ≠ x.atomVal f l cmp →
    Does (.atomCasLock g f cmp v now) s (fun t => t.mem = s.mem ∧
      ∃ y, t.group g = some y ∧ y.words l f.dst (AtomBytes f / 4) = s.readNat k (AtomBytes f))) ∧
  (∀ (s : State) (g : GroupRef) (f : AtomForm) (l k : Nat) (r : Run) (b : Block) (x : Group), s.clocksRun →
    s.issues g (atomRegs f false []) = true → s.findGroup g = some (r, b, x) → f.ecc.bad = none → f.space = .global → f.scope = .device →
    x.active = [l] → x.pair l f.addr % AtomBytes f = 0 → k < hostBase → s.isHeld (toCh r.ch) k = false →
    (∃ p q, s.translate (s.runXlat r (some b.core)) (x.pair l f.addr) rightA = .ok (k, p, q)) →
    Does (.atomUnlock g f) s (fun t => t.readNat k (AtomBytes f) = 0 ∧ (∀ u ∈ t.tags, u.home = none → u.addr = k → u.is64 ≠ f.is64) ∧
      ∀ a, a < k ∨ k + AtomBytes f ≤ a → t.byteAt a = s.byteAt a)) ∧
  (∀ (s : State) (u : TagUnit) (addr : Nat) (w : Tag), s.clocksRun →
    firstTag (s.tags.filter (fun t => t.unit = u && t.addr = addr && t.t0 ≠ none)) = some w → w.further = false →
    Does (.siblingWaitExpiry u addr) s (fun t => t = { s.at (w.t0.getD 0 + 4096) with
      tags := s.tags.map (fun x => if x = w then { x with t0 := none, further := false } else x) })) ∧
  (∀ (s : State) (u : TagUnit) (addr : Nat) (w : Tag) (r : Run) (c : Context), s.clocksRun →
    firstTag (s.tags.filter (fun t => t.unit = u && t.addr = addr && t.t0 ≠ none)) = some w → w.further = true → look s.runs w.run = some r →
    r.cls ≠ 0 → look s.ctxs r.ctx = some c → c.state = .active →
    Does (.siblingWaitExpiry u addr) s (fun t => look t.runs w.run = none ∧
      ∃ c', look t.ctxs r.ctx = some c' ∧ c'.state = .faulted ∧ c'.fault.code = eSibling))

/-- APPEND.G of one lane in relaxed order: below the capacity it takes the count as index, stores the value in that entry and
counts one; a full list answers 0xFFFF_FFFF, counts the drop in the list and in APPEND_DROPS, and stores nothing else. In
strict order one operation of each lane is deferred to the seal. Fences move the group on and change nothing else, for every
access of a group is made in program order (log entry 16); FENCE.S also drops the die L2's host lines of the address space. -/
def Obligations.AppendsAndFences : Prop :=
  (∀ (s u : State) (g : GroupRef) (desc v d l k ek : Nat) (e : Ecc) (r : Run) (b : Block) (x : Group), s.clocksRun →
    s.issues g [(desc, 2), (v, 2), (d, 1)] = true → s.findGroup g = some (r, b, x) → r.strict = false → x.active = [l] →
    e.bad = none → x.pair l desc % 32 = 0 → k < hostBase → s.isHeld (toCh r.ch) k = false → (∃ p q, s.translate (s.runXlat r (some b.core)) (x.pair l desc) rightA = .ok (k, p, q)) →
    appendOk (s.read k 32) = true → field (s.read k 32) 0x0C 4 < field (s.read k 32) 0x08 4 →
    u = (s.noteEcc (toCh r.ch) e).lookups r (some b.core) [x.pair l desc] →
    (∃ p q, u.translate (s.runXlat r (some b.core)) (field (s.read k 32) 0 8 +
      (if field (s.read k 32) 0x14 1 = 1 then 8 else 4) * field (s.read k 32) 0x0C 4) rightW = .ok (ek, p, q)) →
    Does (.appendG g desc v d e) s (fun t => (∃ y, t.group g = some y ∧ (y.reg l d).toNat = field (s.read k 32) 0x0C 4) ∧
      t.mem = writeMem (writeMem s.mem (k + 0x0C) (toLE 4 (field (s.read k 32) 0x0C 4 + 1))) ek
        (if field (s.read k 32) 0x14 1 = 1 then toLE 8 (x.pair l v) else toLE 4 (x.reg l v).toNat) ∧ sameObjsBut s t accessCounters)) ∧
  (∀ (s : State) (g : GroupRef) (desc v d l k : Nat) (e : Ecc) (r : Run) (b : Block) (x : Group), s.clocksRun →
    s.issues g [(desc, 2), (v, 2), (d, 1)] = true → s.findGroup g = some (r, b, x) → r.strict = false → x.active = [l] →
    e.bad = none → x.pair l desc % 32 = 0 → k < hostBase → s.isHeld (toCh r.ch) k = false → (∃ p q, s.translate (s.runXlat r (some b.core)) (x.pair l desc) rightA = .ok (k, p, q)) →
    appendOk (s.read k 32) = true → field (s.read k 32) 0x08 4 ≤ field (s.read k 32) 0x0C 4 →
    Does (.appendG g desc v d e) s (fun t => (∃ y, t.group g = some y ∧ y.reg l d = 0xFFFFFFFF) ∧
      t.mem = writeMem s.mem (k + 0x10) (toLE 4 (field (s.read k 32) 0x10 4 + 1)) ∧
      t.obj (Obj.appendDrops (chanOf k)) = (s.obj (Obj.appendDrops (chanOf k)) + 1) % 2 ^ 64 ∧
      sameObjsBut s t (Obj.appendDrops (chanOf k) :: accessCounters))) ∧
  (∀ (s : State) (g : GroupRef) (desc v d : Nat) (e : Ecc) (r : Run) (b : Block) (x : Group) (key : Nat → Nat) (ds : List Defer), s.clocksRun →
    s.issues g [(desc, 2), (v, 2), (d, 1)] = true → s.findGroup g = some (r, b, x) → r.strict = true → e.bad = none →
    (∀ l ∈ x.active, x.pair l desc % 32 = 0 ∧ key l < hostBase ∧ s.isHeld (toCh r.ch) (key l) = false ∧ appendOk (s.read (key l) 32) = true ∧
      ∃ p q, s.translate (s.runXlat r (some b.core)) (x.pair l desc) rightA = .ok (key l, p, q)) →
    ds = x.active.map (fun l => Defer.mk b.index g.group l x.issued .append none (key l)
      (if field (s.read (key l) 32) 0x14 1 = 1 then x.pair l v else (x.reg l v).toNat) 0) →
    r.deferCount + x.active.length ≤ 65536 → ({ r with defers := r.defers ++ ds } : Run).commitUse b.core [] ≤ r.commitRoom →
    Does (.appendG g desc v d e) s (fun t => onlyAccess s t ∧ t.mem = s.mem ∧ ∃ r', look t.runs g.run = some r' ∧ r'.defers = r.defers ++ ds)) ∧
  (∀ (s : State) (g : GroupRef) (x : Group) (i : Instr), s.clocksRun → s.issues g [] = true → s.group g = some x →
    i ∈ [Instr.fenceG g, Instr.fenceB g, Instr.fenceC g, Instr.fenceD g] →
    Does i s (fun t => t = { s with runs := t.runs } ∧ t.group g = some x.next)) ∧
  (∀ (s : State) (g : GroupRef) (r : Run) (b : Block) (x : Group), s.clocksRun → s.issues g [] = true → s.findGroup g = some (r, b, x) →
    Does (.fenceS g) s (fun t => t = { s with runs := t.runs, caches := t.caches } ∧ t.group g = some x.next ∧
      ∀ (i : Fin 4) (n : Nat) (c : CacheLine), (n, c) ∈ ((t.caches.get (toCh r.ch)).l2.get i).lines →
        c.line * 64 < devEnd ∨ c.asid ≠ r.asid))

/-- Barriers and COMMIT: a group that arrives waits while another live group of its block (its cluster) has not arrived, and the
last one lets all go on; the COMMIT of a block's only group ends the block with its status. A group not all of whose live
lanes are active stops its command with E_DIVERGED_BARRIER; a group that ends counts as arrived. -/
def Obligations.BarriersAndCommit : Prop :=
  (∀ (s : State) (g : GroupRef) (n : Nat) (r : Run) (b : Block) (x z : Group) (j : Nat), s.clocksRun → s.issues g [] = true →
    s.findGroup g = some (r, b, x) → n < 16 → x.converged = true → j ≠ g.group → b.groups[j]? = some z → z.dead = false → z.wait ≠ .barB n →
    Does (.barB g n) s (fun t => t = { s with runs := t.runs } ∧ ∃ y, t.group g = some y ∧ y.wait = .barB n ∧ y.regs = x.regs)) ∧
  (∀ (s : State) (g : GroupRef) (n : Nat) (r : Run) (b : Block) (x : Group), s.clocksRun → s.issues g [] = true →
    s.findGroup g = some (r, b, x) → n < 16 → x.converged = true →
    (∀ j z, j ≠ g.group → b.groups[j]? = some z → z.dead = true ∨ z.wait = .barB n) →
    Does (.barB g n) s (fun t => ∃ (r' : Run) (b' : Block), look t.runs g.run = some r' ∧ r'.block g.block = some b' ∧
      ∀ z ∈ b'.groups, z.wait ≠ .barB n)) ∧
  (∀ (s : State) (g : GroupRef) (n : Nat) (r : Run) (b : Block) (x : Group) (c : Context), s.clocksRun → s.issues g [] = true →
    s.findGroup g = some (r, b, x) → n < 16 → x.converged = false → r.cls ≠ 0 → look s.ctxs r.ctx = some c → c.state = .active →
    Does (.barB g n) s (fun t => look t.runs g.run = none ∧
      ∃ c', look t.ctxs r.ctx = some c' ∧ c'.state = .faulted ∧ c'.fault.code = eDivBarrier)) ∧
  (∀ (s : State) (g : GroupRef) (n : Nat) (x : Group), s.clocksRun → s.issues g [] = true → s.group g = some x → n < 16 → x.converged = false →
    Does (.barB g n) s (fun t => t = s.faultRun g.run eDivBarrier)) ∧
  (∀ (s : State) (g : GroupRef) (n : Nat) (r : Run) (b : Block) (x : Group), s.clocksRun → s.issues g [] = true →
    s.findGroup g = some (r, b, x) → n < 16 → x.exited ||| x.mask = 0xFFFFFFFF →
    (∀ j z, j ≠ g.group → b.groups[j]? = some z → z.dead = true ∨ z.wait = .barB n) →
    Does (.exit g false) s (fun t => ∃ (r' : Run) (b' : Block), look t.runs g.run = some r' ∧ r'.block g.block = some b' ∧
      ∀ z ∈ b'.groups, z.wait ≠ .barB n)) ∧
  (∀ (s : State) (g : GroupRef) (r : Run) (b b2 : Block) (x z : Group), s.clocksRun → s.issues g [] = true →
    s.findGroup g = some (r, b, x) → x.converged = true → b2 ∈ r.clusterOf b.index → b2.index ≠ b.index → z ∈ b2.groups →
    z.dead = false → z.wait ≠ .barC →
    Does (.barC g) s (fun t => t = { s with runs := t.runs } ∧ ∃ y, t.group g = some y ∧ y.wait = .barC ∧ y.regs = x.regs)) ∧
  (∀ (s : State) (g : GroupRef) (r : Run) (b : Block) (x : Group), s.clocksRun → s.issues g [] = true →
    s.findGroup g = some (r, b, x) → x.converged = true → lbCluster r.body ≤ 1 → r.blocks = [b] → b.groups = [x] →
    Does (.barC g) s (fun t => ∃ y, t.group g = some y ∧ y.wait = .none ∧ y.regs = x.regs)) ∧
  (∀ (s : State) (g : GroupRef) (st : Nat) (r : Run) (b : Block) (x z : Group) (j : Nat), s.clocksRun → s.issues g [] = true →
    s.findGroup g = some (r, b, x) → x.frag = none → x.converged = true → j ≠ g.group → b.groups[j]? = some z → z.dead = false →
    (∀ n, z.wait ≠ .commit n) → (∀ n, z.wait ≠ .barB n) → z.wait ≠ .barC →
    Does (.commit g st) s (fun t => t = { s with runs := t.runs } ∧ ∃ y, t.group g = some y ∧ y.wait = .commit (st % 65536))) ∧
  (∀ (s : State) (g : GroupRef) (st : Nat) (r : Run) (b : Block) (x : Group), s.clocksRun → s.issues g [] = true →
    s.findGroup g = some (r, b, x) → x.frag = none → x.converged = true → b.groups = [x] →
    Does (.commit g st) s (fun t => ∃ (r' : Run) (b' : Block), look t.runs g.run = some r' ∧ r'.block g.block = some b' ∧
      b'.committed = some (some (st % 65536)) ∧ b'.staged = b.staged))

/-- Allocator calls of one lane: ALLOC returns the address of the place found and records it for the command, or 0 where there is
none, counting the failure; ALLOC.F stops the command with E_POOL instead. FREE returns an allocation of the same command at
once, and leaves one of the context to the seal. A call whose reads of the allocator's metadata meet an uncorrectable error
stops its command with E_MEMORY_ERROR. -/
def Obligations.AllocatorCalls : Prop :=
  (∀ (s : State) (g : GroupRef) (d size align l pa : Nat) (e : Ecc) (r : Run) (b : Block) (x : Group) (must : Bool), s.clocksRun → e.bad = none →
    s.issues g [(d, 2)] = true → s.findGroup g = some (r, b, x) → allocArgs size align = true → r.calls < lbAllocMax r.body →
    s.memUp (toCh r.ch) = true → x.active = [l] → r.gen.allocEn = true → s.place r.asid (toCh r.ch) size align = some pa →
    r.gen.allocVa + pa ≠ 0 →
    Does (if must then .allocF g d size align e else .alloc g d size align e) s (fun t =>
      (∃ y, t.group g = some y ∧ y.pair l d = (r.gen.allocVa + pa) % 2 ^ 64) ∧
      (∃ al, look (t.allocs.get (toCh r.ch)).allocs pa = some al ∧ al.size = heldBytes size ∧ al.asid = r.asid ∧ al.ctx = r.ctx ∧ al.prov = some g.run) ∧
      t.obj (Obj.allocCalls (toCh r.ch)) = (s.obj (Obj.allocCalls (toCh r.ch)) + 1) % 2 ^ 64 ∧
      sameObjsBut s t (Obj.allocCalls (toCh r.ch) :: accessCounters))) ∧
  (∀ (s : State) (g : GroupRef) (d size align l : Nat) (e : Ecc) (r : Run) (b : Block) (x : Group), s.clocksRun → e.bad = none →
    s.issues g [(d, 2)] = true → s.findGroup g = some (r, b, x) → allocArgs size align = true → r.calls < lbAllocMax r.body →
    s.memUp (toCh r.ch) = true → x.active = [l] → s.place r.asid (toCh r.ch) size align = none →
    Does (.alloc g d size align e) s (fun t => (∃ y, t.group g = some y ∧ y.pair l d = 0) ∧ t.mem = s.mem ∧ t.allocs = s.allocs ∧
      t.obj (Obj.allocFails (toCh r.ch)) = (s.obj (Obj.allocFails (toCh r.ch)) + 1) % 2 ^ 32)) ∧
  (∀ (s : State) (g : GroupRef) (d size align l : Nat) (e : Ecc) (r : Run) (b : Block) (x : Group) (c : Context), s.clocksRun → e.bad = none →
    s.issues g [(d, 2)] = true → s.findGroup g = some (r, b, x) → allocArgs size align = true → r.calls < lbAllocMax r.body →
    s.memUp (toCh r.ch) = true → x.active = [l] → s.place r.asid (toCh r.ch) size align = none → r.cls ≠ 0 →
    look s.ctxs r.ctx = some c → c.state = .active →
    Does (.allocF g d size align e) s (fun t => look t.runs g.run = none ∧
      ∃ c', look t.ctxs r.ctx = some c' ∧ c'.state = .faulted ∧ c'.fault.code = ePool)) ∧
  (∀ (s : State) (g : GroupRef) (a l : Nat) (e : Ecc) (r : Run) (b : Block) (x : Group) (al : Alloc), s.clocksRun → s.issues g [(a, 2)] = true →
    e.bad = none → s.findGroup g = some (r, b, x) → s.memUp (toCh r.ch) = true → x.active = [l] → r.gen.allocEn = true → r.gen.allocVa ≤ x.pair l a →
    look (s.allocs.get (toCh r.ch)).allocs (x.pair l a - r.gen.allocVa) = some al → al.ctx = r.ctx → al.kv = false → al.prov = some g.run →
    Does (.free g a e) s (fun t => look (t.allocs.get (toCh r.ch)).allocs (x.pair l a - r.gen.allocVa) = none ∧ sameObjsBut s t accessCounters ∧
      ∃ y, t.group g = some y ∧ y.regs = x.regs)) ∧
  (∀ (s : State) (g : GroupRef) (a l : Nat) (e : Ecc) (r : Run) (b : Block) (x : Group) (al : Alloc), s.clocksRun → s.issues g [(a, 2)] = true →
    e.bad = none → s.findGroup g = some (r, b, x) → s.memUp (toCh r.ch) = true → x.active = [l] → r.gen.allocEn = true → r.gen.allocVa ≤ x.pair l a →
    look (s.allocs.get (toCh r.ch)).allocs (x.pair l a - r.gen.allocVa) = some al → al.ctx = r.ctx → al.kv = false → al.prov ≠ some g.run →
    (∀ e ∈ r.defers, e.kind = .free → e.addr ≠ x.pair l a - r.gen.allocVa) →
    Does (.free g a e) s (fun t => t.allocs = s.allocs ∧ t.mem = s.mem ∧ ∃ r', look t.runs g.run = some r' ∧
      r'.defers = r.defers ++ [Defer.mk g.block g.group l x.issued .free none (x.pair l a - r.gen.allocVa) 0 0])) ∧
  (∀ (s : State) (g : GroupRef) (d size align a : Nat) (e : Ecc) (r : Run) (b : Block) (x : Group) (i : Instr), s.clocksRun →
    (i ∈ [Instr.alloc g d size align e, .allocF g d size align e] ∧ s.issues g [(d, 2)] = true ∧ allocArgs size align = true ∧
      r.calls + x.active.length ≤ lbAllocMax r.body ∨ i = .free g a e ∧ s.issues g [(a, 2)] = true) →
    s.findGroup g = some (r, b, x) → s.memUp (toCh r.ch) = true → e.bad ≠ none →
    Does i s (fun t => t = (s.noteEcc (toCh r.ch) e).faultRun g.run eMemError))

/-- LAUNCH and BLOCK_START start blocks of a running launch on the cores R114 names, with every lane at ENTRY and every register
0; a LAUNCH starts its first cluster where the cores have room. -/
def Obligations.LaunchStartsBlocks : Prop :=
  (∀ (s : State) (id : Nat) (r : Run), s.clocksRun → look s.runs id = some r → r.eng = .launch → r.cmd.op = 1 → r.finished = false →
    r.blocks = [] → 1 ≤ lbCluster r.body → lbCluster r.body ≤ lbBlocks r.body → 0 < resLimit r.body 0 →
    Does (.launch id) s (fun t => t = { s with runs := t.runs } ∧ ∃ r', look t.runs id = some r' ∧
      r'.blocks.take (lbCluster r.body) = (upto (lbCluster r.body)).map (fun k => startBlock r.body k (placeCore r.body 0 k)))) ∧
  (∀ (s : State) (id core c : Nat) (r : Run), s.clocksRun → look s.runs id = some r → r.eng = .launch → r.finished = false →
    1 ≤ lbCluster r.body →
    (upto (lbBlocks r.body / lbCluster r.body)).find? (fun c => (upto (lbCluster r.body)).any (fun k => placeCore r.body c k = core) &&
      !r.blocks.any (fun b => b.index / lbCluster r.body = c)) = some c →
    (∀ k < lbCluster r.body, r.resident (placeCore r.body c k) < resLimit r.body 0) →
    Does (.blockStart id core) s (fun t => t = { s with runs := t.runs } ∧ ∃ r', look t.runs id = some r' ∧
      r'.blocks = r.blocks ++ (upto (lbCluster r.body)).map (fun k => startBlock r.body (c * lbCluster r.body + k) (placeCore r.body c k)))) ∧
  (∀ (body : List Byte) (i core : Nat) (x : Group) (l r : Nat), x ∈ (startBlock body i core).groups →
    x.pc = field body 0 8 ∧ x.mask = 0xFFFFFFFF ∧ x.exited = 0 ∧ x.reg l r = 0)

/-- Matrix tiles: MOPEN opens a slot with every element 0 at the exponent of ACC_CFG, MRESUME opens it with a saved record, MSTEP
adds one block product to every element at the tile's exponent, MMERGE and MMERGER add a second tile or a record at the higher
exponent, MSAVE writes the record, MEPI the epilogue's rows, and MCLOSE empties the slot. A group not all of whose lanes are
active stops with E_DIVERGED_MATRIX. (Where a view, record or descriptor lies is the operand of log entry 18.) -/
def Obligations.MatrixTiles : Prop :=
  (∀ (s u : State) (ecc : Ecc) (g : GroupRef) (t f cfg va vb i0 j0 k0 n : Nat) (sp : MSpace) (r : Run) (b : Block) (x : Group) (a c : View), s.clocksRun → ecc.bad = none →
    s.issues g [] = true → s.findGroup g = some (r, b, x) → u = s.noteEcc (toCh r.ch) ecc → t < 4 → x.mask = 0xFFFFFFFF →
    u.openViews r b x t f cfg va vb sp = .ok (a, c) → accMode cfg = 1 →
    Does (.mopen g t f cfg va vb sp i0 j0 k0 n ecc) s (fun t' => onlyAccess s t' ∧ t'.mem = s.mem ∧ ∃ y, t'.group g = some y ∧
      (∀ e < 256, y.fragElem f e = 0) ∧
      y.tiles.get (toCh t) = some (Tile.mk f cfg a c i0 j0 k0 n (accMbound cfg + fmtW (accFmt cfg) + (accClog cfg : Int) - 62) 0))) ∧
  (∀ (s u : State) (ecc : Ecc) (g : GroupRef) (t f cfg va vb i0 j0 k0 n : Nat) (sp : MSpace) (r : Run) (b : Block) (x : Group) (a c : View) (p q : Int),
    s.clocksRun → ecc.bad = none → s.issues g [] = true → s.findGroup g = some (r, b, x) → u = s.noteEcc (toCh r.ch) ecc → t < 4 → x.mask = 0xFFFFFFFF →
    u.openViews r b x t f cfg va vb sp = .ok (a, c) → accMode cfg = 0 → n ≠ 0 →
    u.scan r b a i0 k0 n = .ok p → u.scan r b c j0 k0 n = .ok q →
    Does (.mopen g t f cfg va vb sp i0 j0 k0 n ecc) s (fun t' => ∃ y w, t'.group g = some y ∧
      y.tiles.get (toCh t) = some w ∧ w.bound = p + q ∧ w.count = 0 ∧ ∀ e < 256, y.fragElem f e = 0)) ∧
  (∀ (s u : State) (ecc : Ecc) (g : GroupRef) (t f recAddr cfg va vb i0 j0 k0 n : Nat) (sp : MSpace) (r : Run) (b : Block) (x : Group) (a c : View)
    (q : TileRec), s.clocksRun → ecc.bad = none → s.issues g [] = true → s.findGroup g = some (r, b, x) → u = s.noteEcc (toCh r.ch) ecc → t < 4 → x.mask = 0xFFFFFFFF →
    u.openViews r b x t f cfg va vb sp = .ok (a, c) → u.tileRec r b sp recAddr = .ok q → q.cfg = cfg →
    Does (.mresume g t f recAddr cfg va vb sp i0 j0 k0 n ecc) s (fun t' => onlyAccess s t' ∧ t'.mem = s.mem ∧ ∃ y, t'.group g = some y ∧
      y.fragment f = q.vals ∧ y.tiles.get (toCh t) = some (Tile.mk f cfg a c i0 j0 k0 n q.eAcc q.count))) ∧
  (∀ (s w : State) (ecc : Ecc) (g : GroupRef) (t k : Nat) (r : Run) (b : Block) (x : Group) (q : Tile) (as bs : List (List Int × Int)), s.clocksRun → ecc.bad = none →
    s.issues g [] = true → s.findGroup g = some (r, b, x) → w = s.noteEcc (toCh r.ch) ecc → t < 4 → x.mask = 0xFFFFFFFF → x.tiles.get (toCh t) = some q →
    q.k0 ≤ k → k < q.k0 + q.n → q.count + 1 ≤ 2 ^ accClog q.cfg →
    allOk ((upto 16).map (fun i => w.viewBlock r b q.va (q.i0 + i) k)) = .ok as →
    allOk ((upto 16).map (fun j => w.viewBlock r b q.vb (q.j0 + j) k)) = .ok bs →
    (∀ e < 256, ∃ u v, as[e / 16]? = some u ∧ bs[e % 16]? = some v ∧
      u.2 + v.2 ≤ (if accMode q.cfg = 0 then q.bound else accMbound q.cfg) ∧
      fits64 (x.fragElem q.frag e + align (blockDot u.1 v.1) (u.2 + v.2) q.eAcc) = true) →
    accMode q.cfg ≤ 1 →
    Does (.mstep g t k ecc) s (fun t' => onlyAccess s t' ∧ t'.mem = s.mem ∧ ∃ y, t'.group g = some y ∧
      y.tiles.get (toCh t) = some { q with count := q.count + 1 } ∧
      ∀ e < 256, ∀ u v, as[e / 16]? = some u → bs[e % 16]? = some v →
        y.fragElem q.frag e = x.fragElem q.frag e + align (blockDot u.1 v.1) (u.2 + v.2) q.eAcc)) ∧
  (∀ (s : State) (g : GroupRef) (t u : Nat) (r : Run) (b : Block) (x : Group) (p q : Tile) (m : Tile × List Int), s.clocksRun →
    s.issues g [] = true → s.findGroup g = some (r, b, x) → t < 4 → u < 4 → t ≠ u → x.mask = 0xFFFFFFFF →
    x.tiles.get (toCh t) = some p → x.tiles.get (toCh u) = some q →
    mergeInto p (x.fragment p.frag) q.cfg q.eAcc q.count (x.fragment q.frag) = .ok m →
    Does (.mmerge g t u) s (fun t' => t' = { s with runs := t'.runs } ∧ ∃ y, t'.group g = some y ∧
      y.tiles.get (toCh t) = some { p with eAcc := max p.eAcc q.eAcc, count := p.count + q.count } ∧ y.tiles.get (toCh u) = none ∧
      ∀ e < 256, y.fragElem p.frag e = align (x.fragElem p.frag e) p.eAcc (max p.eAcc q.eAcc) +
        align (x.fragElem q.frag e) q.eAcc (max p.eAcc q.eAcc))) ∧
  (∀ (s u : State) (ecc : Ecc) (g : GroupRef) (t recAddr : Nat) (sp : MSpace) (r : Run) (b : Block) (x : Group) (p : Tile) (q : TileRec)
    (m : Tile × List Int), s.clocksRun → ecc.bad = none → s.issues g [] = true → s.findGroup g = some (r, b, x) → u = s.noteEcc (toCh r.ch) ecc → t < 4 → x.mask = 0xFFFFFFFF →
    x.tiles.get (toCh t) = some p → u.tileRec r b sp recAddr = .ok q →
    mergeInto p (x.fragment p.frag) q.cfg q.eAcc q.count q.vals = .ok m →
    Does (.mmerger g t recAddr sp ecc) s (fun t' => onlyAccess s t' ∧ t'.mem = s.mem ∧ ∃ y, t'.group g = some y ∧
      y.tiles.get (toCh t) = some { p with eAcc := max p.eAcc q.eAcc, count := p.count + q.count } ∧ y.fragment p.frag = m.2)) ∧
  (∀ (s : State) (g : GroupRef) (t recAddr : Nat) (r : Run) (b : Block) (x : Group) (q : Tile), s.clocksRun →
    s.issues g [] = true → s.findGroup g = some (r, b, x) → t < 4 → x.mask = 0xFFFFFFFF → x.tiles.get (toCh t) = some q →
    recAddr % 16 = 0 → r.inBls recAddr 2064 = true →
    Does (.msave g t recAddr .blockLocal) s (fun t' => t' = { s with runs := t'.runs, tags := t'.tags } ∧
      ∃ (r' : Run) (b' : Block) (y : Group), t'.findGroup g = some (r', b', y) ∧ y.regs = x.regs ∧ y.tiles = x.tiles ∧
        b'.blsRead recAddr 2064 = recBytes q (x.fragment q.frag) ∧
        ∀ off, (off < recAddr ∨ recAddr + 2064 ≤ off) → b'.blsByte off = b.blsByte off)) ∧
  (∀ (s : State) (g : GroupRef) (t recAddr : Nat) (r : Run) (b : Block) (x : Group) (q : Tile) (cells : List Host.Cell), s.clocksRun →
    s.issues g [] = true → s.findGroup g = some (r, b, x) → t < 4 → x.mask = 0xFFFFFFFF → x.tiles.get (toCh t) = some q →
    recAddr % 16 = 0 → s.stageV (s.runXlat r (some b.core)) recAddr (recBytes q (x.fragment q.frag)) = .ok cells → r.commitUse b.core cells ≤ r.commitRoom →
    Does (.msave g t recAddr .global) s (fun t' => onlyAccess s { t' with tags := s.tags } ∧
      ∃ (r' : Run) (b' : Block) (y : Group), t'.findGroup g = some (r', b', y) ∧ y.regs = x.regs ∧ y.tiles = x.tiles ∧
        b'.staged = stage b.staged cells ∧ b'.bls = b.bls)) ∧
  (∀ (s u : State) (ecc : Ecc) (g : GroupRef) (t desc vo io bo c : Nat) (r r' : Run) (b b' : Block) (x : Group) (sp : MSpace) (d : Epi) (v : View)
    (rows : List (List Int)) (ev : Int) (outs : List (List (Nat × List Byte) × Nat)), s.clocksRun → ecc.bad = none →
    s.issues g [] = true → s.findGroup g = some (r, b, x) → u = s.noteEcc (toCh r.ch) ecc → t < 4 → x.mask = 0xFFFFFFFF → u.epiAt r b sp desc = .ok d →
    (d.fmt ≤ 1 → t % 2 = 0) → u.viewAt r b sp vo (if d.fmt ≤ 2 then 0 else scalarBits d.fmt / 8) = .ok v →
    u.epiValues r b sp d x t = .ok (rows, ev, c) → (d.fmt ≤ 2 → v.fmt = d.fmt) →
    outs = (rows.zipIdx.filter (fun p => io + p.2 < v.rows)).map (fun p =>
      if d.fmt ≤ 2 then blockRow d v (io + p.2) bo ev p.1 else scalarRow d v (io + p.2) bo ev p.1) →
    u.mwrites sp r b (outs.map (·.1)).flatten = .ok (r', b') →
    Does (.mepi g t desc vo sp io bo ecc) s (fun t' => t'.runs = put s.runs g.run (r'.setBlock (b'.setGroup g.group x.next)) ∧ t'.mem = s.mem ∧
      t'.obj (Obj.reqSaturations (toCh r.ch)) = (s.obj (Obj.reqSaturations (toCh r.ch)) + (c + (outs.map (·.2)).sum)) % 2 ^ 64 ∧
      sameObjsBut s t' (Obj.reqSaturations (toCh r.ch) :: accessCounters))) ∧
  (∀ (s : State) (g : GroupRef) (t : Nat) (r : Run) (b : Block) (x : Group), s.clocksRun →
    s.issues g [] = true → s.findGroup g = some (r, b, x) → t < 4 → x.mask = 0xFFFFFFFF →
    Does (.mclose g t) s (fun t' => t' = { s with runs := t'.runs } ∧ ∃ y, t'.group g = some y ∧ y.tiles.get (toCh t) = none ∧ y.regs = x.regs)) ∧
  (∀ (s : State) (ecc : Ecc) (g : GroupRef) (t k : Nat) (r : Run) (b : Block) (x : Group) (c : Context), s.clocksRun →
    s.issues g [] = true → s.findGroup g = some (r, b, x) → t < 4 → x.mask ≠ 0xFFFFFFFF → r.cls ≠ 0 → look s.ctxs r.ctx = some c → c.state = .active →
    Does (.mstep g t k ecc) s (fun t' => look t'.runs g.run = none ∧
      ∃ c', look t'.ctxs r.ctx = some c' ∧ c'.state = .faulted ∧ c'.fault.code = eDivMatrix))

/-- TEX and RAYQ answer every active lane from memory as it stands: TEX leaves the four channels of the sample in the lane's
destination registers, RAYQ the 16-byte result record, and RAYQ counts its visits, queries and limits. Bearing and Traverse
commands stage all their outputs at once, publish nothing themselves, and leave their counters to the seal; a line that an
open publication holds leaves them waiting, and PUB_HOLDS counts it once. -/
def Obligations.QueriesAndSearches : Prop :=
  (∀ (s : State) (ecc : Ecc) (g : GroupRef) (d sr u v smp : Nat) (r : Run) (b : Block) (x : Group) (sf : Nat → Surf) (c : Nat → List Nat), s.clocksRun →
    s.issues g [(d, 4), (sr, 2), (u, 1), (v, 1)] = true → s.findGroup g = some (r, b, x) →
    ecc.bad = none → smp < 32 → bits smp 2 1 ≠ 3 → bits smp 4 3 ≠ 3 →
    (∀ l ∈ x.active, s.surfAt r (x.pair l sr) (some b.core) = .ok (sf l) ∧
      s.texSample r b.core (sf l) smp (signed 32 (x.reg l u).toNat) (signed 32 (x.reg l v).toNat) = .ok (c l)) →
    Does (.tex g d sr u v smp ecc) s (fun t => onlyAccess s t ∧ t.mem = s.mem ∧ ∃ y, t.group g = some y ∧
      (∀ l n, l < 32 → n < 256 → (l ∉ x.active ∨ n < d ∨ d + 4 ≤ n) → y.reg l n = x.reg l n) ∧
      ∀ l ∈ x.active, ∀ i < 4, y.reg l (d + i) = BitVec.ofNat 32 ((c l)[i]?.getD 0))) ∧
  (∀ (s w : State) (ecc : Ecc) (g : GroupRef) (d sr h : Nat) (r : Run) (b : Block) (x : Group) (rec' : Nat → List Byte) (visits : Nat → Nat)
      (lim : Nat → Bool) (nodes : Nat → List (Nat × Nat)),
    s.clocksRun → s.issues g [(d, 4), (sr, 8), (h, 2)] = true → s.findGroup g = some (r, b, x) →
    ecc.bad = none → w = s.noteEcc (toCh r.ch) ecc →
    (∀ l ∈ x.active, w.rayAnswer { r with eng := .traverse } (x.pair l h) (rayOf (toLE 32 (x.words l sr 8)) 65535) =
      .ok (rec' l, visits l, lim l, nodes l)) →
    Does (.rayq g d sr h ecc) s (fun t =>
      t = { s with runs := t.runs, objs := t.objs, caches := t.caches, ranges := t.ranges, owners := t.owners } ∧
      (∃ y, t.group g = some y ∧ (∀ l ∈ x.active, y.words l d 4 = leNat (rec' l)) ∧
        ∀ l n, l < 32 → n < 256 → (l ∉ x.active ∨ n < d ∨ d + 4 ≤ n) → y.reg l n = x.reg l n) ∧
      t.obj (Obj.traverseVisits (toCh r.ch)) = (s.obj (Obj.traverseVisits (toCh r.ch)) + (x.active.map visits).sum) % 2 ^ 64 ∧
      t.obj (Obj.traverseQueries (toCh r.ch)) = (s.obj (Obj.traverseQueries (toCh r.ch)) + x.active.length) % 2 ^ 64 ∧
      t.obj (Obj.traverseLimits (toCh r.ch)) = (s.obj (Obj.traverseLimits (toCh r.ch)) + (x.active.filter lim).length) % 2 ^ 64 ∧
      sameObjsBut s t ([Obj.traverseVisits (toCh r.ch), Obj.traverseQueries (toCh r.ch), Obj.traverseLimits (toCh r.ch)] ++ accessCounters))) ∧
  (∀ (s : State) (run : Nat) (ecc : Ecc) (r : Run) (o : EngineOut) (i : Instr) (f : Run → Except Nat EngineOut), s.clocksRun →
    look s.runs run = some r → r.finished = false → ecc.bad = none →
    (i = .bearingSearch run ecc ∧ bearingMode 0 r = true ∧ f = s.search ∨
     i = .bearingRefine run ecc ∧ bearingMode 1 r = true ∧ f = s.refine ∨
     i = .bearingOcclude run ecc ∧ bearingMode 2 r = true ∧ f = s.occlude ∨
     i = .traverseRays run ecc ∧ traverseMode 0 r = true ∧ f = s.rays ∨
     i = .traversePatch run ecc ∧ traverseMode 1 r = true ∧ f = s.patches) → f r = .ok o →
    Does i s (fun t => look t.runs run = some { r with staged := o.cells, tally := o.tally, cut := o.cut, finished := true } ∧
      onlyAccess s t ∧ t.mem = s.mem ∧ ∀ j, j ≠ run → look t.runs j = look s.runs j)) ∧
  (∀ (s w : State) (run e k : Nat) (ecc : Ecc) (r : Run) (i : Instr) (f : Run → Except Nat EngineOut), s.clocksRun →
    look s.runs run = some r → r.finished = false → ecc.bad = none →
    (i = .bearingSearch run ecc ∧ bearingMode 0 r = true ∧ f = s.search ∨
     i = .bearingRefine run ecc ∧ bearingMode 1 r = true ∧ f = s.refine ∨
     i = .bearingOcclude run ecc ∧ bearingMode 2 r = true ∧ f = s.occlude ∨
     i = .traverseRays run ecc ∧ traverseMode 0 r = true ∧ f = s.rays ∨
     i = .traversePatch run ecc ∧ traverseMode 1 r = true ∧ f = s.patches) → f r = .error e → heldAt e = some k →
    w = s.noteEcc (toCh r.ch) ecc → w.heldFrom (some (toCh r.ch)) k = true → (∀ x ∈ s.holds, x.who = .run run → x.key ≠ k) →
    Does i s (fun t => t = { s with objs := t.objs, holds := t.holds } ∧ t.holds = s.holds ++ [Hold.mk (.run run) (some (toCh r.ch)) k s.now] ∧
      t.obj (Obj.pubHolds (chanOf k)) = (s.obj (Obj.pubHolds (chanOf k)) + 1) % 2 ^ 64 ∧
      sameObjsBut s t (Obj.pubHolds (chanOf k) :: accessCounters)))

/-- COPY stages every row it reads, FILL every row of its 8-byte value repeated, and TAKE the record of the notice, whose mailbox
it empties at its seal; nothing is written before the seal. Raster passes of every mode: once every tile of the last lists is
worked, the pass resolves, staging every block of its area and its counts; a stamp with surviving pixels launches one fragment
group. POOL_GROW_RETURN gives the pool its chunks and binning goes on, or turns the pass to rasterise what it has listed. -/
def Obligations.CopiesAndRasterPasses : Prop :=
  (∀ (s : State) (run : Nat) (ecc : Ecc) (r : Run) (cs : List Host.Cell), s.clocksRun → look s.runs run = some r → r.finished = false →
    r.cmd.op = 5 → field r.cmd.body 0 1 = 0 → ecc.bad = none →
    copyRows s r (fun i => s.eread r (field r.cmd.body 0x10 8 + i * field r.cmd.body 0x18 4) (field r.cmd.body 8 4)) = .ok cs →
    Does (.copy run ecc) s (fun t => look t.runs run = some { r with staged := cs, tally := [], cut := 0, finished := true } ∧
      onlyAccess s t ∧ t.mem = s.mem)) ∧
  (∀ (s : State) (run : Nat) (r : Run) (cs : List Host.Cell), s.clocksRun → look s.runs run = some r → r.finished = false →
    r.cmd.op = 5 → field r.cmd.body 0 1 = 1 →
    copyRows s r (fun _ => .ok ((upto (field r.cmd.body 8 4)).map (fun j => ((slice r.cmd.body 0x10 8).drop (j % 8)).headD 0))) = .ok cs →
    Does (.fill run) s (fun t => look t.runs run = some { r with staged := cs, tally := [], cut := 0, finished := true } ∧
      onlyAccess s t ∧ t.mem = s.mem)) ∧
  (∀ (s : State) (run : Nat) (r : Run) (cs : List Host.Cell), s.clocksRun → look s.runs run = some r → r.finished = false →
    r.cmd.op = 7 → (s.mbox (mbChan (field r.cmd.body 0 1) r.ch)).pending = true →
    s.stageV (s.runXlat r) (field r.cmd.body 8 8) (toLE 8 (s.mbox (mbChan (field r.cmd.body 0 1) r.ch)).ptr ++
      toLE 4 (s.mbox (mbChan (field r.cmd.body 0 1) r.ch)).tag ++ toLE 4 0) = .ok cs →
    Does (.take run) s (fun t => t = { s.lookSpans r [(field r.cmd.body 8 8, 16)] with runs := put s.runs run { r with
      staged := cs, notice := some (mbChan (field r.cmd.body 0 1) r.ch, field r.cmd.body 2 2), finished := true } })) ∧
  (∀ (s w : State) (run : Nat) (ecc : Ecc) (r : Run) (p : Pass) (sf : List (Nat × Surf)) (cs : List Host.Cell) (blocks sectors d : Nat) (i : Instr),
    s.clocksRun → look s.runs run = some r → r.eng = .raster → r.cmd.op = 4 →
    (i = .rasterBinned run ecc ∧ pdMode r.cmd.body = 0 ∨ i = .rasterDirect run ecc ∧ pdMode r.cmd.body = 1 ∨
     i = .rasterAuto run ecc ∧ pdMode r.cmd.body = 2) →
    r.finished = false → (∀ b ∈ r.blocks, b.committed ≠ none) → r.pass = some p → p.phase = .tiles → p.final = true →
    tileCount r.cmd.body ≤ p.tile → ecc.bad = none → w = s.noteEcc (toCh r.ch) ecc →
    w.passSurfs r r.cmd.body = .ok sf → w.resolve r r.cmd.body p sf = .ok (cs, blocks, sectors) → w.droppedPrims r r.cmd.body = .ok d →
    Does i s (fun t => onlyAccess s t ∧ t.mem = s.mem ∧ look t.runs run = some { r with
      pass := some { p with phase := .resolved }, staged := cs, finished := true,
      tally := r.tally ++ [(Obj.rasterPasses (toCh r.ch), 1), (Obj.rasterDropped (toCh r.ch), d),
        (Obj.resolveSectors (toCh r.ch), sectors), (Obj.resolveBlocks (toCh r.ch), blocks)] })) ∧
  (∀ (s s1 : State) (run : Nat) (r : Run) (p : Pass), s.clocksRun → look s.runs run = some r → r.pass = some p → p.phase = .growing →
    s.claim r.gen r.asid (toCh r.ch) (wholeChunks (field r.cmd.body 0x1A 2 * 1024)) = (.error ePool, s1) →
    Does (.poolGrowReturn run) s (fun t => t = { s1 with runs := t.runs } ∧ ∃ (r' : Run) (q : Pass), look t.runs run = some r' ∧
      r'.pass = some q ∧ q.phase = .tiles ∧ q.final = false ∧ q.tile = 0 ∧ q.prim = 0 ∧ q.stamp = 0 ∧ q.opened = false ∧
      q.chunks = p.chunks ∧ q.next = p.next ∧ r'.tally = r.tally ++ [(Obj.poolGrowFails (toCh r.ch), 1)])) ∧
  (∀ (s s1 : State) (run : Nat) (r : Run) (p : Pass) (c : List Nat), s.clocksRun → look s.runs run = some r → r.pass = some p →
    p.phase = .growing → s.claim r.gen r.asid (toCh r.ch) (wholeChunks (field r.cmd.body 0x1A 2 * 1024)) = (.ok c, s1) →
    Does (.poolGrowReturn run) s (fun t => t = { s1 with runs := t.runs } ∧ ∃ r', look t.runs run = some r' ∧
      r'.pass = some { p with phase := .binning, poolKb := p.poolKb + field r.cmd.body 0x1A 2, chunks := p.chunks ++ c } ∧
      r'.tally = r.tally ++ [(Obj.poolGrows (toCh r.ch), 1)])) ∧
  (∀ (s : State) (run : Nat) (r : Run) (p : Pass) (c : Context), s.clocksRun → look s.runs run = some r → r.pass = some p →
    p.phase = .growing → wholeChunks (field r.cmd.body 0x1A 2 * 1024) ≠ 0 → s.memUp (toCh r.ch) = false → r.cls ≠ 0 →
    look s.ctxs r.ctx = some c → c.state = .active →
    Does (.poolGrowReturn run) s (fun t => look t.runs run = none ∧
      ∃ c', look t.ctxs r.ctx = some c' ∧ c'.state = .faulted ∧ c'.fault.code = eMemOffline))

/-- Commands that run no unit, at the head of their queue. FENCE retires when its wait is satisfied and gives its completion
signal; NOTIFY, when every earlier command of its queue has completed and the mailbox is empty, sends its notice and
completes; COURSE takes a launch of the current version; during a standby these are held; HEAT_STEP takes its heat from IDLE
to its step, runs admission, and its nodes wait for ADMISSION_COMPLETE. -/
def Obligations.QueueCommands : Prop :=
  (∀ (s : State) (q : Nat) (x : Queue) (h : Head) (y : Baton), s.clocksRun → s.quiet → look s.queues q = some x → x.head = some h →
    h.phase = .fetched → h.cmd.op = 0 → s.awake = true → s.ctxActive x.ctx = true → x.stopped = false → x.closing = false → s.waitMet h.cmd = true →
    look s.replays x.ctx = none → x.order = [Track.mk h.track h.cmd none] → h.cmd.ring = false → s.links = [] →
    h.cmd.signalEn = true → look s.batons h.cmd.sigBaton = some y → y.inError = false → y.owner ≠ none → y.value < h.cmd.sigValue →
    h.cmd.sigValue < errValue →
    Does (.fence q) s (fun t => t.mem = s.mem ∧ (∃ x', look t.queues q = some x' ∧ x'.head = none ∧ x'.order = []) ∧
      look t.batons h.cmd.sigBaton = some { y with value := h.cmd.sigValue, lastSig := .queue q, lastTick := s.tick (stampCh x.ch) })) ∧
  (∀ (s : State) (q : Nat) (x : Queue) (h : Head), s.clocksRun → look s.queues q = some x → x.head = some h →
    h.phase = .fetched → h.cmd.op = 0 → s.waitMet h.cmd = false → Does (.fence q) s (fun t => t = s)) ∧
  (∀ (s : State) (q : Nat), s.clocksRun → s.awake = false →
    Does (.fence q) s (fun t => t = s) ∧ Does (.notify q) s (fun t => t = s) ∧ Does (.course q) s (fun t => t = s)) ∧
  (∀ (s : State) (q : Nat) (x : Queue) (h : Head), s.clocksRun → s.quiet → look s.queues q = some x → x.head = some h →
    h.phase = .fetched → h.cmd.op = 6 → s.awake = true → s.waitOver x (.queue q h.track) h.cmd = true → look s.replays x.ctx = none →
    x.order = [Track.mk h.track h.cmd none] → h.cmd.ring = false → h.cmd.signalEn = false →
    (s.mbox (mbChan x.ch (field h.cmd.body 0 1))).pending = false →
    Does (.notify q) s (fun t => t.mem = s.mem ∧ t.batons.all (fun e => s.batons.contains e) = true ∧
      (∃ x', look t.queues q = some x' ∧ x'.head = none ∧ x'.order = []) ∧
      t.mbox (mbChan x.ch (field h.cmd.body 0 1)) = { s.mbox (mbChan x.ch (field h.cmd.body 0 1)) with
        reg := field h.cmd.body 8 8, pending := true, ptr := field h.cmd.body 8 8, tag := field h.cmd.body 4 4 } ∧
      ∀ k, k ≠ mbChan x.ch (field h.cmd.body 0 1) → t.mbox k = s.mbox k)) ∧
  (∀ (s : State) (q : Nat) (x : Queue) (h : Head) (k : Course) (v : Nat) (nodes : List CourseNode), s.clocksRun → s.quiet →
    look s.queues q = some x → x.head = some h → h.phase = .fetched → h.cmd.op = 8 → s.awake = true → field h.cmd.body 2 1 = 0xFF →
    s.waitOver x (.queue q h.track) h.cmd = true → look s.courses (field h.cmd.body 0 2) = some k → s.bindVersion k (toCh x.ch) = (v, nodes) → nodes ≠ [] →
    Does (.course q) s (fun t => t.mem = s.mem ∧ t.nextId = s.nextId + 1 ∧
      look t.queues q = some { x with head := some { h with phase := .launched s.nextId } } ∧
      look t.launches s.nextId = some (Launch.mk (field h.cmd.body 0 2) v q h.track nodes (nodes.map (fun _ => NodePhase.waiting)) none true))) ∧
  (∀ (s u s1 s2 : State) (q : Nat) (ecc : Ecc) (x : Queue) (h : Head) (k : Nat) (y : Heat) (c : Course) (v : HeatView) (xl : Xlat), s.clocksRun →
    s.awake = true → ecc.bad = none → look s.queues q = some x → s.stepHead x = some (h, k) → look s.heats k = some y →
    look s.courses (field h.cmd.body 0 2) = some c → s.obj (Obj.heatState (toCh x.ch) (k % 16)) = 1 → s.stepFirst q x k = true →
    u = s.noteEcc (toCh x.ch) ecc → xl = u.heatXlat y.ctx (toCh x.ch) → u.heatHeld xl y.addr = none → u.heatHeader xl y.addr = .ok v →
    u.recordBad xl v = false → s1 = (u.setObj (Obj.heatState (toCh x.ch) (k % 16)) 2).startCourse q x h (field h.cmd.body 0 2) c (some k) →
    s2 = s1.admitRequest xl (toCh x.ch) (k % 16) y.ctx v → (u.memUp (toCh x.ch) = true ∨ s1.calledPool s2 (toCh x.ch) (k % 16) = false) →
    Does (.heatStep q ecc) s (fun t =>
      t = s2.seedStep q h.track (v.wptr + 2 ^ 32 * s2.getV xl (v.addr + 0x30) 4) ∧
      s1.obj (Obj.heatState (toCh x.ch) (k % 16)) = 2 ∧ ∃ l, look s1.launches s.nextId = some l ∧ l.heat = some k ∧ l.admitted = false)) ∧
  (∀ (s : State) (ch : Fin 4) (heat l : Nat) (y : Heat) (x : Launch), s.clocksRun → s.quiet → look s.heats (heatKey ch heat) = some y →
    s.ctxActive y.ctx = true → look s.launches l = some x → x.heat = some (heatKey ch heat) → x.admitted = false →
    (∀ e ∈ s.launches, e.2.heat = some (heatKey ch heat) → e.2.phases.all nodeOver = false) →
    Does (.admissionComplete ch heat) s (fun t => t.mem = s.mem ∧ t.heats = s.heats ∧ t.queues = s.queues ∧
      look t.launches l = some { x with admitted := true } ∧
      ∀ n z, look s.launches n = some z → z.heat ≠ some (heatKey ch heat) → look t.launches n = some z))

/-- Source frames on an independent channel outside a pair: a row is stored in its slot and noted; row 0 begins a frame with the
next number in a free slot; an overdue row is substituted and makes its frame torn; a stream that is not the descriptor's
makes the input MISMATCH, and silence makes it LOST; a submission waits behind the others, restarts the count of silent ticks,
and begins its frame at its edge; a submission of a slot that is not free is BUSY. -/
def Obligations.SourceFrames : Prop :=
  (∀ (s : State) (i : Dpin) (ch : Fin 4) (row slot : Nat) (planes : List (List (BitVec 8))) (st : StreamFmt) (d : PipeDesc) (f : SrcFrame),
    s.clocksRun → s.inputSet (Dpin.num i) = [ch] → look s.streams (Dpin.num i) = some st → s.captures ch = some d →
    s.streamOk (Dpin.num i) st d = true → row < d.srcH → row ≠ 0 → s.obj (Obj.dpinState (Dpin.num i)) = 3 → s.deadlines ch = s →
    (s.picture ch).capturing = some slot → look (s.picture ch).slots slot = some f → f.whole = false → row ∉ f.rows →
    s.ownsRow ch d row = true → s.outBy.get ch = none → s.inPair ch = false →
    Does (.sourceRowCapture i row planes) s (fun t => t = (s.storeRow ch d slot row (planes.map (sampleBytes st.bpc))).setPicture ch { s.picture ch with
      slots := put (s.picture ch).slots slot { f with rows := f.rows ++ [row], whole := decide (d.srcH ≤ f.rows.length + 1) },
      capturing := if d.srcH ≤ f.rows.length + 1 then none else some slot, lastRow := s.tick ch })) ∧
  (∀ (s : State) (i : Dpin) (ch : Fin 4) (slot : Nat) (planes : List (List (BitVec 8))) (st : StreamFmt) (d : PipeDesc),
    s.clocksRun → s.inputSet (Dpin.num i) = [ch] → look s.streams (Dpin.num i) = some st → s.captures ch = some d →
    s.streamOk (Dpin.num i) st d = true → 0 < d.srcH → s.obj (Obj.dpinState (Dpin.num i)) = 3 → s.deadlines ch = s →
    s.freeSlot [ch] d = some slot → s.inPair ch = false →
    Does (.sourceRowCapture i 0 planes) s (fun t => t.obj (Obj.sfnLast ch) = (s.obj (Obj.sfnLast ch) + 1) % 2 ^ 32 ∧
      t.obj (Obj.inputState ch) = 1 ∧ (t.picture ch).newest = some slot ∧ ∃ f, look (t.picture ch).slots slot = some f ∧
        f.sfn = (s.obj (Obj.sfnLast ch) + 1) % 2 ^ 32 ∧ f.t0 = s.tick ch ∧ f.rows = [0] ∧ f.prot = s.obj (Obj.dpinHdcp (Dpin.num i)) ∧
        f.rgb = decide (st.sampling = 0) ∧ f.bpc = st.bpc)) ∧
  (∀ (s : State) (ch : Fin 4) (d : PipeDesc) (slot : Nat) (f : SrcFrame), s.clocksRun → s.ownerSet ch = [ch] → s.captures ch = some d →
    (s.picture ch).slots = [(slot, f)] → f.whole = false → (∃ r < d.srcH, rowDeadline d f.t0 r < s.tick ch ∧ r ∉ f.rows) →
    Does (.rowDeadline ch) s (fun t => (∃ f', look (t.picture ch).slots slot = some f' ∧ f'.torn = true ∧
        ∀ r < d.srcH, (r ∈ f'.rows ↔ r ∈ f.rows ∨ rowDeadline d f.t0 r < s.tick ch)) ∧
      (f.torn = false → t.obj (Obj.tornFrames ch) = (s.obj (Obj.tornFrames ch) + 1) % 2 ^ 32))) ∧
  (∀ (s : State) (i : Dpin) (ch : Fin 4) (st : StreamFmt) (d : PipeDesc), s.clocksRun → s.inputSet (Dpin.num i) = [ch] →
    look s.streams (Dpin.num i) = some st → s.captures ch = some d → s.streamOk (Dpin.num i) st d = false →
    Does (.streamMismatch i) s (fun t => t.obj (Obj.inputState ch) = 3 ∧ (t.picture ch).capturing = none ∧ t.mem = s.mem)) ∧
  (∀ (s : State) (ch : Fin 4) (d : PipeDesc), s.clocksRun → s.ownerSet ch = [ch] → s.pipe ch = some d → s.obj (Obj.inputState ch) = 1 →
    d.srcKind ≠ 2 → d.lossTicks < s.tick ch - (s.picture ch).lastRow →
    Does (.inputLossTimeout ch) s (fun t => t.obj (Obj.inputState ch) = 2 ∧ t.mem = s.mem ∧ t.pictures = s.pictures)) ∧
  (∀ (s : State) (ch : Fin 4) (d : PipeDesc), s.clocksRun → s.ownerSet ch = [ch] → s.pipe ch = some d →
    s.tick ch - (s.picture ch).lastRow ≤ d.lossTicks → Does (.inputLossTimeout ch) s (fun t => t = s)) ∧
  (∀ (s : State) (who : Req) (ch : Fin 4) (slot : Nat) (d : PipeDesc), s.serves' who (Obj.srcSubmit ch) → s.inPair ch = false →
    s.pipe ch = some d → s.leaderOf ch = ch → d.srcKind = 1 → slot < d.slots → (∀ m ∈ s.ownerSet ch, (s.picture m).slotFree slot = true) →
    Does (.srcSubmit who ch slot) s (fun t => t = (forEach (s.ownerSet ch) (fun u m => u.setPicture m { u.picture m with lastRow := u.tick m })
      (s.setPicture ch { s.picture ch with submit := (s.picture ch).submit ++ [(slot, s.edgeNo ch + s.edgesToEffect ch)] })).accept (Obj.srcSubmit ch))) ∧
  (∀ (s : State) (who : Req) (ch : Fin 4) (slot : Nat) (d : PipeDesc), s.serves' who (Obj.srcSubmit ch) → s.inPair ch = false →
    s.pipe ch = some d → s.leaderOf ch = ch → d.srcKind = 1 → slot < d.slots → (∃ m ∈ s.ownerSet ch, (s.picture m).slotFree slot = false) →
    Does (.srcSubmit who ch slot) s (fun t => t = s.refuse (Obj.srcSubmit ch) rcBusy)) ∧
  (∀ (s : State) (who : Req) (ch : Fin 4) (slot : Nat), s.serves' who (Obj.srcSubmit ch) → s.inPair ch = false →
    (s.leaderOf ch ≠ ch ∨ ∀ d, s.pipe ch = some d → d.srcKind ≠ 1 ∨ d.slots ≤ slot) →
    Does (.srcSubmit who ch slot) s (fun t => t = s.refuse (Obj.srcSubmit ch) rcRange)) ∧
  (∀ (s : State) (ch : Fin 4) (slot t0 : Nat) (rest : List (Nat × Nat)), s.clocksRun → s.ownerSet ch = [ch] →
    (s.picture ch).submit = (slot, t0) :: rest → t0 ≤ s.edgeNo ch → s.edgeDue ch = false →
    Does (.hostFrameBegin ch) s (fun t => t.obj (Obj.sfnLast ch) = (s.obj (Obj.sfnLast ch) + 1) % 2 ^ 32 ∧
      (t.picture ch).submit = rest ∧ (t.picture ch).newest = some slot ∧ look t.cmdStatus (Obj.srcSubmit ch) = some (cmdWord 0 2) ∧
      ∃ f, look (t.picture ch).slots slot = some f ∧ f.sfn = (s.obj (Obj.sfnLast ch) + 1) % 2 ^ 32 ∧ f.t0 = s.tick ch ∧ f.whole = true))

/-- Output frames: a real frame is bound to the newest source frame begun before the tick and its record is written to its place
in the ring, and a generated one is bound to the two real output frames beside it in output order; an output frame start
counts OFN on; GANG_APPLY is checked against the other leader's gang in force and accepted, and a gang is formed at its tick
where every channel it concerns has its program, and otherwise stays; the safe picture starts on DP0. -/
def Obligations.OutputFramesAndGangs : Prop :=
  (∀ (s : State) (ch : Fin 4) (p : Program) (d : PipeDesc) (e k n : Nat) (r : FrameRec), s.clocksRun → s.bindDue ch = some (p, d, e) →
    s.edgeDue ch = false → s.inPair ch = false → d.plan e = 0 → (s.picture ch).newestBefore (s.tick ch) = some (k, n) →
    r = FrameRec.mk (p.ofnAt d e (s.tick ch)) 0 k k n n (decide ((s.picture ch).realNear (p.ofnAt d e (s.tick ch)) false = some (k, n)))
      (decide ((s.obj (Obj.inputState ch) = 2 ∨ s.obj (Obj.inputState ch) = 3) ∧ d.holdFrames ≤ (s.picture ch).heldFor)) 0 (s.tick ch) →
    Does (.frameBinding ch) s (fun t => t.mem = (s.ownWrite ch (d.frecBase + 32 * (r.ofn % 4)) (frecBytes r)).mem ∧
      r ∈ (t.picture ch).recs ∧ (r.ofn, k, n) ∈ (t.picture ch).reals ∧ (t.picture ch).bound = some (s.tick ch) ∧
      (r.again = true → t.obj (Obj.frameRepeats ch) = (s.obj (Obj.frameRepeats ch) + 1) % 2 ^ 32))) ∧
  (∀ (s : State) (ch : Fin 4) (p : Program) (d : PipeDesc) (e n : Nat) (a b : Nat × Nat), s.clocksRun → s.bindDue ch = some (p, d, e) →
    s.edgeDue ch = false → s.inPair ch = false → d.plan e ≠ 0 → n = p.ofnAt d e (s.tick ch) → (s.picture ch).realNear n true = some b →
    (s.picture ch).realNear n false = some a →
    Does (.frameBinding ch) s (fun t => (∃ r ∈ (t.picture ch).recs, r.ofn = n ∧ r.slotA = a.1 ∧ r.slotB = b.1 ∧ r.sfnA = a.2 ∧ r.sfnB = b.2 ∧
      r.kind = (if a = b then 2 else if cutAt d (s.picture ch).cut then 3 else 1) ∧ r.cut = (s.picture ch).cut ∧
      t.mem = (s.ownWrite ch (d.frecBase + 32 * (n % 4)) (frecBytes r)).mem) ∧ (t.picture ch).bound = some (s.tick ch))) ∧
  (∀ (s : State) (ch : Fin 4) (ecc : Ecc), s.clocksRun → s.frameDue ch = true →
    Does (.outputFrameStart ch ecc) s (fun t => t.obj (Obj.ofn ch) = (s.obj (Obj.ofn ch) + 1) % 2 ^ 32 ∧
      (t.comp ch).frame = some (s.tick ch) ∧ (t.picture ch).ofStart = s.tick ch)) ∧
  (∀ (s : State) (who : Req) (ch o : Fin 4) (at' v : Nat), s.serves' who (Obj.gangApply ch) → s.inPair ch = false → ch.val % 2 = 0 →
    v = s.obj (Obj.gangCtrl ch) → gangCtrlOk ch v = true → o = (if ch = 0 then 2 else 0) →
    (∀ m ∈ gangSet ch v, m ∉ gangSet o (s.ctrlAt o at') ∧ m ∉ gangSet o (((s.gangs.get o).pending.map (fun p => p.2)).getD 0)) →
    (∀ m ∈ gangSet ch v, m ≠ ch → s.followsOn m ch = true) → (s.paceOf ch = ch ∧ followOf ch (s.cfgNext ch) = ch) → s.ahead ch at' = true →
    ((gangSet ch v).filter s.goingOut).length < 2 →
    Does (.gangApply who ch at') s (fun t => t = ({ s with gangs := s.gangs.set ch { s.gangs.get ch with pending := some (at', v) } } : State).accept
      (Obj.gangApply ch))) ∧
  (∀ (s : State) (who : Req) (ch : Fin 4) (at' : Nat), s.clocksRun → ch.val % 2 = 1 →
    Does (.gangApply who ch at') s (fun t => t = s.answer (s.strayCode who (0x3210 + 0x400 * ch) 2))) ∧
  (∀ (s : State) (who : Req) (ch o : Fin 4) (at' v : Nat), s.serves' who (Obj.gangApply ch) → s.inPair ch = false → ch.val % 2 = 0 →
    v = s.obj (Obj.gangCtrl ch) → o = (if ch = 0 then 2 else 0) →
    (gangCtrlOk ch v = false ∨ s.ahead ch at' = false ∨ (∃ m ∈ gangSet ch v, m ≠ ch ∧ s.followsOn m ch = false) ∨
     ∃ m ∈ gangSet ch v, m ∈ gangSet o (s.ctrlAt o at') ∨ m ∈ gangSet o (((s.gangs.get o).pending.map (fun p => p.2)).getD 0)) →
    Does (.gangApply who ch at') s (fun t => t = s.refuse (Obj.gangApply ch) rcRange)) ∧
  (∀ (s : State) (ch o : Fin 4) (at' v : Nat), s.clocksRun → (s.gangs.get ch).pending = some (at', v) → at' ≤ s.tick ch →
    s.applyDue ch = false → o = (if ch = 0 then 2 else 0) →
    (∀ m, (gangSet ch v).contains m = true ∨ (gangSet ch (s.gangs.get ch).ctrl).contains m = true →
      s.programAt m at' ((gangSet ch v).contains m) = true) →
    (∀ m ∈ gangSet ch v, m ∉ gangSet o (s.gangs.get o).ctrl ∧ (m = ch ∨ s.paceOf m = ch)) →
    Does (.gangChange ch) s (fun t => t.gangs.get ch = { ctrl := v, pending := none } ∧ t.obj (Obj.gangStatus ch) = 0 ∧
      look t.cmdStatus (Obj.gangApply ch) = some (cmdWord 0 2) ∧ (∀ m ∈ gangSet ch v, t.obj (Obj.ofn m) = s.obj (Obj.ofn ch)) ∧
      t.mem = s.mem ∧ t.pacers = s.pacers)) ∧
  (∀ (s : State) (ch m : Fin 4) (at' v : Nat), s.clocksRun → (s.gangs.get ch).pending = some (at', v) → at' ≤ s.tick ch →
    s.applyDue ch = false → (gangSet ch v).contains m = true → (s.programAt m at' true = false ∨ (m ≠ ch ∧ s.paceOf m ≠ ch)) →
    Does (.gangChange ch) s (fun t => (t.gangs.get ch).ctrl = (s.gangs.get ch).ctrl ∧ (t.gangs.get ch).pending = none)) ∧
  (∀ (s : State), s.clocksRun → (s.dp 0).safe = false → (s.pacer 0).program = none → (s.comp 0).frame = none →
    bit (s.dp 0).cfg.ctrl 31 = true → s.svc 0 = .reduced →
    ((s.dp 0).hpd = true → Does .safePictureStart s (fun t =>
      t = (s.setDp 0 { s.dp 0 with safe := true, vic := if Config.listsVic97 (s.oct (Obj.sinkInfo 0) 2048) then 97 else 16 }).setObj
        (Obj.dpState 0) 2)) ∧
    ((s.dp 0).hpd = false → Does .safePictureStart s (fun t => t.obj (Obj.dpState 0) = 2 ∧ (t.dp 0).safe = true ∧ (t.dp 0).hpd = true ∧
      (t.dp 0).vic = (if Config.listsVic97 (t.oct (Obj.sinkInfo 0) 2048) then 97 else 16) ∧ t.mem = s.mem ∧
      sameObjsBut s t [Obj.dpState 0, Obj.sinkTile 0])))

/-- Composition sets: the snapshot takes the set its pointer word names, or the default set for a pointer of 0, once before a
frame start, after what takes effect at its edge, and keeps it for the next one, or refuses it, counted and recorded; a held
pointer word is counted in SET_LATE; loaded tables stand ready; CLOSURE_CLEAR marks the regions whose actions end at the next
frame start. -/
def Obligations.CompositionSets : Prop :=
  (∀ (s u s1 : State) (ch : Fin 4) (ecc : Ecc) (n a : Nat) (x : Snap), s.clocksRun → u = { s.noteEcc ch ecc with readFault := ecc.bad } →
    u.nextFrame ch = some n → (u.comp ch).snapped = false → (u.comp ch).frame ≠ none → n ≤ u.snapLead ch → u.compUp ch = true → u.edgeDue ch = false → u.frameDue ch = false →
    u.inPair ch = false → s1 = u.setComp ch { u.comp ch with snapped := true } →
    (s1.setPtr ch = 0 ∨ s1.ptrHeld (s1.setPtr ch) = false) → a = (if s1.setPtr ch = 0 then 0 else s1.devNat (s1.setPtr ch) 8) →
    x = s1.takeSet ch a → x.bad = none →
    Does (.setSnapshot ch ecc) s (fun t => t = { s1.setComp ch ((s1.comp ch).use x) with readFault := none })) ∧
  (∀ (s u s1 : State) (ch : Fin 4) (ecc : Ecc) (n a o : Nat), s.clocksRun → u = { s.noteEcc ch ecc with readFault := ecc.bad } →
    u.nextFrame ch = some n → (u.comp ch).snapped = false → (u.comp ch).frame ≠ none → n ≤ u.snapLead ch → u.compUp ch = true → u.edgeDue ch = false → u.frameDue ch = false →
    u.inPair ch = false → s1 = u.setComp ch { u.comp ch with snapped := true } →
    (s1.setPtr ch = 0 ∨ s1.ptrHeld (s1.setPtr ch) = false) → a = (if s1.setPtr ch = 0 then 0 else s1.devNat (s1.setPtr ch) 8) →
    (s1.takeSet ch a).bad = some o →
    Does (.setSnapshot ch ecc) s (fun t => t.comps = s1.comps ∧ t.mem = s.mem ∧
      t.obj (Obj.setRefusals ch) = (s.obj (Obj.setRefusals ch) + 1) % 2 ^ 32 ∧ t.obj (Obj.setError ch) = eComp * 65536 + o)) ∧
  (∀ (s u s1 : State) (ch : Fin 4) (ecc : Ecc) (n : Nat), s.clocksRun → u = { s.noteEcc ch ecc with readFault := ecc.bad } →
    u.nextFrame ch = some n → (u.comp ch).snapped = false → (u.comp ch).frame ≠ none → n ≤ u.snapLead ch → u.compUp ch = true → u.edgeDue ch = false → u.frameDue ch = false →
    u.inPair ch = false → s1 = u.setComp ch { u.comp ch with snapped := true } → s1.setPtr ch ≠ 0 → s1.ptrHeld (s1.setPtr ch) = true →
    Does (.setSnapshot ch ecc) s (fun t => t.obj (Obj.setLate ch) = (s.obj (Obj.setLate ch) + 1) % 2 ^ 32 ∧ t.mem = s.mem ∧
      (t.comp ch).snapped = true ∧ (t.comp ch).force = (s.comp ch).force)) ∧
  (∀ (s u : State) (ch : Fin 4) (ecc : Ecc) (x : CompSet), s.clocksRun → u = { s.noteEcc ch ecc with readFault := ecc.bad } →
    (u.comp ch).loading = some x → (u.comp ch).idle = none →
    Does (.lutBankLoadDone ch ecc) s (fun t =>
      t = { u.setComp ch { u.comp ch with idle := some (u.bankOf (u.comp ch) x.bytes) } with readFault := none })) ∧
  (∀ (s : State) (who : Req) (ch : Fin 4) (mask : Nat), s.serves' who (Obj.closureClear ch) → s.inPair ch = false →
    Does (.closureClear who ch mask) s (fun t => t = (s.setComp ch
      { s.comp ch with regions := (s.comp ch).regions.zipIdx.map (fun q => if bit mask q.2 then { q.1 with cleared := true } else q.1) }).done
        (Obj.closureClear ch)))

/-- Display outputs and video inputs: DP_APPLY takes checked settings for a frame start, which take effect there and retrain the
link where they change it; training ends UP, or FAILED at the fifth failure; HPD low unplugs and HPD back trains; an unlocked
lane retrains; HDCP authentication and its loss; a video input's link, stream and loss. -/
def Obligations.DisplayLinks : Prop :=
  (∀ (s : State) (who : Req) (ch : Fin 4) (at' : Nat), s.serves' who (Obj.dpApply ch) → s.inPair ch = false →
    dpCtrlOk (s.stagedDp ch).ctrl = true → timingOk (s.stagedDp ch) (s.lChk ch) (s.periodOf ch) = true →
    dscOk (s.stagedDp ch) (s.periodOf ch) = true → s.ahead ch at' = true → s.fitsWaiting ch at' (s.stagedDp ch) = true →
    (s.startsAt ch at' = true ∨ ((s.pacer ch).change.dueAt = some at' ∧ at' ≠ 0)) →
    Does (.dpApply who ch at') s (fun t => t = ({ s with dps := s.dps.mod ch (fun d => { d with pending := some (at', s.stagedDp ch) }) } : State).accept
      (Obj.dpApply ch))) ∧
  (∀ (s : State) (who : Req) (ch : Fin 4) (at' : Nat), s.serves' who (Obj.dpApply ch) → s.inPair ch = false →
    (dpCtrlOk (s.stagedDp ch).ctrl = false ∨ timingOk (s.stagedDp ch) (s.lChk ch) (s.periodOf ch) = false ∨
      dscOk (s.stagedDp ch) (s.periodOf ch) = false ∨ s.ahead ch at' = false ∨ s.fitsWaiting ch at' (s.stagedDp ch) = false) →
    Does (.dpApply who ch at') s (fun t => t = s.refuse (Obj.dpApply ch) rcRange)) ∧
  (∀ (s : State) (ch : Fin 4) (at' : Nat) (c : DpCfg), s.clocksRun → (s.dp ch).pending = some (at', c) → at' ≤ s.tick ch →
    Does (.dpTimingEffect ch) s (fun t => (t.dp ch).cfg = c ∧ (t.dp ch).pending = none ∧ look t.cmdStatus (Obj.dpApply ch) = some (cmdWord 0 2) ∧
      ((s.dp ch).retrains c = false → sameObjsBut s t [Obj.hdcpState ch, Obj.padLatched]) ∧
      t.obj (Obj.hdcpState ch) = (if bit c.ctrl 10 = true ∧ (s.dp ch).retrains c = false then s.obj (Obj.hdcpState ch) else 0) ∧
      ((s.dp ch).retrains c = true → t.obj (Obj.hdcpState ch) = 0 ∧
        t.obj (Obj.dpState ch) = (if !bit c.ctrl 31 then 0 else if (s.dp ch).hpd then 1 else 3)))) ∧
  (∀ (s : State) (ch : Fin 4), s.clocksRun → s.obj (Obj.dpState ch) = 1 → s.linkReady ch = true →
    (dpRateOk (s.dp ch).cfg.ctrl = true → Does (.dpTrainingDone ch true) s (fun t =>
      t = (s.setDp ch { s.dp ch with attempts := 0 }).setObj (Obj.dpState ch) 2)) ∧
    (∀ ok : Bool, (ok = false ∨ dpRateOk (s.dp ch).cfg.ctrl = false) →
      ((s.dp ch).attempts < 4 → Does (.dpTrainingDone ch ok) s (fun t => t = s.setDp ch { s.dp ch with attempts := (s.dp ch).attempts + 1 })) ∧
      (4 ≤ (s.dp ch).attempts → Does (.dpTrainingDone ch ok) s (fun t => t.obj (Obj.dpState ch) = 4 ∧ t.mem = s.mem)))) ∧
  (∀ (s : State) (ch : Fin 4), s.clocksRun → bit (s.dp ch).cfg.ctrl 31 = true →
    Does (.hpdLowTimeout ch) s (fun t => t.obj (Obj.dpState ch) = 3 ∧ t.obj (Obj.hdcpState ch) = 0 ∧ (t.dp ch).hpd = false) ∧
    ((s.dp ch).hpd = false → Does (.hpdReturn ch) s (fun t => t.obj (Obj.dpState ch) = 1 ∧ t.obj (Obj.hdcpState ch) = 0 ∧ (t.dp ch).hpd = true)) ∧
    (s.obj (Obj.dpState ch) = 2 → (s.dp ch).hpd = true → Does (.irqHpd ch true) s (fun t => t.obj (Obj.dpState ch) = 1 ∧
      t.obj (Obj.dpRetrains ch) = (s.obj (Obj.dpRetrains ch) + 1) % 2 ^ 32))) ∧
  (∀ (s : State) (ch : Fin 4) (type1 : Bool), s.clocksRun → bit (s.dp ch).cfg.ctrl 10 = true → s.obj (Obj.dpState ch) = 2 →
    s.obj Obj.hdcpKeyState ≠ 0 → Does (.hdcpAuthDone ch type1) s (fun t => t = s.setObj (Obj.hdcpState ch) (if type1 then 2 else 1))) ∧
  (∀ (s : State) (ch : Fin 4), s.clocksRun → s.obj (Obj.hdcpState ch) ≠ 0 →
    Does (.hdcpLoss ch) s (fun t => t.obj (Obj.hdcpState ch) = 0 ∧ t.mem = s.mem ∧
      (s.carriesProtected ch = true → (t.comp ch).cutOff = true))) ∧
  (∀ (s : State) (i : Dpin) (rate lanes : Nat), s.clocksRun → rate ≤ bits (s.obj (Obj.dpinCtrl (Dpin.num i))) 30 28 →
    lanes ≤ bits (s.obj (Obj.dpinCtrl (Dpin.num i))) 27 26 → s.dpinOn (Dpin.num i) = true → s.inputSet (Dpin.num i) ≠ [] →
    s.obj (Obj.dpinState (Dpin.num i)) < 2 → s.linkReady (4 + Dpin.num i) = true →
    Does (.dpinLinkTrained i rate lanes) s (fun t => t = s.setObj (Obj.dpinState (Dpin.num i)) 2)) ∧
  (∀ (s : State) (i : Dpin) (rate lanes : Nat), s.clocksRun →
    (bits (s.obj (Obj.dpinCtrl (Dpin.num i))) 30 28 < rate ∨ bits (s.obj (Obj.dpinCtrl (Dpin.num i))) 27 26 < lanes) →
    Does (.dpinLinkTrained i rate lanes) s (fun t => t = s)) ∧
  (∀ (s : State) (i : Dpin) (f : StreamFmt), s.clocksRun → (s.obj (Obj.dpinState (Dpin.num i)) = 2 ∨ s.obj (Obj.dpinState (Dpin.num i)) = 3) →
    Does (.dpinStreamPresent i f) s (fun t => look t.streams (Dpin.num i) = some f ∧ t.obj (Obj.dpinState (Dpin.num i)) = 3 ∧
      t.obj (Obj.dpinFormat (Dpin.num i)) = fmtWord f ∧ t.obj (Obj.dpinHdcp (Dpin.num i)) =
        (if bit (s.obj (Obj.dpinCtrl (Dpin.num i))) 23 = true ∧ s.obj Obj.hdcpKeyState = 1 then min f.hdcpType 2 else 0))) ∧
  (∀ (s : State) (i : Dpin), s.clocksRun → (s.obj (Obj.dpinState (Dpin.num i)) = 2 ∨ s.obj (Obj.dpinState (Dpin.num i)) = 3) →
    Does (.dpinLinkLoss i) s (fun t => look t.streams (Dpin.num i) = none ∧ t.obj (Obj.dpinState (Dpin.num i)) = 1 ∧
      t.obj (Obj.dpinFormat (Dpin.num i)) = 0 ∧ t.obj (Obj.dpinLinkLosses (Dpin.num i)) = (s.obj (Obj.dpinLinkLosses (Dpin.num i)) + 1) % 2 ^ 32))

/-- Channel memory and cache slices: training and retraining end TRAINED or FAILED; MEM_HOT and the drift follow their reports;
MEM_RETRAIN runs only on a COVERED or OFFLINE channel (that it answers BUSY to a memory that is off or in training is the
model's choice, log entry 104); CACHE_CTRL brings slices into and out of service, but not the last of a kind while the channel
is in service, and invalidation, hand-over and the return scan complete it: a slice that has written back its dirty lines
passes its addresses on at the first edge at which no publication is open there. -/
def Obligations.MemoriesAndCaches : Prop :=
  (∀ (s : State) (ch : Fin 4), s.clocksRun → s.obj (Obj.memState ch) = 1 →
    Does (.memTrainingDone ch true) s (fun t => t.obj (Obj.memState ch) = 2 ∧ t.obj (Obj.trackDrift ch) = 0 ∧
      bit (t.obj (Obj.memFlags ch)) 0 = false ∧ t.mem = s.mem) ∧
    Does (.memTrainingDone ch false) s (fun t => t.obj (Obj.memState ch) = 4 ∧ t.mem = s.mem)) ∧
  (∀ (s : State) (ch : Fin 4) (hot : Bool), s.clocksRun →
    Does (.memTempReport ch hot) s (fun t => bit (t.obj (Obj.memFlags ch)) 1 = hot ∧ bit (t.obj (Obj.memFlags ch)) 0 = bit (s.obj (Obj.memFlags ch)) 0 ∧
      t.mem = s.mem)) ∧
  (∀ (s : State) (ch : Fin 4) (movement : Nat), s.clocksRun → s.obj (Obj.memState ch) = 2 → movement < 256 →
    Does (.trackStep ch movement) s (fun t => t.obj (Obj.trackDrift ch) = max (s.obj (Obj.trackDrift ch)) movement ∧
      (s.obj (Obj.trackLimit ch) < max (s.obj (Obj.trackDrift ch)) movement → bit (t.obj (Obj.memFlags ch)) 0 = true))) ∧
  (∀ (s : State) (who : Req) (ch : Fin 4), s.serves' who (Obj.memRetrain ch) → (s.svc ch = .covered ∨ s.svc ch = .offline) →
    (s.obj (Obj.memState ch) = 2 ∨ s.obj (Obj.memState ch) = 4) →
    Does (.memRetrain who ch 1) s (fun t => t = (s.setObj (Obj.memState ch) 3).accept (Obj.memRetrain ch))) ∧
  (∀ (s : State) (who : Req) (ch : Fin 4), s.serves' who (Obj.memRetrain ch) →
    ((s.svc ch ≠ .covered ∧ s.svc ch ≠ .offline) ∨ (s.obj (Obj.memState ch) ≠ 2 ∧ s.obj (Obj.memState ch) ≠ 4)) →
    Does (.memRetrain who ch 1) s (fun t => t = s.refuse (Obj.memRetrain ch) rcBusy)) ∧
  (∀ (s : State) (ch : Fin 4), s.clocksRun → s.obj (Obj.memState ch) = 3 →
    Does (.memRetrainDone ch true) s (fun t => t.obj (Obj.memState ch) = 2 ∧ t.obj (Obj.trackDrift ch) = 0 ∧ bit (t.obj (Obj.memFlags ch)) 0 = false ∧
      look t.cmdStatus (Obj.memRetrain ch) = some (cmdWord 0 2)) ∧
    Does (.memRetrainDone ch false) s (fun t => t.obj (Obj.memState ch) = 4 ∧ look t.cmdStatus (Obj.memRetrain ch) = some (cmdWord 0 3))) ∧
  (∀ (s : State) (who : Req) (ch : Fin 4) (v : Nat), s.serves' who (Obj.cacheCtrl ch) →
    (∀ p ∈ slices, bit (s.obj (Obj.cacheCtrl ch)) p.2 = false → bit (v % 64) p.2 = true → s.sliceFailed ch p.2 = false) →
    (s.leavesBare ch (v % 64) = false ∨ s.svc ch = .offline) → s.obj (Obj.memState ch) ≠ 0 →
    Does (.cacheCtrlWrite who ch v true) s (fun t => t.obj (Obj.cacheCtrl ch) = v % 64 ∧ t.reply = rcOk ∧ t.mem = s.mem ∧
      ∀ p ∈ slices,
        (bit (s.obj (Obj.cacheCtrl ch)) p.2 = bit (v % 64) p.2 → t.cacheSlice ch p.1 = s.cacheSlice ch p.1) ∧
        (bit (s.obj (Obj.cacheCtrl ch)) p.2 = false → bit (v % 64) p.2 = true → (s.cacheSlice ch p.1).phase = .off →
          (t.cacheSlice ch p.1).phase = .invalidating) ∧
        (bit (s.obj (Obj.cacheCtrl ch)) p.2 = true → bit (v % 64) p.2 = false →
          (∀ u, (s.cacheSlice ch p.1).phase = .upAt u →
            (t.cacheSlice ch p.1).phase = if s.tick ch < u then .off else .departAt (s.tick ch + 1)) ∧
          (∀ u, (s.cacheSlice ch p.1).phase = .backAt u →
            (t.cacheSlice ch p.1).phase = if s.tick ch < u then .off else .departAt (s.tick ch + 1)) ∧
          (∀ u, (s.cacheSlice ch p.1).phase = .scanAt u → (t.cacheSlice ch p.1).phase = .off) ∧
          ((s.cacheSlice ch p.1).phase = .invalidating → t.cacheSlice ch p.1 = s.cacheSlice ch p.1)))) ∧
  (∀ (s : State) (who : Req) (ch : Fin 4) (v : Nat) (passes : Bool), s.serves' who (Obj.cacheCtrl ch) →
    ((∃ p ∈ slices, bit (s.obj (Obj.cacheCtrl ch)) p.2 = false ∧ bit (v % 64) p.2 = true ∧ s.sliceFailed ch p.2 = true) ∨
     (passes = false ∧ (s.pacer ch).program.isSome = true ∧
      ∃ p ∈ slices, bit (s.obj (Obj.cacheCtrl ch)) p.2 = true ∧ bit (v % 64) p.2 = false)) →
    Does (.cacheCtrlWrite who ch v passes) s (fun t => t = s.answer rcRange)) ∧
  (∀ (s : State) (who : Req) (ch : Fin 4) (v : Nat), s.serves' who (Obj.cacheCtrl ch) →
    (∀ p ∈ slices, bit (s.obj (Obj.cacheCtrl ch)) p.2 = false → bit (v % 64) p.2 = true → s.sliceFailed ch p.2 = false) →
    (∃ p ∈ slices, bit (s.obj (Obj.cacheCtrl ch)) p.2 = true ∧ bit (v % 64) p.2 = false) → s.leavesBare ch (v % 64) = true →
    s.svc ch ≠ .offline → Does (.cacheCtrlWrite who ch v true) s (fun t => t = s.answer rcBusy)) ∧
  (∀ (s : State) (ch : Fin 4) (sl : Slice), s.clocksRun → (s.cacheSlice ch sl).phase = .invalidating →
    (∃ p ∈ slices, p.1 = sl ∧ bit (s.obj (Obj.cacheCtrl ch)) p.2 = true) →
    Does (.cacheInvalidateDone ch sl) s (fun t => t = { s with caches := t.caches } ∧ (t.cacheSlice ch sl).lines = [] ∧
      (t.cacheSlice ch sl).phase = (if s.partnerUp ch sl then .scanAt (s.tick ch + 1) else .upAt (s.tick ch + 1)))) ∧
  (∀ (s : State) (ch : Fin 4) (sl : Slice), s.clocksRun → (s.cacheSlice ch sl).phase = .invalidating →
    (∀ p ∈ slices, p.1 = sl → bit (s.obj (Obj.cacheCtrl ch)) p.2 = false) →
    Does (.cacheInvalidateDone ch sl) s (fun t => t = { s with caches := t.caches } ∧ (t.cacheSlice ch sl).lines = [] ∧
      (t.cacheSlice ch sl).phase = .off)) ∧
  (∀ (s : State) (ch : Fin 4) (sl : Slice) (u : Nat), s.clocksRun → (s.cacheSlice ch sl).phase = .departAt u → u ≤ s.tick ch →
    Does (.cacheHandoverDone ch sl) s (fun t => t.mem = s.mem ∧ (t.cacheSlice ch sl).phase = .drained ∧
      (t.cacheSlice ch sl).lines = (s.cacheSlice ch sl).lines.filter (fun e => !e.2.dirty) ∧
      t.obj (Obj.scWritebacks ch) = (s.obj (Obj.scWritebacks ch) + ((s.cacheSlice ch sl).lines.filter (fun e => e.2.dirty)).length) % 2 ^ 64)) ∧
  (∀ (s : State) (ch : Fin 4) (p : Slice × Nat), p ∈ slices → (s.cacheSlice ch p.1).phase = .drained → s.pointIdle ch p.1 = true →
    (((s.passSlices ch).cacheSlice ch p.1).lines = [] ∧ ((s.passSlices ch).cacheSlice ch p.1).phase =
      if bit (s.obj (Obj.cacheCtrl ch)) p.2 then .invalidating else .off)) ∧
  (∀ (s : State) (ch : Fin 4) (sl : Slice) (u : Nat), s.clocksRun → (s.cacheSlice ch sl).phase = .scanAt u → u ≤ s.tick ch →
    Does (.cacheReturnScanDone ch sl) s (fun t => t.mem = s.mem ∧ (t.cacheSlice ch sl).phase = .backAt (s.tick ch + 1)))

/-- Allocator pools: a pool is staged while no chunk is owned, takes effect with its descriptors zeroed, and each chunk is free
once zeroed. A trim selects the space's chunks without a live allocation at each edge and frees them when the work of the time
has ended. Address spaces: AS_INSTALL reads its four objects and starts the check; a table that fails is refused with its
descriptor's number; one that passes takes effect on each channel at its edge, whose unstarted commands are fetched again, and
is acknowledged when no older transfer remains. A table whose read meets an uncorrectable error is refused like one that fails
as a whole (log entry 141: the model's choice). -/
def Obligations.PoolsAndAddressSpaces : Prop :=
  (∀ (s : State) (who : Req) (ch : Fin 4) (chunks : Bool) (v b n : Nat),
    s.serves' who (if chunks then Obj.allocChunks ch else Obj.allocBase ch) → s.poolOwned ch = false →
    (b, n) = (if chunks then ((s.poolNext ch).1, v) else (v, (s.poolNext ch).2)) → n ≤ 65536 → b % 65536 = 0 → s.poolBad ch b n = false →
    Does (.allocPoolWrite who ch chunks v) s (fun t => t = ((s.setAlloc ch { s.allocs.get ch with staged := some (b, n), asOf := if (s.allocs.get ch).staged.isSome then (s.allocs.get ch).asOf else s.edgeNo ch }).setObj
      (if chunks then Obj.allocChunks ch else Obj.allocBase ch) v).answer rcOk)) ∧
  (∀ (s : State) (who : Req) (ch : Fin 4) (chunks : Bool) (v : Nat),
    s.serves' who (if chunks then Obj.allocChunks ch else Obj.allocBase ch) → s.poolOwned ch = true →
    Does (.allocPoolWrite who ch chunks v) s (fun t => t = s.answer rcBusy)) ∧
  (∀ (s : State) (ch : Fin 4) (b n : Nat), s.clocksRun → (s.allocs.get ch).staged = some (b, n) → s.poolDue ch = true →
    Does (.allocPoolEffect ch) s (fun t => t = { s with mem := t.mem, allocs := t.allocs, owners := t.owners } ∧
      t.allocs.get ch = Allocator.mk b n none 0 [] (decide (n = metaChunks n)) [] [] ∧
      (∀ a, b ≤ a → a < b + metaChunks n * 65536 → t.byteAt a = 0) ∧ sameMemBut s t b (metaChunks n * 65536))) ∧
  (∀ (s : State) (ch : Fin 4) (chunk : Nat), s.clocksRun → (s.allocs.get ch).dataChunks.contains chunk = true →
    (s.allocs.get ch).zeroed.contains chunk = false → entryOwned (s.owner ch chunk) = false → s.memUp ch = true →
    Does (.chunkZeroed ch chunk) s (fun t => t = { s with mem := t.mem, allocs := t.allocs } ∧ chunk ∈ (t.allocs.get ch).zeroed ∧
      (∀ a, (s.allocs.get ch).base + 65536 * chunk ≤ a → a < (s.allocs.get ch).base + 65536 * chunk + 65536 → t.byteAt a = 0) ∧
      sameMemBut s t ((s.allocs.get ch).base + 65536 * chunk) 65536)) ∧
  (∀ (s : State) (who : Req) (k : Nat), s.serves' who (Obj.allocTrim k) → (s.space k).busy = false →
    Does (.allocTrim who k 1) s (fun t => t = (s.setSpace k
      { s.space k with phase := .pending, trim := true, code := 0, failIdx := 0, passed := [], since := s.edges, trimSel := [], trimRuns := [] }).accept
        (Obj.allocTrim k))) ∧
  (∀ (s : State) (who : Req) (k : Nat), s.serves' who (Obj.allocTrim k) → (s.space k).busy = true →
    Does (.allocTrim who k 1) s (fun t => t = s.refuse (Obj.allocTrim k) rcBusy)) ∧
  (∀ (s : State) (ch : Fin 4) (k : Nat), s.clocksRun → (s.space k).phase = .pending → (s.space k).trim = true →
    (s.space k).passed.contains ch.val = false → (s.space k).since.get ch < s.edgeNo ch →
    Does (.trimSelect ch k) s (fun t => t = { s with spaces := t.spaces } ∧ (t.space k).passed = ch.val :: (s.space k).passed ∧
      (t.space k).phase = (if (s.space k).passed.length = 3 then .draining else .pending) ∧
      (t.space k).trimSel = (s.space k).trimSel ++
        (((s.allocs.get ch).dataChunks.filter (fun i => s.chunkOwned k ch i && !(s.allocs.get ch).live i)).map (fun i => (ch.val, i))))) ∧
  (∀ (s : State) (k : Nat), s.clocksRun → (s.space k).phase = .draining → (s.space k).trim = true → (s.space k).empty = false →
    (∀ i ∈ (s.space k).trimRuns, s.runs.any (fun e => e.1 = i) = false ∧ s.pubs.any (fun e => e.1 = i) = false) →
    Does (.trimDrainDone k) s (fun t => (t.space k).phase = .done ∧ (t.space k).ack = (s.space k).ack ∧
      look t.cmdStatus (Obj.allocTrim k) = some (cmdWord 0 2) ∧
      t.mem = ((s.space k).trimSel.foldl (fun s p => s.releaseChunk (toCh p.1) p.2) s).mem)) ∧
  (∀ (s : State) (who : Req) (k : Nat), s.serves' who (Obj.asInstall k) → (s.space k).busy = false →
    Does (.asInstall who k 1) s (fun t => t = (s.setSpace k
      { s.space k with
        phase := .checking, trim := false, code := 0, failIdx := 0, passed := [],
        next := some (Gen.mk (((s.space k).newest.num + 1) % 2 ^ 32) (s.obj (Obj.asRtAddr k)) (s.obj (Obj.asRtCount k)) (s.obj (Obj.asAllocVa k))
          (bit (s.obj (Obj.asFlags k)) 0)) }).accept (Obj.asInstall k))) ∧
  (∀ (s : State) (who : Req) (k : Nat), s.serves' who (Obj.asInstall k) → (s.space k).busy = true →
    Does (.asInstall who k 1) s (fun t => t = s.refuse (Obj.asInstall k) rcBusy)) ∧
  (∀ (s u : State) (k : Nat) (g : Gen) (ecc : Ecc), s.clocksRun → (s.space k).phase = .checking → (s.space k).next = some g →
    ecc.bad = none → u = s.noteEcc (chanOf g.addr) ecc → u.tableCheck k g = none →
    Does (.asCheckDone k ecc) s (fun t => t = u.setSpace k { s.space k with
      phase := .pending, newest := g, prior := some (s.space k).newest, since := s.edges, passed := [] })) ∧
  (∀ (s u : State) (k i : Nat) (g : Gen) (ecc : Ecc), s.clocksRun → (s.space k).phase = .checking → (s.space k).next = some g →
    (s.space k).empty = false → u = s.noteEcc (chanOf g.addr) ecc →
    (ecc.bad = none ∧ u.tableCheck k g = some i ∨ ecc.bad ≠ none ∧ i = 0) →
    Does (.asCheckDone k ecc) s (fun t => t.space k = { s.space k with phase := .refused, code := eRangeTable, failIdx := i, next := none } ∧
      look t.cmdStatus (Obj.asInstall k) = some (cmdWord eRangeTable 3) ∧ t.mem = s.mem)) ∧
  (∀ (s : State) (ch : Fin 4) (k : Nat) (g : Gen), s.clocksRun → (s.space k).phase = .pending → (s.space k).next = some g → (s.space k).trim = false →
    (s.space k).passed.contains ch.val = false → (s.space k).since.get ch < s.edgeNo ch →
    Does (.asGenEffect ch k) s (fun t => t = { s with spaces := t.spaces, queues := t.queues, launches := t.launches } ∧
      (t.space k).force.get ch = g ∧ (∀ c, c ≠ ch → (t.space k).force.get c = (s.space k).force.get c) ∧
      (t.space k).phase = (if (s.space k).passed.length = 3 then .draining else .pending) ∧
      ∀ q x, look s.queues q = some x → x.ch = ch.val → s.ctxAs x.ctx = k → look t.queues q = some x.unfetch)) ∧
  (∀ (s : State) (k : Nat) (g : Gen), s.clocksRun → (s.space k).phase = .draining → (s.space k).next = some g → (s.space k).trim = false →
    (s.space k).empty = false → (s.space k).making = false → s.drained k = true →
    Does (.asDrainDone k) s (fun t => (t.space k).phase = .done ∧ (t.space k).ack = g.num ∧ (t.space k).next = none ∧ t.mem = s.mem ∧
      look t.cmdStatus (Obj.asInstall k) = some (cmdWord 0 2)))

/-- The host port: configuration writes and link training; resets of a function close its windows, requests, mailboxes and log and
tear its contexts down; BAR2 reads and writes channel memory of a channel that is not OFFLINE, a read of a held line waits,
and one that meets an uncorrectable error answers ones, and during a standby they wait; and the two mailboxes of a function. -/
def Obligations.HostPort : Prop :=
  (∀ (s : State) (f : Nat) (bm at' : Bool), s.clocksRun → f < 16 →
    Does (.pcieConfigWrite f bm at') s (fun t => t = { s with pcieFns := put s.pcieFns f { busMaster := bm, atomicEn := at' } })) ∧
  (∀ (s : State) (speed width : Nat), s.clocksRun → 1 ≤ speed → speed ≤ 5 → (width = 1 ∨ width = 2 ∨ width = 4 ∨ width = 8) →
    Does (.pcieLinkTrained speed width) s (fun t => t = s.setObj Obj.pcieLink (speed * 2 ^ 28 + width * 2 ^ 24))) ∧
  (∀ (s : State) (f : Nat), s.clocksRun → s.awake = true → 1 ≤ f → f < 16 → s.ctxsOf f = [] →
    Does (.functionLevelReset f) s (fun t => t.mem = s.mem ∧ t.ctxs = s.ctxs ∧ look t.windows f = none ∧
      (∀ q ∈ t.marshalQ, q.src ≠ .fn f) ∧ (∀ q ∈ s.marshalQ, q.src ≠ .fn f → q ∈ t.marshalQ) ∧ look t.mboxes (mbH2m f) = none ∧
      look t.mboxes (mbM2h f) = none ∧ look t.vfLogs f = some AttnLog.reset)) ∧
  (∀ (s : State), s.clocksRun → s.awake = true → s.ctxs = [] →
    Does .hotReset s (fun t => t.mem = s.mem ∧ t.devLog = AttnLog.reset ∧
      ∀ f < 16, look t.windows f = none ∧ look t.mboxes (mbH2m f) = none ∧ look t.mboxes (mbM2h f) = none ∧ ∀ q ∈ t.marshalQ, q.src ≠ .fn f) ∧
    Does .linkDownReset s (fun t => t.mem = s.mem ∧ t.devLog = AttnLog.reset ∧ t.obj Obj.pcieLink = 0)) ∧
  (∀ (s : State) (a n : Nat) (e : Ecc), s.clocksRun → s.awake = true → bar2Ok 0 a n = true → s.bar2Open a n = true →
    (pieces a n).find? (s.heldFrom none) = none →
    Does (.bar2Read 0 a n e) s (fun t => t.mem = s.mem ∧
      t.hostRead = some (if e.bad = none then s.read a n else List.replicate n 0xFF) ∧
      t.ctxs = s.ctxs ∧ t.queues = s.queues ∧ t.runs = s.runs)) ∧
  (∀ (s : State) (a n k : Nat) (e : Ecc), s.clocksRun → s.awake = true → bar2Ok 0 a n = true → s.bar2Open a n = true →
    (pieces a n).find? (s.heldFrom none) = some k →
    Does (.bar2Read 0 a n e) s (fun t => t = s.hold .host none [k] ∧ t.hostRead = s.hostRead ∧ t.mem = s.mem)) ∧
  (∀ (s : State) (a n : Nat) (e : Ecc), s.clocksRun → s.awake = true → bar2Ok 0 a n = true → s.bar2Open a n = false →
    Does (.bar2Read 0 a n e) s (fun t => t = { s with hostRead := some (List.replicate n 0xFF) })) ∧
  (∀ (s : State) (f a n : Nat) (e : Ecc), s.clocksRun → s.awake = true → bar2Ok f a n = false →
    Does (.bar2Read f a n e) s (fun t => t = { s with hostRead := none })) ∧
  (∀ (s : State) (a : Nat) (bs : List (BitVec 8)), s.clocksRun → s.awake = true → bar2Ok 0 a bs.length = true → s.bar2Open a bs.length = true →
    Does (.bar2Write 0 a bs) s (fun t => t = { s with mem := t.mem, caches := t.caches, objs := t.objs, tags := t.tags } ∧
      t.read a bs.length = bs ∧ sameMemBut s t a bs.length ∧ sameObjsBut s t accessCounters ∧ (∀ x ∈ t.tags, x ∈ s.tags))) ∧
  (∀ (s : State) (f a n : Nat) (bs : List (BitVec 8)) (e : Ecc), s.clocksRun → s.awake = false →
    Does (.bar2Write f a bs) s (fun t => t = { s with barWait := s.barWait ++ [.write f a bs] }) ∧
    Does (.bar2Read f a n e) s (fun t => t = { s with barWait := s.barWait ++ [.read f a n e] })) ∧
  (∀ (s : State) (f a : Nat) (bs : List (BitVec 8)), s.clocksRun → s.awake = true → (bar2Ok f a bs.length = false ∨ s.bar2Open a bs.length = false) →
    Does (.bar2Write f a bs) s (fun t => t = s)) ∧
  (∀ (s : State) (f ptr seq : Nat), s.clocksRun → f < 16 → (s.mbox (mbM2h f)).pending = false →
    Does (.marshalToHostNotice f ptr seq) s (fun t => t.mem = s.mem ∧ t.mbox (mbM2h f) = { s.mbox (mbM2h f) with
      reg := ptr, pending := true, ptr := ptr, tag := 0x81 * 2 ^ 24 + seq % 256 })) ∧
  (∀ (s : State) (f rc : Nat), s.clocksRun → f < 16 → (s.mbox (mbM2h f)).pending = true → rc < 65536 →
    Does (.m2hTake f rc) s (fun t => t = s.setMbox (mbM2h f) { s.mbox (mbM2h f) with
      pending := false, seq := ((s.mbox (mbM2h f)).seq + 1) % 256, rc := rc }))

/-- The T1 port: its link; its address, probed, announced and defended (log entry 115); requests for its address answered (that
their sender enters the address cache is the model's, log entry 115) and echo requests answered, IEEE 802.1AS time; and
QUEUE_DB, which sets WPTR and RUNG, and is discarded and counted where the queue is not the function's or the value lies past
its entries, with the fetcher's sample of it. -/
def Obligations.T1PortAndDoorbells : Prop :=
  (∀ (s : State), s.clocksRun →
    (s.obj Obj.t1State = 0 → Does (.t1LinkChange true) s (fun t => t = s.setObj Obj.t1State 1)) ∧
    Does (.t1LinkChange false) s (fun t => t = (s.setObj Obj.t1State 0).setObj Obj.t1Addr 0)) ∧
  (∀ (s : State) (a : Nat), s.clocksRun → s.obj Obj.t1State = 1 →
    (s.obj Obj.t1Ipv4 ≠ 0 → Does (.t1AddressAcquired a) s (fun t => t = s.takeAddress (s.obj Obj.t1Ipv4))) ∧
    (s.obj Obj.t1Ipv4 = 0 → linkLocal a = true → Does (.t1AddressAcquired a) s (fun t => t = s.takeAddress a))) ∧
  (∀ (s : State) (a : Nat), (s.takeAddress a).obj Obj.t1State = 2 ∧ (s.takeAddress a).obj Obj.t1Addr = a ∧
    (s.takeAddress a).t1Out = s.t1Out ++ [.probe a, .probe a, .probe a, .announce a, .announce a] ∧
    sameObjsBut s (s.takeAddress a) [Obj.t1State, Obj.t1Addr]) ∧
  (∀ (s : State), s.clocksRun → s.obj Obj.t1State ≠ 0 →
    (s.obj Obj.t1Ipv4 ≠ 0 → Does .addressConflict s (fun t => t.obj Obj.t1State = 3 ∧ t.obj Obj.t1Addr = 0)) ∧
    (s.obj Obj.t1Ipv4 = 0 → s.obj Obj.t1State = 2 → (∀ t, s.defended = some t → t + defendInterval ≤ s.now) →
      Does .addressConflict s (fun t => t = { s with t1Out := s.t1Out ++ [.announce (s.obj Obj.t1Addr)], defended := some s.now })) ∧
    (s.obj Obj.t1Ipv4 = 0 → (s.obj Obj.t1State ≠ 2 ∨ ∃ t, s.defended = some t ∧ s.now < t + defendInterval) →
      Does .addressConflict s (fun t => t.obj Obj.t1State = 1 ∧ t.obj Obj.t1Addr = 0))) ∧
  (∀ (s : State) (who : Req) (v : List (BitVec 8)), s.serves' who (key 0x1020 2) → v.length = 4 → s.obj Obj.t1State ≠ 0 →
    Does (.t1AddressWrite who 2 v) s (fun t => t.obj (key 0x1020 2) = leNat v ∧ t.obj Obj.t1State = 1 ∧ t.obj Obj.t1Addr = 0 ∧ t.reply = rcOk)) ∧
  (∀ (s : State) (ip mac target : Nat), s.clocksRun →
    (s.obj Obj.t1State = 2 → target = s.obj Obj.t1Addr → Does (.arpRequest ip mac target) s (fun t =>
      t = { s with t1Out := s.t1Out ++ [.arp ip mac], arp := ((ip, mac) :: s.arp.filter (fun e => e.1 ≠ ip)).take 16 })) ∧
    (target ≠ s.obj Obj.t1Addr → Does (.arpRequest ip mac target) s (fun t => t = s))) ∧
  (∀ (s : State) (ip ident : Nat) (data : List (BitVec 8)), s.clocksRun → s.obj Obj.t1State = 2 →
    (data.length ≤ 1024 → Does (.icmpEchoRequest ip ident data) s (fun t => t = { s with t1Out := s.t1Out ++ [.echo ip ident data] })) ∧
    (1024 < data.length → Does (.icmpEchoRequest ip ident data) s (fun t => t = s))) ∧
  (∀ (s : State) (now time delay : Nat), s.clocksRun → s.obj Obj.t1AsEn ≠ 0 → s.obj Obj.t1State ≠ 0 →
    Does (.asTimeMessage now time delay true) s (fun t => t.asTime = time ∧ t.asAt = some now ∧ t.asDelay = delay ∧ t.obj Obj.t1AsState = 2 ∧
      ∀ t0, s.asAt = some t0 → t0 < now → s.asTime < time → t.asRate = (time - s.asTime, now - t0)) ∧
    Does (.asTimeMessage now time delay false) s (fun t => t = { s.at now with asDelay := delay })) ∧
  (∀ (s : State), s.clocksRun → s.obj Obj.t1AsState = 2 → Does .asSyncLoss s (fun t => t.obj Obj.t1AsState = 3 ∧ t.asNow = s.asNow)) ∧
  (∀ (s : State) (f q w : Nat) (x : Queue) (c : Context), s.clocksRun → s.power.p2 = .awake → f < 16 → q < 2048 → s.resetting f = false → look s.queues q = some x →
    look s.ctxs x.ctx = some c → c.owner = f → c.state ≠ .teardown → w < x.entries →
    Does (.queueDb f q w) s (fun t => t = s.setQueue q { x with wptr := w, rung := true, idle := false })) ∧
  (∀ (s : State) (f q w : Nat), s.clocksRun → s.power.p2 = .awake → f < 16 → q < 2048 → s.resetting f = false →
    (∀ x, look s.queues q = some x → x.entries ≤ w ∨
      ∀ c, look s.ctxs x.ctx = some c → c.owner ≠ f ∨ c.state = .teardown) →
    Does (.queueDb f q w) s (fun t => t.queues = s.queues ∧
      t.obj (own (.fn f) Obj.doorbellDrops) = (s.obj (own (.fn f) Obj.doorbellDrops) + 1) % 2 ^ 32)) ∧
  (∀ (s : State) (f q w : Nat), s.clocksRun → s.power.p2 = .awake → s.resetting f = true → Does (.queueDb f q w) s (fun t => t = s)) ∧
  (∀ (s : State) (q : Nat) (x : Queue), s.clocksRun → look s.queues q = some x →
    (∀ y, y = { x with sampled := x.wptr, rung := false, idle := false } → (x.rung = true ∨ x.readPtr ≠ x.sampled) →
      Does (.fetcherSample q) s (fun t => t = s.setQueue q { y with ahead := x.ahead || y.prefetches })) ∧
    (x.rung = false → x.readPtr = x.sampled → Does (.fetcherSample q) s (fun t => t = s.setQueue q { x with idle := true })))

/-- Notices to Marshal: one that Marshal takes is answered in its mailbox and carried out (an image received and checked with its
result record, a policy, a trace ring, a RESTORE block); one of a virtual function is answered UNKNOWN; one that finds its
mailbox full is discarded and counted. -/
def Obligations.NoticesToMarshal : Prop :=
  (∀ (s s1 : State) (ptr user n u code : Nat) (dev : Bool) (b : List Byte), s.clocksRun → s.power.p2 = .awake → s.marshal = .running →
    (s.mbox (mbH2m 0)).pending = false → ptr < 2 ^ 64 → ptr % 8 = 0 → s.reaches dev ptr 128 = true → user < 2 ^ 23 →
    n = s.readNat (spaceKey dev ptr + 8) 8 → s.reaches dev (s.readNat (spaceKey dev ptr) 8) n = true → s.receiving = none →
    headerSize ≤ n → n ≤ imageLimit → b = s.read (spaceKey dev (s.readNat (spaceKey dev ptr) 8)) n → u = field b 6 2 →
    (s.headerCheck b = 0 → s.mayReceive (.fn 0) u = true ∧ s.unitOff u = false) → code = s.imageCheck b →
    s1 = s.setMbox (mbH2m 0) ((s.mbox (mbH2m 0)).send ptr (2 ^ 24 + (if dev then 2 ^ 23 else 0) + user)) →
    Does (.image 0 ptr dev user) s (fun t => t.images = ((s1.takeWith 0 0).endImage (.fn 0) b code).images ∧
      (t.mbox (mbH2m 0)).pending = false ∧ (t.mbox (mbH2m 0)).rc = 0 ∧
      t.read (spaceKey dev ptr + 0x40) 64 = resultRecord code u (field b 0x0C 4) (slice b 0x20 32) ∧
      sameMemBut s t (spaceKey dev ptr + 0x40) 64)) ∧
  (∀ (s : State) (ptr user n : Nat) (dev : Bool) (b : List Byte), s.clocksRun → s.power.p2 = .awake → s.marshal = .running →
    (s.mbox (mbH2m 0)).pending = false → ptr < 2 ^ 64 → ptr % 8 = 0 → s.reaches dev ptr 128 = true → user < 2 ^ 23 →
    n = s.readNat (spaceKey dev ptr + 8) 8 → s.reaches dev (s.readNat (spaceKey dev ptr) 8) n = true →
    b = s.read (spaceKey dev (s.readNat (spaceKey dev ptr) 8)) (min n (policySize + 1)) →
    Does (.policy 0 ptr dev user) s (fun t => (s.policyOk b = true → t.policy = (s.usePolicy b).policy) ∧
      (s.policyOk b = false → t.policy = s.policy) ∧ (t.mbox (mbH2m 0)).pending = false ∧
      field (t.read (spaceKey dev ptr + 0x40) 64) 0 2 = (if s.policyOk b then 0 else ePolicy) ∧
      sameMemBut s t (spaceKey dev ptr + 0x40) 64)) ∧
  (∀ (s : State) (ptr user n i : Nat) (dev : Bool), s.clocksRun → s.power.p2 = .awake → s.marshal = .running →
    (s.mbox (mbH2m 0)).pending = false → ptr < 2 ^ 64 → ptr % 8 = 0 → s.reaches dev ptr 32 = true → user < 2 ^ 23 →
    s.readNat (spaceKey dev ptr) 8 % 32 = 0 → n = s.readNat (spaceKey dev ptr + 8) 4 → 6 ≤ i → i ≤ 20 → n = 2 ^ i →
    s.readNat (spaceKey dev ptr + 0x0C) 4 = 0 →
    Does (.traceRing 0 ptr dev user) s (fun t => t = { s with mboxes := t.mboxes, traceRing := t.traceRing } ∧
      t.traceRing = some { desc := spaceKey dev ptr, base := hostBase + s.readNat (spaceKey dev ptr) 8, entries := n, wptr := 0 } ∧
      (t.mbox (mbH2m 0)).pending = false ∧ (t.mbox (mbH2m 0)).rc = 0)) ∧
  (∀ (s : State) (ptr user : Nat) (dev : Bool), s.clocksRun → s.power.p2 = .awake → s.marshal = .running →
    (s.mbox (mbH2m 0)).pending = false → ptr < 2 ^ 64 → ptr % 8 = 0 → s.reaches dev ptr 304 = true → user < 2 ^ 23 →
    restoreShape (s.read (spaceKey dev ptr) 304) = false →
    Does (.restore 0 ptr dev user) s (fun t => field (t.read (spaceKey dev ptr + 0x20) 32) 0 2 = eRestoreFormat ∧
      t.octs = s.octs ∧ (t.mbox (mbH2m 0)).pending = false ∧ sameMemBut s t (spaceKey dev ptr + 0x20) 32)) ∧
  (∀ (s s1 : State) (ptr user : Nat) (dev : Bool) (r : Restored), s.clocksRun → s.power.p2 = .awake → s.marshal = .running →
    (s.mbox (mbH2m 0)).pending = false → ptr < 2 ^ 64 → ptr % 8 = 0 → s.reaches dev ptr 304 = true → user < 2 ^ 23 →
    (((s.setMbox (mbH2m 0) ((s.mbox (mbH2m 0)).send ptr (4 * 2 ^ 24 + (if dev then 2 ^ 23 else 0) + user))).takeWith 0 0).restore
      (s.read (spaceKey dev ptr) 304)) = (r, s1) → r.code = 0 →
    Does (.restore 0 ptr dev user) s (fun t => t.octs = s1.octs ∧ t.read (spaceKey dev ptr + 0x20) 32 =
      toLE 2 0 ++ toLE 1 0 ++ toLE 1 r.entry ++ toLE 2 r.applied ++ List.replicate 26 0)) ∧
  (∀ (s : State) (f ptr user : Nat) (dev : Bool) (i : Instr), s.clocksRun → s.power.p2 = .awake → s.marshal = .running → 1 ≤ f → f < 16 →
    (s.mbox (mbH2m f)).pending = false →
    i ∈ [Instr.image f ptr dev user, Instr.policy f ptr dev user, Instr.traceRing f ptr dev user, Instr.restore f ptr dev user] →
    Does i s (fun t => t = { s with mboxes := t.mboxes } ∧ (t.mbox (mbH2m f)).pending = false ∧ (t.mbox (mbH2m f)).rc = 1)) ∧
  (∀ (s : State) (f ptr user : Nat) (dev : Bool) (i : Instr), s.clocksRun → s.power.p2 = .awake → f < 16 → (s.mbox (mbH2m f)).pending = true →
    i ∈ [Instr.image f ptr dev user, Instr.policy f ptr dev user, Instr.traceRing f ptr dev user, Instr.restore f ptr dev user] →
    Does i s (fun t => t.mbox (mbH2m f) = { s.mbox (mbH2m f) with reg := ptr % 2 ^ 64 } ∧
      (∀ k, k ≠ mbH2m f → t.mbox k = s.mbox k) ∧ t.mem = s.mem ∧
      t.obj (own (.fn f) Obj.mbOverruns) = (s.obj (own (.fn f) Obj.mbOverruns) + 1) % 2 ^ 32))

/-- Contexts: creation within the quota, holds and releases, teardown at the last release or at CTX_ABORT, the edge of each
channel at which its running commands are killed, and the end, after which the context is FREE with its queues. -/
def Obligations.Contexts : Prop :=
  (∀ (s : State) (who : Req) (c v : Nat), s.serves' who (Obj.ctxCreate c) → v < 512 → look s.ctxs c = none →
    s.boundElse (v % 256) (reqFn who) = false → (s.space (v % 256)).empty = false →
    (s.space (v % 256)).making = false → (s.ctxsOf (reqFn who)).length < s.obj (Obj.ctxQuota (reqFn who)) →
    Does (.ctxCreate who c v) s (fun t => t = (s.setCtx c (Context.mk .active (reqFn who) (v % 256) (bit v 8) 1 (FaultRec.mk 0 0 0 0) [] (.all 0))).done
      (Obj.ctxCreate c))) ∧
  (∀ (s : State) (who : Req) (c v : Nat), s.serves' who (Obj.ctxCreate c) → v < 512 → look s.ctxs c ≠ none →
    Does (.ctxCreate who c v) s (fun t => t = s.refuse (Obj.ctxCreate c) rcBusy)) ∧
  (∀ (s : State) (who : Req) (c : Nat) (x : Context), s.serves' who (Obj.ctxHold c) → look s.ctxs c = some x → x.state ≠ .teardown →
    Does (.ctxHold who c 1) s (fun t => t = (s.setCtx c { x with hostRefs := x.hostRefs + 1 }).done (Obj.ctxHold c))) ∧
  (∀ (s : State) (who : Req) (c : Nat) (x : Context), s.serves' who (Obj.ctxRelease c) → look s.ctxs c = some x → x.state ≠ .teardown →
    s.displays c = false →
    (2 ≤ x.hostRefs → Does (.ctxRelease who c 1) s (fun t => t = (s.setCtx c { x with hostRefs := x.hostRefs - 1 }).done (Obj.ctxRelease c))) ∧
    (x.hostRefs ≤ 1 → Does (.ctxRelease who c 1) s (fun t => t =
      { s with ctxs := t.ctxs, spaces := t.spaces, reply := rcOk, cmdStatus := t.cmdStatus, raised := t.raised, heldAttn := t.heldAttn } ∧
      look t.ctxs c = some { x with state := .teardown, hostRefs := 0, edges := [], since := s.edges } ∧
      look t.cmdStatus (Obj.ctxRelease c) = some (cmdWord 0 2)))) ∧
  (∀ (s : State) (who : Req) (c : Nat) (x : Context), s.serves' who (Obj.ctxAbort c) → look s.ctxs c = some x → x.state ≠ .teardown →
    (s.displays c = false → Does (.ctxAbort who c 1) s (fun t => t =
      { s with ctxs := t.ctxs, spaces := t.spaces, reply := rcOk, cmdStatus := t.cmdStatus, raised := t.raised, heldAttn := t.heldAttn } ∧
      look t.ctxs c = some { x with state := .teardown, hostRefs := 0, edges := [], since := s.edges })) ∧
    (s.displays c = true → Does (.ctxAbort who c 1) s (fun t => t = s.refuse (Obj.ctxAbort c) rcBusy))) ∧
  (∀ (s : State) (ch : Fin 4) (c : Nat) (x : Context), s.clocksRun → s.quiet → look s.ctxs c = some x → x.state = .teardown →
    x.edges.contains ch.val = false → x.since.get ch < s.edgeNo ch → s.ctxRuns ch c = [] → (∀ e ∈ s.queues, e.2.ctx = c → e.2.ch ≠ ch.val) →
    (s.space x.asid).making = false →
    Does (.teardownEdge ch c) s (fun t => look t.ctxs c = some { x with edges := ch.val :: x.edges } ∧ t.mem = s.mem ∧ t.queues = s.queues)) ∧
  (∀ (s : State) (ch : Fin 4) (c : Nat) (x : Context), s.clocksRun → look s.ctxs c = some x → x.state = .teardown →
    x.edges.contains ch.val = false → x.since.get ch < s.edgeNo ch →
    Does (.teardownEdge ch c) s (fun t => ∀ id r, look s.runs id = some r → r.ctx = c → r.ch = ch.val → r.cls ≠ 0 → look t.runs id = none)) ∧
  (∀ (s : State) (c : Nat) (x : Context), s.clocksRun → look s.ctxs c = some x → x.state = .teardown → x.edges.length = 4 → s.ctxQuiet c = true →
    Does (.teardownComplete c) s (fun t => look t.ctxs c = none ∧ ∀ q y, look t.queues q = some y → y.ctx ≠ c))

/-- Batons and quotas: a context's baton within its tenant's range, its shares and their release, with the baton FREE when nothing
refers to it; BATON_SIGNAL raises a baton and BATON_FAIL puts it in error; a quota that no holding exceeds is taken. -/
def Obligations.BatonsAndQuotas : Prop :=
  (∀ (s : State) (who : Req) (c b : Nat), s.serves' who (Obj.ctxBatonCreate c) → s.ownActive who c = true → b < 16384 →
    s.inTenant (reqFn who) b = true → look s.batons b = none →
    Does (.ctxBatonCreate who c b) s (fun t => t = (s.setBaton b (Baton.mk 0 0 .none (some c) [] false 0 0 0)).done (Obj.ctxBatonCreate c))) ∧
  (∀ (s : State) (who : Req) (c b : Nat), s.serves' who (Obj.ctxBatonCreate c) → s.ownActive who c = false →
    Does (.ctxBatonCreate who c b) s (fun t => t = s.refuse (Obj.ctxBatonCreate c) rcNotAuth)) ∧
  (∀ (s : State) (who : Req) (c v : Nat) (x : Baton), s.serves' who (Obj.ctxBatonShare c) → v < 2 ^ 24 → s.mayShare who c (bits v 23 16) = true →
    look s.batons (bits v 15 0) = some x → x.heldBy c = true → x.refs < 255 → x.heldBy (bits v 23 16) = false →
    Does (.ctxBatonShare who c v) s (fun t => t = (s.setBaton (bits v 15 0) { x with shares := x.shares ++ [bits v 23 16] }).done (Obj.ctxBatonShare c))) ∧
  (∀ (s : State) (who : Req) (c b d : Nat) (x : Baton), s.serves' who (Obj.ctxBatonRelease c) → s.quiet → look s.batons b = some x →
    x.owner = some d → d ≠ c → x.shares.contains c = true →
    Does (.ctxBatonRelease who c b) s (fun t => look t.batons b = some { x with shares := x.shares.filter (fun y => y != c) } ∧ t.mem = s.mem ∧
      look t.cmdStatus (Obj.ctxBatonRelease c) = some (cmdWord 0 2))) ∧
  (∀ (s : State) (who : Req) (c b : Nat) (x : Baton), s.serves' who (Obj.ctxBatonRelease c) → s.quiet → rising s.batons = true →
    look s.batons b = some x → x.owner = some c → x.shares = [] → (∀ m ∈ s.liveCmds, m.signalEn = true → m.sigBaton ≠ b) →
    (∀ m ∈ s.waitingCmds, m.waitEn = true → m.waitBaton ≠ b) →
    Does (.ctxBatonRelease who c b) s (fun t => look t.batons b = none ∧ t.mem = s.mem)) ∧
  (∀ (s : State) (who : Req) (b v : Nat) (x : Baton), s.serves' who Obj.batonSignal → s.quiet → s.maySignal who b = true → s.links = [] →
    look s.batons b = some x → x.inError = false → x.owner ≠ none → x.value < v → v < errValue →
    Does (.batonSignal who b v) s (fun t => t.mem = s.mem ∧
      look t.batons b = some { x with value := v, lastSig := hostSig who, lastTick := s.tick (stampCh noCh) } ∧
      look t.cmdStatus Obj.batonSignal = some (cmdWord 0 2))) ∧
  (∀ (s : State) (who : Req) (b v : Nat), s.serves' who Obj.batonSignal → s.maySignal who b = false →
    Does (.batonSignal who b v) s (fun t => t = s.refuse Obj.batonSignal rcNotAuth)) ∧
  (∀ (s : State) (who : Req) (b code : Nat) (x : Baton), s.serves' who Obj.batonFail → s.maySignal who b = true → s.links = [] →
    look s.batons b = some x → x.inError = false → x.owner ≠ none → 1 ≤ code → code < 0x8000 →
    Does (.batonFail who b code) s (fun t => ∃ y, look t.batons b = some y ∧ y.value = errValue ∧ y.inError = true ∧ y.errCode = code ∧
      y.errOrig = b)) ∧
  (∀ (s : State) (who : Req) (t' sub v base n : Nat), s.serves' who (key (0x1200 + t') sub) → t' < 16 → (sub = 1 ∨ sub = 2) →
    base = (if sub = 1 then v else s.obj (Obj.batonBase t')) → n = (if sub = 2 then v else s.obj (Obj.batonQuota t')) →
    s.rangeMeets t' base n = false → base + n ≤ 16384 → (∀ b ∈ s.tenantBatons t', base ≤ b ∧ b < base + n) →
    Does (.tenantQuotaWrite who t' sub v) s (fun t => t = (s.setObj (key (0x1200 + t') sub) v).answer rcOk)) ∧
  (∀ (s : State) (who : Req) (t' v : Nat), s.serves' who (key (0x1200 + t') 3) → t' < 16 →
    ((s.ctxsOf t').length ≤ v → Does (.tenantQuotaWrite who t' 3 v) s (fun t => t = (s.setObj (key (0x1200 + t') 3) v).answer rcOk)) ∧
    (v < (s.ctxsOf t').length → Does (.tenantQuotaWrite who t' 3 v) s (fun t => t = s.answer rcBusy)))

/-- Queues, courses and heats: a queue is made from the requester's staged values, closed, becomes FREE and is reported STALLED; a
course is checked, made, patched into a new version at the channels' edges, and destroyed; a heat is made IDLE with its
counters at 0, and freed. -/
def Obligations.QueuesCoursesHeats : Prop :=
  (∀ (s : State) (who : Req) (q v base n ring ringN : Nat), s.serves' who (Obj.qCreate q) → v < 0x8000 → bits v 10 8 ≤ 4 → bits v 14 13 ≠ 0 →
    base = s.obj (own who (Obj.qBase q)) → n = s.obj (own who (Obj.qEntries q)) → ring = s.obj (own who (Obj.qRing q)) →
    ringN = s.obj (own who (Obj.qRingEntries q)) → base % 16 = 0 → 2 ≤ n → n ≤ 65536 → ring % 64 = 0 →
    (ring ≠ 0 → 2 ≤ ringN ∧ ringN ≤ 4096) → look s.queues q = none → s.ownActive who (bits v 7 0) = true →
    (s.tenantQueues (reqFn who)).length < s.obj (Obj.queueQuota (reqFn who)) →
    Does (.qCreate who q v) s (fun t => t = (s.setQueue q (Queue.mk (bits v 7 0) (bits v 10 8) (bits v 12 11) (bits v 14 13) base n ring ringN
      0 false true 0 0 0 0 0 none [] 1 0 0 0 0 false false false false)).done (Obj.qCreate q))) ∧
  (∀ (s : State) (who : Req) (q : Nat) (x : Queue), s.serves' who (Obj.qDestroy q) → s.quiet → look s.queues q = some x → x.closing = false →
    s.ctxActive x.ctx = true → x.head = none →
    Does (.qDestroy who q 1) s (fun t => look t.queues q = some { x with closing := true } ∧ t.mem = s.mem ∧
      look t.cmdStatus (Obj.qDestroy q) = some (cmdWord 0 1))) ∧
  (∀ (s : State) (q : Nat) (x : Queue), s.clocksRun → s.quiet → look s.queues q = some x → x.closing = true → x.head = none → x.order = [] →
    Does (.queueClosed q) s (fun t => look t.queues q = none ∧ t.mem = s.mem ∧ look t.cmdStatus (Obj.qDestroy q) = some (cmdWord 0 2))) ∧
  (∀ (s : State) (q : Nat) (x : Queue), s.clocksRun → look s.queues q = some x → x.stalled = false → s.obj (Obj.stallTicks x.ch) ≤ x.readyTicks →
    Does (.queueStall q) s (fun t => t.queues = put s.queues q { x with stalled := true } ∧ t.mem = s.mem)) ∧
  (∀ (s : State) (who : Req) (k v : Nat), s.serves' who (Obj.courseCreate k) → v < 1024 → bits v 9 8 ≠ 0 → look s.courses k = none →
    s.ownActive who (v % 256) = true →
    Does (.courseCreate who k v) s (fun t => t = ({ s with courses := put s.courses k (Course.mk .checking (v % 256) (bits v 9 8) 0 0 0 []
      (some (s.obj (own who (Obj.courseAddr k)))) none (.all 0)) } : State).accept (Obj.courseCreate k))) ∧
  (∀ (s u : State) (k a : Nat) (ecc : Ecc) (x : Course) (nodes : List CourseNode), s.clocksRun → look s.courses k = some x → x.checking = some a →
    ecc.bad = none → u = s.noteEcc 0 ecc → u.courseTable (u.ctxXlat x.ctx 0 4 x.cls) x.cls a = .ok nodes →
    (x.state = .checking → Does (.courseCheckDone k ecc) s (fun t => t = ({ u with courses := put u.courses k { x with
      state := .ready, checking := none, code := 0, failNode := 0, version := 1, versions := [(1, nodes)] } } : State).ended (Obj.courseCreate k) 0 2)) ∧
    (x.state = .ready → Does (.courseCheckDone k ecc) s (fun t => t = { u with courses := put u.courses k { x with
      checking := none, code := 0, failNode := 0, waiting := some nodes, since := s.edges } }))) ∧
  (∀ (s u : State) (k a e i : Nat) (ecc : Ecc) (x : Course), s.clocksRun → look s.courses k = some x → x.checking = some a → x.state = .checking →
    u = s.noteEcc 0 ecc → ((ecc.bad ≠ none ∧ e = eMemError ∧ i = 0) ∨
      (ecc.bad = none ∧ u.courseTable (u.ctxXlat x.ctx 0 4 x.cls) x.cls a = .error (e, i) ∧ (heldAt e).isNone = true)) →
    Does (.courseCheckDone k ecc) s (fun t => look t.courses k = some { x with state := .refused, checking := none, code := e, failNode := i } ∧
      look t.cmdStatus (Obj.courseCreate k) = some (cmdWord e 3))) ∧
  (∀ (s : State) (who : Req) (k : Nat) (x : Course), s.serves' who (Obj.coursePatch k) → look s.courses k = some x → x.state ≠ .refused →
    x.checking = none → x.waiting = none →
    Does (.coursePatch who k 1) s (fun t => t = ({ s with courses := put s.courses k { x with checking := some (s.obj (own who (Obj.courseAddr k))) } } : State).accept
      (Obj.coursePatch k))) ∧
  (∀ (s : State) (k : Nat) (x : Course) (nodes : List CourseNode), s.clocksRun → s.quiet → rising s.courses = true → look s.courses k = some x →
    x.waiting = some nodes → (∀ c, x.since.get c < s.edgeNo c) →
    Does (.courseVersionEffect k) s (fun t => look t.cmdStatus (Obj.coursePatch k) = some (cmdWord 0 2) ∧ t.mem = s.mem ∧
      ∃ y, look t.courses k = some y ∧ y.version = x.version + 1 ∧ y.waiting = none ∧ look y.versions (x.version + 1) = some nodes)) ∧
  (∀ (s : State) (who : Req) (k : Nat), s.serves' who (Obj.courseDestroy k) → look s.courses k ≠ none →
    ((∀ l ∈ s.launches, l.2.course ≠ k) → Does (.courseDestroy who k 1) s (fun t => t = ({ s with courses := del s.courses k } : State).done (Obj.courseDestroy k))) ∧
    ((∃ l ∈ s.launches, l.2.course = k) → Does (.courseDestroy who k 1) s (fun t => t = s.refuse (Obj.courseDestroy k) rcBusy))) ∧
  (∀ (s : State) (who : Req) (ch : Fin 4) (h c : Nat) (v : HeatView), s.serves' who (Obj.heatCreate ch h) → h < 16 → look s.heats (heatKey ch h) = none →
    s.ownActive who c = true → s.heatHeader (s.heatXlat c ch) (s.obj (Obj.heatAddr ch h)) = .ok v →
    (∀ i < v.slots, s.getV (s.heatXlat c ch) (v.slot i) 4 = 0) →
    Does (.heatCreate who ch h c) s (fun t => t =
      { s with objs := t.objs, heats := t.heats, reply := rcOk, cmdStatus := t.cmdStatus, raised := t.raised, heldAttn := t.heldAttn } ∧
      look t.heats (heatKey ch h) = some { ctx := c, addr := s.obj (Obj.heatAddr ch h), seen := [] } ∧ t.obj (Obj.heatState ch h) = 1 ∧
      t.obj (Obj.heatCtx ch h) = c ∧ t.obj (Obj.heatSteps ch h) = 0 ∧ t.obj (Obj.heatJoins ch h) = 0 ∧ t.obj (Obj.heatLeaves ch h) = 0 ∧
      t.obj (Obj.heatDeferrals ch h) = 0 ∧ t.obj (Obj.heatRefused ch h) = 0 ∧ t.obj (Obj.heatLeaveMisses ch h) = 0)) ∧
  (∀ (s : State) (who : Req) (ch : Fin 4) (h : Nat) (y : Heat), s.serves' who (Obj.heatDestroy ch h) → look s.heats (heatKey ch h) = some y →
    (s.obj (Obj.heatState ch h) ≠ 2 → (∀ l ∈ s.launches, l.2.heat ≠ some (heatKey ch h)) →
      (s.memUp ch = true ∨ s.getV (s.heatXlat y.ctx ch) (y.addr + 4) 1 = 0) →
      Does (.heatDestroy who ch h 1) s (fun t => look t.heats (heatKey ch h) = none ∧ t.obj (Obj.heatState ch h) = 0 ∧
        look t.cmdStatus (Obj.heatDestroy ch h) = some (cmdWord 0 2))) ∧
    ((s.obj (Obj.heatState ch h) = 2 ∨ (∃ l ∈ s.launches, l.2.heat = some (heatKey ch h))) →
      Does (.heatDestroy who ch h 1) s (fun t => t = s.refuse (Obj.heatDestroy ch h) rcBusy)))

/-- Kister Link: a port that hears nothing for its limit goes DOWN; a port trains and identifies itself, and one wired to another
place is MISWIRED; publications close; batons of IMPORT entries are signalled; tables are checked and take effect at the owner
set's edge; and flits are counted, asked for again and delivered in their order. -/
def Obligations.KisterLink : Prop :=
  (∀ (s : State) (p : KlPort), s.clocksRun →
    (s.portUp (KlPort.num p) = true → Does (.klFlitTimeout p) s (fun t => t.obj (Obj.klState (KlPort.num p)) = 4 ∧ t.mem = s.mem ∧
      (t.link (KlPort.num p)).rxPubs = [] ∧ t.obj (Obj.klDownEvents (KlPort.num p)) = (s.obj (Obj.klDownEvents (KlPort.num p)) + 1) % 2 ^ 32)) ∧
    (s.portUp (KlPort.num p) = false → Does (.klFlitTimeout p) s (fun t => t = s))) ∧
  (∀ (s : State) (p : KlPort) (wide ok : Bool), s.clocksRun → s.obj (Obj.klState (KlPort.num p)) = 1 →
    (ok = true → s.linkReady (6 + KlPort.num p) = true → (wide = true ∨ bit (s.obj (Obj.klCtrl (KlPort.num p))) 29 = true) →
      Does (.klTrainingDone p wide ok) s (fun t => t.obj (Obj.klState (KlPort.num p)) = (if wide then 2 else 3) ∧ t.mem = s.mem ∧
        sameObjsBut s t [Obj.klState (KlPort.num p)] ∧ (∃ m, t.klOut = s.klOut ++ [(KlPort.num p, m)] ∧ field m 6 1 = 7))) ∧
    ((ok = false ∨ s.linkReady (6 + KlPort.num p) = false ∨ (wide = false ∧ bit (s.obj (Obj.klCtrl (KlPort.num p))) 29 = false)) → Does (.klTrainingDone p wide ok) s (fun t => t = s))) ∧
  (∀ (s : State) (p : KlPort) (d : List Byte) (index port : Nat), s.clocksRun → s.portUp (KlPort.num p) = true →
    (index = xor2 (s.obj Obj.deviceIndex) (if KlPort.num p = 0 then 1 else 2) → port = KlPort.num p → Does (.ident p d index port) s (fun t =>
      t = s.setOct (Obj.klPeer (KlPort.num p)) (slice d 0 12 ++ toLE 1 index ++ toLE 1 port ++ toLE 2 0))) ∧
    (port ≠ KlPort.num p → Does (.ident p d index port) s (fun t => t.obj (Obj.klState (KlPort.num p)) = 5 ∧ t.mem = s.mem))) ∧
  (∀ (s : State) (p : KlPort) (tag : Nat), s.clocksRun → Does (.closeAck p tag) s (fun t => t = { s with pubs := t.pubs } ∧
    (∀ id, id ≠ tag → look t.pubs id = look s.pubs id) ∧
    ∀ x, look s.pubs tag = some x → look t.pubs tag = some { x with peer := x.peer.filter (fun y => y ≠ (KlPort.num p, tag)) })) ∧
  (∀ (s : State) (p : KlPort) (b v : Nat) (x : Baton), s.clocksRun → s.quiet → s.portUp (KlPort.num p) = true → look s.batons b = some x →
    x.owner ≠ none → x.inError = false → x.value < v → v < errValue →
    (importsBaton (s.link (KlPort.num p)).batons b = true → Does (.forwardedBatonSignal p b v 0) s (fun t => t.mem = s.mem ∧
      look t.batons b = some { x with value := v, lastSig := .none, lastTick := s.tick (stampCh noCh) })) ∧
    (importsBaton (s.link (KlPort.num p)).batons b = false → Does (.forwardedBatonSignal p b v 0) s (fun t => t.batons = s.batons ∧ t.mem = s.mem ∧
      t.obj (Obj.klImportDrops (KlPort.num p)) = (s.obj (Obj.klImportDrops (KlPort.num p)) + 1) % 2 ^ 32))) ∧
  (∀ (s : State) (p : KlPort) (b v code : Nat) (x : Baton), s.clocksRun → s.portUp (KlPort.num p) = true → look s.batons b = some x →
    x.owner ≠ none → x.inError = false → importsBaton (s.link (KlPort.num p)).batons b = true → (v = errValue ∨ code ≠ 0) →
    Does (.forwardedBatonSignal p b v code) s (fun t => ∃ y, look t.batons b = some y ∧ y.value = errValue ∧ y.inError = true ∧
      y.errCode = code ∧ y.errOrig = b)) ∧
  (∀ (s : State) (who : Req) (p : KlPort) (w b theirs : List Byte), s.serves' who (Obj.klApply (KlPort.num p)) →
    w = s.oct (Obj.klWindows (KlPort.num p)) 512 → b = s.oct (Obj.klBatons (KlPort.num p)) 256 →
    theirs = ((s.link (1 - KlPort.num p)).pending.map (fun x => x.2.1)).getD (s.link (1 - KlPort.num p)).windows →
    ((∀ i < 16, winEntryOk (s.portSet (KlPort.num p)) w i = true) → overlapping (exportsOf w ++ exportsOf theirs) = false →
      (∀ i < 64, bits (field b (4 * i) 4) 30 29 = 0) →
      Does (.klApply who p 1) s (fun t => t = (s.setLink (KlPort.num p) { s.link (KlPort.num p) with
        pending := some (s.edgeNo ((s.portSet (KlPort.num p)).headD 0), w, b) }).accept (Obj.klApply (KlPort.num p)))) ∧
    (((∃ i < 16, winEntryOk (s.portSet (KlPort.num p)) w i = false) ∨ overlapping (exportsOf w ++ exportsOf theirs) = true ∨
        (∃ i < 64, bits (field b (4 * i) 4) 30 29 ≠ 0)) →
      Does (.klApply who p 1) s (fun t => t = s.refuse (Obj.klApply (KlPort.num p)) rcRange))) ∧
  (∀ (s : State) (p : KlPort) (at' : Nat) (w b : List Byte), s.clocksRun → (s.link (KlPort.num p)).pending = some (at', w, b) →
    (at' < s.edgeNo ((s.portSet (KlPort.num p)).headD 0) → (∀ c ∈ s.portSet (KlPort.num p), s.atEdge c = true) →
      Does (.klTableEffect p) s (fun t => t = (s.setLink (KlPort.num p) { s.link (KlPort.num p) with
        windows := w, batons := b, pending := none }).ended (Obj.klApply (KlPort.num p)) 0 2)) ∧
    ((s.edgeNo ((s.portSet (KlPort.num p)).headD 0) ≤ at' ∨ (∃ c ∈ s.portSet (KlPort.num p), s.atEdge c = false)) →
      Does (.klTableEffect p) s (fun t => t = s))) ∧
  (∀ (s u : State) (p : KlPort) (x : Flit) (next : Nat), s.clocksRun → s.portUp (KlPort.num p) = true →
    next = ((s.link (KlPort.num p)).rxSeq + 1) % 4096 →
    u = (if 1 ≤ x.symErrors ∧ x.symErrors ≤ 3 then s.setObj (Obj.klFecCorrected (KlPort.num p)) ((s.obj (Obj.klFecCorrected (KlPort.num p)) + 1) % 2 ^ 64)
      else s) →
    ((3 < x.symErrors ∨ flitGood x.bytes = false) →
      ((s.link (KlPort.num p)).fails < 7 → Does (.flitReceive p x) s (fun t =>
        t = (u.setLink (KlPort.num p) { s.link (KlPort.num p) with fails := (s.link (KlPort.num p)).fails + 1 }).sendFlit (KlPort.num p) 2 next [])) ∧
      ((s.link (KlPort.num p)).fails = 7 → Does (.flitReceive p x) s (fun t => t.obj (Obj.klState (KlPort.num p)) = 4 ∧ t.mem = s.mem))) ∧
    (∀ (v : State) (l : KlLink) (type seq : Nat), x.symErrors ≤ 3 → flitGood x.bytes = true → l = (s.link (KlPort.num p)).acked (field x.bytes 2 2 % 4096) →
      v = u.setLink (KlPort.num p) l → field x.bytes 0 2 = seq + 4096 * type → seq < 4096 →
      (type = 0 → Does (.flitReceive p x) s (fun t => t = v)) ∧
      (type = 1 → seq = next → Does (.flitReceive p x) s (fun t =>
        t = takePayload (KlPort.num p) (slice x.bytes 6 208) (v.setLink (KlPort.num p) { l with fails := 0, rxSeq := seq }))) ∧
      (type = 1 → seq ≠ next → Does (.flitReceive p x) s (fun t => t = v)) ∧
      (∀ (fs : List (List Byte)), type = 2 → fs = l.replay.dropWhile (fun f => field f 0 2 % 4096 ≠ seq) → fs ≠ [] → Does (.flitReceive p x) s (fun t =>
        t.klOut = s.klOut ++ fs.map (fun f => (KlPort.num p, f)) ∧ t.links = v.links ∧ t.mem = s.mem ∧
        t.obj (Obj.klRetries (KlPort.num p)) = (s.obj (Obj.klRetries (KlPort.num p)) + 1) % 2 ^ 64)) ∧
      (type = 3 → Does (.flitReceive p x) s (fun t => t.obj (Obj.klState (KlPort.num p)) = 4 ∧ t.mem = s.mem)))) ∧
  (∀ (l : KlLink) (before after : List (List Byte)) (f : List Byte) (ack : Nat), l.replay = before ++ f :: after → field f 0 2 % 4096 = ack →
    (∀ g ∈ before, field g 0 2 % 4096 ≠ ack) → l.acked ack = { l with replay := after })

/-- The SYNC chain and the start line: a follower forwards a mark 6 cycles later and has its edge placed SYNC_COMP cycles after
it; the head sends marks SYNC_LEAD cycles before its edge and measures the loop; a start line is armed, started and latched. -/
def Obligations.SyncChainAndStartLine : Prop :=
  (∀ (s : State) (width now w : Nat), s.clocksRun → syncRole (s.obj Obj.syncCtrl) = 2 → markOf width = some w →
    Does (.syncMark width now) s (fun t => t = { s.at now with sync := { s.sync with
      mark := some (max s.now now, max s.now now + syncComp (s.obj Obj.syncCtrl)), out := some (max s.now now + 6, if w = 8 ∧ s.obj Obj.startArm = 0 then 4 else w),
      start := s.sync.start || w = 12 } })) ∧
  (∀ (s : State) (width now : Nat), s.clocksRun → markOf width = none →
    Does (.syncMark width now) s (fun t => t = s.setObj Obj.syncErrors ((s.obj Obj.syncErrors + 1) % 2 ^ 32))) ∧
  (∀ (s : State) (width now w u : Nat), s.clocksRun → syncRole (s.obj Obj.syncCtrl) = 1 → markOf width = some w → s.sync.sent = some u →
    Does (.syncMark width now) s (fun t => t.obj Obj.syncLoop = (max s.now now - u) % 65536 ∧ sameObjsBut s t [Obj.syncLoop] ∧ t.mem = s.mem ∧
      t.sync = { s.sync with armed := s.sync.armed || (s.sync.run && w = 8) })) ∧
  (∀ (s : State) (now : Nat), s.clocksRun → syncRole (s.obj Obj.syncCtrl) = 1 → s.now ≤ now →
    now + syncLead (s.obj Obj.syncCtrl) = (s.pacer 0).edge + (s.pacer 0).len →
    (s.sync.run = false → Does (.syncMarkSend now) s (fun t => t = { s.at now with sync := { s.sync with sent := some now, out := some (now, 4), run := false, armed := s.sync.armed, start := s.sync.start } })) ∧
    (s.sync.run = true → s.sync.armed = false → Does (.syncMarkSend now) s (fun t => t = { s.at now with sync := { s.sync with sent := some now, out := some (now, 8), run := true, armed := false, start := s.sync.start } })) ∧
    (s.sync.run = true → s.sync.armed = true → Does (.syncMarkSend now) s (fun t => t = { s.at now with sync := { s.sync with sent := some now, out := some (now, 12), run := false, armed := false, start := true } }))) ∧
  (∀ (s : State), s.clocksRun → (ctrlLockSrc (s.pacer 0).cfg.ctrl = 4 → Does .syncMarkTimeout s (fun t => t = lockLost 0 s)) ∧
    (ctrlLockSrc (s.pacer 0).cfg.ctrl ≠ 4 → Does .syncMarkTimeout s (fun t => t = s))) ∧
  (∀ (s : State) (who : Req) (w v : Nat), s.serves' who Obj.syncCtrl → v = bits w 31 11 * 2 ^ 11 →
    (syncRole v ≠ 3 → 16 ≤ syncLead v → 2 ≤ syncCount v → syncCount v ≤ 4 → syncRole v = syncRole (s.obj Obj.syncCtrl) →
      Does (.syncRoleWrite who w) s (fun t => t = (s.setObj Obj.syncCtrl v).answer rcOk)) ∧
    (syncRole v ≠ 3 → 16 ≤ syncLead v → 2 ≤ syncCount v → syncCount v ≤ 4 → syncRole v ≠ syncRole (s.obj Obj.syncCtrl) →
      Does (.syncRoleWrite who w) s (fun t => t.obj Obj.syncCtrl = v ∧ t.obj Obj.syncLoop = 0 ∧ t.sync.run = false ∧ t.sync.armed = false ∧
        t.sync.start = false ∧ t.reply = rcOk ∧ t.mem = s.mem ∧ sameObjsBut s t [Obj.syncCtrl, Obj.syncLoop, Obj.startValid] ∧
        (syncRole v = 1 → t.obj Obj.startValid = 0))) ∧
    ((syncRole v = 3 ∨ syncLead v < 16 ∨ syncCount v < 2 ∨ 4 < syncCount v) →
      Does (.syncRoleWrite who w) s (fun t => t = s.answer rcRange))) ∧
  (∀ (s : State) (who : Req), s.serves' who Obj.startLine →
    (syncRole (s.obj Obj.syncCtrl) = 1 →
      Does (.startLine who 1) s (fun t => t = ({ s with sync := { s.sync with run := true, armed := false } } : State).accept Obj.startLine) ∧
      Does (.startLine who 0) s (fun t => t = ({ s with sync := { s.sync with run := false, armed := false } } : State).done Obj.startLine)) ∧
    (syncRole (s.obj Obj.syncCtrl) ≠ 1 → Does (.startLine who 1) s (fun t => t = s.refuse Obj.startLine rcRange))) ∧
  (∀ (s : State) (u : Nat), s.clocksRun → s.sync.start = true → u < (s.pacer 0).edge →
    ((syncRole (s.obj Obj.syncCtrl) = 1 ∧ s.sync.sent = some u) ∨ (syncRole (s.obj Obj.syncCtrl) = 2 ∧ ∃ e, s.sync.mark = some (u, e))) →
    Does .startLineEdge s (fun t => t.obj Obj.startLatch = s.tick 0 ∧ t.obj Obj.startValid = 1 ∧ t.obj Obj.startArm = 0 ∧ t.sync.start = false ∧
      t.mem = s.mem ∧ (syncRole (s.obj Obj.syncCtrl) = 1 → look t.cmdStatus Obj.startLine = some (cmdWord 0 2))))

/-- Twin pairs: joining with its checks, the numbers the standby takes, datums heard in time and late, decisions applied, mirrored
writes, promotion and swap; and result digests and the replay log's control. -/
def Obligations.TwinPairs : Prop :=
  (∀ (s : State) (who : Req) (peer : PairView) (n : Nat), s.serves' who Obj.pairJoin → n = s.joinFails peer true →
    (bits (s.obj Obj.pairCtrl) 31 30 = 2 → n = 0 → Does (.pairJoin who 1 peer) s (fun t =>
      t.pair = { s.pair with joining := true } ∧ t.obj Obj.pairStatus = 0 ∧
      t.obj Obj.peerOffset = (s.obj Obj.startLatch + 2 ^ 64 - peer.latch % 2 ^ 64) % 2 ^ 64 ∧ t.reply = rcOk ∧
      look t.cmdStatus Obj.pairJoin = some (cmdWord 0 1) ∧ sameObjsBut s t [Obj.pairStatus, Obj.peerOffset] ∧ t.mem = s.mem)) ∧
    (bits (s.obj Obj.pairCtrl) 31 30 = 2 → n ≠ 0 → Does (.pairJoin who 1 peer) s (fun t =>
      t = ((s.setObj Obj.pairStatus (ePairCheck * 65536 + n % 256)).answer rcOk).setCmd Obj.pairJoin ePairCheck 3)) ∧
    (bits (s.obj Obj.pairCtrl) 31 30 ≠ 2 → Does (.pairJoin who 1 peer) s (fun t => t = s.refuse Obj.pairJoin rcRange))) ∧
  (∀ (s : State) (peer : PairView), (s.joinFails peer true = 1 ↔ (s.portUp 0 = false ∨ peer.up = false)) ∧
    (s.joinFails peer true = 2 ↔ (s.portUp 0 = true ∧ peer.up = true ∧ (s.obj Obj.startValid ≠ 1 ∨ peer.valid = false)))) ∧
  (∀ (s : State) (peer : PairView) (numbers : List (Nat × Nat)) (lead : Fin 4), s.clocksRun → lead = s.pairMask.headD 0 →
    (bits (s.obj Obj.pairCtrl) 31 30 = 2 → (s.portUp 0 = false ∨ s.startsAt lead (s.tick lead) = false) →
      Does (.pairJoinEffect peer numbers) s (fun t => t = s)) ∧
    (s.portUp 0 = true → s.startsAt lead (s.tick lead) = true → bits (s.obj Obj.pairCtrl) 31 30 = 2 → s.pair.joining = true →
      Does (.pairJoinEffect peer numbers) s (fun t => t.obj Obj.pairRole = 2 ∧
        t.obj Obj.pairState = 1 ∧ look t.cmdStatus Obj.pairJoin = some (cmdWord 0 2) ∧ t.mem = s.mem ∧
        ∀ ch ∈ s.pairMask, ∀ n, numbers[ch.val]? = some n → t.obj (Obj.ofn ch) = n.1 % 2 ^ 32 ∧ t.obj (Obj.sfnLast ch) = n.2 % 2 ^ 32)) ∧
    (bits (s.obj Obj.pairCtrl) 31 30 = 1 → s.joinFails peer false ≠ 0 → Does (.pairJoinEffect peer numbers) s (fun t =>
      t = s.setObj Obj.pairStatus (ePairCheck * 65536 + s.joinFails peer false % 256))) ∧
    (bits (s.obj Obj.pairCtrl) 31 30 = 1 → s.joinFails peer false = 0 →
      (s.startsAt lead (s.tick lead) = true → Does (.pairJoinEffect peer numbers) s (fun t => t.obj Obj.pairRole = 1 ∧ t.obj Obj.pairState = 1 ∧
        t.obj Obj.peerOffset = (peer.latch + 2 ^ 64 - s.obj Obj.startLatch % 2 ^ 64) % 2 ^ 64 ∧ t.obj Obj.pairStatus = 0 ∧ t.mem = s.mem)) ∧
      (s.startsAt lead (s.tick lead) = false → Does (.pairJoinEffect peer numbers) s (fun t => t = s)))) ∧
  (∀ (s : State) (b : List Byte) (d : Decision), s.clocksRun → s.portUp 0 = true → s.obj Obj.pairRole ≠ 0 →
    readDatum b (s.obj Obj.peerOffset) = some d → s.inPair d.ch = true → toCh d.ch ∈ s.portSet 0 →
    (s.tick (toCh d.ch) < d.tick + s.relayTicks →
      ((s.obj Obj.pairRole = 2 ∨ ∃ u, s.pair.swapped = some u ∧ d.tick < u) →
        Does (.datum b) s (fun t => t = { s with pair := { s.pair with heard := s.pair.heard ++ [d] } })) ∧
      (s.obj Obj.pairRole = 1 → s.pair.swapped = none → Does (.datum b) s (fun t => t = s))) ∧
    (d.tick + s.relayTicks ≤ s.tick (toCh d.ch) → Does (.datum b) s (fun t => t = s.setObj Obj.lateDatums ((s.obj Obj.lateDatums + 1) % 2 ^ 32)))) ∧
  (∀ (s : State) (b : List Byte), s.clocksRun → readDatum b (s.obj Obj.peerOffset) = none → Does (.datum b) s (fun t => t = s)) ∧
  (∀ (s : State) (ch : Fin 4) (o : Decision) (r : FrameRec), s.clocksRun → s.inPair ch = true → s.pair.own = [o] → s.pair.heard = [] → o.ch = ch.val →
    o.tick + s.relayTicks ≤ s.tick ch → o.shadow = false → o.bind = some r →
    Does (.relayApply ch) s (fun t => t.pair = { s.pair with own := [] } ∧ t = { s.writeRec ch r with pair := t.pair })) ∧
  (∀ (s : State) (ch : Fin 4), s.clocksRun → s.pair.own = [] → s.pair.heard = [] → Does (.relayApply ch) s (fun t => t = s)) ∧
  (∀ (s u : State) (index sub tick n : Nat) (v : List Byte), s.clocksRun → s.awake = true → s.portUp 0 = true → s.obj Obj.pairRole = 2 →
    s.standbyBars (key index sub) = true → n = ((objRow index sub).map (fun r => r.1.ty.size)).getD v.length →
    u = ({ s.setObj Obj.pairRole 0 with marshal := if s.marshal = .updating then .running else s.marshal,
                                        pair := { s.pair with effect := some ((tick + s.obj Obj.peerOffset) % 2 ^ 64) } } : State).writeObject
      (.fn 0) index sub (s.peerValue index sub (if v.length ≤ n then v else slice v 0 n)) →
    (u.reply = rcOk → Does (.mirror index sub tick v) s (fun t =>
      t = { u.setObj Obj.pairRole 2 with marshal := s.marshal, reply := s.reply, pair := { u.pair with effect := none } })) ∧
    (u.reply ≠ rcOk → u.obj Obj.pairState = 2 → Does (.mirror index sub tick v) s (fun t => t.obj Obj.pairState = 3 ∧ t.obj Obj.pairRole = 2))) ∧
  (∀ (s : State), s.clocksRun →
    (s.obj Obj.pairRole = 2 → (∃ m ∈ s.pairMask, s.roleDue m = true ∨ (s.missing m).isSome = true) → Does .promotion s (fun t => t.obj Obj.pairRole = 1 ∧ t.obj Obj.pairState = 4 ∧
      t.obj Obj.promotions = (s.obj Obj.promotions + 1) % 2 ^ 32 ∧ t.mem = s.mem)) ∧
    ((s.obj Obj.pairRole ≠ 2 ∨ ∀ m ∈ s.pairMask, s.roleDue m = false ∧ s.missing m = none) → Does .promotion s (fun t => t = s))) ∧
  (∀ (s : State) (who : Req) (n : Nat), s.serves' who Obj.pairSwap →
    (s.obj Obj.pairRole = 1 → s.obj Obj.pairState = 2 → (∀ c ∈ s.pairMask, s.tick c + s.relayTicks + 1 ≤ n ∧ s.startsAt c n = true) →
      Does (.pairSwap who n) s (fun t => t = ({ s with pair := { s.pair with swap := some n } } : State).accept Obj.pairSwap)) ∧
    ((s.obj Obj.pairRole ≠ 1 ∨ s.obj Obj.pairState ≠ 2 ∨ ∃ c ∈ s.pairMask, n < s.tick c + s.relayTicks + 1 ∨ s.startsAt c n = false) →
      Does (.pairSwap who n) s (fun t => t = s.refuse Obj.pairSwap rcRange))) ∧
  (∀ (s : State) (n : Nat), s.clocksRun → s.obj Obj.pairState = 2 → s.portUp 0 = true →
    (s.obj Obj.pairRole = 1 → s.pair.swap = some n → n ≤ s.tick (s.pairMask.headD 0) → Does .pairSwapEffect s (fun t => t.obj Obj.pairRole = 2 ∧
      t.mem = s.mem ∧ look t.cmdStatus Obj.pairSwap = some (cmdWord 0 2) ∧
      t.obj Obj.peerOffset = (2 ^ 64 - s.obj Obj.peerOffset % 2 ^ 64) % 2 ^ 64 ∧ sameObjsBut s t [Obj.pairRole, Obj.peerOffset])) ∧
    (s.obj Obj.pairRole = 1 → s.pair.swap = some n → s.tick (s.pairMask.headD 0) < n → Does .pairSwapEffect s (fun t => t = s)) ∧
    (s.obj Obj.pairRole = 2 → (∀ c ∈ s.pairMask, s.startsAt c (s.tick c) = true ∧ s.missing c = none) →
      Does .pairSwapEffect s (fun t => t.obj Obj.pairRole = 1 ∧ t.mem = s.mem ∧
        t.obj Obj.peerOffset = (2 ^ 64 - s.obj Obj.peerOffset % 2 ^ 64) % 2 ^ 64 ∧ sameObjsBut s t [Obj.pairRole, Obj.peerOffset]))) ∧
  (∀ (s : State) (who : Req) (a n : Nat) (b : List Byte), s.serves' who Obj.digestRun → s.digest = none → a = s.obj Obj.digestDesc →
    n = 0x20 + digestEntry (field (s.devRead a 0x20) 4 1) * min (field (s.devRead a 0x20) 6 2) 1024 → b = s.devRead a n →
    (s.gatedAt a n = true → Does (.digestRun who 1) s (fun t => t = s.refuse Obj.digestRun rcBusy)) ∧
    (s.gatedAt a n = false → digestBad a b = none → s.gatedAt (field b 8 8) (digestOut b) = false →
      (field b 4 1 = 0 → ∀ e ∈ digestEntries b, s.gatedAt (field e 8 8) (field e 0x10 8) = false) → Does (.digestRun who 1) s (fun t => t = ({ s.setObj Obj.digestStatus 4096 with digest := some b } : State).accept Obj.digestRun)) ∧
    (∀ i, digestBad a b = some i → s.gatedAt a n = false → Does (.digestRun who 1) s (fun t =>
      t = ((s.setObj Obj.digestStatus (eDigest * 65536 + 3 * 4096 + i)).answer rcOk).setCmd Obj.digestRun eDigest 3))) ∧
  (∀ (s : State) (b : List Byte), s.clocksRun → s.digest = some b → s.digestHeld b = false → field b 8 8 + (s.digestResult b).length ≤ devEnd →
    s.memUp (chanOf (field b 8 8)) = true → Does .digestDone s (fun t => t.digest = none ∧ t.obj Obj.digestStatus = 8192 ∧
      t.read (field b 8 8) (s.digestResult b).length = s.digestResult b ∧ sameMemBut s t (field b 8 8) (s.digestResult b).length ∧
      look t.cmdStatus Obj.digestRun = some (cmdWord 0 2))) ∧
  (∀ (s : State) (who : Req) (c : Nat), s.serves' who (Obj.replayCtrl c) → c < 256 →
    Does (.replayCtrlWrite who c 0) s (fun t => t = ({ s.setObj (Obj.replayCtrl c) 0 with replays := del s.replays c } : State).answer rcOk) ∧
    (∀ x, look s.ctxs c = some x → x.strict = true → bits (s.obj Obj.pairCtrl) 31 30 = 0 → s.linksInUse = false →
      (((s.queuesOf c).filterMap (look s.queues)).map Queue.ch).eraseDups.length ≤ 2 →
      (∀ y ∈ (s.queuesOf c).filterMap (look s.queues), y.order = [] ∧ y.head = none) →
      Does (.replayCtrlWrite who c 1) s (fun t => t.obj (Obj.replayCtrl c) = 1 ∧ t.obj (Obj.replayStep c) = 0 ∧ look t.replays c = some [] ∧
        t.reply = rcOk ∧ t.mem = s.mem ∧ sameObjsBut s t [Obj.replayCtrl c, Obj.replayStep c])) ∧
    (∀ x, look s.ctxs c = some x → (x.strict = false ∨ bits (s.obj Obj.pairCtrl) 31 30 ≠ 0 ∨ s.linksInUse = true) →
      Does (.replayCtrlWrite who c 1) s (fun t => t = s.answer rcRange)))

/-- Power of the channels: operating points, budgets and the package limit with their bounds; lending and its end; parking, gating
and the return; a unit's domain that goes OFF latches its pads, and pads are released. -/
def Obligations.ChannelPower : Prop :=
  (∀ (s : State) (who : Req) (ch : Fin 4) (v : Nat), s.serves' who (Obj.oppReq ch) →
    (v ≤ 6 → s.floorOf ch ≤ v → Does (.oppReqWrite who ch v) s (fun t => t.obj (Obj.oppReq ch) = v ∧ t.reply = rcOk ∧ t.mem = s.mem ∧
      sameObjsBut s t [Obj.oppReq ch])) ∧
    ((6 < v ∨ v < s.floorOf ch) → Does (.oppReqWrite who ch v) s (fun t => t = s.answer rcRange))) ∧
  (∀ (s : State) (ch : Fin 4), s.clocksRun → s.marshal ≠ .updating →
    (s.atEdge ch = false → Does (.frequencyChange ch) s (fun t => t = s.drive)) ∧
    (s.atEdge ch = true → s.drive.oppTarget ch ≤ s.drive.power.vreq → (s.obj (Obj.oppCur ch) < s.drive.oppTarget ch → s.drive.power.vreqAt ≤ s.now) →
      Does (.frequencyChange ch) s (fun t => t.obj (Obj.oppCur ch) = s.drive.oppTarget ch ∧ t.mem = s.mem ∧ sameObjsBut s t [Obj.oppCur ch])) ∧
    (s.obj (Obj.oppCur ch) < s.drive.oppTarget ch → s.now < s.drive.power.vreqAt →
      Does (.frequencyChange ch) s (fun t => t.objs = s.objs ∧ t.mem = s.mem))) ∧
  (∀ (s : State) (who : Req) (ch : Fin 4) (v : Nat), s.serves' who (Obj.chBudget ch) →
    (s.budgets - s.obj (Obj.chBudget ch) + v + 20000 ≤ s.obj Obj.packageLimit → oppPower (s.floorOf ch) ≤ v →
      Does (.chBudgetWrite who ch v) s (fun t => t.obj (Obj.chBudget ch) = v ∧ t.reply = rcOk ∧ t.mem = s.mem ∧ sameObjsBut s t [Obj.chBudget ch])) ∧
    ((s.obj Obj.packageLimit < s.budgets - s.obj (Obj.chBudget ch) + v + 20000 ∨ v < oppPower (s.floorOf ch)) →
      Does (.chBudgetWrite who ch v) s (fun t => t = s.answer rcRange))) ∧
  (∀ (s : State) (who : Req) (v : Nat), s.serves' who Obj.packageLimit →
    (20000 ≤ v → v ≤ 85000 → s.budgets + 20000 ≤ v → Does (.packageLimitWrite who v) s (fun t => t = (s.setObj Obj.packageLimit v).answer rcOk)) ∧
    ((v < 20000 ∨ 85000 < v ∨ v < s.budgets + 20000) → Does (.packageLimitWrite who v) s (fun t => t = s.answer rcRange))) ∧
  (∀ (s : State) (ch : Fin 4), s.clocksRun → s.marshal ≠ .updating → s.lends ch = false →
    s.obj Obj.lendTicks ≤ (s.lend.get ch).idle → s.queuesRest ch = true → s.hasWork ch = false → s.atEdge ch = true →
    Does (.lendStart ch) s (fun t => (t.lend.get ch).lending = true ∧ t.obj Obj.lends = (s.obj Obj.lends + 1) % 2 ^ 64 ∧ t.mem = s.mem ∧
      t.obj (Obj.oppCur ch) = min (s.obj (Obj.oppCur ch)) (s.floorOf ch) ∧
      t.obj (Obj.chLent ch) = s.obj (Obj.chBudget ch) - oppPower (s.floorOf ch))) ∧
  (∀ (s : State) (ch : Fin 4), s.clocksRun → s.marshal ≠ .updating → (s.lend.get ch).lending = true →
    (s.atEdge ch = true → (s.queuesRest ch = false ∨ s.hasWork ch = true) → Does (.lendEnd ch) s (fun t => (t.lend.get ch).lending = false ∧
      (t.lend.get ch).backAt = some (s.now + 25000) ∧ t.obj (Obj.chLent ch) = 0 ∧ (∀ c : Fin 4, t.obj (Obj.chBorrowed c) = 0) ∧ t.mem = s.mem)) ∧
    ((s.atEdge ch = false ∨ (s.queuesRest ch = true ∧ s.hasWork ch = false)) → Does (.lendEnd ch) s (fun t => t = s))) ∧
  (∀ (s : State) (who : Req) (ch : Fin 4), s.serves' who (Obj.chPower ch) → s.power.p2 = .awake →
    ((s.pacer ch).program = none → (s.svc ch = .offline ∨ s.svc ch = .covered) →
      Does (.chPowerPark who ch) s (fun t => t = (({ s with chPend := s.chPend.set ch { s.chPend.get ch with power := some (1, s.edgeNo ch), was := s.powerNow ch } } : State).setObj
        (Obj.chPstate ch) 3).accept (Obj.chPower ch)) ∧
      Does (.chPowerGate who ch) s (fun t => t = (({ s with chPend := s.chPend.set ch { s.chPend.get ch with power := some (2, s.edgeNo ch), was := s.powerNow ch } } : State).setObj
        (Obj.chPstate ch) 3).accept (Obj.chPower ch))) ∧
    (((s.pacer ch).program ≠ none ∨ (s.svc ch ≠ .offline ∧ s.svc ch ≠ .covered)) → Does (.chPowerPark who ch) s (fun t => t = s.refuse (Obj.chPower ch) rcBusy) ∧
      Does (.chPowerGate who ch) s (fun t => t = s.refuse (Obj.chPower ch) rcBusy)) ∧
    (s.obj (Obj.chPstate ch) = 0 → Does (.chPowerOn who ch) s (fun t => t = s.done (Obj.chPower ch))) ∧
    (s.obj (Obj.chPstate ch) ≠ 0 → Does (.chPowerOn who ch) s (fun t => t.obj (Obj.chPstate ch) = 3 ∧
      (t.chPend.get ch).power = some (0, s.edgeNo ch) ∧ t.reply = rcOk ∧ look t.cmdStatus (Obj.chPower ch) = some (cmdWord 0 1) ∧
      t.mem = s.mem ∧ sameObjsBut s t [Obj.chPstate ch, Obj.memState ch]))) ∧
  (∀ (s : State) (ch : Fin 4) (v n : Nat), s.clocksRun → (s.chPend.get ch).power = some (v, n) → v ≠ 0 →
    (n < s.edgeNo ch → Does (.chPowerEffect ch) s (fun t => t.obj (Obj.chPstate ch) = v ∧ (t.chPend.get ch).power = none ∧
      look t.cmdStatus (Obj.chPower ch) = some (cmdWord 0 2) ∧ (v = 2 → t.obj (Obj.memState ch) = memOff) ∧
      ∀ id r, look s.runs id = some r → r.ch = ch.val → r.cls ≠ 0 → look t.runs id = none)) ∧
    (s.edgeNo ch ≤ n → Does (.chPowerEffect ch) s (fun t => t = s))) ∧
  (∀ (s : State) (ch : Fin 4) (n : Nat), s.clocksRun → (s.chPend.get ch).power = some (0, n) → n < s.edgeNo ch → s.atEdge ch = true → s.obj (Obj.memState ch) ≠ memTraining →
    (∀ q ∈ slices, (s.cacheSlice ch q.1).phase ≠ .invalidating) →
    Does (.chReturnDone ch) s (fun t => t.obj (Obj.chPstate ch) = 0 ∧ (t.chPend.get ch).power = none ∧ (t.lend.get ch).lending = false ∧
      look t.cmdStatus (Obj.chPower ch) = some (cmdWord 0 2) ∧ t.mem = s.mem)) ∧
  (∀ (s : State) (pd : Nat), s.clocksRun → 112 ≤ pd → pd ≤ 123 →
    (bit s.power.off (pd - 112) = true → s.enOf (pd - 112) = false → Does (.domainEnOff pd) s (fun t =>
      bit t.power.linger (pd - 112) = false ∧ bit t.power.off (pd - 112) = false ∧ t.mem = s.mem ∧ (116 ≤ pd → t.padFree (pd - 116) = false) ∧
      (pd < 116 → t.comp (toCh (pd - 112)) = { Comp.reset with readMax := (s.comp (toCh (pd - 112))).readMax, readNext := (s.comp (toCh (pd - 112))).readNext }))) ∧
    (bit s.power.off (pd - 112) = true → s.enOf (pd - 112) = true → Does (.domainEnOff pd) s (fun t => t = { s with power := t.power } ∧
      bit t.power.linger (pd - 112) = false ∧ bit t.power.off (pd - 112) = false)) ∧
    (bit s.power.off (pd - 112) = false → Does (.domainEnOff pd) s (fun t => t = s))) ∧
  (∀ (s : State) (who : Req) (v : Nat), s.serves' who Obj.padRelease →
    (v < 256 → Does (.padRelease who v) s (fun t => t.mem = s.mem ∧ sameObjsBut s t [Obj.padLatched] ∧ t.reply = rcOk ∧
      look t.cmdStatus Obj.padRelease = some (cmdWord 0 2) ∧ ∀ g < 8, t.padFree g = (s.padFree g || (bit v g && s.domainOn (g + 4))))) ∧
    (256 ≤ v → Does (.padRelease who v) s (fun t => t = s.refuse Obj.padRelease rcRange)))

/-- Standby: P2_ENTER is checked; the entry kills what runs, drains, goes through its steps and commits; a wake is kept, lost in
the arming window or starts the return; an abort undoes the entry; the return ends; and a brown-out resets the device. -/
def Obligations.StandbyEntryAndReturn : Prop :=
  (∀ (s : State) (who : Req), s.serves' who Obj.p2Enter → s.power.p2 = .awake →
    ((∀ c, (s.pacer c).program = none ∧ s.svc c ≠ .covered ∧ (s.chPend.get c).power = none) → bits (s.obj Obj.pairCtrl) 31 30 = 0 →
      syncRole (s.obj Obj.syncCtrl) = 0 → (∀ e ∈ s.spaces, e.2.phase ≠ .pending ∧ e.2.phase ≠ .draining) →
      Does (.p2Enter who 1) s (fun t => t = (s.setP2 (.asked (s.edgeNo 0))).accept Obj.p2Enter)) ∧
    (((∃ c, (s.pacer c).program ≠ none ∨ s.svc c = .covered ∨ (s.chPend.get c).power ≠ none) ∨ bits (s.obj Obj.pairCtrl) 31 30 ≠ 0 ∨
      syncRole (s.obj Obj.syncCtrl) ≠ 0 ∨ (∃ e ∈ s.spaces, e.2.phase = .pending ∨ e.2.phase = .draining)) →
      Does (.p2Enter who 1) s (fun t => t = s.refuse Obj.p2Enter rcBusy))) ∧
  (∀ (s : State) (n : Nat), s.clocksRun → s.power.p2 = .asked n →
    (n < s.edgeNo 0 → s.atEdge 0 = true → Does .p2EntryStart s (fun t => t.power.p2 = .entry 1 ∧ t.power.woken = 0 ∧
      ∀ id r, look s.runs id = some r → r.ch < 4 → r.cls ≠ 0 → look t.runs id = none)) ∧
    ((s.edgeNo 0 ≤ n ∨ s.atEdge 0 = false) → Does .p2EntryStart s (fun t => t = s))) ∧
  (∀ (s : State), s.clocksRun → s.power.p2 = .entry 1 → s.abortDue = false →
    (s.pubs = [] → s.runs = [] → s.linkTraffic = false → Does .p2EntryDrained s (fun t => t = s.setP2 (.entry 2))) ∧
    ((s.pubs ≠ [] ∨ s.runs ≠ [] ∨ s.linkTraffic = true) → Does .p2EntryDrained s (fun t => t = s))) ∧
  (∀ (s : State) (n : Nat), s.clocksRun → s.power.p2 = .entry n → 2 ≤ n → n ≤ 5 → s.abortDue = false →
    Does .p2EntryStepDone s (fun t => t.power.p2 = .entry (if n = 2 ∧ s.power.window = true then 5 else n + 1) ∧ t.mem = s.mem ∧
      sameObjsBut s t [Obj.padLatched] ∧ ((n = 3 ∨ (n = 2 ∧ s.power.window = true)) → ∀ g < 8, s.domainOn (g + 4) = true → t.padFree g = false))) ∧
  (∀ (s : State) (ma : Nat), s.clocksRun → s.power.p2 = .entry 6 →
    (s.power.woken = 0 → Does (.p2EntryCommit ma) s (fun t => t.power.p2 = .standby ∧ t.obj Obj.powerState = 2 ∧
      t.obj Obj.vretCurrent = ma % 65536 ∧ t.obj Obj.vretMode = (if ma ≤ 1200 then 1 else 0x80) ∧
      look t.cmdStatus Obj.p2Enter = some (cmdWord 0 2) ∧ t.mem = s.mem ∧ sameObjsBut s t [Obj.powerState, Obj.vretCurrent, Obj.vretMode])) ∧
    (s.power.woken ≠ 0 → Does (.p2EntryCommit ma) s (fun t => t.power.p2 = .returning ∧ t.obj Obj.wakeCause = s.power.woken ∧ t.mem = s.mem))) ∧
  (∀ (s : State) (src : Nat) (w : Bool), s.clocksRun → src < 6 → (src = 0 ∨ bit (s.obj Obj.wakeMask) src = true) →
    (src = 4 → s.enOf 8 = true ∨ s.enOf 9 = true) → (src = 5 → s.enOf 10 = true ∨ s.enOf 11 = true) →
    (s.power.p2 = .standby → Does (.wake src w) s (fun t => t.power.p2 = .returning ∧ t.obj Obj.wakeCause = 2 ^ src ∧ t.mem = s.mem ∧
      bit (t.obj Obj.vretMode) 0 = false)) ∧
    (∀ n, s.power.p2 = .entry n → (s.power.window = false ∨ w = false ∨ (src ≠ 1 ∧ src ≠ 2)) → Does (.wake src w) s (fun t =>
      t = { s with power := { s.power with woken := t.power.woken } } ∧ bit t.power.woken src = true)) ∧
    (∀ n, s.power.p2 = .entry n → s.power.window = true → w = true → (src = 1 ∨ src = 2) → Does (.wake src w) s (fun t => t = s))) ∧
  (∀ (s : State) (src : Nat) (w : Bool), s.clocksRun → ((src ≠ 0 ∧ bit (s.obj Obj.wakeMask) src = false) ∨
    (src = 4 ∧ s.enOf 8 = false ∧ s.enOf 9 = false) ∨ (src = 5 ∧ s.enOf 10 = false ∧ s.enOf 11 = false)) → Does (.wake src w) s (fun t => t = s)) ∧
  (∀ (s : State) (n : Nat), s.clocksRun → s.power.p2 = .entry n → n ≤ 5 → s.power.window = false → s.power.woken ≠ 0 →
    Does .entryAbort s (fun t => t = (s.setP2 .undoing).setObj Obj.wakeCause s.power.woken)) ∧
  (∀ (s : State), s.clocksRun → s.power.p2 = .undoing → s.power.resets = [] → s.barWait = [] →
    (∀ f < 16, (s.mbox (mbH2m f)).pending = false) → Does .entryUndoDone s (fun t => t.power.p2 = .awake ∧ t.power.woken = 0 ∧ t.mem = s.mem ∧
    t.obj Obj.entryAborts = (s.obj Obj.entryAborts + 1) % 2 ^ 32 ∧ look t.cmdStatus Obj.p2Enter = some (cmdWord 0 3) ∧
    ∀ g < 8, bit s.power.latched g = true → t.padFree g = true)) ∧
  (∀ (s : State), s.clocksRun → s.power.p2 = .returning → s.power.resets = [] → s.barWait = [] → (∀ f < 16, (s.mbox (mbH2m f)).pending = false) →
    Does .returnComplete s (fun t => t.power.p2 = .awake ∧ t.mem = s.mem ∧
      t.obj Obj.powerState = (if ∀ c : Fin 4, s.obj (Obj.chPstate c) = 0 then 0 else 1))) ∧
  (∀ (s : State), s.clocksRun →
    ((s.power.p2 = .entry 6 ∨ (s.power.p2 = .standby ∧ bit (s.obj Obj.vretMode) 0 = true)) →
      Does .brownOut s (fun t => t.obj Obj.resetCause = 2 ∧ t.pending = s.pending ∧ t.power.p2 = .awake ∧ t.marshal = .rom ∧
        t.obj Obj.lends = s.obj Obj.lends ∧ t.ctxs = [] ∧ t.runs = [])) ∧
    (s.power.p2 = .standby → bit (s.obj Obj.vretMode) 0 = false → Does .brownOut s (fun t => t = s)))

/-- Boot: the identity, the policy of a secure element, Marshal's image, the self-test of the core slots and the unit images bring
the device to RUNNING. -/
def Obligations.Boot : Prop :=
  (∀ (s : State), s.clocksRun → s.released = true → s.obj Obj.idState = 0 →
    Does (.identityDerived true) s (fun t => t.obj Obj.idState = 1 ∧ t.mem = s.mem ∧ sameObjsBut s t [Obj.idState] ∧
      look t.octs Obj.deviceIdPubkey = some (slice identity.pk 0 1312) ∧ look t.octs Obj.idDigest = some (sha3 (slice identity.pk 0 1312))) ∧
    Does (.identityDerived false) s (fun t => t.obj Obj.idState = 2 ∧ t.octs = s.octs ∧ t.mem = s.mem)) ∧
  (∀ (s : State), s.clocksRun → s.marshal = .rom → s.obj Obj.idState ≠ 0 → bit (s.obj Obj.bootInfo) 2 = true → s.policyRead = false →
    (∀ b, s.policyOk b = true → Does (.bootPolicyRead (some b)) s (fun t => t = ({ s with policyRead := true } : State).usePolicy b)) ∧
    (∀ b, s.policyOk b = false → Does (.bootPolicyRead (some b)) s (fun t => t = { s with policyRead := true, marshal := .recovery, recovered := true })) ∧
    Does (.bootPolicyRead none) s (fun t => t = { s with policyRead := true, marshal := .recovery, recovered := true })) ∧
  (∀ (s : State) (r : FlashRead), s.clocksRun → s.marshal = .rom → s.phase5 = true → s.fromFlash = true →
    (∀ b copyB, s.flashImage r 0 = some (b, copyB) → Does (.marshalImageVerified r) s (fun t => t.marshal = .loading ∧ t.mem = s.mem ∧
      (t.unitImage 0).running = some (imageOf b true) ∧ bit (t.obj Obj.bootInfo) 8 = copyB ∧ ∀ u, u ≠ 0 → t.unitImage u = s.unitImage u)) ∧
    (s.flashImage r 0 = none → Does (.marshalImageVerified r) s (fun t => t = { s with marshal := .recovery, recovered := true }))) ∧
  (∀ (s : State) (r : FlashRead), s.clocksRun → (s.marshal ≠ .rom ∨ s.phase5 = false ∨ s.fromFlash = false) →
    Does (.marshalImageVerified r) s (fun t => t = s)) ∧
  (∀ (s : State) (r : FlashRead) (es : List FlashEntry) (e : FlashEntry) (a : List Byte), flashEntries r.dir = some es →
    es.find? (fun x => x.unit = e.unit) = some e → e.a ≠ 0 → look r.copies e.a = some a → field a 6 2 = e.unit →
    (s.imageCheck a = 0 → s.flashImage r e.unit = some (a, false)) ∧
    (∀ b, s.imageCheck a ≠ 0 → e.b ≠ 0 → look r.copies e.b = some b → s.imageCheck b = 0 → field b 6 2 = e.unit →
      s.flashImage r e.unit = some (b, true))) ∧
  (∀ (s : State) (ch : Fin 4), s.clocksRun → s.tested.get ch = false → (s.marshal = .loading ∨ s.marshal = .running) →
    (2 ≤ ch.val → s.phase6Over = true) →
    Does (.bootSelfTestDone ch []) s (fun t => t.tested.get ch = true ∧ t.mem = s.mem ∧
      t.cores.get ch = { map := upto 16, state := List.replicate 16 0 ++ [2] }) ∧
    (∀ p < 16, Does (.bootSelfTestDone ch [p]) s (fun t => t.tested.get ch = true ∧ t.mem = s.mem ∧
      t.cores.get ch = { map := (upto 16).map (fun i => if i = p then 16 else i), state := ((List.replicate 16 0).set p 4) ++ [0] })) ∧
    (∀ p < 16, Does (.bootSelfTestDone ch [p, 16]) s (fun t =>
      t.cores.get ch = { map := (upto 16).map (fun i => if i = p then 255 else i), state := ((List.replicate 16 0).set p 4) ++ [4] }))) ∧
  (∀ (s : State) (r : FlashRead), s.clocksRun → s.marshal = .loading → (∀ f < 16, (s.mbox (mbH2m f)).pending = false) →
    ((s.fromFlash = false ∨ ∀ u ∈ unitIds, s.flashImage r u = none) → Does (.unitImagesStarted r) s (fun t => t = { s with marshal := .running })) ∧
    (∀ u b copyB, s.fromFlash = true → u ∈ unitIds → u ≠ 0 → s.flashImage r u = some (b, copyB) → Does (.unitImagesStarted r) s (fun t =>
      t.marshal = .running ∧ t.mem = s.mem ∧ (t.unitImage u).running = some (imageOf b true) ∧ (t.unitImage u).needed = false)))

/-- Images, policies, attestation and live update: chunks of an image, the policy (that the status of a refused one keeps its code
is the model's choice, log entry 149), a quote with its signature, HDCP keys, an apply with its refusals and its apply point,
and what follows it. -/
def Obligations.ImagesPoliciesAndUpdates : Prop :=
  (∀ (s : State) (who : Req) (v old : List Byte) (n : Nat), s.serves' who Obj.imageChunk → v.length = 1024 → n = field v 4 2 → 1 ≤ n → n ≤ 1016 →
    reserved v (8 + n) (1016 - n) = true → reserved v 6 2 = true → (s.receiving = none ∨ ∃ b, s.receiving = some (who, b)) →
    old = (if field v 0 4 = 0 then [] else (s.receiving.map (·.2)).getD []) →
    (∀ (b : List Byte) (u : Nat) (header : Prop), field v 0 4 = old.length → b = old ++ slice v 8 n → u = field b 6 2 →
      header = (old.length < headerSize ∧ headerSize ≤ b.length) →
      ((b.length < headerSize ∨ (headerSize ≤ b.length ∧ b.length < headerSize + field b 0x18 8 ∧
          (header → s.headerCheck b = 0 ∧ s.mayReceive who u = true ∧ s.unitOff u = false))) → Does (.imageChunk who v) s (fun t =>
        t = (({ s with receiving := some (who, b) } : State).setObj Obj.imageStatus (imageStatus 0 1 u)).answer rcOk)) ∧
      (headerSize ≤ b.length → b.length = headerSize + field b 0x18 8 → (header → s.headerCheck b = 0) → s.mayReceive who u = true → s.unitOff u = false →
        Does (.imageChunk who v) s (fun t => t.receiving = none ∧ t.reply = rcOk ∧
          t.images = (({ s with receiving := none } : State).endImage who b (payloadCheck b)).images ∧
          t.obj Obj.imageStatus = imageStatus (payloadCheck b) (if payloadCheck b = 0 then 3 else 4) u)) ∧
      (header → s.headerCheck b ≠ 0 → Does (.imageChunk who v) s (fun t => t.receiving = none ∧ t.reply = rcRange ∧ t.images = s.images ∧
        t.obj Obj.imageStatus = imageStatus (s.headerCheck b) 4 u)) ∧
      ((header ∧ s.headerCheck b = 0 ∨ headerSize ≤ old.length ∧ b.length = headerSize + field b 0x18 8) →
        (s.mayReceive who u = false ∨ s.unitOff u = true) → Does (.imageChunk who v) s (fun t => t = ({ s with receiving := none } : State).answer rcBusy)) ∧
      (headerSize ≤ old.length → headerSize + field b 0x18 8 < b.length → Does (.imageChunk who v) s (fun t => t.receiving = none ∧ t.reply = rcRange ∧
        t.images = s.images ∧ t.obj Obj.imageStatus = imageStatus eImageFormat 4 u))) ∧
    (field v 0 4 ≠ old.length → Does (.imageChunk who v) s (fun t => t = ({ s with receiving := none } : State).answer rcRange))) ∧
  (∀ (s : State) (who x : Req) (v b : List Byte), s.serves' who Obj.imageChunk → v.length = 1024 → 1 ≤ field v 4 2 → field v 4 2 ≤ 1016 →
    reserved v (8 + field v 4 2) (1016 - field v 4 2) = true → reserved v 6 2 = true → s.receiving = some (x, b) → x ≠ who →
    Does (.imageChunk who v) s (fun t => t = s.answer rcBusy)) ∧
  (∀ (s : State) (who : Req) (v : List Byte), s.serves' who Obj.imageChunk → v.length ≠ 1024 →
    Does (.imageChunk who v) s (fun t => t = s.answer rcLength)) ∧
  (∀ (s : State) (who : Req) (b : List Byte), s.serves' who Obj.policyWrite →
    (b.length ≠ policySize → Does (.policyWrite who b) s (fun t => t = s.answer rcLength)) ∧
    (b.length = policySize → s.policyOk b = false → Does (.policyWrite who b) s (fun t => t = (s.answer rcRange).setCmd Obj.policyWrite ePolicy 3)) ∧
    (b.length = policySize → s.policyOk b = true → Does (.policyWrite who b) s (fun t => t.reply = rcOk ∧ t.mem = s.mem ∧
      t.policy.version = field b 8 4 ∧ t.policy.flags = field b 0x0C 4 ∧ t.policy.owner = slice b 0x10 8 ∧
      ∀ k < 7, t.floor k = max (s.floor k) (field b (0x18 + 4 * k) 4)))) ∧
  (∀ (s : State) (who : Req), s.serves' who Obj.attestRun →
    (s.quoting = none → s.obj Obj.idState = 1 → Does (.attestRun who 1) s (fun t => t = ({ s with quoting := some s.quoteBody } : State).accept Obj.attestRun)) ∧
    (s.quoting = none → s.obj Obj.idState ≠ 1 → Does (.attestRun who 1) s (fun t => t = (s.answer rcRange).setCmd Obj.attestRun eIdUnavailable 3)) ∧
    (s.quoting ≠ none → Does (.attestRun who 1) s (fun t => t = s.refuse Obj.attestRun rcBusy))) ∧
  (∀ (s : State) (b : List Byte), s.clocksRun → s.quoting = some b → Does .attestDone s (fun t => t.quoting = none ∧ t.mem = s.mem ∧
    look t.cmdStatus Obj.attestRun = some (cmdWord 0 2) ∧
    look t.octs Obj.attestQuote = some (b ++ slice (MlDsa.sign identity (slice (Config.signRandom s.fresh) 0 32) (ascii "LPX-IQ7200-QUOTE") b) 0 2420))) ∧
  (∀ (s : State) (keys : List Byte), s.serves' (.fn 0) Obj.hdcpKeys →
    (keys.length = 2048 → Does (.hdcpKeys (.fn 0) keys) s (fun t => look t.octs Obj.hdcpKeys = some keys ∧ t.obj Obj.hdcpKeyState = 1 ∧
      t.reply = rcOk ∧ t.mem = s.mem ∧ sameObjsBut s t [Obj.hdcpKeyState])) ∧
    (keys.length ≠ 2048 → Does (.hdcpKeys (.fn 0) keys) s (fun t => t = s.answer rcLength))) ∧
  (∀ (s : State) (ip port : Nat) (keys : List Byte), s.serves' (.t1 ip port) Obj.hdcpKeys →
    Does (.hdcpKeys (.t1 ip port) keys) s (fun t => t = s.answer rcNotAuth)) ∧
  (∀ (s : State) (who : Req) (n u : Nat) (i : Image), s.serves' who Obj.updateApply → u = s.obj Obj.updateTarget →
    (unitIds.contains u = false → Does (.updateApply who n) s (fun t => t = s.refuse Obj.updateApply rcRange)) ∧
    (unitIds.contains u = true → (s.unitImage u).staged = none → Does (.updateApply who n) s (fun t => t = s.refuse Obj.updateApply rcBusy)) ∧
    (unitIds.contains u = true → (s.unitImage u).staged = some i → (s.unitImage u).apply = none → s.unitTested u = false →
      bits (s.obj Obj.pairCtrl) 31 30 = 0 → (∀ c : Fin 4, (u = 0 ∨ u = coresetId c) → ∀ p, (s.pacer c).program = some p → p.model = i.model) →
      Does (.updateApply who n) s (fun t => t = (s.modImage u (fun x => { x with apply := some (max n (s.tick (s.applyCh u) + 1)) })).accept Obj.updateApply))) ∧
  (∀ (s : State) (u n : Nat) (i : Image), s.clocksRun → (s.unitImage u).apply = some n → (s.unitImage u).staged = some i →
    (s.applyReady u n = true → s.atEdge (s.applyCh u) = true → s.floor (unitKind u) ≤ i.version → Does (.updateApplyPoint u) s (fun t =>
      t.unitImage u = { running := some i, staged := none, apply := none, needed := false } ∧ t.mem = s.mem ∧
      t.marshal = (if u = 0 then .updating else s.marshal) ∧ look t.cmdStatus Obj.updateApply = some (cmdWord 0 2))) ∧
    (s.applyReady u n = true → s.atEdge (s.applyCh u) = true → i.version < s.floor (unitKind u) → Does (.updateApplyPoint u) s (fun t =>
      t.unitImage u = { s.unitImage u with staged := none, apply := none } ∧ t.mem = s.mem ∧ t.marshal = s.marshal ∧
      look t.cmdStatus Obj.updateApply = some (cmdWord eImageRollback 3))) ∧
    ((s.applyReady u n = false ∨ s.atEdge (s.applyCh u) = false) → Does (.updateApplyPoint u) s (fun t => t = s))) ∧
  (∀ (s : State), s.clocksRun → s.marshal = .updating → (∀ f < 16, (s.mbox (mbH2m f)).pending = false) →
    Does .marshalUpdateDone s (fun t => t.marshal = .running ∧ t.heldAttn = [] ∧ t.mem = s.mem ∧ t.images = s.images)) ∧
  (∀ (s : State) (who : Req) (u : Nat), s.serves' who Obj.updateDiscard →
    (unitIds.contains u = true → Does (.updateDiscard who u) s (fun t =>
      t = ((s.modImage u (fun x => { x with staged := none, apply := none })).floorClear).done Obj.updateDiscard)) ∧
    (unitIds.contains u = false → Does (.updateDiscard who u) s (fun t => t = s.refuse Obj.updateDiscard rcRange))) ∧
  (∀ (s : State) (u : Nat) (r : FlashRead), s.clocksRun → (s.unitImage u).needed = true → s.unitOff u = false →
    (∀ i b copyB, (s.unitImage u).running = some i → i.flash = true → s.flashImage r u = some (b, copyB) → Does (.imageReload u r) s (fun t =>
      t.unitImage u = { s.unitImage u with running := some (imageOf b true), needed := false } ∧ t.mem = s.mem)) ∧
    ((s.flashImage r u = none ∨ ∀ i, (s.unitImage u).running = some i → i.flash = false) →
      Does (.imageReload u r) s (fun t => t.images = s.images ∧ t.mem = s.mem)))

/-- Service changes of a channel, its reset, spare-core substitution and self-tests: requests with their refusals, and what each
does at its tick. That a substitution whose spare is no longer ARMED changes nothing is the model's choice (log entry 138). -/
def Obligations.ServiceResetsAndTests : Prop :=
  (∀ (s : State) (who : Req) (ch : Fin 4) (n m : Nat) (i : Instr), s.serves' who (Obj.chServiceApply ch) →
    (m, i) ∈ [(0, Instr.serviceReturn who ch n), (1, Instr.serviceOutGangCover who ch n), (2, Instr.serviceOutTwinCover who ch n),
      (3, Instr.serviceOutNoCover who ch n)] → s.obj (Obj.chService ch) % 4 = m →
    ((bit (s.obj (Obj.chService ch)) 2 = true → m ≠ 1 ∧ s.gangOf ch ≠ [] ∧ s.leaderOf ch = ch) → (s.startsAt ch n = true ∨ (n ≠ 0 ∧ (s.pacer ch).change.dueAt = some n)) →
      s.tick ch + 2 ≤ n →
      (m = 1 → s.gangOf ch ≠ []) → (∀ c ∈ s.svcSet ch (bit (s.obj (Obj.chService ch)) 2), (m = 2 → s.inPair c = true ∧ c ∈ s.portSet 0) ∧ (m = 0 → s.outBy.get c ≠ none)) →
      (m = 0 ∨ bit (s.obj (Obj.chService ch)) 2 = true ∨ s.secondOut ch = false) →
      Does i s (fun t => (t.chPend.get ch).svc = some { t := n, mode := m, all := bit (s.obj (Obj.chService ch)) 2 } ∧ t.mem = s.mem ∧ t.reply = rcOk ∧
        look t.cmdStatus (Obj.chServiceApply ch) = some (cmdWord 0 1) ∧ t.service = s.service ∧
        ∀ c ∈ s.svcSet ch (bit (s.obj (Obj.chService ch)) 2), t.obj (Obj.chServiceStatus c) = svcStatus 0 1 (s.obj (Obj.chServiceStatus c) % 4))) ∧
    (n < s.tick ch + 2 → Does i s (fun t => t = s.refuse (Obj.chServiceApply ch) rcRange))) ∧
  (∀ (s : State) (who : Req) (ch : Fin 4) (n m : Nat) (i : Instr), s.clocksRun →
    (m, i) ∈ [(0, Instr.serviceReturn who ch n), (1, Instr.serviceOutGangCover who ch n), (2, Instr.serviceOutTwinCover who ch n),
      (3, Instr.serviceOutNoCover who ch n)] → s.obj (Obj.chService ch) % 4 ≠ m → Does i s (fun t => t = s)) ∧
  (∀ (s : State) (ch : Fin 4) (x : SvcChange) (l : List (Fin 4)), s.clocksRun → (s.chPend.get ch).svc = some x → l = s.svcSet ch x.all →
    (x.t ≤ s.tick ch → (∀ m ∈ s.ownerSet ch, s.atEdge m = true) → s.gangDue ch = false → (∀ m ∈ l, s.svcHolds m x.t x.mode = true) → x.mode ≠ 0 →
      Does (.chServiceEffect ch) s (fun t => (∀ m ∈ l, t.outBy.get m = some x.mode ∧
        t.svc m = (if x.mode = 3 ∨ s.obj (Obj.memState m) = memFailed then .offline else .covered) ∧ t.obj (Obj.chServiceStatus m) = svcStatus 0 2 x.mode ∧
        ∀ id r, look s.runs id = some r → r.ch = m.val → r.cls ≠ 0 → look t.runs id = none) ∧
      (t.chPend.get ch).svc = none ∧ look t.cmdStatus (Obj.chServiceApply ch) = some (cmdWord 0 2))) ∧
    (x.t ≤ s.tick ch → (∀ m ∈ s.ownerSet ch, s.atEdge m = true) → s.gangDue ch = false → (∀ m ∈ l, s.svcHolds m x.t 0 = true) → x.mode = 0 →
      Does (.chServiceEffect ch) s (fun t => (∀ m ∈ l, t.outBy.get m = none ∧ t.obj (Obj.chServiceStatus m) = svcStatus 0 2 0) ∧
        (s.gangOf ch = [] → t.mem = s.mem) ∧ t.runs = s.runs ∧ (t.chPend.get ch).svc = none ∧
        look t.cmdStatus (Obj.chServiceApply ch) = some (cmdWord 0 2))) ∧
    (x.t ≤ s.tick ch → (∀ m ∈ s.ownerSet ch, s.atEdge m = true) → s.gangDue ch = false → (∃ m ∈ l, s.svcHolds m x.t x.mode = false) → Does (.chServiceEffect ch) s (fun t => t.outBy = s.outBy ∧ t.service = s.service ∧
      t.runs = s.runs ∧ t.mem = s.mem ∧ ∃ code < 65536, (∀ m ∈ l, t.obj (Obj.chServiceStatus m) = svcStatus code 3 (s.obj (Obj.chServiceStatus m) % 4)) ∧
        look t.cmdStatus (Obj.chServiceApply ch) = some (cmdWord code 3))) ∧
    ((s.tick ch < x.t ∨ (∃ m ∈ s.ownerSet ch, s.atEdge m = false) ∨ s.gangDue ch = true) → Does (.chServiceEffect ch) s (fun t => t = s))) ∧
  (∀ (s : State) (who : Req) (ch : Fin 4), s.serves' who (Obj.chReset ch) →
    (s.outBy.get ch ≠ none → s.testing ch = false → (s.chPend.get ch).reset = none →
      (∀ u ∈ [pacerId ch, compId ch, dpId ch, coresetId ch], (s.unitImage u).apply = none) →
      Does (.chReset who ch 1) s (fun t => t = ({ s with chPend := s.chPend.mod ch (fun p => { p with reset := some false }) } : State).accept (Obj.chReset ch))) ∧
    (s.outBy.get ch = none → Does (.chReset who ch 1) s (fun t => t = s.refuse (Obj.chReset ch) rcBusy))) ∧
  (∀ (s : State) (ch : Fin 4), s.clocksRun → (s.chPend.get ch).reset ≠ some true → Does (.chResetDone ch) s (fun t => t = s)) ∧
  (∀ (s : State) (ch : Fin 4), s.clocksRun → (s.chPend.get ch).reset = some true →
    (∀ q ∈ slices, (s.cacheSlice ch q.1).phase ≠ .invalidating) → Does (.chResetDone ch) s (fun t => (t.chPend.get ch).reset = none ∧ t.mem = s.mem ∧
      look t.cmdStatus (Obj.chReset ch) = some (cmdWord 0 2))) ∧
  (∀ (s : State) (who : Req) (ch : Fin 4) (n p : Nat), s.serves' who (Obj.substApply ch) →
    ((s.cores.get ch).spare = some p → (s.cores.get ch).state[p]? = some 2 → (s.chPend.get ch).subst = none →
      Does (.substApply who ch n) s (fun t =>
        t = ({ s with chPend := s.chPend.mod ch (fun q => { q with subst := some (max n (s.tick ch + 1), s.obj (Obj.substLogical ch) % 16) }) } : State).accept
          (Obj.substApply ch))) ∧
    (((s.cores.get ch).spare = none ∨ (s.chPend.get ch).subst ≠ none ∨ ((s.cores.get ch).spare = some p ∧ (s.cores.get ch).state[p]? ≠ some 2)) →
      Does (.substApply who ch n) s (fun t => t = s.refuse (Obj.substApply ch) rcBusy))) ∧
  (∀ (s : State) (ch : Fin 4) (n l p old : Nat), s.clocksRun → (s.chPend.get ch).subst = some (n, l) →
    (n ≤ s.tick ch → s.atEdge ch = true → (s.cores.get ch).spare = some p → (s.cores.get ch).state[p]? = some 2 → (s.cores.get ch).map[l]? = some old →
      Does (.substEffect ch) s (fun t => t.cores = s.cores.set ch { map := (s.cores.get ch).map.set l p, state := ((s.cores.get ch).state.set p 0).set old 1 } ∧
        (t.chPend.get ch).subst = none ∧ look t.cmdStatus (Obj.substApply ch) = some (cmdWord 0 2) ∧ t.mem = s.mem ∧ t.objs = s.objs)) ∧
    (n ≤ s.tick ch → s.atEdge ch = true → ((s.cores.get ch).spare = none ∨ ((s.cores.get ch).spare = some p ∧ (s.cores.get ch).state[p]? ≠ some 2)) → Does (.substEffect ch) s (fun t => t.cores = s.cores ∧
      (t.chPend.get ch).subst = none ∧ look t.cmdStatus (Obj.substApply ch) = some (cmdWord 0 3) ∧ t.mem = s.mem ∧ t.objs = s.objs)) ∧
    ((s.tick ch < n ∨ s.atEdge ch = false) → Does (.substEffect ch) s (fun t => t = s))) ∧
  (∀ (s : State) (who : Req) (ch : Fin 4) (n v : Nat), s.serves' who (Obj.testRun ch) → v = s.obj (Obj.testTarget ch) →
    (testTargetOk v = true → s.testReady ch v = true → s.testing ch = false → (∀ u, testUnit ch v = some u → (s.unitImage u).apply = none) →
      s.obj (Obj.chPstate ch) = 0 → s.marshal = .running → Does (.testRun who ch n) s (fun t =>
        t = ({ s.setObj (Obj.testStatus ch) (testWord 0 1 v) with chPend := s.chPend.mod ch (fun p => { p with test := some (max n (s.tick ch + 1), v) }) } :
          State).accept (Obj.testRun ch))) ∧
    (testTargetOk v = false → Does (.testRun who ch n) s (fun t => t = s.refuse (Obj.testRun ch) rcRange)) ∧
    (testTargetOk v = true → (s.testReady ch v = false ∨ s.testing ch = true ∨ s.obj (Obj.chPstate ch) ≠ 0 ∨ s.marshal ≠ .running) → Does (.testRun who ch n) s (fun t => t = s.refuse (Obj.testRun ch) rcBusy))) ∧
  (∀ (s : State) (ch : Fin 4) (n v : Nat), s.clocksRun → s.quiet → (s.chPend.get ch).test = some (n, v) → bits (s.obj (Obj.testStatus ch)) 15 12 = 1 →
    n ≤ s.tick ch → s.atEdge ch = true → s.awake = true →
    (v < 0x40 → Does (.testStart ch) s (fun t => t.obj (Obj.testStatus ch) = testWord 0 2 v ∧ t.mem = s.mem ∧ t.runs = s.runs ∧
      (v ≤ 0x10 → (t.cores.get ch).state = (s.cores.get ch).state.set v 3))) ∧
    (0x40 ≤ v → v ≤ 0x43 → Does (.testStart ch) s (fun t => ∀ id r, look s.runs id = some r → r.ch = ch.val → r.cls ≠ 0 →
      bit r.units (4 + v % 16) = true → look t.runs id = none))) ∧
  (∀ (s : State) (ch : Fin 4) (passed : Bool) (v : Nat), s.clocksRun → bits (s.obj (Obj.testStatus ch)) 15 12 = 2 → s.atEdge ch = true →
    v = s.obj (Obj.testStatus ch) % 256 →
    Does (.testDone ch passed) s (fun t => t.obj (Obj.testStatus ch) = testWord 0 (if passed then 3 else 4) v ∧ t.mem = s.mem ∧
      (t.chPend.get ch).test = none ∧ look t.cmdStatus (Obj.testRun ch) = some (cmdWord 0 2) ∧
      (v ≤ 0x10 → (t.cores.get ch).state = (s.cores.get ch).state.set v (if passed then 2 else 4)) ∧
      (v = 0x50 → bit (t.obj (Obj.unitHealth ch)) 10 = !passed)))

/-- Observation: MARK and TIMEREF records at their edges, once; trace datagrams; reports that close; SPLIT_CLEAR; and a restore
block, applied whole or not at all. -/
def Obligations.TraceReportsAndRestore : Prop :=
  (∀ (s : State) (ch : Fin 4), s.clocksRun → bits (s.observe.get ch).filter.ctrl 15 0 ≠ 0 →
    (s.tick ch % bits (s.observe.get ch).filter.ctrl 15 0 = 0 → (s.observe.get ch).marked ≠ some (s.tick ch) → Does (.traceMark ch) s (fun t =>
      t = ({ s with observe := s.observe.set ch { s.observe.get ch with marked := some (s.tick ch) } } : State).emit 1 ch 8 0 0 s.chState (s.lapWord ch))) ∧
    ((s.tick ch % bits (s.observe.get ch).filter.ctrl 15 0 ≠ 0 ∨ (s.observe.get ch).marked = some (s.tick ch)) →
      Does (.traceMark ch) s (fun t => t = s))) ∧
  (∀ (s : State), s.clocksRun →
    ((s.obj Obj.t1AsState = 2 ∨ s.obj Obj.t1AsState = 3) → s.tick 0 % 2048 = 0 → (s.observe.get 0).refd ≠ some (s.tick 0) →
      Does .traceTimeref s (fun t => t = ({ s with observe := s.observe.set 0 { s.observe.get 0 with refd := some (s.tick 0) } } : State).emit 2
        noCh 8 0 0 (s.obj Obj.t1AsState) (s.asNow (s.pacer 0).edge))) ∧
    (s.obj Obj.t1AsState ≠ 2 → s.obj Obj.t1AsState ≠ 3 → Does .traceTimeref s (fun t => t = s))) ∧
  (∀ (s : State), s.clocksRun → s.traceToT1 = true → s.marshal ≠ .updating → s.awake = true → s.obj Obj.t1State = 2 →
    (∀ l, l = (s.traceBuf.takeWhile (fun x => x.kept < s.now)).take 45 → (l.length = 45 ∨ ∃ r ∈ s.traceBuf.head?, r.kept + 1000000 ≤ s.now) →
      Does .traceDatagramSend s (fun t => t.traceBuf = s.traceBuf.drop l.length ∧ t.mem = s.mem ∧
      (∃ b, t.t1Out = s.t1Out ++ [.udp (s.obj Obj.traceDestIp) (s.obj Obj.traceDestPort) b] ∧ b.take 4 = toLE 2 0x5054 ++ toLE 2 l.length ∧
        b.drop 16 = (l.map TraceRec.bytes).flatten) ∧
      t.obj Obj.traceExported = (s.obj Obj.traceExported + l.length) % 2 ^ 64 ∧ sameObjsBut s t [Obj.traceExported])) ∧
    (s.traceBuf.length < 45 → (∀ r ∈ s.traceBuf.head?, s.now < r.kept + 1000000) → Does .traceDatagramSend s (fun t => t = s))) ∧
  (∀ (s : State) (ch : Fin 4), s.clocksRun →
    (s.reportDue ch = true → s.atEdge ch = true → Does (.reportClose ch) s (fun t =>
      (t.observe.get ch).closed = (s.observe.get ch).split ∧ (t.observe.get ch).split = [] ∧ (t.observe.get ch).ticks = 0 ∧ t.mem = s.mem ∧
      t.obj (Obj.reportSeq ch) = (s.obj (Obj.reportSeq ch) + 1) % 2 ^ 32 ∧ sameObjsBut s t [Obj.reportSeq ch])) ∧
    ((s.reportDue ch = false ∨ s.atEdge ch = false) → Does (.reportClose ch) s (fun t => t = s))) ∧
  (∀ (s : State) (who : Req) (ch : Fin 4) (v : Nat), s.serves' who (Obj.splitClear ch) →
    Does (.splitClear who ch 1) s (fun t => t = ({ s with observe := s.observe.mod ch (fun o => { o with clear := true }) } : State).accept
      (Obj.splitClear ch)) ∧
    (v ≠ 1 → Does (.splitClear who ch v) s (fun t => t = s.refuse (Obj.splitClear ch) rcRange))) ∧
  (∀ (s : State) (who : Req) (b : List Byte), s.serves' who Obj.restoreWrite →
    (b.length ≠ 304 → Does (.restoreWrite who b) s (fun t => t = s.answer rcLength)) ∧
    (b.length = 304 → s.marshal = .running → restoreShape b = false → Does (.restoreWrite who b) s (fun t =>
      t = (s.setObj Obj.restoreStatus (eRestoreFormat * 65536 + 2 * 4096 + 0xFF)).answer rcRange)) ∧
    (∀ i c, b.length = 304 → s.marshal = .running → restoreShape b = true → i < field b 6 2 → (∀ j < i, entryCode b j = rcOk) → entryCode b i = c → c ≠ rcOk →
      Does (.restoreWrite who b) s (fun t => t = (s.setObj Obj.restoreStatus (eRestoreFormat * 65536 + 2 * 4096 + c * 256 + i)).answer c)) ∧
    (∀ i, b.length = 304 → s.marshal = .running → restoreShape b = true → (∀ j < field b 6 2, entryCode b j = rcOk) → i < field b 6 2 →
      s.valueBad ((upto (field b 6 2)).map (restoreEntry b)) (restoreEntry b i).key = true → Does (.restoreWrite who b) s (fun t =>
        ∃ j < field b 6 2, s.valueBad ((upto (field b 6 2)).map (restoreEntry b)) (restoreEntry b j).key = true ∧
          t = (s.setObj Obj.restoreStatus (eRestoreValue * 65536 + 2 * 4096 + rcRange * 256 + j)).answer rcRange)) ∧
    (b.length = 304 → s.marshal ≠ .running → Does (.restoreWrite who b) s (fun t => t = s.answer rcBusy)) ∧
    (b.length = 304 → s.marshal = .running → restoreShape b = true → (∀ j < field b 6 2, entryCode b j = rcOk ∧
        s.valueBad ((upto (field b 6 2)).map (restoreEntry b)) (restoreEntry b j).key = false) →
      Does (.restoreWrite who b) s (fun t => t.reply = rcOk ∧ t.mem = s.mem ∧ t.obj Obj.restoreStatus = 4096 + 0xFF ∧
        ∀ j < field b 6 2, (restoreEntry b j).key ≠ Obj.t1Mac →
          t.obj (restoreEntry b j).key = keptValue (restoreEntry b j).key (field (restoreEntry b j).value 0 (restoreEntry b j).len))))

/-- An instruction that names a register at or above the command's REGS stops the command with E_ILLEGAL_INSTRUCTION: it no longer
runs, and for classes 1 to 3 its context is faulted. -/
def Obligations.IllegalRegisterFaults : Prop :=
  ∀ (s : State) (g : GroupRef) (ty : IntTy) (sat : Bool) (d a b c size align rank : Nat) (e : Ecc) (names : List (Nat × Nat)) (i : Instr)
    (r : Run) (bk : Block) (x : Group) (cx : Context), s.clocksRun → s.findGroup g = some (r, bk, x) → x.wait = .none → x.mask ≠ 0 →
    (names, i) ∈ [([(d, tyRegs ty), (a, tyRegs ty), (b, tyRegs ty)], Instr.intAdd g ty sat d a b),
      ([(d, tyRegs ty), (a, tyRegs ty), (b, tyRegs ty), (c, tyRegs ty)], Instr.intMultiplyAdd g ty sat d a b c),
      ([(d, accessRegs size), (a, 2)], Instr.ld g .global size d a rank e), ([(a, 2), (b, 2), (d, 1)], Instr.appendG g a b d e),
      ([(d, 2)], Instr.alloc g d size align e), ([(a, 2)], Instr.free g a e)] →
    regsOk r names = false → r.cls ≠ 0 → look s.ctxs r.ctx = some cx → cx.state = .active →
    Does i s (fun t => look t.runs g.run = none ∧
      ∃ cy, look t.ctxs r.ctx = some cy ∧ cy.state = .faulted ∧ cy.fault.code = eIllegal)

/-- What reset leaves: every Pacer FREE with tick 0, MARSHAL_STATE ROM, nothing made and nothing waiting, with objects at the
values the dictionary map gives them, in the canonical form that every step keeps. -/
def Obligations.ResetState : Prop :=
  State.reset.pending = [] ∧ State.reset.halt = none ∧ State.reset.marshal = .rom ∧ State.reset.power.p2 = .awake ∧ State.reset.mem = [] ∧
  State.reset.ctxs = [] ∧ State.reset.queues = [] ∧ State.reset.batons = [] ∧ State.reset.runs = [] ∧ State.reset.courses = [] ∧
  (∀ c, (State.reset.pacer c).program = none ∧ State.reset.tick c = 0 ∧ (State.reset.pacer c).lock = .free) ∧
  State.reset.svc 0 = .reduced ∧ (∀ c : Fin 4, c ≠ 0 → State.reset.svc c = .offline) ∧
  (∀ c : Fin 4, State.reset.cores.get c = { map := upto 16, state := List.replicate 16 0 ++ [1] }) ∧
  State.reset.obj Obj.wakeMask = 9 ∧ (∀ c : Fin 4, State.reset.obj (Obj.chBudget c) = 16250) ∧ State.reset.obj Obj.packageLimit = 85000 ∧
  State.reset.obj Obj.lendTicks = 540 ∧ State.reset.obj Obj.traceCtrl = 0x0F0008CA ∧ State.reset.obj Obj.pairCtrl = 0x08010000 ∧
  State.reset.obj Obj.syncCtrl = 0x20001000 ∧ (∀ c : Fin 4, State.reset.obj (Obj.reportTicks c) = 2250) ∧ State.reset.canonical

/-- Every step keeps the state canonical: bytes of memory and objects are listed by strictly rising address, and none is listed at
the value that an unlisted one reads as. -/
def Obligations.EveryStepKeepsTheStateCanonical : Prop :=
 ∀ s t : State, s.canonical → step s = .next t → t.canonical

/-- Every command is answered with a next state, in every state: the block has no command on which it stops. -/
def Obligations.EveryCommandIsAnswered : Prop :=
 ∀ (c : Instr) (s : State), ∃ t, exec c s = .next t

/-- The attention log (R356): ATTN_ACK acknowledges up to the value written, within what the log holds; a log full of
unacknowledged entries overwrites its oldest and counts it; the events of one cycle wait in their order and are appended at
its end; a READ returns an entry as it stands; and the RSW shows ATTN and the low 7 bits of the newest SEQ. -/
def Obligations.AttentionLogIsAcknowledged : Prop :=
  (∀ (s u : State) (who : Req) (v : Nat), u = s.endCycle → u.serves' who Obj.attnAck →
    ((u.logOf (reqLog who)).acked ≤ v → v ≤ (u.logOf (reqLog who)).newest → Does (.attnAck who v) s (fun t =>
      t = (u.setLog (reqLog who) { u.logOf (reqLog who) with acked := v }).answer rcOk)) ∧
    ((v < (u.logOf (reqLog who)).acked ∨ (u.logOf (reqLog who)).newest < v) → Does (.attnAck who v) s (fun t => t = u.answer rcRange))) ∧
  (∀ (s : State) (code chan k d : Nat),
    (s.marshal ≠ .updating → (s.attn code chan k d).raised = raiseIn (0, s.attnEntry code chan k d) s.raised ∧ (s.attn code chan k d).devLog = s.devLog) ∧
    (s.marshal = .updating → (s.attn code chan k d).heldAttn = s.heldAttn ++ [(0, s.attnEntry code chan k d)] ∧ (s.attn code chan k d).raised = s.raised)) ∧
  (∀ (p : Nat × AttnEntry) (l : List (Nat × AttnEntry)), l.Pairwise (fun a b => attnBefore b.2 a.2 = false) →
    (raiseIn p l).Pairwise (fun a b => attnBefore b.2 a.2 = false) ∧ (raiseIn p l).Perm (p :: l)) ∧
  (∀ s : State, s.endCycle.raised = [] ∧ (s.raised = [] → s.endCycle = s) ∧
    (∀ e, s.raised = [(0, e)] → s.endCycle.devLog = s.devLog.append 256 e)) ∧
  (∀ (l : AttnLog) (n : Nat) (e : AttnEntry), 1 ≤ n → (l.append n e).newest = l.newest + 1 ∧ (l.append n e).acked = l.acked ∧
    (l.append n e).entries = { e with seq := l.newest + 1 } :: l.entries.take (n - 1) ∧
    (l.entries.length = n → (l.append n e).first = l.first + 1 ∧
      (l.append n e).dropped = (if l.acked < l.first then l.dropped + 1 else l.dropped)) ∧
    (l.entries.length ≠ n → (l.append n e).first = l.first ∧ (l.append n e).dropped = l.dropped)) ∧
  (∀ (s : State) (f code : Nat), code < 16 → bit (s.rsw f code) 31 = decide ((s.logOf f).newest ≠ (s.logOf f).acked) ∧
    bits (s.rsw f code) 30 24 = (s.logOf f).newest % 128) ∧
  (∀ (s : State) (f n j : Nat) (e : AttnEntry), (s.logOf f).entries.find? (fun x => x.seq % logSize f = n) = some e → j < 24 →
    s.attnByte f (24 * n + j) = (e.bytes[j]?).getD 0)

/-- In a matrix region (R122) a conditional or indirect branch whose active lanes disagree, and an EXIT that leaves live lanes,
fault with E_DIVERGED_MATRIX at that instruction, before any lane changes state. -/
def Obligations.DivergenceInAMatrixRegionFaults : Prop :=
  (∀ (s : State) (g : GroupRef) (p target reconv : Nat) (x : Group), s.clocksRun → s.issues g [(p, 1)] = true → s.group g = some x →
    (∃ l ∈ x.active, x.reg l p ≠ 0) → (∃ l ∈ x.active, x.reg l p = 0) →
    Does (.bra g true p target reconv) s (fun t => t = s.faultRun g.run eDivMatrix)) ∧
  (∀ (s : State) (g : GroupRef) (r reconv l m : Nat) (x : Group), s.clocksRun → s.issues g [(r, 2)] = true → s.group g = some x →
    l ∈ x.active → m ∈ x.active → x.pair l r ≠ x.pair m r →
    Does (.brx g true r reconv) s (fun t => t = s.faultRun g.run eDivMatrix) ∧
    Does (.call g true (.indirect r) reconv) s (fun t => t = s.faultRun g.run eDivMatrix)) ∧
  (∀ (s : State) (g : GroupRef) (x : Group), s.clocksRun → s.issues g [] = true → s.group g = some x → x.exited ||| x.mask ≠ 0xFFFFFFFF →
    Does (.exit g true) s (fun t => t = s.faultRun g.run eDivMatrix)) ∧
  (∀ (s : State) (g : GroupRef) (x : Group), s.clocksRun → s.issues g [] = true → s.group g = some x → x.exited ||| x.mask = 0xFFFFFFFF →
    Does (.exit g true) s (fun t => t = { s with runs := t.runs }))

/-- RESET_N (R541): a low pulse of 1 µs or longer resets the whole device, and a shorter one is ignored, as is any while the
device is in reset; the configuration pins are read at its rising edge alone, and unconnected pins select flash boot, no
secure element, SLAVE and device index 0. -/
def Obligations.ResetPulse : Prop :=
  (∀ (s : State) (n : Nat), s.clocksRun →
    (1000 ≤ n → s.released = true → Does (.resetAssert n) s (fun t => t.obj Obj.resetCause = 1 ∧ t.pending = s.pending ∧ t.marshal = .rom ∧ t.released = false ∧
      t.ctxs = [] ∧ t.queues = [] ∧ t.runs = [] ∧ t.batons = [] ∧ t.courses = [] ∧ t.heats = [] ∧ t.spaces = [] ∧ t.links = [] ∧ t.images = [] ∧
      t.pacers = State.reset.pacers ∧ t.octs = [] ∧ t.service = State.reset.service ∧
      ∀ k, k ≠ Obj.resetCause → k ≠ Obj.lends → k ≠ Obj.entryAborts → t.obj k = objDefault k)) ∧
    ((n < 1000 ∨ s.released = false) → Does (.resetAssert n) s (fun t => t = s))) ∧
  (∀ (s : State) (src board : Nat) (se t1 : Bool), s.clocksRun →
    (s.released = false → Does (.resetRelease src se t1 board) s (fun t => t.released = true ∧ t.obj Obj.deviceIndex = board % 4 ∧ t.mem = s.mem ∧
      t.obj Obj.bootInfo = src % 4 + (if se then 4 else 0) + (if t1 then 8 else 0) + board % 4 * 16 ∧
      sameObjsBut s t [Obj.deviceIndex, Obj.bootInfo])) ∧
    (s.released = true → Does (.resetRelease src se t1 board) s (fun t => t = s))) ∧
  (∀ s : State, s.clocksRun → s.released = false → s.recovered = false → Does (.resetRelease 0 false false 0) s (fun t => t.fromFlash = true ∧
    bit (t.obj Obj.bootInfo) 2 = false ∧ bit (t.obj Obj.bootInfo) 3 = false ∧ t.obj Obj.deviceIndex = 0))

/-- LINE_WRITE (R424): a line outside the enabled IMPORT windows is discarded and counted, with attention once for its
publication; a line inside them lands, and so does a row relayed to a standby that takes it. -/
def Obligations.ImportedLines : Prop :=
  (∀ (s : State) (p : KlPort) (tag a mask : Nat) (d : List Byte) (relay : Bool), s.clocksRun → s.portUp (KlPort.num p) = true →
    a % 64 = 0 → a + 64 ≤ devEnd → s.memUp (chanOf a) = true → d.length = 64 →
    ((relay = false ∧ importsLine (s.link (KlPort.num p)).windows a = true) ∨
      (relay = true ∧ p = .kl0 ∧ s.obj Obj.pairRole = 2 ∧ bit (s.obj Obj.pairCtrl) 29 = true ∧ chanOf a ∈ s.portSet 0 ∧
        ∀ m ∈ s.portSet 0, (s.picture m).newest = none)) →
    Does (.lineWrite p tag a mask d relay) s (fun t => t = { s with mem := t.mem, caches := t.caches, objs := t.objs, tags := t.tags } ∧
      sameMemBut s t a 64 ∧ sameObjsBut s t accessCounters ∧
      ∀ i < 64, t.byteAt (a + i) = (if bit mask i then d[i]?.getD 0 else s.byteAt (a + i)))) ∧
  (∀ (s : State) (p : KlPort) (tag a mask : Nat) (d : List Byte), s.clocksRun → s.portUp (KlPort.num p) = true → a % 64 = 0 →
    importsLine (s.link (KlPort.num p)).windows a = false →
    (∀ x ∈ (s.link (KlPort.num p)).rxPubs, ∀ y ∈ (s.link (KlPort.num p)).rxPubs, x.tag = tag → y.tag = tag → x.dropped = y.dropped) →
    Does (.lineWrite p tag a mask d false) s (fun t => t.mem = s.mem ∧ t.pubs = s.pubs ∧
      t.obj (Obj.klImportDrops (KlPort.num p)) = (s.obj (Obj.klImportDrops (KlPort.num p)) + 1) % 2 ^ 32 ∧
      (∀ x ∈ (t.link (KlPort.num p)).rxPubs, x.tag = tag → x.dropped = true) ∧
      ((∃ x ∈ (s.link (KlPort.num p)).rxPubs, x.tag = tag ∧ x.dropped = true) → t.raised = s.raised ∧ t.heldAttn = s.heldAttn) ∧
      ((∀ x ∈ (s.link (KlPort.num p)).rxPubs, x.tag = tag → x.dropped = false) → s.marshal ≠ .updating → t.raised.length = s.raised.length + 1)))
end

