-- ==== Sys2Proof/Laws/Sparse.lean ====
section
/-! SUPPORT. Sparse lists, four-way values and bytes: what a read finds after an update, and that updates keep the
keys rising. -/

namespace Sys2Proof.Machine

@[simp] theorem look_nil {α : Type} (k : Nat) : look ([] : List (Nat × α)) k = none := rfl

/-- The entry just put is found. -/
@[simp] theorem look_put_self {α : Type} (m : List (Nat × α)) (k : Nat) (v : α) : look (put m k v) k = some v := by
  induction m with
  | nil => simp [put, look]
  | cons e t ih =>
    obtain ⟨a, b⟩ := e
    simp only [put]
    split
    · simp [look]
    · split
      · simp [look]
      · rename_i h; simp [look, Ne.symm h, ih]

/-- A put leaves every other key. -/
theorem look_put_other {α : Type} (m : List (Nat × α)) {k j : Nat} (v : α) (h : j ≠ k) : look (put m k v) j = look m j := by
  induction m with
  | nil => simp [put, look, Ne.symm h]
  | cons e t ih =>
    obtain ⟨a, b⟩ := e
    simp only [put]
    split
    · simp [look, Ne.symm h]
    · split
      · rename_i h2; subst h2; simp [look, Ne.symm h]
      · simp [look, ih]

/-- What a key reads as after a put. -/
theorem look_put {α : Type} (m : List (Nat × α)) (k j : Nat) (v : α) :
    look (put m k v) j = if j = k then some v else look m j := by
  split
  · rename_i h; subst h; exact look_put_self m _ v
  · rename_i h; exact look_put_other m v h

/-- A deleted key is absent, and every other key is left. -/
theorem look_del {α : Type} (m : List (Nat × α)) (k j : Nat) : look (del m k) j = if j = k then none else look m j := by
  induction m with
  | nil => simp [del, look]
  | cons e t ih =>
    obtain ⟨a, b⟩ := e
    unfold del at ih ⊢
    by_cases h : a = k
    · subst h
      simp only [List.filter, bne_self_eq_false, ih, look]
      by_cases h2 : j = a
      · simp [h2]
      · simp [h2, Ne.symm h2]
    · have h3 : (a != k) = true := by simp [h]
      simp only [List.filter, h3, look, ih]
      by_cases h2 : a = j
      · subst h2; simp [h]
      · simp [h2]

@[simp] theorem look_del_self {α : Type} (m : List (Nat × α)) (k : Nat) : look (del m k) k = none := by simp [look_del]

/-- All keys of a list are above `k`. -/
def above {α : Type} (k : Nat) (m : List (Nat × α)) : Prop := ∀ e ∈ m, k < e.1

/-- Keys that rise: the head lies below the tail, whose keys rise. -/
theorem rising_cons {α : Type} (e : Nat × α) (t : List (Nat × α)) :
    rising (e :: t) = true ↔ above e.1 t ∧ rising t = true := by
  induction t generalizing e with
  | nil => simp [rising, above]
  | cons f u ih =>
    obtain ⟨a, x⟩ := e
    obtain ⟨b, y⟩ := f
    simp only [rising, Bool.and_eq_true, decide_eq_true_eq]
    constructor
    · rintro ⟨h1, h2⟩
      refine ⟨?_, h2⟩
      intro e he
      rcases List.mem_cons.mp he with rfl | h3
      · exact h1
      · exact Nat.lt_trans h1 (((ih (b, y)).mp h2).1 e h3)
    · rintro ⟨h1, h2⟩
      exact ⟨h1 (b, y) (by simp), h2⟩

/-- An entry of a put list is the new one or an old one. -/
theorem mem_put {α : Type} (m : List (Nat × α)) (k : Nat) (v : α) (e : Nat × α) (h : e ∈ put m k v) : e = (k, v) ∨ e ∈ m := by
  induction m with
  | nil => simp [put] at h; exact .inl h
  | cons f t ih =>
    obtain ⟨a, b⟩ := f
    simp only [put] at h
    split at h
    · rcases List.mem_cons.mp h with h | h
      · exact .inl h
      · exact .inr h
    · split at h
      · rcases List.mem_cons.mp h with h | h
        · exact .inl h
        · exact .inr (List.mem_cons_of_mem _ h)
      · rcases List.mem_cons.mp h with h | h
        · exact .inr (h ▸ List.mem_cons_self)
        · rcases ih h with h | h
          · exact .inl h
          · exact .inr (List.mem_cons_of_mem _ h)

/-- A put keeps the keys rising. -/
theorem rising_put {α : Type} (m : List (Nat × α)) (k : Nat) (v : α) (h : rising m = true) : rising (put m k v) = true := by
  induction m with
  | nil => simp [put, rising]
  | cons e t ih =>
    obtain ⟨a, b⟩ := e
    have h0 := (rising_cons _ _).mp h
    simp only [put]
    split
    · rename_i h1
      refine (rising_cons _ _).mpr ⟨?_, h⟩
      intro e he
      rcases List.mem_cons.mp he with rfl | h3
      · exact h1
      · exact Nat.lt_trans h1 (h0.1 e h3)
    · split
      · rename_i h2
        subst h2
        exact (rising_cons _ _).mpr ⟨h0.1, h0.2⟩
      · rename_i h1 h2
        refine (rising_cons _ _).mpr ⟨?_, ih h0.2⟩
        intro e he
        rcases mem_put t k v e he with rfl | h3
        · exact Nat.lt_of_le_of_ne (Nat.le_of_not_lt h1) (Ne.symm h2)
        · exact h0.1 e h3

/-- A filter keeps the keys rising. -/
theorem rising_filter {α : Type} (m : List (Nat × α)) (p : Nat × α → Bool) (h : rising m = true) : rising (m.filter p) = true := by
  induction m with
  | nil => simpa using h
  | cons e t ih =>
    have h0 := (rising_cons _ _).mp h
    simp only [List.filter]
    split
    · exact (rising_cons _ _).mpr ⟨fun f hf => h0.1 f (List.mem_filter.mp hf).1, ih h0.2⟩
    · exact ih h0.2

/-- A deletion keeps the keys rising. -/
theorem rising_del {α : Type} (m : List (Nat × α)) (k : Nat) (h : rising m = true) : rising (del m k) = true := rising_filter m _ h

@[simp] theorem per4_get_set_self {α : Type} (p : Per4 α) (i : Fin 4) (a : α) : (p.set i a).get i = a := by
  match i with
  | 0 => rfl
  | 1 => rfl
  | 2 => rfl
  | 3 => rfl

/-- Setting one of four leaves the others. -/
theorem per4_get_set_other {α : Type} (p : Per4 α) {i j : Fin 4} (a : α) (h : j ≠ i) : (p.set i a).get j = p.get j := by
  match i, j with
  | 0, 0 => exact absurd rfl h
  | 0, 1 => rfl
  | 0, 2 => rfl
  | 0, 3 => rfl
  | 1, 0 => rfl
  | 1, 1 => exact absurd rfl h
  | 1, 2 => rfl
  | 1, 3 => rfl
  | 2, 0 => rfl
  | 2, 1 => rfl
  | 2, 2 => exact absurd rfl h
  | 2, 3 => rfl
  | 3, 0 => rfl
  | 3, 1 => rfl
  | 3, 2 => rfl
  | 3, 3 => exact absurd rfl h

@[simp] theorem length_toLE (n v : Nat) : (toLE n v).length = n := by
  induction n generalizing v with
  | zero => rfl
  | succ n ih => simp [toLE, ih]

@[simp] theorem length_slice (bs : List Byte) (off len : Nat) : (slice bs off len).length = len := by
  simp only [slice, List.length_append, List.length_take, List.length_drop, List.length_replicate]
  omega

/-- The bytes of a number spell it (R7). -/
theorem leNat_toLE (n v : Nat) : leNat (toLE n v) = v % 256 ^ n := by
  induction n generalizing v with
  | zero => simp [toLE, leNat, Nat.mod_one]
  | succ n ih =>
    simp only [toLE, leNat, ih, BitVec.toNat_ofNat]
    have h : (256 : Nat) ^ (n + 1) = 256 * 256 ^ n := by rw [Nat.pow_succ, Nat.mul_comm]
    rw [h, Nat.mod_mul]

end Sys2Proof.Machine
end

