-- ==== Sys2Proof/Laws/Memory.lean ====
section
/-! SUPPORT. Memory: a write is read back, leaves every other byte, and keeps the canonical form, so that equal
memories are equal lists. -/

namespace Sys2Proof.Machine

/-- What a byte reads as after a write of one byte. -/
theorem readCell_writeCell (m : List Host.Cell) (a b : Nat) (v : Byte) :
    readCell (writeCell m a v) b = if b = a then v else readCell m b := by
  unfold readCell writeCell
  split
  · rename_i h
    subst h
    rw [look_del]
    by_cases h2 : b = a <;> simp [h2]
  · rw [look_put]
    by_cases h2 : b = a <;> simp [h2]

/-- The canonical form in two parts. -/
theorem memory_wf_iff (m : List Host.Cell) : Memory.wf m = true ↔ rising m = true ∧ ∀ c ∈ m, c.2 ≠ 0 := by
  simp [Memory.wf]

/-- A filter keeps the canonical form. -/
theorem memory_wf_filter (m : List Host.Cell) (p : Host.Cell → Bool) (h : Memory.wf m = true) : Memory.wf (m.filter p) = true := by
  have h0 := (memory_wf_iff m).mp h
  exact (memory_wf_iff _).mpr ⟨rising_filter m p h0.1, fun c hc => h0.2 c (List.mem_filter.mp hc).1⟩

/-- A write of one byte keeps the canonical form. -/
theorem memory_wf_writeCell (m : List Host.Cell) (a : Nat) (v : Byte) (h : Memory.wf m = true) :
    Memory.wf (writeCell m a v) = true := by
  unfold writeCell
  split
  · exact memory_wf_filter m _ h
  · rename_i hv
    have h0 := (memory_wf_iff m).mp h
    refine (memory_wf_iff _).mpr ⟨rising_put m a v h0.1, ?_⟩
    intro c hc
    rcases mem_put m a v c hc with rfl | h3
    · exact hv
    · exact h0.2 c h3

/-- A write of a byte string keeps the canonical form. -/
theorem memory_wf_writeMem (bs : List Byte) (m : List Host.Cell) (a : Nat) (h : Memory.wf m = true) :
    Memory.wf (writeMem m a bs) = true := by
  induction bs generalizing m a with
  | nil => exact h
  | cons b t ih => exact ih _ _ (memory_wf_writeCell m a b h)

/-- A write of cells keeps the canonical form. -/
theorem memory_wf_writeCells (cs m : List Host.Cell) (h : Memory.wf m = true) : Memory.wf (writeCells m cs) = true := by
  induction cs generalizing m with
  | nil => exact h
  | cons c t ih => exact ih _ (memory_wf_writeCell m c.1 c.2 h)

/-- Zeroing keeps the canonical form. -/
theorem memory_wf_zeroMem (m : List Host.Cell) (a n : Nat) (h : Memory.wf m = true) : Memory.wf (zeroMem m a n) = true :=
  memory_wf_filter m _ h

/-- A byte outside a written byte string is left. -/
theorem readCell_writeMem_outside (bs : List Byte) (m : List Host.Cell) (a b : Nat) (h : b < a ∨ a + bs.length ≤ b) :
    readCell (writeMem m a bs) b = readCell m b := by
  induction bs generalizing m a with
  | nil => rfl
  | cons v t ih =>
    simp only [List.length_cons] at h
    rw [writeMem, ih _ _ (by omega), readCell_writeCell, if_neg (by omega)]

/-- A byte string just written is read back, byte for byte. -/
theorem readCell_writeMem_inside (bs : List Byte) (m : List Host.Cell) (a i : Nat) (h : i < bs.length) :
    readCell (writeMem m a bs) (a + i) = bs[i] := by
  induction bs generalizing m a i with
  | nil => simp at h
  | cons v t ih =>
    match i with
    | 0 =>
      rw [writeMem, readCell_writeMem_outside _ _ _ _ (by omega), readCell_writeCell]
      simp
    | j + 1 =>
      have h2 : j < t.length := by simpa using h
      rw [writeMem, show a + (j + 1) = a + 1 + j by omega, ih _ _ _ h2]
      rfl

/-- What is left of a filtered list under one key, when the filter asks for the key only. -/
theorem look_filter_key {α : Type} (m : List (Nat × α)) (p : Nat → Bool) (k : Nat) :
    look (m.filter (fun e => p e.1)) k = if p k then look m k else none := by
  induction m with
  | nil => simp
  | cons e t ih =>
    obtain ⟨a, b⟩ := e
    by_cases ha : p a
    · simp only [List.filter, ha, look, ih]
      by_cases h : a = k
      · subst h; simp [ha]
      · simp [h]
    · simp only [List.filter, ha, look, ih]
      by_cases h : a = k
      · subst h; simp [ha]
      · simp [h]

/-- What a byte reads as after zeroing. -/
theorem readCell_zeroMem (m : List Host.Cell) (a n b : Nat) :
    readCell (zeroMem m a n) b = if a ≤ b ∧ b < a + n then 0 else readCell m b := by
  unfold readCell zeroMem
  rw [look_filter_key m (fun k => decide (k < a) || decide (a + n ≤ k)) b]
  by_cases h : a ≤ b ∧ b < a + n
  · have h1 : ¬ b < a := by omega
    have h2 : ¬ a + n ≤ b := by omega
    simp [h, h1, h2]
  · have h1 : b < a ∨ a + n ≤ b := by omega
    simp [h, h1]

end Sys2Proof.Machine
end

