-- ==== Sys2Proof/Laws/State.lean ====
section
/-! SUPPORT. What every update of the state leaves alone: one lemma per field per update, so that no proof unfolds a
record update; and what each update sets. -/

namespace Sys2Proof.Machine

variable (s : State)

/-! ### setObj -/

@[simp] theorem State.setObj_now (k v : Nat) : (s.setObj k v).now = s.now := rfl
@[simp] theorem State.setObj_readFault (k v : Nat) : (s.setObj k v).readFault = s.readFault := rfl
@[simp] theorem State.setObj_arp (k v : Nat) : (s.setObj k v).arp = s.arp := rfl
@[simp] theorem State.setObj_holds (k v : Nat) : (s.setObj k v).holds = s.holds := rfl
@[simp] theorem State.setObj_ranges (k v : Nat) : (s.setObj k v).ranges = s.ranges := rfl
@[simp] theorem State.setObj_owners (k v : Nat) : (s.setObj k v).owners = s.owners := rfl
@[simp] theorem State.setObj_texCaches (k v : Nat) : (s.setObj k v).texCaches = s.texCaches := rfl
@[simp] theorem State.setObj_fresh (k v : Nat) : (s.setObj k v).fresh = s.fresh := rfl
@[simp] theorem State.setObj_octs (k v : Nat) : (s.setObj k v).octs = s.octs := rfl
@[simp] theorem State.setObj_mem (k v : Nat) : (s.setObj k v).mem = s.mem := rfl
@[simp] theorem State.setObj_pacers (k v : Nat) : (s.setObj k v).pacers = s.pacers := rfl
@[simp] theorem State.setObj_devLog (k v : Nat) : (s.setObj k v).devLog = s.devLog := rfl
@[simp] theorem State.setObj_vfLogs (k v : Nat) : (s.setObj k v).vfLogs = s.vfLogs := rfl
@[simp] theorem State.setObj_heldAttn (k v : Nat) : (s.setObj k v).heldAttn = s.heldAttn := rfl
@[simp] theorem State.setObj_reply (k v : Nat) : (s.setObj k v).reply = s.reply := rfl
@[simp] theorem State.setObj_marshalQ (k v : Nat) : (s.setObj k v).marshalQ = s.marshalQ := rfl
@[simp] theorem State.setObj_windows (k v : Nat) : (s.setObj k v).windows = s.windows := rfl
@[simp] theorem State.setObj_t1Clients (k v : Nat) : (s.setObj k v).t1Clients = s.t1Clients := rfl
@[simp] theorem State.setObj_segments (k v : Nat) : (s.setObj k v).segments = s.segments := rfl
@[simp] theorem State.setObj_t1Out (k v : Nat) : (s.setObj k v).t1Out = s.t1Out := rfl
@[simp] theorem State.setObj_mboxes (k v : Nat) : (s.setObj k v).mboxes = s.mboxes := rfl
@[simp] theorem State.setObj_pcieFns (k v : Nat) : (s.setObj k v).pcieFns = s.pcieFns := rfl
@[simp] theorem State.setObj_ctxs (k v : Nat) : (s.setObj k v).ctxs = s.ctxs := rfl
@[simp] theorem State.setObj_batons (k v : Nat) : (s.setObj k v).batons = s.batons := rfl
@[simp] theorem State.setObj_queues (k v : Nat) : (s.setObj k v).queues = s.queues := rfl
@[simp] theorem State.setObj_courses (k v : Nat) : (s.setObj k v).courses = s.courses := rfl
@[simp] theorem State.setObj_launches (k v : Nat) : (s.setObj k v).launches = s.launches := rfl
@[simp] theorem State.setObj_nextId (k v : Nat) : (s.setObj k v).nextId = s.nextId := rfl
@[simp] theorem State.setObj_runs (k v : Nat) : (s.setObj k v).runs = s.runs := rfl
@[simp] theorem State.setObj_pubs (k v : Nat) : (s.setObj k v).pubs = s.pubs := rfl
@[simp] theorem State.setObj_tags (k v : Nat) : (s.setObj k v).tags = s.tags := rfl
@[simp] theorem State.setObj_quadHolds (k v : Nat) : (s.setObj k v).quadHolds = s.quadHolds := rfl
@[simp] theorem State.setObj_heats (k v : Nat) : (s.setObj k v).heats = s.heats := rfl
@[simp] theorem State.setObj_spaces (k v : Nat) : (s.setObj k v).spaces = s.spaces := rfl
@[simp] theorem State.setObj_caches (k v : Nat) : (s.setObj k v).caches = s.caches := rfl
@[simp] theorem State.setObj_allocs (k v : Nat) : (s.setObj k v).allocs = s.allocs := rfl
@[simp] theorem State.setObj_cmdStatus (k v : Nat) : (s.setObj k v).cmdStatus = s.cmdStatus := rfl
@[simp] theorem State.setObj_marshal (k v : Nat) : (s.setObj k v).marshal = s.marshal := rfl
@[simp] theorem State.setObj_service (k v : Nat) : (s.setObj k v).service = s.service := rfl
@[simp] theorem State.setObj_halt (k v : Nat) : (s.setObj k v).halt = s.halt := rfl
@[simp] theorem State.setObj_policy (k v : Nat) : (s.setObj k v).policy = s.policy := rfl
@[simp] theorem State.setObj_pictures (k v : Nat) : (s.setObj k v).pictures = s.pictures := rfl
@[simp] theorem State.setObj_comps (k v : Nat) : (s.setObj k v).comps = s.comps := rfl
@[simp] theorem State.setObj_dps (k v : Nat) : (s.setObj k v).dps = s.dps := rfl
@[simp] theorem State.setObj_streams (k v : Nat) : (s.setObj k v).streams = s.streams := rfl
@[simp] theorem State.setObj_gangs (k v : Nat) : (s.setObj k v).gangs = s.gangs := rfl
@[simp] theorem State.setObj_pair (k v : Nat) : (s.setObj k v).pair = s.pair := rfl
@[simp] theorem State.setObj_links (k v : Nat) : (s.setObj k v).links = s.links := rfl
@[simp] theorem State.setObj_klOut (k v : Nat) : (s.setObj k v).klOut = s.klOut := rfl
@[simp] theorem State.setObj_sync (k v : Nat) : (s.setObj k v).sync = s.sync := rfl
@[simp] theorem State.setObj_digest (k v : Nat) : (s.setObj k v).digest = s.digest := rfl
@[simp] theorem State.setObj_replays (k v : Nat) : (s.setObj k v).replays = s.replays := rfl
@[simp] theorem State.setObj_attach (k v : Nat) : (s.setObj k v).attach = s.attach := rfl
@[simp] theorem State.setObj_chPend (k v : Nat) : (s.setObj k v).chPend = s.chPend := rfl
@[simp] theorem State.setObj_outBy (k v : Nat) : (s.setObj k v).outBy = s.outBy := rfl
@[simp] theorem State.setObj_images (k v : Nat) : (s.setObj k v).images = s.images := rfl
@[simp] theorem State.setObj_receiving (k v : Nat) : (s.setObj k v).receiving = s.receiving := rfl
@[simp] theorem State.setObj_cores (k v : Nat) : (s.setObj k v).cores = s.cores := rfl
@[simp] theorem State.setObj_tested (k v : Nat) : (s.setObj k v).tested = s.tested := rfl
@[simp] theorem State.setObj_released (k v : Nat) : (s.setObj k v).released = s.released := rfl
@[simp] theorem State.setObj_recovered (k v : Nat) : (s.setObj k v).recovered = s.recovered := rfl
@[simp] theorem State.setObj_quoting (k v : Nat) : (s.setObj k v).quoting = s.quoting := rfl
@[simp] theorem State.setObj_power (k v : Nat) : (s.setObj k v).power = s.power := rfl
@[simp] theorem State.setObj_lend (k v : Nat) : (s.setObj k v).lend = s.lend := rfl
@[simp] theorem State.setObj_hostRead (k v : Nat) : (s.setObj k v).hostRead = s.hostRead := rfl
@[simp] theorem State.setObj_asTime (k v : Nat) : (s.setObj k v).asTime = s.asTime := rfl
@[simp] theorem State.setObj_asDelay (k v : Nat) : (s.setObj k v).asDelay = s.asDelay := rfl
@[simp] theorem State.setObj_observe (k v : Nat) : (s.setObj k v).observe = s.observe := rfl
@[simp] theorem State.setObj_latched (k v : Nat) : (s.setObj k v).latched = s.latched := rfl
@[simp] theorem State.setObj_traceBuf (k v : Nat) : (s.setObj k v).traceBuf = s.traceBuf := rfl
@[simp] theorem State.setObj_traceRing (k v : Nat) : (s.setObj k v).traceRing = s.traceRing := rfl
@[simp] theorem State.setObj_pending (k v : Nat) : (s.setObj k v).pending = s.pending := rfl
@[simp] theorem State.setObj_raised (k v : Nat) : (s.setObj k v).raised = s.raised := rfl
@[simp] theorem State.setObj_queuedOk (k v : Nat) : (s.setObj k v).queuedOk = s.queuedOk := rfl
@[simp] theorem State.setObj_underReset (k v : Nat) : (s.setObj k v).underReset = s.underReset := rfl
@[simp] theorem State.setObj_barWait (k v : Nat) : (s.setObj k v).barWait = s.barWait := rfl
@[simp] theorem State.setObj_policyRead (k v : Nat) : (s.setObj k v).policyRead = s.policyRead := rfl
@[simp] theorem State.setObj_asAt (k v : Nat) : (s.setObj k v).asAt = s.asAt := rfl
@[simp] theorem State.setObj_asRate (k v : Nat) : (s.setObj k v).asRate = s.asRate := rfl
@[simp] theorem State.setObj_defended (k v : Nat) : (s.setObj k v).defended = s.defended := rfl

/-! ### setOct -/

@[simp] theorem State.setOct_octs (k : Nat) (v : List Byte) : (s.setOct k v).octs = put s.octs k v := rfl
@[simp] theorem State.setOct_now (k : Nat) (v : List Byte) : (s.setOct k v).now = s.now := rfl
@[simp] theorem State.setOct_readFault (k : Nat) (v : List Byte) : (s.setOct k v).readFault = s.readFault := rfl
@[simp] theorem State.setOct_arp (k : Nat) (v : List Byte) : (s.setOct k v).arp = s.arp := rfl
@[simp] theorem State.setOct_holds (k : Nat) (v : List Byte) : (s.setOct k v).holds = s.holds := rfl
@[simp] theorem State.setOct_ranges (k : Nat) (v : List Byte) : (s.setOct k v).ranges = s.ranges := rfl
@[simp] theorem State.setOct_owners (k : Nat) (v : List Byte) : (s.setOct k v).owners = s.owners := rfl
@[simp] theorem State.setOct_texCaches (k : Nat) (v : List Byte) : (s.setOct k v).texCaches = s.texCaches := rfl
@[simp] theorem State.setOct_fresh (k : Nat) (v : List Byte) : (s.setOct k v).fresh = s.fresh := rfl
@[simp] theorem State.setOct_objs (k : Nat) (v : List Byte) : (s.setOct k v).objs = s.objs := rfl
@[simp] theorem State.setOct_mem (k : Nat) (v : List Byte) : (s.setOct k v).mem = s.mem := rfl
@[simp] theorem State.setOct_pacers (k : Nat) (v : List Byte) : (s.setOct k v).pacers = s.pacers := rfl
@[simp] theorem State.setOct_devLog (k : Nat) (v : List Byte) : (s.setOct k v).devLog = s.devLog := rfl
@[simp] theorem State.setOct_vfLogs (k : Nat) (v : List Byte) : (s.setOct k v).vfLogs = s.vfLogs := rfl
@[simp] theorem State.setOct_heldAttn (k : Nat) (v : List Byte) : (s.setOct k v).heldAttn = s.heldAttn := rfl
@[simp] theorem State.setOct_reply (k : Nat) (v : List Byte) : (s.setOct k v).reply = s.reply := rfl
@[simp] theorem State.setOct_marshalQ (k : Nat) (v : List Byte) : (s.setOct k v).marshalQ = s.marshalQ := rfl
@[simp] theorem State.setOct_windows (k : Nat) (v : List Byte) : (s.setOct k v).windows = s.windows := rfl
@[simp] theorem State.setOct_t1Clients (k : Nat) (v : List Byte) : (s.setOct k v).t1Clients = s.t1Clients := rfl
@[simp] theorem State.setOct_segments (k : Nat) (v : List Byte) : (s.setOct k v).segments = s.segments := rfl
@[simp] theorem State.setOct_t1Out (k : Nat) (v : List Byte) : (s.setOct k v).t1Out = s.t1Out := rfl
@[simp] theorem State.setOct_mboxes (k : Nat) (v : List Byte) : (s.setOct k v).mboxes = s.mboxes := rfl
@[simp] theorem State.setOct_pcieFns (k : Nat) (v : List Byte) : (s.setOct k v).pcieFns = s.pcieFns := rfl
@[simp] theorem State.setOct_ctxs (k : Nat) (v : List Byte) : (s.setOct k v).ctxs = s.ctxs := rfl
@[simp] theorem State.setOct_batons (k : Nat) (v : List Byte) : (s.setOct k v).batons = s.batons := rfl
@[simp] theorem State.setOct_queues (k : Nat) (v : List Byte) : (s.setOct k v).queues = s.queues := rfl
@[simp] theorem State.setOct_courses (k : Nat) (v : List Byte) : (s.setOct k v).courses = s.courses := rfl
@[simp] theorem State.setOct_launches (k : Nat) (v : List Byte) : (s.setOct k v).launches = s.launches := rfl
@[simp] theorem State.setOct_nextId (k : Nat) (v : List Byte) : (s.setOct k v).nextId = s.nextId := rfl
@[simp] theorem State.setOct_runs (k : Nat) (v : List Byte) : (s.setOct k v).runs = s.runs := rfl
@[simp] theorem State.setOct_pubs (k : Nat) (v : List Byte) : (s.setOct k v).pubs = s.pubs := rfl
@[simp] theorem State.setOct_tags (k : Nat) (v : List Byte) : (s.setOct k v).tags = s.tags := rfl
@[simp] theorem State.setOct_quadHolds (k : Nat) (v : List Byte) : (s.setOct k v).quadHolds = s.quadHolds := rfl
@[simp] theorem State.setOct_heats (k : Nat) (v : List Byte) : (s.setOct k v).heats = s.heats := rfl
@[simp] theorem State.setOct_spaces (k : Nat) (v : List Byte) : (s.setOct k v).spaces = s.spaces := rfl
@[simp] theorem State.setOct_caches (k : Nat) (v : List Byte) : (s.setOct k v).caches = s.caches := rfl
@[simp] theorem State.setOct_allocs (k : Nat) (v : List Byte) : (s.setOct k v).allocs = s.allocs := rfl
@[simp] theorem State.setOct_cmdStatus (k : Nat) (v : List Byte) : (s.setOct k v).cmdStatus = s.cmdStatus := rfl
@[simp] theorem State.setOct_marshal (k : Nat) (v : List Byte) : (s.setOct k v).marshal = s.marshal := rfl
@[simp] theorem State.setOct_service (k : Nat) (v : List Byte) : (s.setOct k v).service = s.service := rfl
@[simp] theorem State.setOct_halt (k : Nat) (v : List Byte) : (s.setOct k v).halt = s.halt := rfl
@[simp] theorem State.setOct_policy (k : Nat) (v : List Byte) : (s.setOct k v).policy = s.policy := rfl
@[simp] theorem State.setOct_pictures (k : Nat) (v : List Byte) : (s.setOct k v).pictures = s.pictures := rfl
@[simp] theorem State.setOct_comps (k : Nat) (v : List Byte) : (s.setOct k v).comps = s.comps := rfl
@[simp] theorem State.setOct_dps (k : Nat) (v : List Byte) : (s.setOct k v).dps = s.dps := rfl
@[simp] theorem State.setOct_streams (k : Nat) (v : List Byte) : (s.setOct k v).streams = s.streams := rfl
@[simp] theorem State.setOct_gangs (k : Nat) (v : List Byte) : (s.setOct k v).gangs = s.gangs := rfl
@[simp] theorem State.setOct_pair (k : Nat) (v : List Byte) : (s.setOct k v).pair = s.pair := rfl
@[simp] theorem State.setOct_links (k : Nat) (v : List Byte) : (s.setOct k v).links = s.links := rfl
@[simp] theorem State.setOct_klOut (k : Nat) (v : List Byte) : (s.setOct k v).klOut = s.klOut := rfl
@[simp] theorem State.setOct_sync (k : Nat) (v : List Byte) : (s.setOct k v).sync = s.sync := rfl
@[simp] theorem State.setOct_digest (k : Nat) (v : List Byte) : (s.setOct k v).digest = s.digest := rfl
@[simp] theorem State.setOct_replays (k : Nat) (v : List Byte) : (s.setOct k v).replays = s.replays := rfl
@[simp] theorem State.setOct_attach (k : Nat) (v : List Byte) : (s.setOct k v).attach = s.attach := rfl
@[simp] theorem State.setOct_chPend (k : Nat) (v : List Byte) : (s.setOct k v).chPend = s.chPend := rfl
@[simp] theorem State.setOct_outBy (k : Nat) (v : List Byte) : (s.setOct k v).outBy = s.outBy := rfl
@[simp] theorem State.setOct_images (k : Nat) (v : List Byte) : (s.setOct k v).images = s.images := rfl
@[simp] theorem State.setOct_receiving (k : Nat) (v : List Byte) : (s.setOct k v).receiving = s.receiving := rfl
@[simp] theorem State.setOct_cores (k : Nat) (v : List Byte) : (s.setOct k v).cores = s.cores := rfl
@[simp] theorem State.setOct_tested (k : Nat) (v : List Byte) : (s.setOct k v).tested = s.tested := rfl
@[simp] theorem State.setOct_released (k : Nat) (v : List Byte) : (s.setOct k v).released = s.released := rfl
@[simp] theorem State.setOct_recovered (k : Nat) (v : List Byte) : (s.setOct k v).recovered = s.recovered := rfl
@[simp] theorem State.setOct_quoting (k : Nat) (v : List Byte) : (s.setOct k v).quoting = s.quoting := rfl
@[simp] theorem State.setOct_power (k : Nat) (v : List Byte) : (s.setOct k v).power = s.power := rfl
@[simp] theorem State.setOct_lend (k : Nat) (v : List Byte) : (s.setOct k v).lend = s.lend := rfl
@[simp] theorem State.setOct_hostRead (k : Nat) (v : List Byte) : (s.setOct k v).hostRead = s.hostRead := rfl
@[simp] theorem State.setOct_asTime (k : Nat) (v : List Byte) : (s.setOct k v).asTime = s.asTime := rfl
@[simp] theorem State.setOct_asDelay (k : Nat) (v : List Byte) : (s.setOct k v).asDelay = s.asDelay := rfl
@[simp] theorem State.setOct_observe (k : Nat) (v : List Byte) : (s.setOct k v).observe = s.observe := rfl
@[simp] theorem State.setOct_latched (k : Nat) (v : List Byte) : (s.setOct k v).latched = s.latched := rfl
@[simp] theorem State.setOct_traceBuf (k : Nat) (v : List Byte) : (s.setOct k v).traceBuf = s.traceBuf := rfl
@[simp] theorem State.setOct_traceRing (k : Nat) (v : List Byte) : (s.setOct k v).traceRing = s.traceRing := rfl
@[simp] theorem State.setOct_pending (k : Nat) (v : List Byte) : (s.setOct k v).pending = s.pending := rfl
@[simp] theorem State.setOct_raised (k : Nat) (v : List Byte) : (s.setOct k v).raised = s.raised := rfl
@[simp] theorem State.setOct_queuedOk (k : Nat) (v : List Byte) : (s.setOct k v).queuedOk = s.queuedOk := rfl
@[simp] theorem State.setOct_underReset (k : Nat) (v : List Byte) : (s.setOct k v).underReset = s.underReset := rfl
@[simp] theorem State.setOct_barWait (k : Nat) (v : List Byte) : (s.setOct k v).barWait = s.barWait := rfl
@[simp] theorem State.setOct_policyRead (k : Nat) (v : List Byte) : (s.setOct k v).policyRead = s.policyRead := rfl
@[simp] theorem State.setOct_asAt (k : Nat) (v : List Byte) : (s.setOct k v).asAt = s.asAt := rfl
@[simp] theorem State.setOct_asRate (k : Nat) (v : List Byte) : (s.setOct k v).asRate = s.asRate := rfl
@[simp] theorem State.setOct_defended (k : Nat) (v : List Byte) : (s.setOct k v).defended = s.defended := rfl

/-! ### write -/

@[simp] theorem State.write_mem (a : Nat) (bs : List Byte) : (s.write a bs).mem = writeMem s.mem a bs := rfl
@[simp] theorem State.write_now (a : Nat) (bs : List Byte) : (s.write a bs).now = s.now := rfl
@[simp] theorem State.write_readFault (a : Nat) (bs : List Byte) : (s.write a bs).readFault = s.readFault := rfl
@[simp] theorem State.write_arp (a : Nat) (bs : List Byte) : (s.write a bs).arp = s.arp := rfl
@[simp] theorem State.write_holds (a : Nat) (bs : List Byte) : (s.write a bs).holds = s.holds := rfl
@[simp] theorem State.write_ranges (a : Nat) (bs : List Byte) : (s.write a bs).ranges = s.ranges := rfl
@[simp] theorem State.write_owners (a : Nat) (bs : List Byte) : (s.write a bs).owners = s.owners := rfl
@[simp] theorem State.write_texCaches (a : Nat) (bs : List Byte) : (s.write a bs).texCaches = s.texCaches := rfl
@[simp] theorem State.write_fresh (a : Nat) (bs : List Byte) : (s.write a bs).fresh = s.fresh := rfl
@[simp] theorem State.write_objs (a : Nat) (bs : List Byte) : (s.write a bs).objs = s.objs := rfl
@[simp] theorem State.write_octs (a : Nat) (bs : List Byte) : (s.write a bs).octs = s.octs := rfl
@[simp] theorem State.write_pacers (a : Nat) (bs : List Byte) : (s.write a bs).pacers = s.pacers := rfl
@[simp] theorem State.write_devLog (a : Nat) (bs : List Byte) : (s.write a bs).devLog = s.devLog := rfl
@[simp] theorem State.write_vfLogs (a : Nat) (bs : List Byte) : (s.write a bs).vfLogs = s.vfLogs := rfl
@[simp] theorem State.write_heldAttn (a : Nat) (bs : List Byte) : (s.write a bs).heldAttn = s.heldAttn := rfl
@[simp] theorem State.write_reply (a : Nat) (bs : List Byte) : (s.write a bs).reply = s.reply := rfl
@[simp] theorem State.write_marshalQ (a : Nat) (bs : List Byte) : (s.write a bs).marshalQ = s.marshalQ := rfl
@[simp] theorem State.write_windows (a : Nat) (bs : List Byte) : (s.write a bs).windows = s.windows := rfl
@[simp] theorem State.write_t1Clients (a : Nat) (bs : List Byte) : (s.write a bs).t1Clients = s.t1Clients := rfl
@[simp] theorem State.write_segments (a : Nat) (bs : List Byte) : (s.write a bs).segments = s.segments := rfl
@[simp] theorem State.write_t1Out (a : Nat) (bs : List Byte) : (s.write a bs).t1Out = s.t1Out := rfl
@[simp] theorem State.write_mboxes (a : Nat) (bs : List Byte) : (s.write a bs).mboxes = s.mboxes := rfl
@[simp] theorem State.write_pcieFns (a : Nat) (bs : List Byte) : (s.write a bs).pcieFns = s.pcieFns := rfl
@[simp] theorem State.write_ctxs (a : Nat) (bs : List Byte) : (s.write a bs).ctxs = s.ctxs := rfl
@[simp] theorem State.write_batons (a : Nat) (bs : List Byte) : (s.write a bs).batons = s.batons := rfl
@[simp] theorem State.write_queues (a : Nat) (bs : List Byte) : (s.write a bs).queues = s.queues := rfl
@[simp] theorem State.write_courses (a : Nat) (bs : List Byte) : (s.write a bs).courses = s.courses := rfl
@[simp] theorem State.write_launches (a : Nat) (bs : List Byte) : (s.write a bs).launches = s.launches := rfl
@[simp] theorem State.write_nextId (a : Nat) (bs : List Byte) : (s.write a bs).nextId = s.nextId := rfl
@[simp] theorem State.write_runs (a : Nat) (bs : List Byte) : (s.write a bs).runs = s.runs := rfl
@[simp] theorem State.write_pubs (a : Nat) (bs : List Byte) : (s.write a bs).pubs = s.pubs := rfl
@[simp] theorem State.write_tags (a : Nat) (bs : List Byte) : (s.write a bs).tags = s.tags := rfl
@[simp] theorem State.write_quadHolds (a : Nat) (bs : List Byte) : (s.write a bs).quadHolds = s.quadHolds := rfl
@[simp] theorem State.write_heats (a : Nat) (bs : List Byte) : (s.write a bs).heats = s.heats := rfl
@[simp] theorem State.write_spaces (a : Nat) (bs : List Byte) : (s.write a bs).spaces = s.spaces := rfl
@[simp] theorem State.write_caches (a : Nat) (bs : List Byte) : (s.write a bs).caches = s.caches := rfl
@[simp] theorem State.write_allocs (a : Nat) (bs : List Byte) : (s.write a bs).allocs = s.allocs := rfl
@[simp] theorem State.write_cmdStatus (a : Nat) (bs : List Byte) : (s.write a bs).cmdStatus = s.cmdStatus := rfl
@[simp] theorem State.write_marshal (a : Nat) (bs : List Byte) : (s.write a bs).marshal = s.marshal := rfl
@[simp] theorem State.write_service (a : Nat) (bs : List Byte) : (s.write a bs).service = s.service := rfl
@[simp] theorem State.write_halt (a : Nat) (bs : List Byte) : (s.write a bs).halt = s.halt := rfl
@[simp] theorem State.write_policy (a : Nat) (bs : List Byte) : (s.write a bs).policy = s.policy := rfl
@[simp] theorem State.write_pictures (a : Nat) (bs : List Byte) : (s.write a bs).pictures = s.pictures := rfl
@[simp] theorem State.write_comps (a : Nat) (bs : List Byte) : (s.write a bs).comps = s.comps := rfl
@[simp] theorem State.write_dps (a : Nat) (bs : List Byte) : (s.write a bs).dps = s.dps := rfl
@[simp] theorem State.write_streams (a : Nat) (bs : List Byte) : (s.write a bs).streams = s.streams := rfl
@[simp] theorem State.write_gangs (a : Nat) (bs : List Byte) : (s.write a bs).gangs = s.gangs := rfl
@[simp] theorem State.write_pair (a : Nat) (bs : List Byte) : (s.write a bs).pair = s.pair := rfl
@[simp] theorem State.write_links (a : Nat) (bs : List Byte) : (s.write a bs).links = s.links := rfl
@[simp] theorem State.write_klOut (a : Nat) (bs : List Byte) : (s.write a bs).klOut = s.klOut := rfl
@[simp] theorem State.write_sync (a : Nat) (bs : List Byte) : (s.write a bs).sync = s.sync := rfl
@[simp] theorem State.write_digest (a : Nat) (bs : List Byte) : (s.write a bs).digest = s.digest := rfl
@[simp] theorem State.write_replays (a : Nat) (bs : List Byte) : (s.write a bs).replays = s.replays := rfl
@[simp] theorem State.write_attach (a : Nat) (bs : List Byte) : (s.write a bs).attach = s.attach := rfl
@[simp] theorem State.write_chPend (a : Nat) (bs : List Byte) : (s.write a bs).chPend = s.chPend := rfl
@[simp] theorem State.write_outBy (a : Nat) (bs : List Byte) : (s.write a bs).outBy = s.outBy := rfl
@[simp] theorem State.write_images (a : Nat) (bs : List Byte) : (s.write a bs).images = s.images := rfl
@[simp] theorem State.write_receiving (a : Nat) (bs : List Byte) : (s.write a bs).receiving = s.receiving := rfl
@[simp] theorem State.write_cores (a : Nat) (bs : List Byte) : (s.write a bs).cores = s.cores := rfl
@[simp] theorem State.write_tested (a : Nat) (bs : List Byte) : (s.write a bs).tested = s.tested := rfl
@[simp] theorem State.write_released (a : Nat) (bs : List Byte) : (s.write a bs).released = s.released := rfl
@[simp] theorem State.write_recovered (a : Nat) (bs : List Byte) : (s.write a bs).recovered = s.recovered := rfl
@[simp] theorem State.write_quoting (a : Nat) (bs : List Byte) : (s.write a bs).quoting = s.quoting := rfl
@[simp] theorem State.write_power (a : Nat) (bs : List Byte) : (s.write a bs).power = s.power := rfl
@[simp] theorem State.write_lend (a : Nat) (bs : List Byte) : (s.write a bs).lend = s.lend := rfl
@[simp] theorem State.write_hostRead (a : Nat) (bs : List Byte) : (s.write a bs).hostRead = s.hostRead := rfl
@[simp] theorem State.write_asTime (a : Nat) (bs : List Byte) : (s.write a bs).asTime = s.asTime := rfl
@[simp] theorem State.write_asDelay (a : Nat) (bs : List Byte) : (s.write a bs).asDelay = s.asDelay := rfl
@[simp] theorem State.write_observe (a : Nat) (bs : List Byte) : (s.write a bs).observe = s.observe := rfl
@[simp] theorem State.write_latched (a : Nat) (bs : List Byte) : (s.write a bs).latched = s.latched := rfl
@[simp] theorem State.write_traceBuf (a : Nat) (bs : List Byte) : (s.write a bs).traceBuf = s.traceBuf := rfl
@[simp] theorem State.write_traceRing (a : Nat) (bs : List Byte) : (s.write a bs).traceRing = s.traceRing := rfl
@[simp] theorem State.write_pending (a : Nat) (bs : List Byte) : (s.write a bs).pending = s.pending := rfl
@[simp] theorem State.write_raised (a : Nat) (bs : List Byte) : (s.write a bs).raised = s.raised := rfl
@[simp] theorem State.write_queuedOk (a : Nat) (bs : List Byte) : (s.write a bs).queuedOk = s.queuedOk := rfl
@[simp] theorem State.write_underReset (a : Nat) (bs : List Byte) : (s.write a bs).underReset = s.underReset := rfl
@[simp] theorem State.write_barWait (a : Nat) (bs : List Byte) : (s.write a bs).barWait = s.barWait := rfl
@[simp] theorem State.write_policyRead (a : Nat) (bs : List Byte) : (s.write a bs).policyRead = s.policyRead := rfl
@[simp] theorem State.write_asAt (a : Nat) (bs : List Byte) : (s.write a bs).asAt = s.asAt := rfl
@[simp] theorem State.write_asRate (a : Nat) (bs : List Byte) : (s.write a bs).asRate = s.asRate := rfl
@[simp] theorem State.write_defended (a : Nat) (bs : List Byte) : (s.write a bs).defended = s.defended := rfl

/-! ### answer -/

@[simp] theorem State.answer_reply (c : Nat) : (s.answer c).reply = c := rfl
@[simp] theorem State.answer_now (c : Nat) : (s.answer c).now = s.now := rfl
@[simp] theorem State.answer_readFault (c : Nat) : (s.answer c).readFault = s.readFault := rfl
@[simp] theorem State.answer_arp (c : Nat) : (s.answer c).arp = s.arp := rfl
@[simp] theorem State.answer_holds (c : Nat) : (s.answer c).holds = s.holds := rfl
@[simp] theorem State.answer_ranges (c : Nat) : (s.answer c).ranges = s.ranges := rfl
@[simp] theorem State.answer_owners (c : Nat) : (s.answer c).owners = s.owners := rfl
@[simp] theorem State.answer_texCaches (c : Nat) : (s.answer c).texCaches = s.texCaches := rfl
@[simp] theorem State.answer_fresh (c : Nat) : (s.answer c).fresh = s.fresh := rfl
@[simp] theorem State.answer_objs (c : Nat) : (s.answer c).objs = s.objs := rfl
@[simp] theorem State.answer_octs (c : Nat) : (s.answer c).octs = s.octs := rfl
@[simp] theorem State.answer_mem (c : Nat) : (s.answer c).mem = s.mem := rfl
@[simp] theorem State.answer_pacers (c : Nat) : (s.answer c).pacers = s.pacers := rfl
@[simp] theorem State.answer_devLog (c : Nat) : (s.answer c).devLog = s.devLog := rfl
@[simp] theorem State.answer_vfLogs (c : Nat) : (s.answer c).vfLogs = s.vfLogs := rfl
@[simp] theorem State.answer_heldAttn (c : Nat) : (s.answer c).heldAttn = s.heldAttn := rfl
@[simp] theorem State.answer_marshalQ (c : Nat) : (s.answer c).marshalQ = s.marshalQ := rfl
@[simp] theorem State.answer_windows (c : Nat) : (s.answer c).windows = s.windows := rfl
@[simp] theorem State.answer_t1Clients (c : Nat) : (s.answer c).t1Clients = s.t1Clients := rfl
@[simp] theorem State.answer_segments (c : Nat) : (s.answer c).segments = s.segments := rfl
@[simp] theorem State.answer_t1Out (c : Nat) : (s.answer c).t1Out = s.t1Out := rfl
@[simp] theorem State.answer_mboxes (c : Nat) : (s.answer c).mboxes = s.mboxes := rfl
@[simp] theorem State.answer_pcieFns (c : Nat) : (s.answer c).pcieFns = s.pcieFns := rfl
@[simp] theorem State.answer_ctxs (c : Nat) : (s.answer c).ctxs = s.ctxs := rfl
@[simp] theorem State.answer_batons (c : Nat) : (s.answer c).batons = s.batons := rfl
@[simp] theorem State.answer_queues (c : Nat) : (s.answer c).queues = s.queues := rfl
@[simp] theorem State.answer_courses (c : Nat) : (s.answer c).courses = s.courses := rfl
@[simp] theorem State.answer_launches (c : Nat) : (s.answer c).launches = s.launches := rfl
@[simp] theorem State.answer_nextId (c : Nat) : (s.answer c).nextId = s.nextId := rfl
@[simp] theorem State.answer_runs (c : Nat) : (s.answer c).runs = s.runs := rfl
@[simp] theorem State.answer_pubs (c : Nat) : (s.answer c).pubs = s.pubs := rfl
@[simp] theorem State.answer_tags (c : Nat) : (s.answer c).tags = s.tags := rfl
@[simp] theorem State.answer_quadHolds (c : Nat) : (s.answer c).quadHolds = s.quadHolds := rfl
@[simp] theorem State.answer_heats (c : Nat) : (s.answer c).heats = s.heats := rfl
@[simp] theorem State.answer_spaces (c : Nat) : (s.answer c).spaces = s.spaces := rfl
@[simp] theorem State.answer_caches (c : Nat) : (s.answer c).caches = s.caches := rfl
@[simp] theorem State.answer_allocs (c : Nat) : (s.answer c).allocs = s.allocs := rfl
@[simp] theorem State.answer_cmdStatus (c : Nat) : (s.answer c).cmdStatus = s.cmdStatus := rfl
@[simp] theorem State.answer_marshal (c : Nat) : (s.answer c).marshal = s.marshal := rfl
@[simp] theorem State.answer_service (c : Nat) : (s.answer c).service = s.service := rfl
@[simp] theorem State.answer_halt (c : Nat) : (s.answer c).halt = s.halt := rfl
@[simp] theorem State.answer_policy (c : Nat) : (s.answer c).policy = s.policy := rfl
@[simp] theorem State.answer_pictures (c : Nat) : (s.answer c).pictures = s.pictures := rfl
@[simp] theorem State.answer_comps (c : Nat) : (s.answer c).comps = s.comps := rfl
@[simp] theorem State.answer_dps (c : Nat) : (s.answer c).dps = s.dps := rfl
@[simp] theorem State.answer_streams (c : Nat) : (s.answer c).streams = s.streams := rfl
@[simp] theorem State.answer_gangs (c : Nat) : (s.answer c).gangs = s.gangs := rfl
@[simp] theorem State.answer_pair (c : Nat) : (s.answer c).pair = s.pair := rfl
@[simp] theorem State.answer_links (c : Nat) : (s.answer c).links = s.links := rfl
@[simp] theorem State.answer_klOut (c : Nat) : (s.answer c).klOut = s.klOut := rfl
@[simp] theorem State.answer_sync (c : Nat) : (s.answer c).sync = s.sync := rfl
@[simp] theorem State.answer_digest (c : Nat) : (s.answer c).digest = s.digest := rfl
@[simp] theorem State.answer_replays (c : Nat) : (s.answer c).replays = s.replays := rfl
@[simp] theorem State.answer_attach (c : Nat) : (s.answer c).attach = s.attach := rfl
@[simp] theorem State.answer_chPend (c : Nat) : (s.answer c).chPend = s.chPend := rfl
@[simp] theorem State.answer_outBy (c : Nat) : (s.answer c).outBy = s.outBy := rfl
@[simp] theorem State.answer_images (c : Nat) : (s.answer c).images = s.images := rfl
@[simp] theorem State.answer_receiving (c : Nat) : (s.answer c).receiving = s.receiving := rfl
@[simp] theorem State.answer_cores (c : Nat) : (s.answer c).cores = s.cores := rfl
@[simp] theorem State.answer_tested (c : Nat) : (s.answer c).tested = s.tested := rfl
@[simp] theorem State.answer_released (c : Nat) : (s.answer c).released = s.released := rfl
@[simp] theorem State.answer_recovered (c : Nat) : (s.answer c).recovered = s.recovered := rfl
@[simp] theorem State.answer_quoting (c : Nat) : (s.answer c).quoting = s.quoting := rfl
@[simp] theorem State.answer_power (c : Nat) : (s.answer c).power = s.power := rfl
@[simp] theorem State.answer_lend (c : Nat) : (s.answer c).lend = s.lend := rfl
@[simp] theorem State.answer_hostRead (c : Nat) : (s.answer c).hostRead = s.hostRead := rfl
@[simp] theorem State.answer_asTime (c : Nat) : (s.answer c).asTime = s.asTime := rfl
@[simp] theorem State.answer_asDelay (c : Nat) : (s.answer c).asDelay = s.asDelay := rfl
@[simp] theorem State.answer_observe (c : Nat) : (s.answer c).observe = s.observe := rfl
@[simp] theorem State.answer_latched (c : Nat) : (s.answer c).latched = s.latched := rfl
@[simp] theorem State.answer_traceBuf (c : Nat) : (s.answer c).traceBuf = s.traceBuf := rfl
@[simp] theorem State.answer_traceRing (c : Nat) : (s.answer c).traceRing = s.traceRing := rfl
@[simp] theorem State.answer_pending (c : Nat) : (s.answer c).pending = s.pending := rfl
@[simp] theorem State.answer_raised (c : Nat) : (s.answer c).raised = s.raised := rfl
@[simp] theorem State.answer_queuedOk (c : Nat) : (s.answer c).queuedOk = s.queuedOk := rfl
@[simp] theorem State.answer_underReset (c : Nat) : (s.answer c).underReset = s.underReset := rfl
@[simp] theorem State.answer_barWait (c : Nat) : (s.answer c).barWait = s.barWait := rfl
@[simp] theorem State.answer_policyRead (c : Nat) : (s.answer c).policyRead = s.policyRead := rfl
@[simp] theorem State.answer_asAt (c : Nat) : (s.answer c).asAt = s.asAt := rfl
@[simp] theorem State.answer_asRate (c : Nat) : (s.answer c).asRate = s.asRate := rfl
@[simp] theorem State.answer_defended (c : Nat) : (s.answer c).defended = s.defended := rfl

/-! ### setCmd -/

@[simp] theorem State.setCmd_cmdStatus (k e x : Nat) : (s.setCmd k e x).cmdStatus = put s.cmdStatus k (cmdWord e x) := rfl
@[simp] theorem State.setCmd_now (k e x : Nat) : (s.setCmd k e x).now = s.now := rfl
@[simp] theorem State.setCmd_readFault (k e x : Nat) : (s.setCmd k e x).readFault = s.readFault := rfl
@[simp] theorem State.setCmd_arp (k e x : Nat) : (s.setCmd k e x).arp = s.arp := rfl
@[simp] theorem State.setCmd_holds (k e x : Nat) : (s.setCmd k e x).holds = s.holds := rfl
@[simp] theorem State.setCmd_ranges (k e x : Nat) : (s.setCmd k e x).ranges = s.ranges := rfl
@[simp] theorem State.setCmd_owners (k e x : Nat) : (s.setCmd k e x).owners = s.owners := rfl
@[simp] theorem State.setCmd_texCaches (k e x : Nat) : (s.setCmd k e x).texCaches = s.texCaches := rfl
@[simp] theorem State.setCmd_fresh (k e x : Nat) : (s.setCmd k e x).fresh = s.fresh := rfl
@[simp] theorem State.setCmd_objs (k e x : Nat) : (s.setCmd k e x).objs = s.objs := rfl
@[simp] theorem State.setCmd_octs (k e x : Nat) : (s.setCmd k e x).octs = s.octs := rfl
@[simp] theorem State.setCmd_mem (k e x : Nat) : (s.setCmd k e x).mem = s.mem := rfl
@[simp] theorem State.setCmd_pacers (k e x : Nat) : (s.setCmd k e x).pacers = s.pacers := rfl
@[simp] theorem State.setCmd_devLog (k e x : Nat) : (s.setCmd k e x).devLog = s.devLog := rfl
@[simp] theorem State.setCmd_vfLogs (k e x : Nat) : (s.setCmd k e x).vfLogs = s.vfLogs := rfl
@[simp] theorem State.setCmd_heldAttn (k e x : Nat) : (s.setCmd k e x).heldAttn = s.heldAttn := rfl
@[simp] theorem State.setCmd_reply (k e x : Nat) : (s.setCmd k e x).reply = s.reply := rfl
@[simp] theorem State.setCmd_marshalQ (k e x : Nat) : (s.setCmd k e x).marshalQ = s.marshalQ := rfl
@[simp] theorem State.setCmd_windows (k e x : Nat) : (s.setCmd k e x).windows = s.windows := rfl
@[simp] theorem State.setCmd_t1Clients (k e x : Nat) : (s.setCmd k e x).t1Clients = s.t1Clients := rfl
@[simp] theorem State.setCmd_segments (k e x : Nat) : (s.setCmd k e x).segments = s.segments := rfl
@[simp] theorem State.setCmd_t1Out (k e x : Nat) : (s.setCmd k e x).t1Out = s.t1Out := rfl
@[simp] theorem State.setCmd_mboxes (k e x : Nat) : (s.setCmd k e x).mboxes = s.mboxes := rfl
@[simp] theorem State.setCmd_pcieFns (k e x : Nat) : (s.setCmd k e x).pcieFns = s.pcieFns := rfl
@[simp] theorem State.setCmd_ctxs (k e x : Nat) : (s.setCmd k e x).ctxs = s.ctxs := rfl
@[simp] theorem State.setCmd_batons (k e x : Nat) : (s.setCmd k e x).batons = s.batons := rfl
@[simp] theorem State.setCmd_queues (k e x : Nat) : (s.setCmd k e x).queues = s.queues := rfl
@[simp] theorem State.setCmd_courses (k e x : Nat) : (s.setCmd k e x).courses = s.courses := rfl
@[simp] theorem State.setCmd_launches (k e x : Nat) : (s.setCmd k e x).launches = s.launches := rfl
@[simp] theorem State.setCmd_nextId (k e x : Nat) : (s.setCmd k e x).nextId = s.nextId := rfl
@[simp] theorem State.setCmd_runs (k e x : Nat) : (s.setCmd k e x).runs = s.runs := rfl
@[simp] theorem State.setCmd_pubs (k e x : Nat) : (s.setCmd k e x).pubs = s.pubs := rfl
@[simp] theorem State.setCmd_tags (k e x : Nat) : (s.setCmd k e x).tags = s.tags := rfl
@[simp] theorem State.setCmd_quadHolds (k e x : Nat) : (s.setCmd k e x).quadHolds = s.quadHolds := rfl
@[simp] theorem State.setCmd_heats (k e x : Nat) : (s.setCmd k e x).heats = s.heats := rfl
@[simp] theorem State.setCmd_spaces (k e x : Nat) : (s.setCmd k e x).spaces = s.spaces := rfl
@[simp] theorem State.setCmd_caches (k e x : Nat) : (s.setCmd k e x).caches = s.caches := rfl
@[simp] theorem State.setCmd_allocs (k e x : Nat) : (s.setCmd k e x).allocs = s.allocs := rfl
@[simp] theorem State.setCmd_marshal (k e x : Nat) : (s.setCmd k e x).marshal = s.marshal := rfl
@[simp] theorem State.setCmd_service (k e x : Nat) : (s.setCmd k e x).service = s.service := rfl
@[simp] theorem State.setCmd_halt (k e x : Nat) : (s.setCmd k e x).halt = s.halt := rfl
@[simp] theorem State.setCmd_policy (k e x : Nat) : (s.setCmd k e x).policy = s.policy := rfl
@[simp] theorem State.setCmd_pictures (k e x : Nat) : (s.setCmd k e x).pictures = s.pictures := rfl
@[simp] theorem State.setCmd_comps (k e x : Nat) : (s.setCmd k e x).comps = s.comps := rfl
@[simp] theorem State.setCmd_dps (k e x : Nat) : (s.setCmd k e x).dps = s.dps := rfl
@[simp] theorem State.setCmd_streams (k e x : Nat) : (s.setCmd k e x).streams = s.streams := rfl
@[simp] theorem State.setCmd_gangs (k e x : Nat) : (s.setCmd k e x).gangs = s.gangs := rfl
@[simp] theorem State.setCmd_pair (k e x : Nat) : (s.setCmd k e x).pair = s.pair := rfl
@[simp] theorem State.setCmd_links (k e x : Nat) : (s.setCmd k e x).links = s.links := rfl
@[simp] theorem State.setCmd_klOut (k e x : Nat) : (s.setCmd k e x).klOut = s.klOut := rfl
@[simp] theorem State.setCmd_sync (k e x : Nat) : (s.setCmd k e x).sync = s.sync := rfl
@[simp] theorem State.setCmd_digest (k e x : Nat) : (s.setCmd k e x).digest = s.digest := rfl
@[simp] theorem State.setCmd_replays (k e x : Nat) : (s.setCmd k e x).replays = s.replays := rfl
@[simp] theorem State.setCmd_attach (k e x : Nat) : (s.setCmd k e x).attach = s.attach := rfl
@[simp] theorem State.setCmd_chPend (k e x : Nat) : (s.setCmd k e x).chPend = s.chPend := rfl
@[simp] theorem State.setCmd_outBy (k e x : Nat) : (s.setCmd k e x).outBy = s.outBy := rfl
@[simp] theorem State.setCmd_images (k e x : Nat) : (s.setCmd k e x).images = s.images := rfl
@[simp] theorem State.setCmd_receiving (k e x : Nat) : (s.setCmd k e x).receiving = s.receiving := rfl
@[simp] theorem State.setCmd_cores (k e x : Nat) : (s.setCmd k e x).cores = s.cores := rfl
@[simp] theorem State.setCmd_tested (k e x : Nat) : (s.setCmd k e x).tested = s.tested := rfl
@[simp] theorem State.setCmd_released (k e x : Nat) : (s.setCmd k e x).released = s.released := rfl
@[simp] theorem State.setCmd_recovered (k e x : Nat) : (s.setCmd k e x).recovered = s.recovered := rfl
@[simp] theorem State.setCmd_quoting (k e x : Nat) : (s.setCmd k e x).quoting = s.quoting := rfl
@[simp] theorem State.setCmd_power (k e x : Nat) : (s.setCmd k e x).power = s.power := rfl
@[simp] theorem State.setCmd_lend (k e x : Nat) : (s.setCmd k e x).lend = s.lend := rfl
@[simp] theorem State.setCmd_hostRead (k e x : Nat) : (s.setCmd k e x).hostRead = s.hostRead := rfl
@[simp] theorem State.setCmd_asTime (k e x : Nat) : (s.setCmd k e x).asTime = s.asTime := rfl
@[simp] theorem State.setCmd_asDelay (k e x : Nat) : (s.setCmd k e x).asDelay = s.asDelay := rfl
@[simp] theorem State.setCmd_observe (k e x : Nat) : (s.setCmd k e x).observe = s.observe := rfl
@[simp] theorem State.setCmd_latched (k e x : Nat) : (s.setCmd k e x).latched = s.latched := rfl
@[simp] theorem State.setCmd_traceBuf (k e x : Nat) : (s.setCmd k e x).traceBuf = s.traceBuf := rfl
@[simp] theorem State.setCmd_traceRing (k e x : Nat) : (s.setCmd k e x).traceRing = s.traceRing := rfl
@[simp] theorem State.setCmd_pending (k e x : Nat) : (s.setCmd k e x).pending = s.pending := rfl
@[simp] theorem State.setCmd_raised (k e x : Nat) : (s.setCmd k e x).raised = s.raised := rfl
@[simp] theorem State.setCmd_queuedOk (k e x : Nat) : (s.setCmd k e x).queuedOk = s.queuedOk := rfl
@[simp] theorem State.setCmd_underReset (k e x : Nat) : (s.setCmd k e x).underReset = s.underReset := rfl
@[simp] theorem State.setCmd_barWait (k e x : Nat) : (s.setCmd k e x).barWait = s.barWait := rfl
@[simp] theorem State.setCmd_policyRead (k e x : Nat) : (s.setCmd k e x).policyRead = s.policyRead := rfl
@[simp] theorem State.setCmd_asAt (k e x : Nat) : (s.setCmd k e x).asAt = s.asAt := rfl
@[simp] theorem State.setCmd_asRate (k e x : Nat) : (s.setCmd k e x).asRate = s.asRate := rfl
@[simp] theorem State.setCmd_defended (k e x : Nat) : (s.setCmd k e x).defended = s.defended := rfl

/-! ### refuse -/

@[simp] theorem State.refuse_reply (k c : Nat) : (s.refuse k c).reply = c := rfl
@[simp] theorem State.refuse_cmdStatus (k c : Nat) : (s.refuse k c).cmdStatus = put s.cmdStatus k (cmdWord 0 3) := rfl
@[simp] theorem State.refuse_now (k c : Nat) : (s.refuse k c).now = s.now := rfl
@[simp] theorem State.refuse_readFault (k c : Nat) : (s.refuse k c).readFault = s.readFault := rfl
@[simp] theorem State.refuse_arp (k c : Nat) : (s.refuse k c).arp = s.arp := rfl
@[simp] theorem State.refuse_holds (k c : Nat) : (s.refuse k c).holds = s.holds := rfl
@[simp] theorem State.refuse_ranges (k c : Nat) : (s.refuse k c).ranges = s.ranges := rfl
@[simp] theorem State.refuse_owners (k c : Nat) : (s.refuse k c).owners = s.owners := rfl
@[simp] theorem State.refuse_texCaches (k c : Nat) : (s.refuse k c).texCaches = s.texCaches := rfl
@[simp] theorem State.refuse_fresh (k c : Nat) : (s.refuse k c).fresh = s.fresh := rfl
@[simp] theorem State.refuse_objs (k c : Nat) : (s.refuse k c).objs = s.objs := rfl
@[simp] theorem State.refuse_octs (k c : Nat) : (s.refuse k c).octs = s.octs := rfl
@[simp] theorem State.refuse_mem (k c : Nat) : (s.refuse k c).mem = s.mem := rfl
@[simp] theorem State.refuse_pacers (k c : Nat) : (s.refuse k c).pacers = s.pacers := rfl
@[simp] theorem State.refuse_devLog (k c : Nat) : (s.refuse k c).devLog = s.devLog := rfl
@[simp] theorem State.refuse_vfLogs (k c : Nat) : (s.refuse k c).vfLogs = s.vfLogs := rfl
@[simp] theorem State.refuse_heldAttn (k c : Nat) : (s.refuse k c).heldAttn = s.heldAttn := rfl
@[simp] theorem State.refuse_marshalQ (k c : Nat) : (s.refuse k c).marshalQ = s.marshalQ := rfl
@[simp] theorem State.refuse_windows (k c : Nat) : (s.refuse k c).windows = s.windows := rfl
@[simp] theorem State.refuse_t1Clients (k c : Nat) : (s.refuse k c).t1Clients = s.t1Clients := rfl
@[simp] theorem State.refuse_segments (k c : Nat) : (s.refuse k c).segments = s.segments := rfl
@[simp] theorem State.refuse_t1Out (k c : Nat) : (s.refuse k c).t1Out = s.t1Out := rfl
@[simp] theorem State.refuse_mboxes (k c : Nat) : (s.refuse k c).mboxes = s.mboxes := rfl
@[simp] theorem State.refuse_pcieFns (k c : Nat) : (s.refuse k c).pcieFns = s.pcieFns := rfl
@[simp] theorem State.refuse_ctxs (k c : Nat) : (s.refuse k c).ctxs = s.ctxs := rfl
@[simp] theorem State.refuse_batons (k c : Nat) : (s.refuse k c).batons = s.batons := rfl
@[simp] theorem State.refuse_queues (k c : Nat) : (s.refuse k c).queues = s.queues := rfl
@[simp] theorem State.refuse_courses (k c : Nat) : (s.refuse k c).courses = s.courses := rfl
@[simp] theorem State.refuse_launches (k c : Nat) : (s.refuse k c).launches = s.launches := rfl
@[simp] theorem State.refuse_nextId (k c : Nat) : (s.refuse k c).nextId = s.nextId := rfl
@[simp] theorem State.refuse_runs (k c : Nat) : (s.refuse k c).runs = s.runs := rfl
@[simp] theorem State.refuse_pubs (k c : Nat) : (s.refuse k c).pubs = s.pubs := rfl
@[simp] theorem State.refuse_tags (k c : Nat) : (s.refuse k c).tags = s.tags := rfl
@[simp] theorem State.refuse_quadHolds (k c : Nat) : (s.refuse k c).quadHolds = s.quadHolds := rfl
@[simp] theorem State.refuse_heats (k c : Nat) : (s.refuse k c).heats = s.heats := rfl
@[simp] theorem State.refuse_spaces (k c : Nat) : (s.refuse k c).spaces = s.spaces := rfl
@[simp] theorem State.refuse_caches (k c : Nat) : (s.refuse k c).caches = s.caches := rfl
@[simp] theorem State.refuse_allocs (k c : Nat) : (s.refuse k c).allocs = s.allocs := rfl
@[simp] theorem State.refuse_marshal (k c : Nat) : (s.refuse k c).marshal = s.marshal := rfl
@[simp] theorem State.refuse_service (k c : Nat) : (s.refuse k c).service = s.service := rfl
@[simp] theorem State.refuse_halt (k c : Nat) : (s.refuse k c).halt = s.halt := rfl
@[simp] theorem State.refuse_policy (k c : Nat) : (s.refuse k c).policy = s.policy := rfl
@[simp] theorem State.refuse_pictures (k c : Nat) : (s.refuse k c).pictures = s.pictures := rfl
@[simp] theorem State.refuse_comps (k c : Nat) : (s.refuse k c).comps = s.comps := rfl
@[simp] theorem State.refuse_dps (k c : Nat) : (s.refuse k c).dps = s.dps := rfl
@[simp] theorem State.refuse_streams (k c : Nat) : (s.refuse k c).streams = s.streams := rfl
@[simp] theorem State.refuse_gangs (k c : Nat) : (s.refuse k c).gangs = s.gangs := rfl
@[simp] theorem State.refuse_pair (k c : Nat) : (s.refuse k c).pair = s.pair := rfl
@[simp] theorem State.refuse_links (k c : Nat) : (s.refuse k c).links = s.links := rfl
@[simp] theorem State.refuse_klOut (k c : Nat) : (s.refuse k c).klOut = s.klOut := rfl
@[simp] theorem State.refuse_sync (k c : Nat) : (s.refuse k c).sync = s.sync := rfl
@[simp] theorem State.refuse_digest (k c : Nat) : (s.refuse k c).digest = s.digest := rfl
@[simp] theorem State.refuse_replays (k c : Nat) : (s.refuse k c).replays = s.replays := rfl
@[simp] theorem State.refuse_attach (k c : Nat) : (s.refuse k c).attach = s.attach := rfl
@[simp] theorem State.refuse_chPend (k c : Nat) : (s.refuse k c).chPend = s.chPend := rfl
@[simp] theorem State.refuse_outBy (k c : Nat) : (s.refuse k c).outBy = s.outBy := rfl
@[simp] theorem State.refuse_images (k c : Nat) : (s.refuse k c).images = s.images := rfl
@[simp] theorem State.refuse_receiving (k c : Nat) : (s.refuse k c).receiving = s.receiving := rfl
@[simp] theorem State.refuse_cores (k c : Nat) : (s.refuse k c).cores = s.cores := rfl
@[simp] theorem State.refuse_tested (k c : Nat) : (s.refuse k c).tested = s.tested := rfl
@[simp] theorem State.refuse_released (k c : Nat) : (s.refuse k c).released = s.released := rfl
@[simp] theorem State.refuse_recovered (k c : Nat) : (s.refuse k c).recovered = s.recovered := rfl
@[simp] theorem State.refuse_quoting (k c : Nat) : (s.refuse k c).quoting = s.quoting := rfl
@[simp] theorem State.refuse_power (k c : Nat) : (s.refuse k c).power = s.power := rfl
@[simp] theorem State.refuse_lend (k c : Nat) : (s.refuse k c).lend = s.lend := rfl
@[simp] theorem State.refuse_hostRead (k c : Nat) : (s.refuse k c).hostRead = s.hostRead := rfl
@[simp] theorem State.refuse_asTime (k c : Nat) : (s.refuse k c).asTime = s.asTime := rfl
@[simp] theorem State.refuse_asDelay (k c : Nat) : (s.refuse k c).asDelay = s.asDelay := rfl
@[simp] theorem State.refuse_observe (k c : Nat) : (s.refuse k c).observe = s.observe := rfl
@[simp] theorem State.refuse_latched (k c : Nat) : (s.refuse k c).latched = s.latched := rfl
@[simp] theorem State.refuse_traceBuf (k c : Nat) : (s.refuse k c).traceBuf = s.traceBuf := rfl
@[simp] theorem State.refuse_traceRing (k c : Nat) : (s.refuse k c).traceRing = s.traceRing := rfl
@[simp] theorem State.refuse_pending (k c : Nat) : (s.refuse k c).pending = s.pending := rfl
@[simp] theorem State.refuse_raised (k c : Nat) : (s.refuse k c).raised = s.raised := rfl
@[simp] theorem State.refuse_queuedOk (k c : Nat) : (s.refuse k c).queuedOk = s.queuedOk := rfl
@[simp] theorem State.refuse_underReset (k c : Nat) : (s.refuse k c).underReset = s.underReset := rfl
@[simp] theorem State.refuse_barWait (k c : Nat) : (s.refuse k c).barWait = s.barWait := rfl
@[simp] theorem State.refuse_policyRead (k c : Nat) : (s.refuse k c).policyRead = s.policyRead := rfl
@[simp] theorem State.refuse_asAt (k c : Nat) : (s.refuse k c).asAt = s.asAt := rfl
@[simp] theorem State.refuse_asRate (k c : Nat) : (s.refuse k c).asRate = s.asRate := rfl
@[simp] theorem State.refuse_defended (k c : Nat) : (s.refuse k c).defended = s.defended := rfl

/-! ### accept -/

@[simp] theorem State.accept_reply (k : Nat) : (s.accept k).reply = rcOk := rfl
@[simp] theorem State.accept_cmdStatus (k : Nat) : (s.accept k).cmdStatus = put s.cmdStatus k (cmdWord 0 1) := rfl
@[simp] theorem State.accept_now (k : Nat) : (s.accept k).now = s.now := rfl
@[simp] theorem State.accept_readFault (k : Nat) : (s.accept k).readFault = s.readFault := rfl
@[simp] theorem State.accept_arp (k : Nat) : (s.accept k).arp = s.arp := rfl
@[simp] theorem State.accept_holds (k : Nat) : (s.accept k).holds = s.holds := rfl
@[simp] theorem State.accept_ranges (k : Nat) : (s.accept k).ranges = s.ranges := rfl
@[simp] theorem State.accept_owners (k : Nat) : (s.accept k).owners = s.owners := rfl
@[simp] theorem State.accept_texCaches (k : Nat) : (s.accept k).texCaches = s.texCaches := rfl
@[simp] theorem State.accept_fresh (k : Nat) : (s.accept k).fresh = s.fresh := rfl
@[simp] theorem State.accept_objs (k : Nat) : (s.accept k).objs = s.objs := rfl
@[simp] theorem State.accept_octs (k : Nat) : (s.accept k).octs = s.octs := rfl
@[simp] theorem State.accept_mem (k : Nat) : (s.accept k).mem = s.mem := rfl
@[simp] theorem State.accept_pacers (k : Nat) : (s.accept k).pacers = s.pacers := rfl
@[simp] theorem State.accept_devLog (k : Nat) : (s.accept k).devLog = s.devLog := rfl
@[simp] theorem State.accept_vfLogs (k : Nat) : (s.accept k).vfLogs = s.vfLogs := rfl
@[simp] theorem State.accept_heldAttn (k : Nat) : (s.accept k).heldAttn = s.heldAttn := rfl
@[simp] theorem State.accept_marshalQ (k : Nat) : (s.accept k).marshalQ = s.marshalQ := rfl
@[simp] theorem State.accept_windows (k : Nat) : (s.accept k).windows = s.windows := rfl
@[simp] theorem State.accept_t1Clients (k : Nat) : (s.accept k).t1Clients = s.t1Clients := rfl
@[simp] theorem State.accept_segments (k : Nat) : (s.accept k).segments = s.segments := rfl
@[simp] theorem State.accept_t1Out (k : Nat) : (s.accept k).t1Out = s.t1Out := rfl
@[simp] theorem State.accept_mboxes (k : Nat) : (s.accept k).mboxes = s.mboxes := rfl
@[simp] theorem State.accept_pcieFns (k : Nat) : (s.accept k).pcieFns = s.pcieFns := rfl
@[simp] theorem State.accept_ctxs (k : Nat) : (s.accept k).ctxs = s.ctxs := rfl
@[simp] theorem State.accept_batons (k : Nat) : (s.accept k).batons = s.batons := rfl
@[simp] theorem State.accept_queues (k : Nat) : (s.accept k).queues = s.queues := rfl
@[simp] theorem State.accept_courses (k : Nat) : (s.accept k).courses = s.courses := rfl
@[simp] theorem State.accept_launches (k : Nat) : (s.accept k).launches = s.launches := rfl
@[simp] theorem State.accept_nextId (k : Nat) : (s.accept k).nextId = s.nextId := rfl
@[simp] theorem State.accept_runs (k : Nat) : (s.accept k).runs = s.runs := rfl
@[simp] theorem State.accept_pubs (k : Nat) : (s.accept k).pubs = s.pubs := rfl
@[simp] theorem State.accept_tags (k : Nat) : (s.accept k).tags = s.tags := rfl
@[simp] theorem State.accept_quadHolds (k : Nat) : (s.accept k).quadHolds = s.quadHolds := rfl
@[simp] theorem State.accept_heats (k : Nat) : (s.accept k).heats = s.heats := rfl
@[simp] theorem State.accept_spaces (k : Nat) : (s.accept k).spaces = s.spaces := rfl
@[simp] theorem State.accept_caches (k : Nat) : (s.accept k).caches = s.caches := rfl
@[simp] theorem State.accept_allocs (k : Nat) : (s.accept k).allocs = s.allocs := rfl
@[simp] theorem State.accept_marshal (k : Nat) : (s.accept k).marshal = s.marshal := rfl
@[simp] theorem State.accept_service (k : Nat) : (s.accept k).service = s.service := rfl
@[simp] theorem State.accept_halt (k : Nat) : (s.accept k).halt = s.halt := rfl
@[simp] theorem State.accept_policy (k : Nat) : (s.accept k).policy = s.policy := rfl
@[simp] theorem State.accept_pictures (k : Nat) : (s.accept k).pictures = s.pictures := rfl
@[simp] theorem State.accept_comps (k : Nat) : (s.accept k).comps = s.comps := rfl
@[simp] theorem State.accept_dps (k : Nat) : (s.accept k).dps = s.dps := rfl
@[simp] theorem State.accept_streams (k : Nat) : (s.accept k).streams = s.streams := rfl
@[simp] theorem State.accept_gangs (k : Nat) : (s.accept k).gangs = s.gangs := rfl
@[simp] theorem State.accept_pair (k : Nat) : (s.accept k).pair = s.pair := rfl
@[simp] theorem State.accept_links (k : Nat) : (s.accept k).links = s.links := rfl
@[simp] theorem State.accept_klOut (k : Nat) : (s.accept k).klOut = s.klOut := rfl
@[simp] theorem State.accept_sync (k : Nat) : (s.accept k).sync = s.sync := rfl
@[simp] theorem State.accept_digest (k : Nat) : (s.accept k).digest = s.digest := rfl
@[simp] theorem State.accept_replays (k : Nat) : (s.accept k).replays = s.replays := rfl
@[simp] theorem State.accept_attach (k : Nat) : (s.accept k).attach = s.attach := rfl
@[simp] theorem State.accept_chPend (k : Nat) : (s.accept k).chPend = s.chPend := rfl
@[simp] theorem State.accept_outBy (k : Nat) : (s.accept k).outBy = s.outBy := rfl
@[simp] theorem State.accept_images (k : Nat) : (s.accept k).images = s.images := rfl
@[simp] theorem State.accept_receiving (k : Nat) : (s.accept k).receiving = s.receiving := rfl
@[simp] theorem State.accept_cores (k : Nat) : (s.accept k).cores = s.cores := rfl
@[simp] theorem State.accept_tested (k : Nat) : (s.accept k).tested = s.tested := rfl
@[simp] theorem State.accept_released (k : Nat) : (s.accept k).released = s.released := rfl
@[simp] theorem State.accept_recovered (k : Nat) : (s.accept k).recovered = s.recovered := rfl
@[simp] theorem State.accept_quoting (k : Nat) : (s.accept k).quoting = s.quoting := rfl
@[simp] theorem State.accept_power (k : Nat) : (s.accept k).power = s.power := rfl
@[simp] theorem State.accept_lend (k : Nat) : (s.accept k).lend = s.lend := rfl
@[simp] theorem State.accept_hostRead (k : Nat) : (s.accept k).hostRead = s.hostRead := rfl
@[simp] theorem State.accept_asTime (k : Nat) : (s.accept k).asTime = s.asTime := rfl
@[simp] theorem State.accept_asDelay (k : Nat) : (s.accept k).asDelay = s.asDelay := rfl
@[simp] theorem State.accept_observe (k : Nat) : (s.accept k).observe = s.observe := rfl
@[simp] theorem State.accept_latched (k : Nat) : (s.accept k).latched = s.latched := rfl
@[simp] theorem State.accept_traceBuf (k : Nat) : (s.accept k).traceBuf = s.traceBuf := rfl
@[simp] theorem State.accept_traceRing (k : Nat) : (s.accept k).traceRing = s.traceRing := rfl
@[simp] theorem State.accept_pending (k : Nat) : (s.accept k).pending = s.pending := rfl
@[simp] theorem State.accept_raised (k : Nat) : (s.accept k).raised = s.raised := rfl
@[simp] theorem State.accept_queuedOk (k : Nat) : (s.accept k).queuedOk = s.queuedOk := rfl
@[simp] theorem State.accept_underReset (k : Nat) : (s.accept k).underReset = s.underReset := rfl
@[simp] theorem State.accept_barWait (k : Nat) : (s.accept k).barWait = s.barWait := rfl
@[simp] theorem State.accept_policyRead (k : Nat) : (s.accept k).policyRead = s.policyRead := rfl
@[simp] theorem State.accept_asAt (k : Nat) : (s.accept k).asAt = s.asAt := rfl
@[simp] theorem State.accept_asRate (k : Nat) : (s.accept k).asRate = s.asRate := rfl
@[simp] theorem State.accept_defended (k : Nat) : (s.accept k).defended = s.defended := rfl

/-! ### attn -/

/-- Raising attention changes the events of the cycle, or those held, alone. -/
theorem State.attn_frame (code chan k d : Nat) : ∃ l e, s.attn code chan k d = { s with raised := l, heldAttn := e } := by
  unfold State.attn State.note
  split
  · exact ⟨_, _, rfl⟩
  · exact ⟨_, _, rfl⟩

@[simp] theorem State.attn_now (code chan k d : Nat) : (s.attn code chan k d).now = s.now := by
  obtain ⟨l, e, h⟩ := s.attn_frame code chan k d; rw [h]
@[simp] theorem State.attn_readFault (code chan k d : Nat) : (s.attn code chan k d).readFault = s.readFault := by
  obtain ⟨l, e, h⟩ := s.attn_frame code chan k d; rw [h]
@[simp] theorem State.attn_fresh (code chan k d : Nat) : (s.attn code chan k d).fresh = s.fresh := by
  obtain ⟨l, e, h⟩ := s.attn_frame code chan k d; rw [h]
@[simp] theorem State.attn_objs (code chan k d : Nat) : (s.attn code chan k d).objs = s.objs := by
  obtain ⟨l, e, h⟩ := s.attn_frame code chan k d; rw [h]
@[simp] theorem State.attn_octs (code chan k d : Nat) : (s.attn code chan k d).octs = s.octs := by
  obtain ⟨l, e, h⟩ := s.attn_frame code chan k d; rw [h]
@[simp] theorem State.attn_mem (code chan k d : Nat) : (s.attn code chan k d).mem = s.mem := by
  obtain ⟨l, e, h⟩ := s.attn_frame code chan k d; rw [h]
@[simp] theorem State.attn_pacers (code chan k d : Nat) : (s.attn code chan k d).pacers = s.pacers := by
  obtain ⟨l, e, h⟩ := s.attn_frame code chan k d; rw [h]
@[simp] theorem State.attn_devLog (code chan k d : Nat) : (s.attn code chan k d).devLog = s.devLog := by
  obtain ⟨l, e, h⟩ := s.attn_frame code chan k d; rw [h]
@[simp] theorem State.attn_vfLogs (code chan k d : Nat) : (s.attn code chan k d).vfLogs = s.vfLogs := by
  obtain ⟨l, e, h⟩ := s.attn_frame code chan k d; rw [h]
@[simp] theorem State.attn_reply (code chan k d : Nat) : (s.attn code chan k d).reply = s.reply := by
  obtain ⟨l, e, h⟩ := s.attn_frame code chan k d; rw [h]
@[simp] theorem State.attn_queuedOk (code chan k d : Nat) : (s.attn code chan k d).queuedOk = s.queuedOk := by
  obtain ⟨l, e, h⟩ := s.attn_frame code chan k d; rw [h]
@[simp] theorem State.attn_marshalQ (code chan k d : Nat) : (s.attn code chan k d).marshalQ = s.marshalQ := by
  obtain ⟨l, e, h⟩ := s.attn_frame code chan k d; rw [h]
@[simp] theorem State.attn_windows (code chan k d : Nat) : (s.attn code chan k d).windows = s.windows := by
  obtain ⟨l, e, h⟩ := s.attn_frame code chan k d; rw [h]
@[simp] theorem State.attn_t1Clients (code chan k d : Nat) : (s.attn code chan k d).t1Clients = s.t1Clients := by
  obtain ⟨l, e, h⟩ := s.attn_frame code chan k d; rw [h]
@[simp] theorem State.attn_segments (code chan k d : Nat) : (s.attn code chan k d).segments = s.segments := by
  obtain ⟨l, e, h⟩ := s.attn_frame code chan k d; rw [h]
@[simp] theorem State.attn_t1Out (code chan k d : Nat) : (s.attn code chan k d).t1Out = s.t1Out := by
  obtain ⟨l, e, h⟩ := s.attn_frame code chan k d; rw [h]
@[simp] theorem State.attn_arp (code chan k d : Nat) : (s.attn code chan k d).arp = s.arp := by
  obtain ⟨l, e, h⟩ := s.attn_frame code chan k d; rw [h]
@[simp] theorem State.attn_mboxes (code chan k d : Nat) : (s.attn code chan k d).mboxes = s.mboxes := by
  obtain ⟨l, e, h⟩ := s.attn_frame code chan k d; rw [h]
@[simp] theorem State.attn_pcieFns (code chan k d : Nat) : (s.attn code chan k d).pcieFns = s.pcieFns := by
  obtain ⟨l, e, h⟩ := s.attn_frame code chan k d; rw [h]
@[simp] theorem State.attn_underReset (code chan k d : Nat) : (s.attn code chan k d).underReset = s.underReset := by
  obtain ⟨l, e, h⟩ := s.attn_frame code chan k d; rw [h]
@[simp] theorem State.attn_barWait (code chan k d : Nat) : (s.attn code chan k d).barWait = s.barWait := by
  obtain ⟨l, e, h⟩ := s.attn_frame code chan k d; rw [h]
@[simp] theorem State.attn_ctxs (code chan k d : Nat) : (s.attn code chan k d).ctxs = s.ctxs := by
  obtain ⟨l, e, h⟩ := s.attn_frame code chan k d; rw [h]
@[simp] theorem State.attn_batons (code chan k d : Nat) : (s.attn code chan k d).batons = s.batons := by
  obtain ⟨l, e, h⟩ := s.attn_frame code chan k d; rw [h]
@[simp] theorem State.attn_queues (code chan k d : Nat) : (s.attn code chan k d).queues = s.queues := by
  obtain ⟨l, e, h⟩ := s.attn_frame code chan k d; rw [h]
@[simp] theorem State.attn_courses (code chan k d : Nat) : (s.attn code chan k d).courses = s.courses := by
  obtain ⟨l, e, h⟩ := s.attn_frame code chan k d; rw [h]
@[simp] theorem State.attn_launches (code chan k d : Nat) : (s.attn code chan k d).launches = s.launches := by
  obtain ⟨l, e, h⟩ := s.attn_frame code chan k d; rw [h]
@[simp] theorem State.attn_nextId (code chan k d : Nat) : (s.attn code chan k d).nextId = s.nextId := by
  obtain ⟨l, e, h⟩ := s.attn_frame code chan k d; rw [h]
@[simp] theorem State.attn_runs (code chan k d : Nat) : (s.attn code chan k d).runs = s.runs := by
  obtain ⟨l, e, h⟩ := s.attn_frame code chan k d; rw [h]
@[simp] theorem State.attn_pubs (code chan k d : Nat) : (s.attn code chan k d).pubs = s.pubs := by
  obtain ⟨l, e, h⟩ := s.attn_frame code chan k d; rw [h]
@[simp] theorem State.attn_tags (code chan k d : Nat) : (s.attn code chan k d).tags = s.tags := by
  obtain ⟨l, e, h⟩ := s.attn_frame code chan k d; rw [h]
@[simp] theorem State.attn_holds (code chan k d : Nat) : (s.attn code chan k d).holds = s.holds := by
  obtain ⟨l, e, h⟩ := s.attn_frame code chan k d; rw [h]
@[simp] theorem State.attn_quadHolds (code chan k d : Nat) : (s.attn code chan k d).quadHolds = s.quadHolds := by
  obtain ⟨l, e, h⟩ := s.attn_frame code chan k d; rw [h]
@[simp] theorem State.attn_heats (code chan k d : Nat) : (s.attn code chan k d).heats = s.heats := by
  obtain ⟨l, e, h⟩ := s.attn_frame code chan k d; rw [h]
@[simp] theorem State.attn_spaces (code chan k d : Nat) : (s.attn code chan k d).spaces = s.spaces := by
  obtain ⟨l, e, h⟩ := s.attn_frame code chan k d; rw [h]
@[simp] theorem State.attn_caches (code chan k d : Nat) : (s.attn code chan k d).caches = s.caches := by
  obtain ⟨l, e, h⟩ := s.attn_frame code chan k d; rw [h]
@[simp] theorem State.attn_ranges (code chan k d : Nat) : (s.attn code chan k d).ranges = s.ranges := by
  obtain ⟨l, e, h⟩ := s.attn_frame code chan k d; rw [h]
@[simp] theorem State.attn_owners (code chan k d : Nat) : (s.attn code chan k d).owners = s.owners := by
  obtain ⟨l, e, h⟩ := s.attn_frame code chan k d; rw [h]
@[simp] theorem State.attn_texCaches (code chan k d : Nat) : (s.attn code chan k d).texCaches = s.texCaches := by
  obtain ⟨l, e, h⟩ := s.attn_frame code chan k d; rw [h]
@[simp] theorem State.attn_allocs (code chan k d : Nat) : (s.attn code chan k d).allocs = s.allocs := by
  obtain ⟨l, e, h⟩ := s.attn_frame code chan k d; rw [h]
@[simp] theorem State.attn_cmdStatus (code chan k d : Nat) : (s.attn code chan k d).cmdStatus = s.cmdStatus := by
  obtain ⟨l, e, h⟩ := s.attn_frame code chan k d; rw [h]
@[simp] theorem State.attn_marshal (code chan k d : Nat) : (s.attn code chan k d).marshal = s.marshal := by
  obtain ⟨l, e, h⟩ := s.attn_frame code chan k d; rw [h]
@[simp] theorem State.attn_service (code chan k d : Nat) : (s.attn code chan k d).service = s.service := by
  obtain ⟨l, e, h⟩ := s.attn_frame code chan k d; rw [h]
@[simp] theorem State.attn_halt (code chan k d : Nat) : (s.attn code chan k d).halt = s.halt := by
  obtain ⟨l, e, h⟩ := s.attn_frame code chan k d; rw [h]
@[simp] theorem State.attn_policy (code chan k d : Nat) : (s.attn code chan k d).policy = s.policy := by
  obtain ⟨l, e, h⟩ := s.attn_frame code chan k d; rw [h]
@[simp] theorem State.attn_pictures (code chan k d : Nat) : (s.attn code chan k d).pictures = s.pictures := by
  obtain ⟨l, e, h⟩ := s.attn_frame code chan k d; rw [h]
@[simp] theorem State.attn_comps (code chan k d : Nat) : (s.attn code chan k d).comps = s.comps := by
  obtain ⟨l, e, h⟩ := s.attn_frame code chan k d; rw [h]
@[simp] theorem State.attn_dps (code chan k d : Nat) : (s.attn code chan k d).dps = s.dps := by
  obtain ⟨l, e, h⟩ := s.attn_frame code chan k d; rw [h]
@[simp] theorem State.attn_streams (code chan k d : Nat) : (s.attn code chan k d).streams = s.streams := by
  obtain ⟨l, e, h⟩ := s.attn_frame code chan k d; rw [h]
@[simp] theorem State.attn_gangs (code chan k d : Nat) : (s.attn code chan k d).gangs = s.gangs := by
  obtain ⟨l, e, h⟩ := s.attn_frame code chan k d; rw [h]
@[simp] theorem State.attn_pair (code chan k d : Nat) : (s.attn code chan k d).pair = s.pair := by
  obtain ⟨l, e, h⟩ := s.attn_frame code chan k d; rw [h]
@[simp] theorem State.attn_links (code chan k d : Nat) : (s.attn code chan k d).links = s.links := by
  obtain ⟨l, e, h⟩ := s.attn_frame code chan k d; rw [h]
@[simp] theorem State.attn_klOut (code chan k d : Nat) : (s.attn code chan k d).klOut = s.klOut := by
  obtain ⟨l, e, h⟩ := s.attn_frame code chan k d; rw [h]
@[simp] theorem State.attn_sync (code chan k d : Nat) : (s.attn code chan k d).sync = s.sync := by
  obtain ⟨l, e, h⟩ := s.attn_frame code chan k d; rw [h]
@[simp] theorem State.attn_digest (code chan k d : Nat) : (s.attn code chan k d).digest = s.digest := by
  obtain ⟨l, e, h⟩ := s.attn_frame code chan k d; rw [h]
@[simp] theorem State.attn_replays (code chan k d : Nat) : (s.attn code chan k d).replays = s.replays := by
  obtain ⟨l, e, h⟩ := s.attn_frame code chan k d; rw [h]
@[simp] theorem State.attn_attach (code chan k d : Nat) : (s.attn code chan k d).attach = s.attach := by
  obtain ⟨l, e, h⟩ := s.attn_frame code chan k d; rw [h]
@[simp] theorem State.attn_chPend (code chan k d : Nat) : (s.attn code chan k d).chPend = s.chPend := by
  obtain ⟨l, e, h⟩ := s.attn_frame code chan k d; rw [h]
@[simp] theorem State.attn_outBy (code chan k d : Nat) : (s.attn code chan k d).outBy = s.outBy := by
  obtain ⟨l, e, h⟩ := s.attn_frame code chan k d; rw [h]
@[simp] theorem State.attn_images (code chan k d : Nat) : (s.attn code chan k d).images = s.images := by
  obtain ⟨l, e, h⟩ := s.attn_frame code chan k d; rw [h]
@[simp] theorem State.attn_receiving (code chan k d : Nat) : (s.attn code chan k d).receiving = s.receiving := by
  obtain ⟨l, e, h⟩ := s.attn_frame code chan k d; rw [h]
@[simp] theorem State.attn_cores (code chan k d : Nat) : (s.attn code chan k d).cores = s.cores := by
  obtain ⟨l, e, h⟩ := s.attn_frame code chan k d; rw [h]
@[simp] theorem State.attn_tested (code chan k d : Nat) : (s.attn code chan k d).tested = s.tested := by
  obtain ⟨l, e, h⟩ := s.attn_frame code chan k d; rw [h]
@[simp] theorem State.attn_released (code chan k d : Nat) : (s.attn code chan k d).released = s.released := by
  obtain ⟨l, e, h⟩ := s.attn_frame code chan k d; rw [h]
@[simp] theorem State.attn_policyRead (code chan k d : Nat) : (s.attn code chan k d).policyRead = s.policyRead := by
  obtain ⟨l, e, h⟩ := s.attn_frame code chan k d; rw [h]
@[simp] theorem State.attn_recovered (code chan k d : Nat) : (s.attn code chan k d).recovered = s.recovered := by
  obtain ⟨l, e, h⟩ := s.attn_frame code chan k d; rw [h]
@[simp] theorem State.attn_quoting (code chan k d : Nat) : (s.attn code chan k d).quoting = s.quoting := by
  obtain ⟨l, e, h⟩ := s.attn_frame code chan k d; rw [h]
@[simp] theorem State.attn_power (code chan k d : Nat) : (s.attn code chan k d).power = s.power := by
  obtain ⟨l, e, h⟩ := s.attn_frame code chan k d; rw [h]
@[simp] theorem State.attn_lend (code chan k d : Nat) : (s.attn code chan k d).lend = s.lend := by
  obtain ⟨l, e, h⟩ := s.attn_frame code chan k d; rw [h]
@[simp] theorem State.attn_hostRead (code chan k d : Nat) : (s.attn code chan k d).hostRead = s.hostRead := by
  obtain ⟨l, e, h⟩ := s.attn_frame code chan k d; rw [h]
@[simp] theorem State.attn_asTime (code chan k d : Nat) : (s.attn code chan k d).asTime = s.asTime := by
  obtain ⟨l, e, h⟩ := s.attn_frame code chan k d; rw [h]
@[simp] theorem State.attn_asAt (code chan k d : Nat) : (s.attn code chan k d).asAt = s.asAt := by
  obtain ⟨l, e, h⟩ := s.attn_frame code chan k d; rw [h]
@[simp] theorem State.attn_asRate (code chan k d : Nat) : (s.attn code chan k d).asRate = s.asRate := by
  obtain ⟨l, e, h⟩ := s.attn_frame code chan k d; rw [h]
@[simp] theorem State.attn_asDelay (code chan k d : Nat) : (s.attn code chan k d).asDelay = s.asDelay := by
  obtain ⟨l, e, h⟩ := s.attn_frame code chan k d; rw [h]
@[simp] theorem State.attn_defended (code chan k d : Nat) : (s.attn code chan k d).defended = s.defended := by
  obtain ⟨l, e, h⟩ := s.attn_frame code chan k d; rw [h]
@[simp] theorem State.attn_observe (code chan k d : Nat) : (s.attn code chan k d).observe = s.observe := by
  obtain ⟨l, e, h⟩ := s.attn_frame code chan k d; rw [h]
@[simp] theorem State.attn_latched (code chan k d : Nat) : (s.attn code chan k d).latched = s.latched := by
  obtain ⟨l, e, h⟩ := s.attn_frame code chan k d; rw [h]
@[simp] theorem State.attn_traceBuf (code chan k d : Nat) : (s.attn code chan k d).traceBuf = s.traceBuf := by
  obtain ⟨l, e, h⟩ := s.attn_frame code chan k d; rw [h]
@[simp] theorem State.attn_traceRing (code chan k d : Nat) : (s.attn code chan k d).traceRing = s.traceRing := by
  obtain ⟨l, e, h⟩ := s.attn_frame code chan k d; rw [h]
@[simp] theorem State.attn_pending (code chan k d : Nat) : (s.attn code chan k d).pending = s.pending := by
  obtain ⟨l, e, h⟩ := s.attn_frame code chan k d; rw [h]

/-! ### ended -/

@[simp] theorem State.ended_cmdStatus (k x st : Nat) : (s.ended k x st).cmdStatus = put s.cmdStatus k (cmdWord x st) := State.attn_cmdStatus _ _ _ _ _
@[simp] theorem State.ended_now (k x st : Nat) : (s.ended k x st).now = s.now := State.attn_now _ _ _ _ _
@[simp] theorem State.ended_readFault (k x st : Nat) : (s.ended k x st).readFault = s.readFault := State.attn_readFault _ _ _ _ _
@[simp] theorem State.ended_fresh (k x st : Nat) : (s.ended k x st).fresh = s.fresh := State.attn_fresh _ _ _ _ _
@[simp] theorem State.ended_objs (k x st : Nat) : (s.ended k x st).objs = s.objs := State.attn_objs _ _ _ _ _
@[simp] theorem State.ended_octs (k x st : Nat) : (s.ended k x st).octs = s.octs := State.attn_octs _ _ _ _ _
@[simp] theorem State.ended_mem (k x st : Nat) : (s.ended k x st).mem = s.mem := State.attn_mem _ _ _ _ _
@[simp] theorem State.ended_pacers (k x st : Nat) : (s.ended k x st).pacers = s.pacers := State.attn_pacers _ _ _ _ _
@[simp] theorem State.ended_devLog (k x st : Nat) : (s.ended k x st).devLog = s.devLog := State.attn_devLog _ _ _ _ _
@[simp] theorem State.ended_vfLogs (k x st : Nat) : (s.ended k x st).vfLogs = s.vfLogs := State.attn_vfLogs _ _ _ _ _
@[simp] theorem State.ended_reply (k x st : Nat) : (s.ended k x st).reply = s.reply := State.attn_reply _ _ _ _ _
@[simp] theorem State.ended_queuedOk (k x st : Nat) : (s.ended k x st).queuedOk = s.queuedOk := State.attn_queuedOk _ _ _ _ _
@[simp] theorem State.ended_marshalQ (k x st : Nat) : (s.ended k x st).marshalQ = s.marshalQ := State.attn_marshalQ _ _ _ _ _
@[simp] theorem State.ended_windows (k x st : Nat) : (s.ended k x st).windows = s.windows := State.attn_windows _ _ _ _ _
@[simp] theorem State.ended_t1Clients (k x st : Nat) : (s.ended k x st).t1Clients = s.t1Clients := State.attn_t1Clients _ _ _ _ _
@[simp] theorem State.ended_segments (k x st : Nat) : (s.ended k x st).segments = s.segments := State.attn_segments _ _ _ _ _
@[simp] theorem State.ended_t1Out (k x st : Nat) : (s.ended k x st).t1Out = s.t1Out := State.attn_t1Out _ _ _ _ _
@[simp] theorem State.ended_arp (k x st : Nat) : (s.ended k x st).arp = s.arp := State.attn_arp _ _ _ _ _
@[simp] theorem State.ended_mboxes (k x st : Nat) : (s.ended k x st).mboxes = s.mboxes := State.attn_mboxes _ _ _ _ _
@[simp] theorem State.ended_pcieFns (k x st : Nat) : (s.ended k x st).pcieFns = s.pcieFns := State.attn_pcieFns _ _ _ _ _
@[simp] theorem State.ended_underReset (k x st : Nat) : (s.ended k x st).underReset = s.underReset := State.attn_underReset _ _ _ _ _
@[simp] theorem State.ended_barWait (k x st : Nat) : (s.ended k x st).barWait = s.barWait := State.attn_barWait _ _ _ _ _
@[simp] theorem State.ended_ctxs (k x st : Nat) : (s.ended k x st).ctxs = s.ctxs := State.attn_ctxs _ _ _ _ _
@[simp] theorem State.ended_batons (k x st : Nat) : (s.ended k x st).batons = s.batons := State.attn_batons _ _ _ _ _
@[simp] theorem State.ended_queues (k x st : Nat) : (s.ended k x st).queues = s.queues := State.attn_queues _ _ _ _ _
@[simp] theorem State.ended_courses (k x st : Nat) : (s.ended k x st).courses = s.courses := State.attn_courses _ _ _ _ _
@[simp] theorem State.ended_launches (k x st : Nat) : (s.ended k x st).launches = s.launches := State.attn_launches _ _ _ _ _
@[simp] theorem State.ended_nextId (k x st : Nat) : (s.ended k x st).nextId = s.nextId := State.attn_nextId _ _ _ _ _
@[simp] theorem State.ended_runs (k x st : Nat) : (s.ended k x st).runs = s.runs := State.attn_runs _ _ _ _ _
@[simp] theorem State.ended_pubs (k x st : Nat) : (s.ended k x st).pubs = s.pubs := State.attn_pubs _ _ _ _ _
@[simp] theorem State.ended_tags (k x st : Nat) : (s.ended k x st).tags = s.tags := State.attn_tags _ _ _ _ _
@[simp] theorem State.ended_holds (k x st : Nat) : (s.ended k x st).holds = s.holds := State.attn_holds _ _ _ _ _
@[simp] theorem State.ended_quadHolds (k x st : Nat) : (s.ended k x st).quadHolds = s.quadHolds := State.attn_quadHolds _ _ _ _ _
@[simp] theorem State.ended_heats (k x st : Nat) : (s.ended k x st).heats = s.heats := State.attn_heats _ _ _ _ _
@[simp] theorem State.ended_spaces (k x st : Nat) : (s.ended k x st).spaces = s.spaces := State.attn_spaces _ _ _ _ _
@[simp] theorem State.ended_caches (k x st : Nat) : (s.ended k x st).caches = s.caches := State.attn_caches _ _ _ _ _
@[simp] theorem State.ended_ranges (k x st : Nat) : (s.ended k x st).ranges = s.ranges := State.attn_ranges _ _ _ _ _
@[simp] theorem State.ended_owners (k x st : Nat) : (s.ended k x st).owners = s.owners := State.attn_owners _ _ _ _ _
@[simp] theorem State.ended_texCaches (k x st : Nat) : (s.ended k x st).texCaches = s.texCaches := State.attn_texCaches _ _ _ _ _
@[simp] theorem State.ended_allocs (k x st : Nat) : (s.ended k x st).allocs = s.allocs := State.attn_allocs _ _ _ _ _
@[simp] theorem State.ended_marshal (k x st : Nat) : (s.ended k x st).marshal = s.marshal := State.attn_marshal _ _ _ _ _
@[simp] theorem State.ended_service (k x st : Nat) : (s.ended k x st).service = s.service := State.attn_service _ _ _ _ _
@[simp] theorem State.ended_halt (k x st : Nat) : (s.ended k x st).halt = s.halt := State.attn_halt _ _ _ _ _
@[simp] theorem State.ended_policy (k x st : Nat) : (s.ended k x st).policy = s.policy := State.attn_policy _ _ _ _ _
@[simp] theorem State.ended_pictures (k x st : Nat) : (s.ended k x st).pictures = s.pictures := State.attn_pictures _ _ _ _ _
@[simp] theorem State.ended_comps (k x st : Nat) : (s.ended k x st).comps = s.comps := State.attn_comps _ _ _ _ _
@[simp] theorem State.ended_dps (k x st : Nat) : (s.ended k x st).dps = s.dps := State.attn_dps _ _ _ _ _
@[simp] theorem State.ended_streams (k x st : Nat) : (s.ended k x st).streams = s.streams := State.attn_streams _ _ _ _ _
@[simp] theorem State.ended_gangs (k x st : Nat) : (s.ended k x st).gangs = s.gangs := State.attn_gangs _ _ _ _ _
@[simp] theorem State.ended_pair (k x st : Nat) : (s.ended k x st).pair = s.pair := State.attn_pair _ _ _ _ _
@[simp] theorem State.ended_links (k x st : Nat) : (s.ended k x st).links = s.links := State.attn_links _ _ _ _ _
@[simp] theorem State.ended_klOut (k x st : Nat) : (s.ended k x st).klOut = s.klOut := State.attn_klOut _ _ _ _ _
@[simp] theorem State.ended_sync (k x st : Nat) : (s.ended k x st).sync = s.sync := State.attn_sync _ _ _ _ _
@[simp] theorem State.ended_digest (k x st : Nat) : (s.ended k x st).digest = s.digest := State.attn_digest _ _ _ _ _
@[simp] theorem State.ended_replays (k x st : Nat) : (s.ended k x st).replays = s.replays := State.attn_replays _ _ _ _ _
@[simp] theorem State.ended_attach (k x st : Nat) : (s.ended k x st).attach = s.attach := State.attn_attach _ _ _ _ _
@[simp] theorem State.ended_chPend (k x st : Nat) : (s.ended k x st).chPend = s.chPend := State.attn_chPend _ _ _ _ _
@[simp] theorem State.ended_outBy (k x st : Nat) : (s.ended k x st).outBy = s.outBy := State.attn_outBy _ _ _ _ _
@[simp] theorem State.ended_images (k x st : Nat) : (s.ended k x st).images = s.images := State.attn_images _ _ _ _ _
@[simp] theorem State.ended_receiving (k x st : Nat) : (s.ended k x st).receiving = s.receiving := State.attn_receiving _ _ _ _ _
@[simp] theorem State.ended_cores (k x st : Nat) : (s.ended k x st).cores = s.cores := State.attn_cores _ _ _ _ _
@[simp] theorem State.ended_tested (k x st : Nat) : (s.ended k x st).tested = s.tested := State.attn_tested _ _ _ _ _
@[simp] theorem State.ended_released (k x st : Nat) : (s.ended k x st).released = s.released := State.attn_released _ _ _ _ _
@[simp] theorem State.ended_policyRead (k x st : Nat) : (s.ended k x st).policyRead = s.policyRead := State.attn_policyRead _ _ _ _ _
@[simp] theorem State.ended_recovered (k x st : Nat) : (s.ended k x st).recovered = s.recovered := State.attn_recovered _ _ _ _ _
@[simp] theorem State.ended_quoting (k x st : Nat) : (s.ended k x st).quoting = s.quoting := State.attn_quoting _ _ _ _ _
@[simp] theorem State.ended_power (k x st : Nat) : (s.ended k x st).power = s.power := State.attn_power _ _ _ _ _
@[simp] theorem State.ended_lend (k x st : Nat) : (s.ended k x st).lend = s.lend := State.attn_lend _ _ _ _ _
@[simp] theorem State.ended_hostRead (k x st : Nat) : (s.ended k x st).hostRead = s.hostRead := State.attn_hostRead _ _ _ _ _
@[simp] theorem State.ended_asTime (k x st : Nat) : (s.ended k x st).asTime = s.asTime := State.attn_asTime _ _ _ _ _
@[simp] theorem State.ended_asAt (k x st : Nat) : (s.ended k x st).asAt = s.asAt := State.attn_asAt _ _ _ _ _
@[simp] theorem State.ended_asRate (k x st : Nat) : (s.ended k x st).asRate = s.asRate := State.attn_asRate _ _ _ _ _
@[simp] theorem State.ended_asDelay (k x st : Nat) : (s.ended k x st).asDelay = s.asDelay := State.attn_asDelay _ _ _ _ _
@[simp] theorem State.ended_defended (k x st : Nat) : (s.ended k x st).defended = s.defended := State.attn_defended _ _ _ _ _
@[simp] theorem State.ended_observe (k x st : Nat) : (s.ended k x st).observe = s.observe := State.attn_observe _ _ _ _ _
@[simp] theorem State.ended_latched (k x st : Nat) : (s.ended k x st).latched = s.latched := State.attn_latched _ _ _ _ _
@[simp] theorem State.ended_traceBuf (k x st : Nat) : (s.ended k x st).traceBuf = s.traceBuf := State.attn_traceBuf _ _ _ _ _
@[simp] theorem State.ended_traceRing (k x st : Nat) : (s.ended k x st).traceRing = s.traceRing := State.attn_traceRing _ _ _ _ _
@[simp] theorem State.ended_pending (k x st : Nat) : (s.ended k x st).pending = s.pending := State.attn_pending _ _ _ _ _

/-! ### done -/

@[simp] theorem State.done_reply (k : Nat) : (s.done k).reply = rcOk := State.attn_reply _ _ _ _ _
@[simp] theorem State.done_cmdStatus (k : Nat) : (s.done k).cmdStatus = put s.cmdStatus k (cmdWord 0 2) := State.attn_cmdStatus _ _ _ _ _
@[simp] theorem State.done_now (k : Nat) : (s.done k).now = s.now := State.attn_now _ _ _ _ _
@[simp] theorem State.done_readFault (k : Nat) : (s.done k).readFault = s.readFault := State.attn_readFault _ _ _ _ _
@[simp] theorem State.done_fresh (k : Nat) : (s.done k).fresh = s.fresh := State.attn_fresh _ _ _ _ _
@[simp] theorem State.done_objs (k : Nat) : (s.done k).objs = s.objs := State.attn_objs _ _ _ _ _
@[simp] theorem State.done_octs (k : Nat) : (s.done k).octs = s.octs := State.attn_octs _ _ _ _ _
@[simp] theorem State.done_mem (k : Nat) : (s.done k).mem = s.mem := State.attn_mem _ _ _ _ _
@[simp] theorem State.done_pacers (k : Nat) : (s.done k).pacers = s.pacers := State.attn_pacers _ _ _ _ _
@[simp] theorem State.done_devLog (k : Nat) : (s.done k).devLog = s.devLog := State.attn_devLog _ _ _ _ _
@[simp] theorem State.done_vfLogs (k : Nat) : (s.done k).vfLogs = s.vfLogs := State.attn_vfLogs _ _ _ _ _
@[simp] theorem State.done_queuedOk (k : Nat) : (s.done k).queuedOk = s.queuedOk := State.attn_queuedOk _ _ _ _ _
@[simp] theorem State.done_marshalQ (k : Nat) : (s.done k).marshalQ = s.marshalQ := State.attn_marshalQ _ _ _ _ _
@[simp] theorem State.done_windows (k : Nat) : (s.done k).windows = s.windows := State.attn_windows _ _ _ _ _
@[simp] theorem State.done_t1Clients (k : Nat) : (s.done k).t1Clients = s.t1Clients := State.attn_t1Clients _ _ _ _ _
@[simp] theorem State.done_segments (k : Nat) : (s.done k).segments = s.segments := State.attn_segments _ _ _ _ _
@[simp] theorem State.done_t1Out (k : Nat) : (s.done k).t1Out = s.t1Out := State.attn_t1Out _ _ _ _ _
@[simp] theorem State.done_arp (k : Nat) : (s.done k).arp = s.arp := State.attn_arp _ _ _ _ _
@[simp] theorem State.done_mboxes (k : Nat) : (s.done k).mboxes = s.mboxes := State.attn_mboxes _ _ _ _ _
@[simp] theorem State.done_pcieFns (k : Nat) : (s.done k).pcieFns = s.pcieFns := State.attn_pcieFns _ _ _ _ _
@[simp] theorem State.done_underReset (k : Nat) : (s.done k).underReset = s.underReset := State.attn_underReset _ _ _ _ _
@[simp] theorem State.done_barWait (k : Nat) : (s.done k).barWait = s.barWait := State.attn_barWait _ _ _ _ _
@[simp] theorem State.done_ctxs (k : Nat) : (s.done k).ctxs = s.ctxs := State.attn_ctxs _ _ _ _ _
@[simp] theorem State.done_batons (k : Nat) : (s.done k).batons = s.batons := State.attn_batons _ _ _ _ _
@[simp] theorem State.done_queues (k : Nat) : (s.done k).queues = s.queues := State.attn_queues _ _ _ _ _
@[simp] theorem State.done_courses (k : Nat) : (s.done k).courses = s.courses := State.attn_courses _ _ _ _ _
@[simp] theorem State.done_launches (k : Nat) : (s.done k).launches = s.launches := State.attn_launches _ _ _ _ _
@[simp] theorem State.done_nextId (k : Nat) : (s.done k).nextId = s.nextId := State.attn_nextId _ _ _ _ _
@[simp] theorem State.done_runs (k : Nat) : (s.done k).runs = s.runs := State.attn_runs _ _ _ _ _
@[simp] theorem State.done_pubs (k : Nat) : (s.done k).pubs = s.pubs := State.attn_pubs _ _ _ _ _
@[simp] theorem State.done_tags (k : Nat) : (s.done k).tags = s.tags := State.attn_tags _ _ _ _ _
@[simp] theorem State.done_holds (k : Nat) : (s.done k).holds = s.holds := State.attn_holds _ _ _ _ _
@[simp] theorem State.done_quadHolds (k : Nat) : (s.done k).quadHolds = s.quadHolds := State.attn_quadHolds _ _ _ _ _
@[simp] theorem State.done_heats (k : Nat) : (s.done k).heats = s.heats := State.attn_heats _ _ _ _ _
@[simp] theorem State.done_spaces (k : Nat) : (s.done k).spaces = s.spaces := State.attn_spaces _ _ _ _ _
@[simp] theorem State.done_caches (k : Nat) : (s.done k).caches = s.caches := State.attn_caches _ _ _ _ _
@[simp] theorem State.done_ranges (k : Nat) : (s.done k).ranges = s.ranges := State.attn_ranges _ _ _ _ _
@[simp] theorem State.done_owners (k : Nat) : (s.done k).owners = s.owners := State.attn_owners _ _ _ _ _
@[simp] theorem State.done_texCaches (k : Nat) : (s.done k).texCaches = s.texCaches := State.attn_texCaches _ _ _ _ _
@[simp] theorem State.done_allocs (k : Nat) : (s.done k).allocs = s.allocs := State.attn_allocs _ _ _ _ _
@[simp] theorem State.done_marshal (k : Nat) : (s.done k).marshal = s.marshal := State.attn_marshal _ _ _ _ _
@[simp] theorem State.done_service (k : Nat) : (s.done k).service = s.service := State.attn_service _ _ _ _ _
@[simp] theorem State.done_halt (k : Nat) : (s.done k).halt = s.halt := State.attn_halt _ _ _ _ _
@[simp] theorem State.done_policy (k : Nat) : (s.done k).policy = s.policy := State.attn_policy _ _ _ _ _
@[simp] theorem State.done_pictures (k : Nat) : (s.done k).pictures = s.pictures := State.attn_pictures _ _ _ _ _
@[simp] theorem State.done_comps (k : Nat) : (s.done k).comps = s.comps := State.attn_comps _ _ _ _ _
@[simp] theorem State.done_dps (k : Nat) : (s.done k).dps = s.dps := State.attn_dps _ _ _ _ _
@[simp] theorem State.done_streams (k : Nat) : (s.done k).streams = s.streams := State.attn_streams _ _ _ _ _
@[simp] theorem State.done_gangs (k : Nat) : (s.done k).gangs = s.gangs := State.attn_gangs _ _ _ _ _
@[simp] theorem State.done_pair (k : Nat) : (s.done k).pair = s.pair := State.attn_pair _ _ _ _ _
@[simp] theorem State.done_links (k : Nat) : (s.done k).links = s.links := State.attn_links _ _ _ _ _
@[simp] theorem State.done_klOut (k : Nat) : (s.done k).klOut = s.klOut := State.attn_klOut _ _ _ _ _
@[simp] theorem State.done_sync (k : Nat) : (s.done k).sync = s.sync := State.attn_sync _ _ _ _ _
@[simp] theorem State.done_digest (k : Nat) : (s.done k).digest = s.digest := State.attn_digest _ _ _ _ _
@[simp] theorem State.done_replays (k : Nat) : (s.done k).replays = s.replays := State.attn_replays _ _ _ _ _
@[simp] theorem State.done_attach (k : Nat) : (s.done k).attach = s.attach := State.attn_attach _ _ _ _ _
@[simp] theorem State.done_chPend (k : Nat) : (s.done k).chPend = s.chPend := State.attn_chPend _ _ _ _ _
@[simp] theorem State.done_outBy (k : Nat) : (s.done k).outBy = s.outBy := State.attn_outBy _ _ _ _ _
@[simp] theorem State.done_images (k : Nat) : (s.done k).images = s.images := State.attn_images _ _ _ _ _
@[simp] theorem State.done_receiving (k : Nat) : (s.done k).receiving = s.receiving := State.attn_receiving _ _ _ _ _
@[simp] theorem State.done_cores (k : Nat) : (s.done k).cores = s.cores := State.attn_cores _ _ _ _ _
@[simp] theorem State.done_tested (k : Nat) : (s.done k).tested = s.tested := State.attn_tested _ _ _ _ _
@[simp] theorem State.done_released (k : Nat) : (s.done k).released = s.released := State.attn_released _ _ _ _ _
@[simp] theorem State.done_policyRead (k : Nat) : (s.done k).policyRead = s.policyRead := State.attn_policyRead _ _ _ _ _
@[simp] theorem State.done_recovered (k : Nat) : (s.done k).recovered = s.recovered := State.attn_recovered _ _ _ _ _
@[simp] theorem State.done_quoting (k : Nat) : (s.done k).quoting = s.quoting := State.attn_quoting _ _ _ _ _
@[simp] theorem State.done_power (k : Nat) : (s.done k).power = s.power := State.attn_power _ _ _ _ _
@[simp] theorem State.done_lend (k : Nat) : (s.done k).lend = s.lend := State.attn_lend _ _ _ _ _
@[simp] theorem State.done_hostRead (k : Nat) : (s.done k).hostRead = s.hostRead := State.attn_hostRead _ _ _ _ _
@[simp] theorem State.done_asTime (k : Nat) : (s.done k).asTime = s.asTime := State.attn_asTime _ _ _ _ _
@[simp] theorem State.done_asAt (k : Nat) : (s.done k).asAt = s.asAt := State.attn_asAt _ _ _ _ _
@[simp] theorem State.done_asRate (k : Nat) : (s.done k).asRate = s.asRate := State.attn_asRate _ _ _ _ _
@[simp] theorem State.done_asDelay (k : Nat) : (s.done k).asDelay = s.asDelay := State.attn_asDelay _ _ _ _ _
@[simp] theorem State.done_defended (k : Nat) : (s.done k).defended = s.defended := State.attn_defended _ _ _ _ _
@[simp] theorem State.done_observe (k : Nat) : (s.done k).observe = s.observe := State.attn_observe _ _ _ _ _
@[simp] theorem State.done_latched (k : Nat) : (s.done k).latched = s.latched := State.attn_latched _ _ _ _ _
@[simp] theorem State.done_traceBuf (k : Nat) : (s.done k).traceBuf = s.traceBuf := State.attn_traceBuf _ _ _ _ _
@[simp] theorem State.done_traceRing (k : Nat) : (s.done k).traceRing = s.traceRing := State.attn_traceRing _ _ _ _ _
@[simp] theorem State.done_pending (k : Nat) : (s.done k).pending = s.pending := State.attn_pending _ _ _ _ _

/-! ### setPacer -/

@[simp] theorem State.setPacer_pacers (ch : Fin 4) (p : Pacer) : (s.setPacer ch p).pacers = s.pacers.set ch p := rfl
@[simp] theorem State.setPacer_now (ch : Fin 4) (p : Pacer) : (s.setPacer ch p).now = s.now := rfl
@[simp] theorem State.setPacer_readFault (ch : Fin 4) (p : Pacer) : (s.setPacer ch p).readFault = s.readFault := rfl
@[simp] theorem State.setPacer_arp (ch : Fin 4) (p : Pacer) : (s.setPacer ch p).arp = s.arp := rfl
@[simp] theorem State.setPacer_holds (ch : Fin 4) (p : Pacer) : (s.setPacer ch p).holds = s.holds := rfl
@[simp] theorem State.setPacer_ranges (ch : Fin 4) (p : Pacer) : (s.setPacer ch p).ranges = s.ranges := rfl
@[simp] theorem State.setPacer_owners (ch : Fin 4) (p : Pacer) : (s.setPacer ch p).owners = s.owners := rfl
@[simp] theorem State.setPacer_texCaches (ch : Fin 4) (p : Pacer) : (s.setPacer ch p).texCaches = s.texCaches := rfl
@[simp] theorem State.setPacer_fresh (ch : Fin 4) (p : Pacer) : (s.setPacer ch p).fresh = s.fresh := rfl
@[simp] theorem State.setPacer_objs (ch : Fin 4) (p : Pacer) : (s.setPacer ch p).objs = s.objs := rfl
@[simp] theorem State.setPacer_octs (ch : Fin 4) (p : Pacer) : (s.setPacer ch p).octs = s.octs := rfl
@[simp] theorem State.setPacer_mem (ch : Fin 4) (p : Pacer) : (s.setPacer ch p).mem = s.mem := rfl
@[simp] theorem State.setPacer_devLog (ch : Fin 4) (p : Pacer) : (s.setPacer ch p).devLog = s.devLog := rfl
@[simp] theorem State.setPacer_vfLogs (ch : Fin 4) (p : Pacer) : (s.setPacer ch p).vfLogs = s.vfLogs := rfl
@[simp] theorem State.setPacer_heldAttn (ch : Fin 4) (p : Pacer) : (s.setPacer ch p).heldAttn = s.heldAttn := rfl
@[simp] theorem State.setPacer_reply (ch : Fin 4) (p : Pacer) : (s.setPacer ch p).reply = s.reply := rfl
@[simp] theorem State.setPacer_marshalQ (ch : Fin 4) (p : Pacer) : (s.setPacer ch p).marshalQ = s.marshalQ := rfl
@[simp] theorem State.setPacer_windows (ch : Fin 4) (p : Pacer) : (s.setPacer ch p).windows = s.windows := rfl
@[simp] theorem State.setPacer_t1Clients (ch : Fin 4) (p : Pacer) : (s.setPacer ch p).t1Clients = s.t1Clients := rfl
@[simp] theorem State.setPacer_segments (ch : Fin 4) (p : Pacer) : (s.setPacer ch p).segments = s.segments := rfl
@[simp] theorem State.setPacer_t1Out (ch : Fin 4) (p : Pacer) : (s.setPacer ch p).t1Out = s.t1Out := rfl
@[simp] theorem State.setPacer_mboxes (ch : Fin 4) (p : Pacer) : (s.setPacer ch p).mboxes = s.mboxes := rfl
@[simp] theorem State.setPacer_pcieFns (ch : Fin 4) (p : Pacer) : (s.setPacer ch p).pcieFns = s.pcieFns := rfl
@[simp] theorem State.setPacer_ctxs (ch : Fin 4) (p : Pacer) : (s.setPacer ch p).ctxs = s.ctxs := rfl
@[simp] theorem State.setPacer_batons (ch : Fin 4) (p : Pacer) : (s.setPacer ch p).batons = s.batons := rfl
@[simp] theorem State.setPacer_queues (ch : Fin 4) (p : Pacer) : (s.setPacer ch p).queues = s.queues := rfl
@[simp] theorem State.setPacer_courses (ch : Fin 4) (p : Pacer) : (s.setPacer ch p).courses = s.courses := rfl
@[simp] theorem State.setPacer_launches (ch : Fin 4) (p : Pacer) : (s.setPacer ch p).launches = s.launches := rfl
@[simp] theorem State.setPacer_nextId (ch : Fin 4) (p : Pacer) : (s.setPacer ch p).nextId = s.nextId := rfl
@[simp] theorem State.setPacer_runs (ch : Fin 4) (p : Pacer) : (s.setPacer ch p).runs = s.runs := rfl
@[simp] theorem State.setPacer_pubs (ch : Fin 4) (p : Pacer) : (s.setPacer ch p).pubs = s.pubs := rfl
@[simp] theorem State.setPacer_tags (ch : Fin 4) (p : Pacer) : (s.setPacer ch p).tags = s.tags := rfl
@[simp] theorem State.setPacer_quadHolds (ch : Fin 4) (p : Pacer) : (s.setPacer ch p).quadHolds = s.quadHolds := rfl
@[simp] theorem State.setPacer_heats (ch : Fin 4) (p : Pacer) : (s.setPacer ch p).heats = s.heats := rfl
@[simp] theorem State.setPacer_spaces (ch : Fin 4) (p : Pacer) : (s.setPacer ch p).spaces = s.spaces := rfl
@[simp] theorem State.setPacer_caches (ch : Fin 4) (p : Pacer) : (s.setPacer ch p).caches = s.caches := rfl
@[simp] theorem State.setPacer_allocs (ch : Fin 4) (p : Pacer) : (s.setPacer ch p).allocs = s.allocs := rfl
@[simp] theorem State.setPacer_cmdStatus (ch : Fin 4) (p : Pacer) : (s.setPacer ch p).cmdStatus = s.cmdStatus := rfl
@[simp] theorem State.setPacer_marshal (ch : Fin 4) (p : Pacer) : (s.setPacer ch p).marshal = s.marshal := rfl
@[simp] theorem State.setPacer_service (ch : Fin 4) (p : Pacer) : (s.setPacer ch p).service = s.service := rfl
@[simp] theorem State.setPacer_halt (ch : Fin 4) (p : Pacer) : (s.setPacer ch p).halt = s.halt := rfl
@[simp] theorem State.setPacer_policy (ch : Fin 4) (p : Pacer) : (s.setPacer ch p).policy = s.policy := rfl
@[simp] theorem State.setPacer_pictures (ch : Fin 4) (p : Pacer) : (s.setPacer ch p).pictures = s.pictures := rfl
@[simp] theorem State.setPacer_comps (ch : Fin 4) (p : Pacer) : (s.setPacer ch p).comps = s.comps := rfl
@[simp] theorem State.setPacer_dps (ch : Fin 4) (p : Pacer) : (s.setPacer ch p).dps = s.dps := rfl
@[simp] theorem State.setPacer_streams (ch : Fin 4) (p : Pacer) : (s.setPacer ch p).streams = s.streams := rfl
@[simp] theorem State.setPacer_gangs (ch : Fin 4) (p : Pacer) : (s.setPacer ch p).gangs = s.gangs := rfl
@[simp] theorem State.setPacer_pair (ch : Fin 4) (p : Pacer) : (s.setPacer ch p).pair = s.pair := rfl
@[simp] theorem State.setPacer_links (ch : Fin 4) (p : Pacer) : (s.setPacer ch p).links = s.links := rfl
@[simp] theorem State.setPacer_klOut (ch : Fin 4) (p : Pacer) : (s.setPacer ch p).klOut = s.klOut := rfl
@[simp] theorem State.setPacer_sync (ch : Fin 4) (p : Pacer) : (s.setPacer ch p).sync = s.sync := rfl
@[simp] theorem State.setPacer_digest (ch : Fin 4) (p : Pacer) : (s.setPacer ch p).digest = s.digest := rfl
@[simp] theorem State.setPacer_replays (ch : Fin 4) (p : Pacer) : (s.setPacer ch p).replays = s.replays := rfl
@[simp] theorem State.setPacer_attach (ch : Fin 4) (p : Pacer) : (s.setPacer ch p).attach = s.attach := rfl
@[simp] theorem State.setPacer_chPend (ch : Fin 4) (p : Pacer) : (s.setPacer ch p).chPend = s.chPend := rfl
@[simp] theorem State.setPacer_outBy (ch : Fin 4) (p : Pacer) : (s.setPacer ch p).outBy = s.outBy := rfl
@[simp] theorem State.setPacer_images (ch : Fin 4) (p : Pacer) : (s.setPacer ch p).images = s.images := rfl
@[simp] theorem State.setPacer_receiving (ch : Fin 4) (p : Pacer) : (s.setPacer ch p).receiving = s.receiving := rfl
@[simp] theorem State.setPacer_cores (ch : Fin 4) (p : Pacer) : (s.setPacer ch p).cores = s.cores := rfl
@[simp] theorem State.setPacer_tested (ch : Fin 4) (p : Pacer) : (s.setPacer ch p).tested = s.tested := rfl
@[simp] theorem State.setPacer_released (ch : Fin 4) (p : Pacer) : (s.setPacer ch p).released = s.released := rfl
@[simp] theorem State.setPacer_recovered (ch : Fin 4) (p : Pacer) : (s.setPacer ch p).recovered = s.recovered := rfl
@[simp] theorem State.setPacer_quoting (ch : Fin 4) (p : Pacer) : (s.setPacer ch p).quoting = s.quoting := rfl
@[simp] theorem State.setPacer_power (ch : Fin 4) (p : Pacer) : (s.setPacer ch p).power = s.power := rfl
@[simp] theorem State.setPacer_lend (ch : Fin 4) (p : Pacer) : (s.setPacer ch p).lend = s.lend := rfl
@[simp] theorem State.setPacer_hostRead (ch : Fin 4) (p : Pacer) : (s.setPacer ch p).hostRead = s.hostRead := rfl
@[simp] theorem State.setPacer_asTime (ch : Fin 4) (p : Pacer) : (s.setPacer ch p).asTime = s.asTime := rfl
@[simp] theorem State.setPacer_asDelay (ch : Fin 4) (p : Pacer) : (s.setPacer ch p).asDelay = s.asDelay := rfl
@[simp] theorem State.setPacer_observe (ch : Fin 4) (p : Pacer) : (s.setPacer ch p).observe = s.observe := rfl
@[simp] theorem State.setPacer_latched (ch : Fin 4) (p : Pacer) : (s.setPacer ch p).latched = s.latched := rfl
@[simp] theorem State.setPacer_traceBuf (ch : Fin 4) (p : Pacer) : (s.setPacer ch p).traceBuf = s.traceBuf := rfl
@[simp] theorem State.setPacer_traceRing (ch : Fin 4) (p : Pacer) : (s.setPacer ch p).traceRing = s.traceRing := rfl
@[simp] theorem State.setPacer_pending (ch : Fin 4) (p : Pacer) : (s.setPacer ch p).pending = s.pending := rfl
@[simp] theorem State.setPacer_raised (ch : Fin 4) (p : Pacer) : (s.setPacer ch p).raised = s.raised := rfl
@[simp] theorem State.setPacer_queuedOk (ch : Fin 4) (p : Pacer) : (s.setPacer ch p).queuedOk = s.queuedOk := rfl
@[simp] theorem State.setPacer_underReset (ch : Fin 4) (p : Pacer) : (s.setPacer ch p).underReset = s.underReset := rfl
@[simp] theorem State.setPacer_barWait (ch : Fin 4) (p : Pacer) : (s.setPacer ch p).barWait = s.barWait := rfl
@[simp] theorem State.setPacer_policyRead (ch : Fin 4) (p : Pacer) : (s.setPacer ch p).policyRead = s.policyRead := rfl
@[simp] theorem State.setPacer_asAt (ch : Fin 4) (p : Pacer) : (s.setPacer ch p).asAt = s.asAt := rfl
@[simp] theorem State.setPacer_asRate (ch : Fin 4) (p : Pacer) : (s.setPacer ch p).asRate = s.asRate := rfl
@[simp] theorem State.setPacer_defended (ch : Fin 4) (p : Pacer) : (s.setPacer ch p).defended = s.defended := rfl

/-! ### setQueue -/

@[simp] theorem State.setQueue_queues (q : Nat) (x : Queue) : (s.setQueue q x).queues = put s.queues q x := rfl
@[simp] theorem State.setQueue_now (q : Nat) (x : Queue) : (s.setQueue q x).now = s.now := rfl
@[simp] theorem State.setQueue_readFault (q : Nat) (x : Queue) : (s.setQueue q x).readFault = s.readFault := rfl
@[simp] theorem State.setQueue_arp (q : Nat) (x : Queue) : (s.setQueue q x).arp = s.arp := rfl
@[simp] theorem State.setQueue_holds (q : Nat) (x : Queue) : (s.setQueue q x).holds = s.holds := rfl
@[simp] theorem State.setQueue_ranges (q : Nat) (x : Queue) : (s.setQueue q x).ranges = s.ranges := rfl
@[simp] theorem State.setQueue_owners (q : Nat) (x : Queue) : (s.setQueue q x).owners = s.owners := rfl
@[simp] theorem State.setQueue_texCaches (q : Nat) (x : Queue) : (s.setQueue q x).texCaches = s.texCaches := rfl
@[simp] theorem State.setQueue_fresh (q : Nat) (x : Queue) : (s.setQueue q x).fresh = s.fresh := rfl
@[simp] theorem State.setQueue_objs (q : Nat) (x : Queue) : (s.setQueue q x).objs = s.objs := rfl
@[simp] theorem State.setQueue_octs (q : Nat) (x : Queue) : (s.setQueue q x).octs = s.octs := rfl
@[simp] theorem State.setQueue_mem (q : Nat) (x : Queue) : (s.setQueue q x).mem = s.mem := rfl
@[simp] theorem State.setQueue_pacers (q : Nat) (x : Queue) : (s.setQueue q x).pacers = s.pacers := rfl
@[simp] theorem State.setQueue_devLog (q : Nat) (x : Queue) : (s.setQueue q x).devLog = s.devLog := rfl
@[simp] theorem State.setQueue_vfLogs (q : Nat) (x : Queue) : (s.setQueue q x).vfLogs = s.vfLogs := rfl
@[simp] theorem State.setQueue_heldAttn (q : Nat) (x : Queue) : (s.setQueue q x).heldAttn = s.heldAttn := rfl
@[simp] theorem State.setQueue_reply (q : Nat) (x : Queue) : (s.setQueue q x).reply = s.reply := rfl
@[simp] theorem State.setQueue_marshalQ (q : Nat) (x : Queue) : (s.setQueue q x).marshalQ = s.marshalQ := rfl
@[simp] theorem State.setQueue_windows (q : Nat) (x : Queue) : (s.setQueue q x).windows = s.windows := rfl
@[simp] theorem State.setQueue_t1Clients (q : Nat) (x : Queue) : (s.setQueue q x).t1Clients = s.t1Clients := rfl
@[simp] theorem State.setQueue_segments (q : Nat) (x : Queue) : (s.setQueue q x).segments = s.segments := rfl
@[simp] theorem State.setQueue_t1Out (q : Nat) (x : Queue) : (s.setQueue q x).t1Out = s.t1Out := rfl
@[simp] theorem State.setQueue_mboxes (q : Nat) (x : Queue) : (s.setQueue q x).mboxes = s.mboxes := rfl
@[simp] theorem State.setQueue_pcieFns (q : Nat) (x : Queue) : (s.setQueue q x).pcieFns = s.pcieFns := rfl
@[simp] theorem State.setQueue_ctxs (q : Nat) (x : Queue) : (s.setQueue q x).ctxs = s.ctxs := rfl
@[simp] theorem State.setQueue_batons (q : Nat) (x : Queue) : (s.setQueue q x).batons = s.batons := rfl
@[simp] theorem State.setQueue_courses (q : Nat) (x : Queue) : (s.setQueue q x).courses = s.courses := rfl
@[simp] theorem State.setQueue_launches (q : Nat) (x : Queue) : (s.setQueue q x).launches = s.launches := rfl
@[simp] theorem State.setQueue_nextId (q : Nat) (x : Queue) : (s.setQueue q x).nextId = s.nextId := rfl
@[simp] theorem State.setQueue_runs (q : Nat) (x : Queue) : (s.setQueue q x).runs = s.runs := rfl
@[simp] theorem State.setQueue_pubs (q : Nat) (x : Queue) : (s.setQueue q x).pubs = s.pubs := rfl
@[simp] theorem State.setQueue_tags (q : Nat) (x : Queue) : (s.setQueue q x).tags = s.tags := rfl
@[simp] theorem State.setQueue_quadHolds (q : Nat) (x : Queue) : (s.setQueue q x).quadHolds = s.quadHolds := rfl
@[simp] theorem State.setQueue_heats (q : Nat) (x : Queue) : (s.setQueue q x).heats = s.heats := rfl
@[simp] theorem State.setQueue_spaces (q : Nat) (x : Queue) : (s.setQueue q x).spaces = s.spaces := rfl
@[simp] theorem State.setQueue_caches (q : Nat) (x : Queue) : (s.setQueue q x).caches = s.caches := rfl
@[simp] theorem State.setQueue_allocs (q : Nat) (x : Queue) : (s.setQueue q x).allocs = s.allocs := rfl
@[simp] theorem State.setQueue_cmdStatus (q : Nat) (x : Queue) : (s.setQueue q x).cmdStatus = s.cmdStatus := rfl
@[simp] theorem State.setQueue_marshal (q : Nat) (x : Queue) : (s.setQueue q x).marshal = s.marshal := rfl
@[simp] theorem State.setQueue_service (q : Nat) (x : Queue) : (s.setQueue q x).service = s.service := rfl
@[simp] theorem State.setQueue_halt (q : Nat) (x : Queue) : (s.setQueue q x).halt = s.halt := rfl
@[simp] theorem State.setQueue_policy (q : Nat) (x : Queue) : (s.setQueue q x).policy = s.policy := rfl
@[simp] theorem State.setQueue_pictures (q : Nat) (x : Queue) : (s.setQueue q x).pictures = s.pictures := rfl
@[simp] theorem State.setQueue_comps (q : Nat) (x : Queue) : (s.setQueue q x).comps = s.comps := rfl
@[simp] theorem State.setQueue_dps (q : Nat) (x : Queue) : (s.setQueue q x).dps = s.dps := rfl
@[simp] theorem State.setQueue_streams (q : Nat) (x : Queue) : (s.setQueue q x).streams = s.streams := rfl
@[simp] theorem State.setQueue_gangs (q : Nat) (x : Queue) : (s.setQueue q x).gangs = s.gangs := rfl
@[simp] theorem State.setQueue_pair (q : Nat) (x : Queue) : (s.setQueue q x).pair = s.pair := rfl
@[simp] theorem State.setQueue_links (q : Nat) (x : Queue) : (s.setQueue q x).links = s.links := rfl
@[simp] theorem State.setQueue_klOut (q : Nat) (x : Queue) : (s.setQueue q x).klOut = s.klOut := rfl
@[simp] theorem State.setQueue_sync (q : Nat) (x : Queue) : (s.setQueue q x).sync = s.sync := rfl
@[simp] theorem State.setQueue_digest (q : Nat) (x : Queue) : (s.setQueue q x).digest = s.digest := rfl
@[simp] theorem State.setQueue_replays (q : Nat) (x : Queue) : (s.setQueue q x).replays = s.replays := rfl
@[simp] theorem State.setQueue_attach (q : Nat) (x : Queue) : (s.setQueue q x).attach = s.attach := rfl
@[simp] theorem State.setQueue_chPend (q : Nat) (x : Queue) : (s.setQueue q x).chPend = s.chPend := rfl
@[simp] theorem State.setQueue_outBy (q : Nat) (x : Queue) : (s.setQueue q x).outBy = s.outBy := rfl
@[simp] theorem State.setQueue_images (q : Nat) (x : Queue) : (s.setQueue q x).images = s.images := rfl
@[simp] theorem State.setQueue_receiving (q : Nat) (x : Queue) : (s.setQueue q x).receiving = s.receiving := rfl
@[simp] theorem State.setQueue_cores (q : Nat) (x : Queue) : (s.setQueue q x).cores = s.cores := rfl
@[simp] theorem State.setQueue_tested (q : Nat) (x : Queue) : (s.setQueue q x).tested = s.tested := rfl
@[simp] theorem State.setQueue_released (q : Nat) (x : Queue) : (s.setQueue q x).released = s.released := rfl
@[simp] theorem State.setQueue_recovered (q : Nat) (x : Queue) : (s.setQueue q x).recovered = s.recovered := rfl
@[simp] theorem State.setQueue_quoting (q : Nat) (x : Queue) : (s.setQueue q x).quoting = s.quoting := rfl
@[simp] theorem State.setQueue_power (q : Nat) (x : Queue) : (s.setQueue q x).power = s.power := rfl
@[simp] theorem State.setQueue_lend (q : Nat) (x : Queue) : (s.setQueue q x).lend = s.lend := rfl
@[simp] theorem State.setQueue_hostRead (q : Nat) (x : Queue) : (s.setQueue q x).hostRead = s.hostRead := rfl
@[simp] theorem State.setQueue_asTime (q : Nat) (x : Queue) : (s.setQueue q x).asTime = s.asTime := rfl
@[simp] theorem State.setQueue_asDelay (q : Nat) (x : Queue) : (s.setQueue q x).asDelay = s.asDelay := rfl
@[simp] theorem State.setQueue_observe (q : Nat) (x : Queue) : (s.setQueue q x).observe = s.observe := rfl
@[simp] theorem State.setQueue_latched (q : Nat) (x : Queue) : (s.setQueue q x).latched = s.latched := rfl
@[simp] theorem State.setQueue_traceBuf (q : Nat) (x : Queue) : (s.setQueue q x).traceBuf = s.traceBuf := rfl
@[simp] theorem State.setQueue_traceRing (q : Nat) (x : Queue) : (s.setQueue q x).traceRing = s.traceRing := rfl
@[simp] theorem State.setQueue_pending (q : Nat) (x : Queue) : (s.setQueue q x).pending = s.pending := rfl
@[simp] theorem State.setQueue_raised (q : Nat) (x : Queue) : (s.setQueue q x).raised = s.raised := rfl
@[simp] theorem State.setQueue_queuedOk (q : Nat) (x : Queue) : (s.setQueue q x).queuedOk = s.queuedOk := rfl
@[simp] theorem State.setQueue_underReset (q : Nat) (x : Queue) : (s.setQueue q x).underReset = s.underReset := rfl
@[simp] theorem State.setQueue_barWait (q : Nat) (x : Queue) : (s.setQueue q x).barWait = s.barWait := rfl
@[simp] theorem State.setQueue_policyRead (q : Nat) (x : Queue) : (s.setQueue q x).policyRead = s.policyRead := rfl
@[simp] theorem State.setQueue_asAt (q : Nat) (x : Queue) : (s.setQueue q x).asAt = s.asAt := rfl
@[simp] theorem State.setQueue_asRate (q : Nat) (x : Queue) : (s.setQueue q x).asRate = s.asRate := rfl
@[simp] theorem State.setQueue_defended (q : Nat) (x : Queue) : (s.setQueue q x).defended = s.defended := rfl

/-! ### setRun -/

@[simp] theorem State.setRun_runs (r : Nat) (x : Run) : (s.setRun r x).runs = put s.runs r x := rfl
@[simp] theorem State.setRun_now (r : Nat) (x : Run) : (s.setRun r x).now = s.now := rfl
@[simp] theorem State.setRun_readFault (r : Nat) (x : Run) : (s.setRun r x).readFault = s.readFault := rfl
@[simp] theorem State.setRun_arp (r : Nat) (x : Run) : (s.setRun r x).arp = s.arp := rfl
@[simp] theorem State.setRun_holds (r : Nat) (x : Run) : (s.setRun r x).holds = s.holds := rfl
@[simp] theorem State.setRun_ranges (r : Nat) (x : Run) : (s.setRun r x).ranges = s.ranges := rfl
@[simp] theorem State.setRun_owners (r : Nat) (x : Run) : (s.setRun r x).owners = s.owners := rfl
@[simp] theorem State.setRun_texCaches (r : Nat) (x : Run) : (s.setRun r x).texCaches = s.texCaches := rfl
@[simp] theorem State.setRun_fresh (r : Nat) (x : Run) : (s.setRun r x).fresh = s.fresh := rfl
@[simp] theorem State.setRun_objs (r : Nat) (x : Run) : (s.setRun r x).objs = s.objs := rfl
@[simp] theorem State.setRun_octs (r : Nat) (x : Run) : (s.setRun r x).octs = s.octs := rfl
@[simp] theorem State.setRun_mem (r : Nat) (x : Run) : (s.setRun r x).mem = s.mem := rfl
@[simp] theorem State.setRun_pacers (r : Nat) (x : Run) : (s.setRun r x).pacers = s.pacers := rfl
@[simp] theorem State.setRun_devLog (r : Nat) (x : Run) : (s.setRun r x).devLog = s.devLog := rfl
@[simp] theorem State.setRun_vfLogs (r : Nat) (x : Run) : (s.setRun r x).vfLogs = s.vfLogs := rfl
@[simp] theorem State.setRun_heldAttn (r : Nat) (x : Run) : (s.setRun r x).heldAttn = s.heldAttn := rfl
@[simp] theorem State.setRun_reply (r : Nat) (x : Run) : (s.setRun r x).reply = s.reply := rfl
@[simp] theorem State.setRun_marshalQ (r : Nat) (x : Run) : (s.setRun r x).marshalQ = s.marshalQ := rfl
@[simp] theorem State.setRun_windows (r : Nat) (x : Run) : (s.setRun r x).windows = s.windows := rfl
@[simp] theorem State.setRun_t1Clients (r : Nat) (x : Run) : (s.setRun r x).t1Clients = s.t1Clients := rfl
@[simp] theorem State.setRun_segments (r : Nat) (x : Run) : (s.setRun r x).segments = s.segments := rfl
@[simp] theorem State.setRun_t1Out (r : Nat) (x : Run) : (s.setRun r x).t1Out = s.t1Out := rfl
@[simp] theorem State.setRun_mboxes (r : Nat) (x : Run) : (s.setRun r x).mboxes = s.mboxes := rfl
@[simp] theorem State.setRun_pcieFns (r : Nat) (x : Run) : (s.setRun r x).pcieFns = s.pcieFns := rfl
@[simp] theorem State.setRun_ctxs (r : Nat) (x : Run) : (s.setRun r x).ctxs = s.ctxs := rfl
@[simp] theorem State.setRun_batons (r : Nat) (x : Run) : (s.setRun r x).batons = s.batons := rfl
@[simp] theorem State.setRun_queues (r : Nat) (x : Run) : (s.setRun r x).queues = s.queues := rfl
@[simp] theorem State.setRun_courses (r : Nat) (x : Run) : (s.setRun r x).courses = s.courses := rfl
@[simp] theorem State.setRun_launches (r : Nat) (x : Run) : (s.setRun r x).launches = s.launches := rfl
@[simp] theorem State.setRun_nextId (r : Nat) (x : Run) : (s.setRun r x).nextId = s.nextId := rfl
@[simp] theorem State.setRun_pubs (r : Nat) (x : Run) : (s.setRun r x).pubs = s.pubs := rfl
@[simp] theorem State.setRun_tags (r : Nat) (x : Run) : (s.setRun r x).tags = s.tags := rfl
@[simp] theorem State.setRun_quadHolds (r : Nat) (x : Run) : (s.setRun r x).quadHolds = s.quadHolds := rfl
@[simp] theorem State.setRun_heats (r : Nat) (x : Run) : (s.setRun r x).heats = s.heats := rfl
@[simp] theorem State.setRun_spaces (r : Nat) (x : Run) : (s.setRun r x).spaces = s.spaces := rfl
@[simp] theorem State.setRun_caches (r : Nat) (x : Run) : (s.setRun r x).caches = s.caches := rfl
@[simp] theorem State.setRun_allocs (r : Nat) (x : Run) : (s.setRun r x).allocs = s.allocs := rfl
@[simp] theorem State.setRun_cmdStatus (r : Nat) (x : Run) : (s.setRun r x).cmdStatus = s.cmdStatus := rfl
@[simp] theorem State.setRun_marshal (r : Nat) (x : Run) : (s.setRun r x).marshal = s.marshal := rfl
@[simp] theorem State.setRun_service (r : Nat) (x : Run) : (s.setRun r x).service = s.service := rfl
@[simp] theorem State.setRun_halt (r : Nat) (x : Run) : (s.setRun r x).halt = s.halt := rfl
@[simp] theorem State.setRun_policy (r : Nat) (x : Run) : (s.setRun r x).policy = s.policy := rfl
@[simp] theorem State.setRun_pictures (r : Nat) (x : Run) : (s.setRun r x).pictures = s.pictures := rfl
@[simp] theorem State.setRun_comps (r : Nat) (x : Run) : (s.setRun r x).comps = s.comps := rfl
@[simp] theorem State.setRun_dps (r : Nat) (x : Run) : (s.setRun r x).dps = s.dps := rfl
@[simp] theorem State.setRun_streams (r : Nat) (x : Run) : (s.setRun r x).streams = s.streams := rfl
@[simp] theorem State.setRun_gangs (r : Nat) (x : Run) : (s.setRun r x).gangs = s.gangs := rfl
@[simp] theorem State.setRun_pair (r : Nat) (x : Run) : (s.setRun r x).pair = s.pair := rfl
@[simp] theorem State.setRun_links (r : Nat) (x : Run) : (s.setRun r x).links = s.links := rfl
@[simp] theorem State.setRun_klOut (r : Nat) (x : Run) : (s.setRun r x).klOut = s.klOut := rfl
@[simp] theorem State.setRun_sync (r : Nat) (x : Run) : (s.setRun r x).sync = s.sync := rfl
@[simp] theorem State.setRun_digest (r : Nat) (x : Run) : (s.setRun r x).digest = s.digest := rfl
@[simp] theorem State.setRun_replays (r : Nat) (x : Run) : (s.setRun r x).replays = s.replays := rfl
@[simp] theorem State.setRun_attach (r : Nat) (x : Run) : (s.setRun r x).attach = s.attach := rfl
@[simp] theorem State.setRun_chPend (r : Nat) (x : Run) : (s.setRun r x).chPend = s.chPend := rfl
@[simp] theorem State.setRun_outBy (r : Nat) (x : Run) : (s.setRun r x).outBy = s.outBy := rfl
@[simp] theorem State.setRun_images (r : Nat) (x : Run) : (s.setRun r x).images = s.images := rfl
@[simp] theorem State.setRun_receiving (r : Nat) (x : Run) : (s.setRun r x).receiving = s.receiving := rfl
@[simp] theorem State.setRun_cores (r : Nat) (x : Run) : (s.setRun r x).cores = s.cores := rfl
@[simp] theorem State.setRun_tested (r : Nat) (x : Run) : (s.setRun r x).tested = s.tested := rfl
@[simp] theorem State.setRun_released (r : Nat) (x : Run) : (s.setRun r x).released = s.released := rfl
@[simp] theorem State.setRun_recovered (r : Nat) (x : Run) : (s.setRun r x).recovered = s.recovered := rfl
@[simp] theorem State.setRun_quoting (r : Nat) (x : Run) : (s.setRun r x).quoting = s.quoting := rfl
@[simp] theorem State.setRun_power (r : Nat) (x : Run) : (s.setRun r x).power = s.power := rfl
@[simp] theorem State.setRun_lend (r : Nat) (x : Run) : (s.setRun r x).lend = s.lend := rfl
@[simp] theorem State.setRun_hostRead (r : Nat) (x : Run) : (s.setRun r x).hostRead = s.hostRead := rfl
@[simp] theorem State.setRun_asTime (r : Nat) (x : Run) : (s.setRun r x).asTime = s.asTime := rfl
@[simp] theorem State.setRun_asDelay (r : Nat) (x : Run) : (s.setRun r x).asDelay = s.asDelay := rfl
@[simp] theorem State.setRun_observe (r : Nat) (x : Run) : (s.setRun r x).observe = s.observe := rfl
@[simp] theorem State.setRun_latched (r : Nat) (x : Run) : (s.setRun r x).latched = s.latched := rfl
@[simp] theorem State.setRun_traceBuf (r : Nat) (x : Run) : (s.setRun r x).traceBuf = s.traceBuf := rfl
@[simp] theorem State.setRun_traceRing (r : Nat) (x : Run) : (s.setRun r x).traceRing = s.traceRing := rfl
@[simp] theorem State.setRun_pending (r : Nat) (x : Run) : (s.setRun r x).pending = s.pending := rfl
@[simp] theorem State.setRun_raised (r : Nat) (x : Run) : (s.setRun r x).raised = s.raised := rfl
@[simp] theorem State.setRun_queuedOk (r : Nat) (x : Run) : (s.setRun r x).queuedOk = s.queuedOk := rfl
@[simp] theorem State.setRun_underReset (r : Nat) (x : Run) : (s.setRun r x).underReset = s.underReset := rfl
@[simp] theorem State.setRun_barWait (r : Nat) (x : Run) : (s.setRun r x).barWait = s.barWait := rfl
@[simp] theorem State.setRun_policyRead (r : Nat) (x : Run) : (s.setRun r x).policyRead = s.policyRead := rfl
@[simp] theorem State.setRun_asAt (r : Nat) (x : Run) : (s.setRun r x).asAt = s.asAt := rfl
@[simp] theorem State.setRun_asRate (r : Nat) (x : Run) : (s.setRun r x).asRate = s.asRate := rfl
@[simp] theorem State.setRun_defended (r : Nat) (x : Run) : (s.setRun r x).defended = s.defended := rfl

/-! ### setCtx -/

@[simp] theorem State.setCtx_ctxs (c : Nat) (x : Context) : (s.setCtx c x).ctxs = put s.ctxs c x := rfl
@[simp] theorem State.setCtx_now (c : Nat) (x : Context) : (s.setCtx c x).now = s.now := rfl
@[simp] theorem State.setCtx_readFault (c : Nat) (x : Context) : (s.setCtx c x).readFault = s.readFault := rfl
@[simp] theorem State.setCtx_arp (c : Nat) (x : Context) : (s.setCtx c x).arp = s.arp := rfl
@[simp] theorem State.setCtx_holds (c : Nat) (x : Context) : (s.setCtx c x).holds = s.holds := rfl
@[simp] theorem State.setCtx_ranges (c : Nat) (x : Context) : (s.setCtx c x).ranges = s.ranges := rfl
@[simp] theorem State.setCtx_owners (c : Nat) (x : Context) : (s.setCtx c x).owners = s.owners := rfl
@[simp] theorem State.setCtx_texCaches (c : Nat) (x : Context) : (s.setCtx c x).texCaches = s.texCaches := rfl
@[simp] theorem State.setCtx_fresh (c : Nat) (x : Context) : (s.setCtx c x).fresh = s.fresh := rfl
@[simp] theorem State.setCtx_objs (c : Nat) (x : Context) : (s.setCtx c x).objs = s.objs := rfl
@[simp] theorem State.setCtx_octs (c : Nat) (x : Context) : (s.setCtx c x).octs = s.octs := rfl
@[simp] theorem State.setCtx_mem (c : Nat) (x : Context) : (s.setCtx c x).mem = s.mem := rfl
@[simp] theorem State.setCtx_pacers (c : Nat) (x : Context) : (s.setCtx c x).pacers = s.pacers := rfl
@[simp] theorem State.setCtx_devLog (c : Nat) (x : Context) : (s.setCtx c x).devLog = s.devLog := rfl
@[simp] theorem State.setCtx_vfLogs (c : Nat) (x : Context) : (s.setCtx c x).vfLogs = s.vfLogs := rfl
@[simp] theorem State.setCtx_heldAttn (c : Nat) (x : Context) : (s.setCtx c x).heldAttn = s.heldAttn := rfl
@[simp] theorem State.setCtx_reply (c : Nat) (x : Context) : (s.setCtx c x).reply = s.reply := rfl
@[simp] theorem State.setCtx_marshalQ (c : Nat) (x : Context) : (s.setCtx c x).marshalQ = s.marshalQ := rfl
@[simp] theorem State.setCtx_windows (c : Nat) (x : Context) : (s.setCtx c x).windows = s.windows := rfl
@[simp] theorem State.setCtx_t1Clients (c : Nat) (x : Context) : (s.setCtx c x).t1Clients = s.t1Clients := rfl
@[simp] theorem State.setCtx_segments (c : Nat) (x : Context) : (s.setCtx c x).segments = s.segments := rfl
@[simp] theorem State.setCtx_t1Out (c : Nat) (x : Context) : (s.setCtx c x).t1Out = s.t1Out := rfl
@[simp] theorem State.setCtx_mboxes (c : Nat) (x : Context) : (s.setCtx c x).mboxes = s.mboxes := rfl
@[simp] theorem State.setCtx_pcieFns (c : Nat) (x : Context) : (s.setCtx c x).pcieFns = s.pcieFns := rfl
@[simp] theorem State.setCtx_batons (c : Nat) (x : Context) : (s.setCtx c x).batons = s.batons := rfl
@[simp] theorem State.setCtx_queues (c : Nat) (x : Context) : (s.setCtx c x).queues = s.queues := rfl
@[simp] theorem State.setCtx_courses (c : Nat) (x : Context) : (s.setCtx c x).courses = s.courses := rfl
@[simp] theorem State.setCtx_launches (c : Nat) (x : Context) : (s.setCtx c x).launches = s.launches := rfl
@[simp] theorem State.setCtx_nextId (c : Nat) (x : Context) : (s.setCtx c x).nextId = s.nextId := rfl
@[simp] theorem State.setCtx_runs (c : Nat) (x : Context) : (s.setCtx c x).runs = s.runs := rfl
@[simp] theorem State.setCtx_pubs (c : Nat) (x : Context) : (s.setCtx c x).pubs = s.pubs := rfl
@[simp] theorem State.setCtx_tags (c : Nat) (x : Context) : (s.setCtx c x).tags = s.tags := rfl
@[simp] theorem State.setCtx_quadHolds (c : Nat) (x : Context) : (s.setCtx c x).quadHolds = s.quadHolds := rfl
@[simp] theorem State.setCtx_heats (c : Nat) (x : Context) : (s.setCtx c x).heats = s.heats := rfl
@[simp] theorem State.setCtx_spaces (c : Nat) (x : Context) : (s.setCtx c x).spaces = s.spaces := rfl
@[simp] theorem State.setCtx_caches (c : Nat) (x : Context) : (s.setCtx c x).caches = s.caches := rfl
@[simp] theorem State.setCtx_allocs (c : Nat) (x : Context) : (s.setCtx c x).allocs = s.allocs := rfl
@[simp] theorem State.setCtx_cmdStatus (c : Nat) (x : Context) : (s.setCtx c x).cmdStatus = s.cmdStatus := rfl
@[simp] theorem State.setCtx_marshal (c : Nat) (x : Context) : (s.setCtx c x).marshal = s.marshal := rfl
@[simp] theorem State.setCtx_service (c : Nat) (x : Context) : (s.setCtx c x).service = s.service := rfl
@[simp] theorem State.setCtx_halt (c : Nat) (x : Context) : (s.setCtx c x).halt = s.halt := rfl
@[simp] theorem State.setCtx_policy (c : Nat) (x : Context) : (s.setCtx c x).policy = s.policy := rfl
@[simp] theorem State.setCtx_pictures (c : Nat) (x : Context) : (s.setCtx c x).pictures = s.pictures := rfl
@[simp] theorem State.setCtx_comps (c : Nat) (x : Context) : (s.setCtx c x).comps = s.comps := rfl
@[simp] theorem State.setCtx_dps (c : Nat) (x : Context) : (s.setCtx c x).dps = s.dps := rfl
@[simp] theorem State.setCtx_streams (c : Nat) (x : Context) : (s.setCtx c x).streams = s.streams := rfl
@[simp] theorem State.setCtx_gangs (c : Nat) (x : Context) : (s.setCtx c x).gangs = s.gangs := rfl
@[simp] theorem State.setCtx_pair (c : Nat) (x : Context) : (s.setCtx c x).pair = s.pair := rfl
@[simp] theorem State.setCtx_links (c : Nat) (x : Context) : (s.setCtx c x).links = s.links := rfl
@[simp] theorem State.setCtx_klOut (c : Nat) (x : Context) : (s.setCtx c x).klOut = s.klOut := rfl
@[simp] theorem State.setCtx_sync (c : Nat) (x : Context) : (s.setCtx c x).sync = s.sync := rfl
@[simp] theorem State.setCtx_digest (c : Nat) (x : Context) : (s.setCtx c x).digest = s.digest := rfl
@[simp] theorem State.setCtx_replays (c : Nat) (x : Context) : (s.setCtx c x).replays = s.replays := rfl
@[simp] theorem State.setCtx_attach (c : Nat) (x : Context) : (s.setCtx c x).attach = s.attach := rfl
@[simp] theorem State.setCtx_chPend (c : Nat) (x : Context) : (s.setCtx c x).chPend = s.chPend := rfl
@[simp] theorem State.setCtx_outBy (c : Nat) (x : Context) : (s.setCtx c x).outBy = s.outBy := rfl
@[simp] theorem State.setCtx_images (c : Nat) (x : Context) : (s.setCtx c x).images = s.images := rfl
@[simp] theorem State.setCtx_receiving (c : Nat) (x : Context) : (s.setCtx c x).receiving = s.receiving := rfl
@[simp] theorem State.setCtx_cores (c : Nat) (x : Context) : (s.setCtx c x).cores = s.cores := rfl
@[simp] theorem State.setCtx_tested (c : Nat) (x : Context) : (s.setCtx c x).tested = s.tested := rfl
@[simp] theorem State.setCtx_released (c : Nat) (x : Context) : (s.setCtx c x).released = s.released := rfl
@[simp] theorem State.setCtx_recovered (c : Nat) (x : Context) : (s.setCtx c x).recovered = s.recovered := rfl
@[simp] theorem State.setCtx_quoting (c : Nat) (x : Context) : (s.setCtx c x).quoting = s.quoting := rfl
@[simp] theorem State.setCtx_power (c : Nat) (x : Context) : (s.setCtx c x).power = s.power := rfl
@[simp] theorem State.setCtx_lend (c : Nat) (x : Context) : (s.setCtx c x).lend = s.lend := rfl
@[simp] theorem State.setCtx_hostRead (c : Nat) (x : Context) : (s.setCtx c x).hostRead = s.hostRead := rfl
@[simp] theorem State.setCtx_asTime (c : Nat) (x : Context) : (s.setCtx c x).asTime = s.asTime := rfl
@[simp] theorem State.setCtx_asDelay (c : Nat) (x : Context) : (s.setCtx c x).asDelay = s.asDelay := rfl
@[simp] theorem State.setCtx_observe (c : Nat) (x : Context) : (s.setCtx c x).observe = s.observe := rfl
@[simp] theorem State.setCtx_latched (c : Nat) (x : Context) : (s.setCtx c x).latched = s.latched := rfl
@[simp] theorem State.setCtx_traceBuf (c : Nat) (x : Context) : (s.setCtx c x).traceBuf = s.traceBuf := rfl
@[simp] theorem State.setCtx_traceRing (c : Nat) (x : Context) : (s.setCtx c x).traceRing = s.traceRing := rfl
@[simp] theorem State.setCtx_pending (c : Nat) (x : Context) : (s.setCtx c x).pending = s.pending := rfl
@[simp] theorem State.setCtx_raised (c : Nat) (x : Context) : (s.setCtx c x).raised = s.raised := rfl
@[simp] theorem State.setCtx_queuedOk (c : Nat) (x : Context) : (s.setCtx c x).queuedOk = s.queuedOk := rfl
@[simp] theorem State.setCtx_underReset (c : Nat) (x : Context) : (s.setCtx c x).underReset = s.underReset := rfl
@[simp] theorem State.setCtx_barWait (c : Nat) (x : Context) : (s.setCtx c x).barWait = s.barWait := rfl
@[simp] theorem State.setCtx_policyRead (c : Nat) (x : Context) : (s.setCtx c x).policyRead = s.policyRead := rfl
@[simp] theorem State.setCtx_asAt (c : Nat) (x : Context) : (s.setCtx c x).asAt = s.asAt := rfl
@[simp] theorem State.setCtx_asRate (c : Nat) (x : Context) : (s.setCtx c x).asRate = s.asRate := rfl
@[simp] theorem State.setCtx_defended (c : Nat) (x : Context) : (s.setCtx c x).defended = s.defended := rfl

/-! ### setBaton -/

@[simp] theorem State.setBaton_batons (b : Nat) (x : Baton) : (s.setBaton b x).batons = put s.batons b x := rfl
@[simp] theorem State.setBaton_now (b : Nat) (x : Baton) : (s.setBaton b x).now = s.now := rfl
@[simp] theorem State.setBaton_readFault (b : Nat) (x : Baton) : (s.setBaton b x).readFault = s.readFault := rfl
@[simp] theorem State.setBaton_arp (b : Nat) (x : Baton) : (s.setBaton b x).arp = s.arp := rfl
@[simp] theorem State.setBaton_holds (b : Nat) (x : Baton) : (s.setBaton b x).holds = s.holds := rfl
@[simp] theorem State.setBaton_ranges (b : Nat) (x : Baton) : (s.setBaton b x).ranges = s.ranges := rfl
@[simp] theorem State.setBaton_owners (b : Nat) (x : Baton) : (s.setBaton b x).owners = s.owners := rfl
@[simp] theorem State.setBaton_texCaches (b : Nat) (x : Baton) : (s.setBaton b x).texCaches = s.texCaches := rfl
@[simp] theorem State.setBaton_fresh (b : Nat) (x : Baton) : (s.setBaton b x).fresh = s.fresh := rfl
@[simp] theorem State.setBaton_objs (b : Nat) (x : Baton) : (s.setBaton b x).objs = s.objs := rfl
@[simp] theorem State.setBaton_octs (b : Nat) (x : Baton) : (s.setBaton b x).octs = s.octs := rfl
@[simp] theorem State.setBaton_mem (b : Nat) (x : Baton) : (s.setBaton b x).mem = s.mem := rfl
@[simp] theorem State.setBaton_pacers (b : Nat) (x : Baton) : (s.setBaton b x).pacers = s.pacers := rfl
@[simp] theorem State.setBaton_devLog (b : Nat) (x : Baton) : (s.setBaton b x).devLog = s.devLog := rfl
@[simp] theorem State.setBaton_vfLogs (b : Nat) (x : Baton) : (s.setBaton b x).vfLogs = s.vfLogs := rfl
@[simp] theorem State.setBaton_heldAttn (b : Nat) (x : Baton) : (s.setBaton b x).heldAttn = s.heldAttn := rfl
@[simp] theorem State.setBaton_reply (b : Nat) (x : Baton) : (s.setBaton b x).reply = s.reply := rfl
@[simp] theorem State.setBaton_marshalQ (b : Nat) (x : Baton) : (s.setBaton b x).marshalQ = s.marshalQ := rfl
@[simp] theorem State.setBaton_windows (b : Nat) (x : Baton) : (s.setBaton b x).windows = s.windows := rfl
@[simp] theorem State.setBaton_t1Clients (b : Nat) (x : Baton) : (s.setBaton b x).t1Clients = s.t1Clients := rfl
@[simp] theorem State.setBaton_segments (b : Nat) (x : Baton) : (s.setBaton b x).segments = s.segments := rfl
@[simp] theorem State.setBaton_t1Out (b : Nat) (x : Baton) : (s.setBaton b x).t1Out = s.t1Out := rfl
@[simp] theorem State.setBaton_mboxes (b : Nat) (x : Baton) : (s.setBaton b x).mboxes = s.mboxes := rfl
@[simp] theorem State.setBaton_pcieFns (b : Nat) (x : Baton) : (s.setBaton b x).pcieFns = s.pcieFns := rfl
@[simp] theorem State.setBaton_ctxs (b : Nat) (x : Baton) : (s.setBaton b x).ctxs = s.ctxs := rfl
@[simp] theorem State.setBaton_queues (b : Nat) (x : Baton) : (s.setBaton b x).queues = s.queues := rfl
@[simp] theorem State.setBaton_courses (b : Nat) (x : Baton) : (s.setBaton b x).courses = s.courses := rfl
@[simp] theorem State.setBaton_launches (b : Nat) (x : Baton) : (s.setBaton b x).launches = s.launches := rfl
@[simp] theorem State.setBaton_nextId (b : Nat) (x : Baton) : (s.setBaton b x).nextId = s.nextId := rfl
@[simp] theorem State.setBaton_runs (b : Nat) (x : Baton) : (s.setBaton b x).runs = s.runs := rfl
@[simp] theorem State.setBaton_pubs (b : Nat) (x : Baton) : (s.setBaton b x).pubs = s.pubs := rfl
@[simp] theorem State.setBaton_tags (b : Nat) (x : Baton) : (s.setBaton b x).tags = s.tags := rfl
@[simp] theorem State.setBaton_quadHolds (b : Nat) (x : Baton) : (s.setBaton b x).quadHolds = s.quadHolds := rfl
@[simp] theorem State.setBaton_heats (b : Nat) (x : Baton) : (s.setBaton b x).heats = s.heats := rfl
@[simp] theorem State.setBaton_spaces (b : Nat) (x : Baton) : (s.setBaton b x).spaces = s.spaces := rfl
@[simp] theorem State.setBaton_caches (b : Nat) (x : Baton) : (s.setBaton b x).caches = s.caches := rfl
@[simp] theorem State.setBaton_allocs (b : Nat) (x : Baton) : (s.setBaton b x).allocs = s.allocs := rfl
@[simp] theorem State.setBaton_cmdStatus (b : Nat) (x : Baton) : (s.setBaton b x).cmdStatus = s.cmdStatus := rfl
@[simp] theorem State.setBaton_marshal (b : Nat) (x : Baton) : (s.setBaton b x).marshal = s.marshal := rfl
@[simp] theorem State.setBaton_service (b : Nat) (x : Baton) : (s.setBaton b x).service = s.service := rfl
@[simp] theorem State.setBaton_halt (b : Nat) (x : Baton) : (s.setBaton b x).halt = s.halt := rfl
@[simp] theorem State.setBaton_policy (b : Nat) (x : Baton) : (s.setBaton b x).policy = s.policy := rfl
@[simp] theorem State.setBaton_pictures (b : Nat) (x : Baton) : (s.setBaton b x).pictures = s.pictures := rfl
@[simp] theorem State.setBaton_comps (b : Nat) (x : Baton) : (s.setBaton b x).comps = s.comps := rfl
@[simp] theorem State.setBaton_dps (b : Nat) (x : Baton) : (s.setBaton b x).dps = s.dps := rfl
@[simp] theorem State.setBaton_streams (b : Nat) (x : Baton) : (s.setBaton b x).streams = s.streams := rfl
@[simp] theorem State.setBaton_gangs (b : Nat) (x : Baton) : (s.setBaton b x).gangs = s.gangs := rfl
@[simp] theorem State.setBaton_pair (b : Nat) (x : Baton) : (s.setBaton b x).pair = s.pair := rfl
@[simp] theorem State.setBaton_links (b : Nat) (x : Baton) : (s.setBaton b x).links = s.links := rfl
@[simp] theorem State.setBaton_klOut (b : Nat) (x : Baton) : (s.setBaton b x).klOut = s.klOut := rfl
@[simp] theorem State.setBaton_sync (b : Nat) (x : Baton) : (s.setBaton b x).sync = s.sync := rfl
@[simp] theorem State.setBaton_digest (b : Nat) (x : Baton) : (s.setBaton b x).digest = s.digest := rfl
@[simp] theorem State.setBaton_replays (b : Nat) (x : Baton) : (s.setBaton b x).replays = s.replays := rfl
@[simp] theorem State.setBaton_attach (b : Nat) (x : Baton) : (s.setBaton b x).attach = s.attach := rfl
@[simp] theorem State.setBaton_chPend (b : Nat) (x : Baton) : (s.setBaton b x).chPend = s.chPend := rfl
@[simp] theorem State.setBaton_outBy (b : Nat) (x : Baton) : (s.setBaton b x).outBy = s.outBy := rfl
@[simp] theorem State.setBaton_images (b : Nat) (x : Baton) : (s.setBaton b x).images = s.images := rfl
@[simp] theorem State.setBaton_receiving (b : Nat) (x : Baton) : (s.setBaton b x).receiving = s.receiving := rfl
@[simp] theorem State.setBaton_cores (b : Nat) (x : Baton) : (s.setBaton b x).cores = s.cores := rfl
@[simp] theorem State.setBaton_tested (b : Nat) (x : Baton) : (s.setBaton b x).tested = s.tested := rfl
@[simp] theorem State.setBaton_released (b : Nat) (x : Baton) : (s.setBaton b x).released = s.released := rfl
@[simp] theorem State.setBaton_recovered (b : Nat) (x : Baton) : (s.setBaton b x).recovered = s.recovered := rfl
@[simp] theorem State.setBaton_quoting (b : Nat) (x : Baton) : (s.setBaton b x).quoting = s.quoting := rfl
@[simp] theorem State.setBaton_power (b : Nat) (x : Baton) : (s.setBaton b x).power = s.power := rfl
@[simp] theorem State.setBaton_lend (b : Nat) (x : Baton) : (s.setBaton b x).lend = s.lend := rfl
@[simp] theorem State.setBaton_hostRead (b : Nat) (x : Baton) : (s.setBaton b x).hostRead = s.hostRead := rfl
@[simp] theorem State.setBaton_asTime (b : Nat) (x : Baton) : (s.setBaton b x).asTime = s.asTime := rfl
@[simp] theorem State.setBaton_asDelay (b : Nat) (x : Baton) : (s.setBaton b x).asDelay = s.asDelay := rfl
@[simp] theorem State.setBaton_observe (b : Nat) (x : Baton) : (s.setBaton b x).observe = s.observe := rfl
@[simp] theorem State.setBaton_latched (b : Nat) (x : Baton) : (s.setBaton b x).latched = s.latched := rfl
@[simp] theorem State.setBaton_traceBuf (b : Nat) (x : Baton) : (s.setBaton b x).traceBuf = s.traceBuf := rfl
@[simp] theorem State.setBaton_traceRing (b : Nat) (x : Baton) : (s.setBaton b x).traceRing = s.traceRing := rfl
@[simp] theorem State.setBaton_pending (b : Nat) (x : Baton) : (s.setBaton b x).pending = s.pending := rfl
@[simp] theorem State.setBaton_raised (b : Nat) (x : Baton) : (s.setBaton b x).raised = s.raised := rfl
@[simp] theorem State.setBaton_queuedOk (b : Nat) (x : Baton) : (s.setBaton b x).queuedOk = s.queuedOk := rfl
@[simp] theorem State.setBaton_underReset (b : Nat) (x : Baton) : (s.setBaton b x).underReset = s.underReset := rfl
@[simp] theorem State.setBaton_barWait (b : Nat) (x : Baton) : (s.setBaton b x).barWait = s.barWait := rfl
@[simp] theorem State.setBaton_policyRead (b : Nat) (x : Baton) : (s.setBaton b x).policyRead = s.policyRead := rfl
@[simp] theorem State.setBaton_asAt (b : Nat) (x : Baton) : (s.setBaton b x).asAt = s.asAt := rfl
@[simp] theorem State.setBaton_asRate (b : Nat) (x : Baton) : (s.setBaton b x).asRate = s.asRate := rfl
@[simp] theorem State.setBaton_defended (b : Nat) (x : Baton) : (s.setBaton b x).defended = s.defended := rfl

end Sys2Proof.Machine
end

