-- ==== Sys2Proof/Laws/Objects.lean ====
section
/-! SUPPORT. Dictionary objects: what a set object reads as, what it leaves, and that the store keeps its canonical
form. -/

namespace Sys2Proof.Machine

variable (s : State)

/-- What an object reads as after one is set. -/
theorem obj_setObj (k j v : Nat) : (s.setObj k v).obj j = if j = k then v else s.obj j := by
  unfold State.obj State.setObj
  by_cases h : v = objDefault k
  · simp only [h, if_true, look_del]
    by_cases h2 : j = k
    · subst h2; simp
    · simp [h2]
  · simp only [h, if_false, look_put]
    by_cases h2 : j = k <;> simp [h2]

@[simp] theorem obj_setObj_self (k v : Nat) : (s.setObj k v).obj k = v := by simp [obj_setObj]

/-- Setting an object leaves every other. -/
theorem obj_setObj_other {k j : Nat} (v : Nat) (h : j ≠ k) : (s.setObj k v).obj j = s.obj j := by simp [obj_setObj, h]

@[simp] theorem obj_bump_self (k n w : Nat) : (s.bump k n w).obj k = (s.obj k + n) % 2 ^ w := obj_setObj_self _ _ _

/-- Counting in one object leaves every other. -/
theorem obj_bump_other {k j : Nat} (n w : Nat) (h : j ≠ k) : (s.bump k n w).obj j = s.obj j := obj_setObj_other _ _ h

@[simp] theorem obj_answer (k c : Nat) : (s.answer c).obj k = s.obj k := rfl
@[simp] theorem obj_setCmd (j k e x : Nat) : (s.setCmd k e x).obj j = s.obj j := rfl
@[simp] theorem obj_refuse (j k c : Nat) : (s.refuse k c).obj j = s.obj j := rfl
@[simp] theorem obj_accept (j k : Nat) : (s.accept k).obj j = s.obj j := rfl
@[simp] theorem obj_attn (code chan k d j : Nat) : (s.attn code chan k d).obj j = s.obj j := by
  unfold State.obj; rw [State.attn_objs]
@[simp] theorem obj_ended (j k x st : Nat) : (s.ended k x st).obj j = s.obj j := obj_attn _ _ _ _ _ _
@[simp] theorem obj_done (j k : Nat) : (s.done k).obj j = s.obj j := obj_attn _ _ _ _ _ _
@[simp] theorem obj_setPacer (j : Nat) (ch : Fin 4) (p : Pacer) : (s.setPacer ch p).obj j = s.obj j := rfl
@[simp] theorem obj_setQueue (j q : Nat) (x : Queue) : (s.setQueue q x).obj j = s.obj j := rfl
@[simp] theorem obj_setRun (j r : Nat) (x : Run) : (s.setRun r x).obj j = s.obj j := rfl
@[simp] theorem obj_setCtx (j c : Nat) (x : Context) : (s.setCtx c x).obj j = s.obj j := rfl
@[simp] theorem obj_setBaton (j b : Nat) (x : Baton) : (s.setBaton b x).obj j = s.obj j := rfl
@[simp] theorem obj_write (j a : Nat) (bs : List Byte) : (s.write a bs).obj j = s.obj j := rfl
@[simp] theorem obj_setOct (j k : Nat) (v : List Byte) : (s.setOct k v).obj j = s.obj j := rfl

/-- The canonical form in two parts. -/
theorem objects_wf_iff (m : List (Nat × Nat)) : Objects.wf m = true ↔ rising m = true ∧ ∀ e ∈ m, e.2 ≠ objDefault e.1 := by
  simp [Objects.wf]

/-- Setting an object keeps the store canonical. -/
theorem objects_wf_setObj (k v : Nat) (h : Objects.wf s.objs = true) : Objects.wf (s.setObj k v).objs = true := by
  have h0 := (objects_wf_iff _).mp h
  unfold State.setObj
  split
  · exact (objects_wf_iff _).mpr ⟨rising_del _ _ h0.1, fun e he => h0.2 e (List.mem_filter.mp he).1⟩
  · rename_i hv
    refine (objects_wf_iff _).mpr ⟨rising_put _ _ _ h0.1, ?_⟩
    intro e he
    rcases mem_put _ _ _ e he with rfl | h3
    · exact hv
    · exact h0.2 e h3

/-- Counting keeps the store canonical. -/
theorem objects_wf_bump (k n w : Nat) (h : Objects.wf s.objs = true) : Objects.wf (s.bump k n w).objs = true :=
  objects_wf_setObj s k _ h

/-- The service code of the command just accepted, done or refused. -/
@[simp] theorem look_accept (k : Nat) : look (s.accept k).cmdStatus k = some (cmdWord 0 1) := look_put_self _ _ _
@[simp] theorem look_ended (k x st : Nat) : look (s.ended k x st).cmdStatus k = some (cmdWord x st) := by
  rw [State.ended_cmdStatus]; exact look_put_self _ _ _
@[simp] theorem look_done (k : Nat) : look (s.done k).cmdStatus k = some (cmdWord 0 2) := by
  rw [State.done_cmdStatus]; exact look_put_self _ _ _
@[simp] theorem look_refuse (k c : Nat) : look (s.refuse k c).cmdStatus k = some (cmdWord 0 3) := look_put_self _ _ _

/-- A command of a running block acts. -/
theorem clocked_next (f : State → State) (h : s.halt = none) : clocked s f = .next (f s) := by simp [clocked, h]

/-- A command of a stopped block changes nothing (R540, R543, R547). -/
theorem clocked_halted (f : State → State) (h : s.halt ≠ none) : clocked s f = .next s := by
  unfold clocked
  cases hh : s.halt with
  | none => exact absurd hh h
  | some _ => rfl

/-- Keeping trace records changes the buffer and TRACE_SEQ only. -/
theorem keep_frame (rs : List TraceRec) : ∃ o b, s.keep rs = { s with objs := o, traceBuf := b } := by
  unfold State.keep State.bump State.setObj
  exact ⟨_, _, rfl⟩

/-- Forming a trace record changes the observation, the buffer and the counters of the trace only. -/
theorem emit_frame (type chan unit cls ctx a0 a1 : Nat) :
    ∃ o v b, s.emit type chan unit cls ctx a0 a1 = { s with objs := o, observe := v, traceBuf := b } := by
  unfold State.emit
  simp only []
  split
  · exact ⟨_, _, _, rfl⟩
  · generalize (decide (64 ≤ _) || _) = full
    cases full
    · obtain ⟨o, b, h⟩ := keep_frame (State.mk ..) _
      exact ⟨_, _, _, h⟩
    · exact ⟨_, _, _, rfl⟩

/-- Objects but TRACE_SEQ are left by keeping records. -/
theorem obj_keep (rs : List TraceRec) (k : Nat) (h : k ≠ Obj.traceSeq) : (s.keep rs).obj k = s.obj k :=
  obj_bump_other s _ _ h

/-- Objects but the trace's own are left by a trace record. -/
theorem obj_emit (type chan unit cls ctx a0 a1 k : Nat) (h1 : k ≠ Obj.traceSeq) (h2 : k ≠ Obj.traceLost) :
    (s.emit type chan unit cls ctx a0 a1).obj k = s.obj k := by
  unfold State.emit
  simp only []
  split
  · rfl
  · generalize (decide (64 ≤ _) || _) = full
    cases full
    · exact obj_keep _ _ k h1
    · exact obj_bump_other _ _ _ h2

/-- An entry of the device log changes the log and what a trace record changes. -/
theorem logDevice_frame (e : AttnEntry) :
    ∃ o v b, s.logDevice e = { s with devLog := s.devLog.append 256 e, objs := o, observe := v, traceBuf := b } := by
  unfold State.logDevice
  simp only []
  obtain ⟨o, v, b, h⟩ := emit_frame { s with devLog := s.devLog.append 256 e } 12 e.channel 0xFF 0 0 e.code (s.devLog.append 256 e).newest
  exact ⟨o, v, b, h⟩

/-- An entry of a log changes the logs and what a trace record changes. -/
theorem logOne_frame (p : Nat × AttnEntry) :
    ∃ l m o v b, s.logOne p = { s with devLog := l, vfLogs := m, objs := o, observe := v, traceBuf := b } := by
  unfold State.logOne
  split
  · obtain ⟨o, v, b, h⟩ := logDevice_frame s p.2
    exact ⟨_, _, o, v, b, h⟩
  · rename_i h
    unfold State.setLog
    rw [if_neg h]
    exact ⟨_, _, _, _, _, rfl⟩

/-- Logging events changes the logs and what trace records change. -/
theorem logAll_frame (l : List (Nat × AttnEntry)) : ∀ s : State,
    ∃ d m o v b, forEach l State.logOne s = { s with devLog := d, vfLogs := m, objs := o, observe := v, traceBuf := b } := by
  induction l with
  | nil => exact fun s => ⟨_, _, _, _, _, rfl⟩
  | cons p t ih =>
    intro s
    obtain ⟨d, m, o, v, b, h⟩ := logOne_frame s p
    obtain ⟨d2, m2, o2, v2, b2, h2⟩ := ih (s.logOne p)
    refine ⟨d2, m2, o2, v2, b2, ?_⟩
    show forEach t State.logOne (s.logOne p) = _
    rw [h2, h]

/-- The end of a cycle changes the logs, the events of the cycle and what trace records change. -/
theorem endCycle_frame :
    ∃ d m o v b, s.endCycle = { s with raised := [], devLog := d, vfLogs := m, objs := o, observe := v, traceBuf := b } := by
  obtain ⟨d, m, o, v, b, h⟩ := logAll_frame s.raised { s with raised := [] }
  exact ⟨d, m, o, v, b, h⟩

/-- Objects but the trace's own are left by an entry of the device log. -/
theorem obj_logDevice (e : AttnEntry) (j : Nat) (h1 : j ≠ Obj.traceSeq) (h2 : j ≠ Obj.traceLost) :
    (s.logDevice e).obj j = s.obj j := obj_emit _ _ _ _ _ _ _ _ j h1 h2

/-- A service change is seen, and changes what attention and a trace record change beside. -/
theorem setSvc_frame (ch : Fin 4) (v : Service) :
    ∃ l e o w b, s.setSvc ch v = { s with service := s.service.set ch v, raised := l, heldAttn := e, objs := o, observe := w, traceBuf := b } := by
  unfold State.setSvc
  simp only []
  split
  · rename_i h
    have hs : s.service.set ch v = s.service := by
      unfold State.svc at h
      subst h
      match ch with
      | 0 => rfl
      | 1 => rfl
      | 2 => rfl
      | 3 => rfl
    rw [hs]
    exact ⟨_, _, _, _, _, rfl⟩
  · obtain ⟨o, w, b, h⟩ := emit_frame { s with service := s.service.set ch v } 13 ch 0xFF 0 0 (v.code + 4 * (s.svc ch).code) 0
    rw [h]
    obtain ⟨l, e, h2⟩ := State.attn_frame { s with service := s.service.set ch v, objs := o, observe := w, traceBuf := b } atState ch
      (Obj.chSummary ch) v.code
    rw [h2]
    exact ⟨l, e, o, w, b, rfl⟩

end Sys2Proof.Machine
end

