-- ==== Sys2Proof/Laws/Canonical.lean ====
section
/-! SUPPORT. The canonical form of the state under the operations every meaning is built from: an update that leaves memory and
objects alone keeps it, and so do the named writes; a fold over a list keeps what its step keeps. -/

namespace Sys2Proof.Machine

variable {s t : State}

/-- A state with the same memory and objects is as canonical. -/
theorem canonical_of_same (h : s.canonical) (hm : t.mem = s.mem) (ho : t.objs = s.objs) : t.canonical := by
  unfold State.canonical at *
  rw [hm, ho]
  exact h

/-- Setting an object keeps the canonical form. -/
theorem canonical_setObj (k v : Nat) (h : s.canonical) : (s.setObj k v).canonical := ⟨h.1, objects_wf_setObj s k v h.2⟩

/-- Counting keeps the canonical form. -/
theorem canonical_bump (k n w : Nat) (h : s.canonical) : (s.bump k n w).canonical := ⟨h.1, objects_wf_bump s k n w h.2⟩

/-- Writing bytes keeps the canonical form. -/
theorem canonical_write (a : Nat) (bs : List Byte) (h : s.canonical) : (s.write a bs).canonical := ⟨memory_wf_writeMem bs s.mem a h.1, h.2⟩

/-- Writing the cells of a publication keeps the canonical form. -/
theorem canonical_writeCells (cs : List Host.Cell) (h : s.canonical) : ({ s with mem := writeCells s.mem cs } : State).canonical :=
  ⟨memory_wf_writeCells cs s.mem h.1, h.2⟩

/-- Zeroing a range keeps the canonical form. -/
theorem canonical_zeroMem (a n : Nat) (h : s.canonical) : ({ s with mem := zeroMem s.mem a n } : State).canonical :=
  ⟨memory_wf_zeroMem s.mem a n h.1, h.2⟩

/-- What each step of a fold keeps, the fold keeps. -/
theorem forEach_keeps {α : Type} {P : State → Prop} (f : State → α → State) (h : ∀ s a, P s → P (f s a)) :
    ∀ (l : List α) (s : State), P s → P (forEach l f s)
  | [], _, hs => hs
  | a :: l, s, hs => forEach_keeps f h l (f s a) (h s a hs)

/-- What an effect keeps, its command keeps. -/
theorem clocked_keeps {P : State → Prop} {f : State → State} (h : P s → P (f s)) (hs : P s) (ht : clocked s f = .next t) : P t := by
  unfold clocked at ht
  split at ht
  all_goals first
    | (cases ht; exact hs)
    | (cases ht; exact h hs)


end Sys2Proof.Machine
end

