-- ==== Sys2Proof/Tests/Slice0.lean ====
section
/-! SUPPORT. Tests. An ill-formed term for each check of `Instr.wellFormed`, which the check refuses, and beside it a term the check
takes. Then, for each statement of Obligations.lean that has hypotheses, states and operands that meet all the hypotheses of each of
its clauses together: where a clause rests on a signature or on the root digest, which are free values of Config, the theorem takes
what that value must be as a premise. Some tests of results follow, their expected values worked out by hand from the rule named. -/

set_option maxRecDepth 1000000
set_option linter.unusedVariables false
set_option linter.unusedSimpArgs false
set_option Elab.async false

namespace Sys2Proof.Tests

open Sys2Proof.Machine

/-! ## Well-formedness -/

def ecc0 : Ecc := { corrected := [], bad := none, via := .mem }
def form0 : AtomForm := { scope := .device, space := .global, is64 := false, fetch := true, addr := 0, rank := 0, dst := 8, ecc := ecc0 }
def flit0 : Flit := { symErrors := 0, bytes := List.replicate 218 0 }
def chan0 : PairChan := { digest := List.replicate 32 0, period := 0, pipe := [], timing := List.replicate 11 0, dpCtrl := 0, pairId := 0, start := some 0 }
def peer0 : PairView := { up := true, valid := true, latch := 0, chans := List.replicate 4 chan0 }
theorem test_wellFormed_1 : ([
  .genericObjectWrite (.fn 0) 0 0 [],
  .dictDoorbell 0 0 [],
  .t1DictDatagram 0 0 [],
  .attachApply (.fn 0) .dpin0 0,
  .tpLoad (.fn 0) 0 0,
  .tpUnload (.fn 0) 0 0,
  .gangApply (.fn 0) 0 0,
  .dpApply (.fn 0) 0 0,
  .pairSwap (.fn 0) 0,
  .updateApply (.fn 0) 0,
  .serviceReturn (.fn 0) 0 0,
  .serviceOutGangCover (.fn 0) 0 0,
  .serviceOutTwinCover (.fn 0) 0 0,
  .serviceOutNoCover (.fn 0) 0 0,
  .substApply (.fn 0) 0 0,
  .testRun (.fn 0) 0 0,
  .apply (.fn 0) 0 0 [],
  .memRetrain (.fn 0) 0 0,
  .klApply (.fn 0) .kl0 0,
  .startLine (.fn 0) 0,
  .digestRun (.fn 0) 0,
  .oppReqWrite (.fn 0) 0 0,
  .p2Enter (.fn 0) 0,
  .attestRun (.fn 0) 0,
  .chReset (.fn 0) 0 0,
  .splitClear (.fn 0) 0 0,
  .windowOpen 0 0 0,
  .windowClose 0 0,
  .engineFetch 0 ecc0,
  .fence 0,
  .notify 0,
  .course 0,
  .heatStep 0 ecc0,
  .fetcherSample 0,
  .queueClosed 0,
  .queueStall 0,
  .intAdd ⟨0, 0, 0⟩ .i32 false 0 0 0,
  .intSubtract ⟨0, 0, 0⟩ .i32 false 0 0 0,
  .intMultiply ⟨0, 0, 0⟩ .i32 false 0 0 0,
  .intShift ⟨0, 0, 0⟩ .i32 .left 0 0 0,
  .intLogic ⟨0, 0, 0⟩ .i32 .and 0 0 0,
  .intCompare ⟨0, 0, 0⟩ .i32 .eq false 0 0 0,
  .intMultiplyAdd ⟨0, 0, 0⟩ .i32 false 0 0 0 0,
  .intSelect ⟨0, 0, 0⟩ .i32 0 0 0 0,
  .widen ⟨0, 0, 0⟩ .i32 .i32 false 0 0] : List Instr).all Instr.wellFormed = true := by decide +kernel
theorem test_wellFormed_2 : ([
  .narrow ⟨0, 0, 0⟩ .i32 .i32 0 0,
  .blockElementPack ⟨0, 0, 0⟩ .b4 0 0,
  .blockElementUnpack ⟨0, 0, 0⟩ .b4 0 0,
  .bra ⟨0, 0, 0⟩ false 0 0 0,
  .brx ⟨0, 0, 0⟩ false 0 0,
  .call ⟨0, 0, 0⟩ false (.direct 0) 0,
  .readSpecialRegister ⟨0, 0, 0⟩ .lane 0 0,
  .ld ⟨0, 0, 0⟩ .global 4 0 0 0 ecc0,
  .st ⟨0, 0, 0⟩ .global 4 0 0 0,
  .constantLoad ⟨0, 0, 0⟩ 4 0 0 ecc0,
  .atomAdd ⟨0, 0, 0⟩ form0 0,
  .atomSub ⟨0, 0, 0⟩ form0 0,
  .atomMin ⟨0, 0, 0⟩ form0 false 0,
  .atomMax ⟨0, 0, 0⟩ form0 false 0,
  .atomAnd ⟨0, 0, 0⟩ form0 0,
  .atomOr ⟨0, 0, 0⟩ form0 0,
  .atomXor ⟨0, 0, 0⟩ form0 0,
  .atomSadd ⟨0, 0, 0⟩ form0 0,
  .atomSsub ⟨0, 0, 0⟩ form0 0,
  .atomExch ⟨0, 0, 0⟩ form0 0,
  .atomExchLock ⟨0, 0, 0⟩ form0 0 0,
  .atomCas ⟨0, 0, 0⟩ form0 0 0,
  .atomCasLock ⟨0, 0, 0⟩ form0 0 0 0,
  .atomUnlock ⟨0, 0, 0⟩ form0,
  .appendG ⟨0, 0, 0⟩ 0 0 0 ecc0,
  .barB ⟨0, 0, 0⟩ 0,
  .alloc ⟨0, 0, 0⟩ 0 0 0 ecc0,
  .allocF ⟨0, 0, 0⟩ 0 0 0 ecc0,
  .free ⟨0, 0, 0⟩ 0 ecc0,
  .commit ⟨0, 0, 0⟩ 0,
  .mopen ⟨0, 0, 0⟩ 0 0 0 0 0 .global 0 0 0 0 ecc0,
  .mresume ⟨0, 0, 0⟩ 0 0 0 0 0 0 .global 0 0 0 0 ecc0,
  .mstep ⟨0, 0, 0⟩ 0 0 ecc0,
  .mmerger ⟨0, 0, 0⟩ 0 0 .global ecc0,
  .msave ⟨0, 0, 0⟩ 0 0 .global,
  .mepi ⟨0, 0, 0⟩ 0 0 0 .global 0 0 ecc0,
  .mclose ⟨0, 0, 0⟩ 0,
  .mmerge ⟨0, 0, 0⟩ 0 0,
  .tex ⟨0, 0, 0⟩ 0 0 0 0 0 ecc0,
  .rayq ⟨0, 0, 0⟩ 0 0 0 ecc0,
  .admissionComplete 0 0,
  .srcSubmit (.fn 0) 0 0,
  .closureClear (.fn 0) 0 0,
  .cacheCtrlWrite (.fn 0) 0 0 false,
  .attnAck (.fn 0) 0] : List Instr).all Instr.wellFormed = true := by decide +kernel
theorem test_wellFormed_3 : ([
  .syncRoleWrite (.fn 0) 0,
  .chBudgetWrite (.fn 0) 0 0,
  .packageLimitWrite (.fn 0) 0,
  .allocPoolWrite (.fn 0) 0 false 0,
  .allocTrim (.fn 0) 0 0,
  .asInstall (.fn 0) 0 0,
  .coursePatch (.fn 0) 0 0,
  .courseDestroy (.fn 0) 0 0,
  .trimSelect 0 0,
  .trimDrainDone 0,
  .asCheckDone 0 ecc0,
  .asGenEffect 0 0,
  .asDrainDone 0,
  .courseVersionEffect 0,
  .courseCheckDone 0 ecc0,
  .bar2Read 0 0 0 ecc0,
  .bar2Write 0 0 [],
  .functionLevelReset 0,
  .pcieConfigWrite 0 false false,
  .t1AddressWrite (.fn 0) 0 [],
  .arpRequest 0 0 0,
  .icmpEchoRequest 0 0 [],
  .asTimeMessage 0 0 0 false,
  .image 0 0 false 0,
  .policy 0 0 false 0,
  .traceRing 0 0 false 0,
  .restore 0 0 false 0,
  .marshalToHostNotice 0 0 0,
  .m2hTake 0 0,
  .queueDb 0 0 0,
  .ctxCreate (.fn 0) 0 0,
  .ctxBatonShare (.fn 0) 0 0,
  .ctxHold (.fn 0) 0 0,
  .ctxRelease (.fn 0) 0 0,
  .ctxAbort (.fn 0) 0 0,
  .replayCtrlWrite (.fn 0) 0 0,
  .teardownEdge 0 0,
  .teardownComplete 0,
  .ctxBatonCreate (.fn 0) 0 0,
  .ctxBatonRelease (.fn 0) 0 0,
  .batonSignal (.fn 0) 0 0,
  .batonFail (.fn 0) 0 0,
  .tenantQuotaWrite (.fn 0) 0 0 0,
  .qCreate (.fn 0) 0 0,
  .qDestroy (.fn 0) 0 0] : List Instr).all Instr.wellFormed = true := by decide +kernel
theorem test_wellFormed_4 : ([
  .courseCreate (.fn 0) 0 0,
  .heatCreate (.fn 0) 0 0 0,
  .heatDestroy (.fn 0) 0 0 0,
  .flitReceive .kl0 flit0,
  .ident .kl0 (List.replicate 12 0) 0 0,
  .lineWrite .kl0 0 0 0 (List.replicate 64 0) false,
  .closeAck .kl0 0,
  .forwardedBatonSignal .kl0 0 0 0,
  .pairJoin (.fn 0) 0 peer0,
  .pairJoinEffect peer0 (List.replicate 4 (0, 0)),
  .datum (List.replicate 64 0),
  .mirror 0 0 0 [],
  .chPowerOn (.fn 0) 0,
  .chPowerPark (.fn 0) 0,
  .chPowerGate (.fn 0) 0,
  .p2EntryCommit 0,
  .padRelease (.fn 0) 0,
  .resetRelease 0 false false 0,
  .imageChunk (.fn 0) (List.replicate 1024 0),
  .policyWrite (.fn 0) (List.replicate 6344 0),
  .hdcpKeys (.fn 0) (List.replicate 2048 0),
  .updateDiscard (.fn 0) 0,
  .restoreWrite (.fn 0) (List.replicate 304 0),
  .dpinLinkTrained .in0 0 0,
  .t1AddressAcquired 0,
  .commandSeal 0 0 []] : List Instr).all Instr.wellFormed = true := by decide +kernel
theorem test_illFormed_1 : ([
  .genericObjectWrite (.fn 16) 0 0 [],
  .genericObjectWrite (.t1 (2 ^ 32) 0) 0 0 [],
  .genericObjectWrite (.t1 0 65536) 0 0 [],
  .genericObjectWrite (.fn 0) 65536 0 [],
  .genericObjectWrite (.fn 0) 0 256 [],
  .dictDoorbell 16 0 [],
  .dictDoorbell 0 65536 [],
  .dictDoorbell 0 0 (List.replicate 2049 0),
  .t1DictDatagram (2 ^ 32) 0 [],
  .t1DictDatagram 0 65536 [],
  .t1DictDatagram 0 0 (List.replicate 1473 0),
  .attachApply (.fn 16) .dpin0 0,
  .attachApply (.fn 0) .dpin0 (2 ^ 64),
  .tpLoad (.fn 16) 0 0,
  .tpLoad (.fn 0) 0 (2 ^ 64),
  .tpUnload (.fn 16) 0 0,
  .tpUnload (.fn 0) 0 (2 ^ 64),
  .gangApply (.fn 16) 0 0,
  .gangApply (.fn 0) 0 (2 ^ 64),
  .dpApply (.fn 16) 0 0,
  .dpApply (.fn 0) 0 (2 ^ 64),
  .pairSwap (.fn 16) 0,
  .pairSwap (.fn 0) (2 ^ 64),
  .updateApply (.fn 16) 0,
  .updateApply (.fn 0) (2 ^ 64),
  .serviceReturn (.fn 16) 0 0,
  .serviceReturn (.fn 0) 0 (2 ^ 64),
  .serviceOutGangCover (.fn 16) 0 0,
  .serviceOutGangCover (.fn 0) 0 (2 ^ 64),
  .serviceOutTwinCover (.fn 16) 0 0,
  .serviceOutTwinCover (.fn 0) 0 (2 ^ 64),
  .serviceOutNoCover (.fn 16) 0 0,
  .serviceOutNoCover (.fn 0) 0 (2 ^ 64),
  .substApply (.fn 16) 0 0,
  .substApply (.fn 0) 0 (2 ^ 64),
  .testRun (.fn 16) 0 0,
  .testRun (.fn 0) 0 (2 ^ 64),
  .apply (.fn 16) 0 0 [],
  .apply (.fn 0) 0 256 [],
  .memRetrain (.fn 16) 0 0,
  .memRetrain (.fn 0) 0 256,
  .klApply (.fn 16) .kl0 0,
  .klApply (.fn 0) .kl0 256,
  .startLine (.fn 16) 0,
  .startLine (.fn 0) 256] : List Instr).any Instr.wellFormed = false := by decide +kernel
theorem test_illFormed_2 : ([
  .digestRun (.fn 16) 0,
  .digestRun (.fn 0) 256,
  .oppReqWrite (.fn 16) 0 0,
  .oppReqWrite (.fn 0) 0 256,
  .p2Enter (.fn 16) 0,
  .p2Enter (.fn 0) 256,
  .attestRun (.fn 16) 0,
  .attestRun (.fn 0) 256,
  .chReset (.fn 16) 0 0,
  .chReset (.fn 0) 0 256,
  .splitClear (.fn 16) 0 0,
  .splitClear (.fn 0) 0 256,
  .windowOpen 0 4 0,
  .windowOpen 0 0 8,
  .windowClose 0 4,
  .engineFetch 2048 ecc0,
  .fence 2048,
  .notify 2048,
  .course 2048,
  .heatStep 2048 ecc0,
  .fetcherSample 2048,
  .queueClosed 2048,
  .queueStall 2048,
  .intAdd ⟨0, 0, 0⟩ .i32 false 256 0 0,
  .intAdd ⟨0, 0, 0⟩ .i32 false 0 256 0,
  .intAdd ⟨0, 0, 0⟩ .i32 false 0 0 256,
  .intSubtract ⟨0, 0, 0⟩ .i32 false 256 0 0,
  .intSubtract ⟨0, 0, 0⟩ .i32 false 0 256 0,
  .intSubtract ⟨0, 0, 0⟩ .i32 false 0 0 256,
  .intMultiply ⟨0, 0, 0⟩ .i32 false 256 0 0,
  .intMultiply ⟨0, 0, 0⟩ .i32 false 0 256 0,
  .intMultiply ⟨0, 0, 0⟩ .i32 false 0 0 256,
  .intShift ⟨0, 0, 0⟩ .i32 .left 256 0 0,
  .intShift ⟨0, 0, 0⟩ .i32 .left 0 256 0,
  .intShift ⟨0, 0, 0⟩ .i32 .left 0 0 256,
  .intLogic ⟨0, 0, 0⟩ .i32 .and 256 0 0,
  .intLogic ⟨0, 0, 0⟩ .i32 .and 0 256 0,
  .intLogic ⟨0, 0, 0⟩ .i32 .and 0 0 256,
  .intCompare ⟨0, 0, 0⟩ .i32 .eq false 256 0 0,
  .intCompare ⟨0, 0, 0⟩ .i32 .eq false 0 256 0,
  .intCompare ⟨0, 0, 0⟩ .i32 .eq false 0 0 256,
  .intMultiplyAdd ⟨0, 0, 0⟩ .i32 false 256 0 0 0,
  .intMultiplyAdd ⟨0, 0, 0⟩ .i32 false 0 256 0 0,
  .intMultiplyAdd ⟨0, 0, 0⟩ .i32 false 0 0 256 0,
  .intMultiplyAdd ⟨0, 0, 0⟩ .i32 false 0 0 0 256] : List Instr).any Instr.wellFormed = false := by decide +kernel
theorem test_illFormed_3 : ([
  .intSelect ⟨0, 0, 0⟩ .i32 256 0 0 0,
  .intSelect ⟨0, 0, 0⟩ .i32 0 256 0 0,
  .intSelect ⟨0, 0, 0⟩ .i32 0 0 256 0,
  .intSelect ⟨0, 0, 0⟩ .i32 0 0 0 256,
  .widen ⟨0, 0, 0⟩ .i32 .i32 false 256 0,
  .widen ⟨0, 0, 0⟩ .i32 .i32 false 0 256,
  .narrow ⟨0, 0, 0⟩ .i32 .i32 256 0,
  .narrow ⟨0, 0, 0⟩ .i32 .i32 0 256,
  .blockElementPack ⟨0, 0, 0⟩ .b4 256 0,
  .blockElementPack ⟨0, 0, 0⟩ .b4 0 256,
  .blockElementUnpack ⟨0, 0, 0⟩ .b4 256 0,
  .blockElementUnpack ⟨0, 0, 0⟩ .b4 0 256,
  .bra ⟨0, 0, 0⟩ false 256 0 0,
  .brx ⟨0, 0, 0⟩ false 256 0,
  .call ⟨0, 0, 0⟩ false (.indirect 256) 0,
  .readSpecialRegister ⟨0, 0, 0⟩ .lane 256 0,
  .ld ⟨0, 0, 0⟩ .global 3 0 0 0 ecc0,
  .ld ⟨0, 0, 0⟩ .global 4 256 0 0 ecc0,
  .ld ⟨0, 0, 0⟩ .global 4 0 256 0 ecc0,
  .ld ⟨0, 0, 0⟩ .global 4 0 0 256 ecc0,
  .st ⟨0, 0, 0⟩ .global 3 0 0 0,
  .st ⟨0, 0, 0⟩ .global 4 256 0 0,
  .st ⟨0, 0, 0⟩ .global 4 0 256 0,
  .st ⟨0, 0, 0⟩ .global 4 0 0 256,
  .constantLoad ⟨0, 0, 0⟩ 3 0 0 ecc0,
  .constantLoad ⟨0, 0, 0⟩ 4 256 0 ecc0,
  .constantLoad ⟨0, 0, 0⟩ 4 0 256 ecc0,
  .atomAdd ⟨0, 0, 0⟩ { form0 with addr := 256 } 0,
  .atomAdd ⟨0, 0, 0⟩ { form0 with rank := 256 } 0,
  .atomAdd ⟨0, 0, 0⟩ { form0 with dst := 256 } 0,
  .atomAdd ⟨0, 0, 0⟩ form0 256,
  .atomSub ⟨0, 0, 0⟩ { form0 with dst := 256 } 0,
  .atomSub ⟨0, 0, 0⟩ form0 256,
  .atomMin ⟨0, 0, 0⟩ { form0 with dst := 256 } false 0,
  .atomMin ⟨0, 0, 0⟩ form0 false 256,
  .atomMax ⟨0, 0, 0⟩ { form0 with dst := 256 } false 0,
  .atomMax ⟨0, 0, 0⟩ form0 false 256,
  .atomAnd ⟨0, 0, 0⟩ { form0 with dst := 256 } 0,
  .atomAnd ⟨0, 0, 0⟩ form0 256,
  .atomOr ⟨0, 0, 0⟩ { form0 with dst := 256 } 0,
  .atomOr ⟨0, 0, 0⟩ form0 256,
  .atomXor ⟨0, 0, 0⟩ { form0 with dst := 256 } 0,
  .atomXor ⟨0, 0, 0⟩ form0 256,
  .atomSadd ⟨0, 0, 0⟩ { form0 with dst := 256 } 0,
  .atomSadd ⟨0, 0, 0⟩ form0 256] : List Instr).any Instr.wellFormed = false := by decide +kernel
theorem test_illFormed_4 : ([
  .atomSsub ⟨0, 0, 0⟩ { form0 with dst := 256 } 0,
  .atomSsub ⟨0, 0, 0⟩ form0 256,
  .atomExch ⟨0, 0, 0⟩ { form0 with dst := 256 } 0,
  .atomExch ⟨0, 0, 0⟩ form0 256,
  .atomExchLock ⟨0, 0, 0⟩ { form0 with dst := 256 } 0 0,
  .atomExchLock ⟨0, 0, 0⟩ form0 256 0,
  .atomCas ⟨0, 0, 0⟩ { form0 with dst := 256 } 0 0,
  .atomCas ⟨0, 0, 0⟩ form0 256 0,
  .atomCas ⟨0, 0, 0⟩ form0 0 256,
  .atomCasLock ⟨0, 0, 0⟩ { form0 with dst := 256 } 0 0 0,
  .atomCasLock ⟨0, 0, 0⟩ form0 256 0 0,
  .atomCasLock ⟨0, 0, 0⟩ form0 0 256 0,
  .atomUnlock ⟨0, 0, 0⟩ { form0 with dst := 256 },
  .appendG ⟨0, 0, 0⟩ 256 0 0 ecc0,
  .appendG ⟨0, 0, 0⟩ 0 256 0 ecc0,
  .appendG ⟨0, 0, 0⟩ 0 0 256 ecc0,
  .barB ⟨0, 0, 0⟩ 16,
  .alloc ⟨0, 0, 0⟩ 256 0 0 ecc0,
  .alloc ⟨0, 0, 0⟩ 0 256 0 ecc0,
  .alloc ⟨0, 0, 0⟩ 0 0 256 ecc0,
  .allocF ⟨0, 0, 0⟩ 256 0 0 ecc0,
  .allocF ⟨0, 0, 0⟩ 0 256 0 ecc0,
  .allocF ⟨0, 0, 0⟩ 0 0 256 ecc0,
  .free ⟨0, 0, 0⟩ 256 ecc0,
  .commit ⟨0, 0, 0⟩ 65536,
  .mopen ⟨0, 0, 0⟩ 4 0 0 0 0 .global 0 0 0 0 ecc0,
  .mresume ⟨0, 0, 0⟩ 4 0 0 0 0 0 .global 0 0 0 0 ecc0,
  .mstep ⟨0, 0, 0⟩ 4 0 ecc0,
  .mmerger ⟨0, 0, 0⟩ 4 0 .global ecc0,
  .msave ⟨0, 0, 0⟩ 4 0 .global,
  .mepi ⟨0, 0, 0⟩ 4 0 0 .global 0 0 ecc0,
  .mclose ⟨0, 0, 0⟩ 4,
  .mmerge ⟨0, 0, 0⟩ 4 0,
  .mmerge ⟨0, 0, 0⟩ 0 4,
  .tex ⟨0, 0, 0⟩ 256 0 0 0 0 ecc0,
  .tex ⟨0, 0, 0⟩ 0 256 0 0 0 ecc0,
  .tex ⟨0, 0, 0⟩ 0 0 256 0 0 ecc0,
  .tex ⟨0, 0, 0⟩ 0 0 0 256 0 ecc0,
  .tex ⟨0, 0, 0⟩ 0 0 0 0 256 ecc0,
  .rayq ⟨0, 0, 0⟩ 256 0 0 ecc0,
  .rayq ⟨0, 0, 0⟩ 0 256 0 ecc0,
  .rayq ⟨0, 0, 0⟩ 0 0 256 ecc0,
  .admissionComplete 0 16,
  .srcSubmit (.fn 16) 0 0,
  .srcSubmit (.fn 0) 0 256] : List Instr).any Instr.wellFormed = false := by decide +kernel
theorem test_illFormed_5 : ([
  .closureClear (.fn 16) 0 0,
  .closureClear (.fn 0) 0 65536,
  .cacheCtrlWrite (.fn 16) 0 0 false,
  .cacheCtrlWrite (.fn 0) 0 (2 ^ 32) false,
  .attnAck (.fn 16) 0,
  .attnAck (.fn 0) (2 ^ 32),
  .syncRoleWrite (.fn 16) 0,
  .syncRoleWrite (.fn 0) (2 ^ 32),
  .chBudgetWrite (.fn 16) 0 0,
  .chBudgetWrite (.fn 0) 0 (2 ^ 32),
  .packageLimitWrite (.fn 16) 0,
  .packageLimitWrite (.fn 0) (2 ^ 32),
  .allocPoolWrite (.fn 16) 0 false 0,
  .allocPoolWrite (.fn 0) 0 false (2 ^ 64),
  .allocTrim (.fn 16) 0 0,
  .allocTrim (.fn 0) 256 0,
  .allocTrim (.fn 0) 0 256,
  .asInstall (.fn 16) 0 0,
  .asInstall (.fn 0) 256 0,
  .asInstall (.fn 0) 0 256,
  .coursePatch (.fn 16) 0 0,
  .coursePatch (.fn 0) 256 0,
  .coursePatch (.fn 0) 0 256,
  .courseDestroy (.fn 16) 0 0,
  .courseDestroy (.fn 0) 256 0,
  .courseDestroy (.fn 0) 0 256,
  .trimSelect 0 256,
  .trimDrainDone 256,
  .asCheckDone 256 ecc0,
  .asGenEffect 0 256,
  .asDrainDone 256,
  .courseVersionEffect 256,
  .courseCheckDone 256 ecc0,
  .bar2Read 16 0 0 ecc0,
  .bar2Read 0 (2 ^ 64) 0 ecc0,
  .bar2Write 16 0 [],
  .bar2Write 0 (2 ^ 64) [],
  .bar2Write 0 0 (List.replicate 513 0),
  .functionLevelReset 16,
  .pcieConfigWrite 16 false false,
  .t1AddressWrite (.fn 16) 0 [],
  .t1AddressWrite (.fn 0) 256 [],
  .t1AddressWrite (.fn 0) 0 (List.replicate 7 0),
  .arpRequest (2 ^ 32) 0 0,
  .arpRequest 0 (2 ^ 48) 0] : List Instr).any Instr.wellFormed = false := by decide +kernel
theorem test_illFormed_6 : ([
  .arpRequest 0 0 (2 ^ 32),
  .icmpEchoRequest (2 ^ 32) 0 [],
  .icmpEchoRequest 0 (2 ^ 32) [],
  .icmpEchoRequest 0 0 (List.replicate 1025 0),
  .asTimeMessage 0 (2 ^ 64) 0 false,
  .image 16 0 false 0,
  .image 0 (2 ^ 64) false 0,
  .image 0 0 false 8388608,
  .policy 16 0 false 0,
  .policy 0 (2 ^ 64) false 0,
  .policy 0 0 false 8388608,
  .traceRing 16 0 false 0,
  .traceRing 0 (2 ^ 64) false 0,
  .traceRing 0 0 false 8388608,
  .restore 16 0 false 0,
  .restore 0 (2 ^ 64) false 0,
  .restore 0 0 false 8388608,
  .marshalToHostNotice 16 0 0,
  .marshalToHostNotice 0 (2 ^ 64) 0,
  .marshalToHostNotice 0 0 256,
  .m2hTake 16 0,
  .m2hTake 0 65536,
  .queueDb 16 0 0,
  .queueDb 0 2048 0,
  .queueDb 0 0 (2 ^ 32),
  .ctxCreate (.fn 16) 0 0,
  .ctxCreate (.fn 0) 256 0,
  .ctxCreate (.fn 0) 0 (2 ^ 32),
  .ctxBatonShare (.fn 16) 0 0,
  .ctxBatonShare (.fn 0) 256 0,
  .ctxBatonShare (.fn 0) 0 (2 ^ 32),
  .ctxHold (.fn 16) 0 0,
  .ctxHold (.fn 0) 256 0,
  .ctxHold (.fn 0) 0 256,
  .ctxRelease (.fn 16) 0 0,
  .ctxRelease (.fn 0) 256 0,
  .ctxRelease (.fn 0) 0 256,
  .ctxAbort (.fn 16) 0 0,
  .ctxAbort (.fn 0) 256 0,
  .ctxAbort (.fn 0) 0 256,
  .replayCtrlWrite (.fn 16) 0 0,
  .replayCtrlWrite (.fn 0) 256 0,
  .replayCtrlWrite (.fn 0) 0 256,
  .teardownEdge 0 256,
  .teardownComplete 256] : List Instr).any Instr.wellFormed = false := by decide +kernel
theorem test_illFormed_7 : ([
  .ctxBatonCreate (.fn 16) 0 0,
  .ctxBatonCreate (.fn 0) 256 0,
  .ctxBatonCreate (.fn 0) 0 65536,
  .ctxBatonRelease (.fn 16) 0 0,
  .ctxBatonRelease (.fn 0) 256 0,
  .ctxBatonRelease (.fn 0) 0 65536,
  .batonSignal (.fn 16) 0 0,
  .batonSignal (.fn 0) 65536 0,
  .batonSignal (.fn 0) 0 (2 ^ 64),
  .batonFail (.fn 16) 0 0,
  .batonFail (.fn 0) 65536 0,
  .batonFail (.fn 0) 0 65536,
  .tenantQuotaWrite (.fn 16) 0 0 0,
  .tenantQuotaWrite (.fn 0) 16 0 0,
  .tenantQuotaWrite (.fn 0) 0 256 0,
  .tenantQuotaWrite (.fn 0) 0 0 65536,
  .qCreate (.fn 16) 0 0,
  .qCreate (.fn 0) 2048 0,
  .qCreate (.fn 0) 0 (2 ^ 32),
  .qDestroy (.fn 16) 0 0,
  .qDestroy (.fn 0) 2048 0,
  .qDestroy (.fn 0) 0 256,
  .courseCreate (.fn 16) 0 0,
  .courseCreate (.fn 0) 256 0,
  .courseCreate (.fn 0) 0 65536,
  .heatCreate (.fn 16) 0 0 0,
  .heatCreate (.fn 0) 0 16 0,
  .heatCreate (.fn 0) 0 0 256,
  .heatDestroy (.fn 16) 0 0 0,
  .heatDestroy (.fn 0) 0 16 0,
  .heatDestroy (.fn 0) 0 0 256,
  .flitReceive .kl0 { flit0 with symErrors := 225 },
  .flitReceive .kl0 { flit0 with bytes := [] },
  .ident .kl0 (List.replicate 13 0) 0 0,
  .ident .kl0 (List.replicate 12 0) 256 0,
  .ident .kl0 (List.replicate 12 0) 0 256,
  .lineWrite .kl0 (2 ^ 32) 0 0 (List.replicate 64 0) false,
  .lineWrite .kl0 0 (2 ^ 64) 0 (List.replicate 64 0) false,
  .lineWrite .kl0 0 0 (2 ^ 64) (List.replicate 64 0) false,
  .lineWrite .kl0 0 0 0 (List.replicate 65 0) false,
  .closeAck .kl0 (2 ^ 32),
  .forwardedBatonSignal .kl0 16384 0 0,
  .forwardedBatonSignal .kl0 0 (2 ^ 64) 0,
  .forwardedBatonSignal .kl0 0 0 65536,
  .pairJoin (.fn 16) 0 peer0] : List Instr).any Instr.wellFormed = false := by decide +kernel
theorem test_illFormed_8 : ([
  .pairJoin (.fn 0) 256 peer0,
  .pairJoin (.fn 0) 0 { peer0 with latch := 2 ^ 64 },
  .pairJoin (.fn 0) 0 { peer0 with chans := [] },
  .pairJoin (.fn 0) 0 { peer0 with chans := List.replicate 4 { chan0 with digest := [] } },
  .pairJoin (.fn 0) 0 { peer0 with chans := List.replicate 4 { chan0 with period := 2 ^ 32 } },
  .pairJoin (.fn 0) 0 { peer0 with chans := List.replicate 4 { chan0 with timing := [] } },
  .pairJoin (.fn 0) 0 { peer0 with chans := List.replicate 4 { chan0 with timing := List.replicate 11 65536 } },
  .pairJoin (.fn 0) 0 { peer0 with chans := List.replicate 4 { chan0 with dpCtrl := 2 ^ 32 } },
  .pairJoin (.fn 0) 0 { peer0 with chans := List.replicate 4 { chan0 with pairId := 256 } },
  .pairJoin (.fn 0) 0 { peer0 with chans := List.replicate 4 { chan0 with start := some (2 ^ 64) } },
  .pairJoinEffect { peer0 with latch := 2 ^ 64 } (List.replicate 4 (0, 0)),
  .pairJoinEffect peer0 [],
  .pairJoinEffect peer0 (List.replicate 4 (2 ^ 32, 0)),
  .pairJoinEffect peer0 (List.replicate 4 (0, 2 ^ 32)),
  .datum (List.replicate 65 0),
  .mirror 65536 0 0 [],
  .mirror 0 256 0 [],
  .mirror 0 0 (2 ^ 64) [],
  .mirror 0 0 0 (List.replicate 513 0),
  .chPowerOn (.fn 16) 0,
  .chPowerPark (.fn 16) 0,
  .chPowerGate (.fn 16) 0,
  .p2EntryCommit 65536,
  .padRelease (.fn 16) 0,
  .padRelease (.fn 0) 65536,
  .resetRelease 4 false false 0,
  .resetRelease 0 false false 4,
  .imageChunk (.fn 16) (List.replicate 1024 0),
  .imageChunk (.fn 0) (List.replicate 1025 0),
  .policyWrite (.fn 16) (List.replicate 6344 0),
  .policyWrite (.fn 0) (List.replicate 6345 0),
  .hdcpKeys (.fn 16) (List.replicate 2048 0),
  .hdcpKeys (.fn 0) (List.replicate 2049 0),
  .updateDiscard (.fn 16) 0,
  .updateDiscard (.fn 0) 65536,
  .restoreWrite (.fn 16) (List.replicate 304 0),
  .restoreWrite (.fn 0) (List.replicate 305 0),
  .dpinLinkTrained .in0 6 0,
  .dpinLinkTrained .in0 0 3,
  .t1AddressAcquired (2 ^ 32),
  .commandSeal 0 0 [2]] : List Instr).any Instr.wellFormed = false := by decide +kernel

/-- No word of the table spells a command: the table gives no bits. -/
theorem test_noWord : decodeTableWord 32 0x12345678 = none := rfl

/-! ## States that meet the hypotheses of the statements -/

def img0 : Image := { signer := 1, version := 1, build := 1, model := 7, retrain := false, digest := [], flash := true }
def unit0 : UnitImage := { running := some img0, staged := none, apply := none, needed := false }
def run0 : State := { State.reset with marshal := .running, released := true, pcieFns := [(0, ⟨true, true⟩)] }
def up0 : State :=
  { forEach chans (fun s c => s.setObj (Obj.memState c) 2) run0 with
    images := ([0] ++ (upto 4).map (· + 0x10) ++ (upto 4).map (· + 0x20) ++ (upto 4).map (· + 0x30) ++ [0x40, 0x41, 0x50, 0x51] ++ (upto 4).map (· + 0x60)).map (fun u => (u, unit0)),
    tested := .all true, service := .all .inService }
def bytes (l : List Nat) : List Byte := l.map (BitVec.ofNat 8)
def frm (op tag index sub flags count : Nat) (data : List Byte) : List Byte :=
  toLE 2 0x5144 ++ bytes [1, op] ++ toLE 2 tag ++ toLE 2 index ++ bytes [sub, flags] ++ toLE 2 count ++ toLE 4 0 ++ toLE 8 0 ++ data
def ctx0 : Context := { state := .active, owner := 0, asid := 1, strict := false, hostRefs := 0, fault := ⟨0, 0, 0, 0⟩, edges := [], since := .all 0 }
def baton0 : Baton := { value := 0, lastTick := 0, lastSig := .none, owner := some 0, shares := [], inError := false, errCode := 0, errOrig := 0, errDet := 0 }
def gen1 : Gen := { num := 1, addr := 0x100000, count := 1, allocVa := 0, allocEn := false }
def space1 : AddrSpace := { force := .all gen1, newest := gen1, prior := none, ack := 1, next := none, phase := .idle, trim := false, code := 0, failIdx := 0, passed := [], since := .all 0, empty := false, making := false, trimSel := [], trimRuns := [] }
def prog0 : Program := { addr := 0x2000, model := 7, frameTicks := 2250, flags := 0, latency := 0, unitsUsed := 0, srcTicks := 0, digest := [], runs := [(0, 2250)], variants := [[]], ctx := 0, baton := 0, pipe := none, floorOpp := 0, start := 0, frames := 0, ofnBase := 0, seals := [] }
def cmd0 : Cmd := { op := 1, cls := 1, immediate := true, waitEn := false, signalEn := false, ring := false, wcet := 100, waitBaton := 0, sigBaton := 0, waitValue := 0, sigValue := 0, user := 0, addr := 0, body := List.replicate 64 0, gen := 1, seed := 0, stamp := none }
def queue0 : Queue := { ctx := 0, engine := 0, ch := 0, cls := 1, base := 0x10000, entries := 64, ring := 0, ringN := 0, wptr := 0, rung := false, idle := false, sampled := 0, rptr := 0, bufAddr := 0, bufBytes := 0, bufOff := 0, head := none, order := [], nextSeq := 0, consumed := 0, ringDrops := 0, lap := 0, readyTicks := 0, stalled := false, stopped := false, closing := false, ahead := false }
def pac (s : State) (f : Pacer → Pacer) : State := { s with pacers := s.pacers.set 0 (f (s.pacers.get 0)) }
def setO (l : List (Nat × Nat)) (s : State) : State := l.foldl (fun s p => s.setObj p.1 p.2) s

def lbody : List Byte := toLE 8 0x40000000 ++ toLE 8 0x40001000 ++ toLE 2 64 ++ toLE 2 32 ++ toLE 2 1 ++ toLE 2 1 ++ toLE 2 1 ++ bytes [1, 1] ++ toLE 2 64 ++ toLE 2 16 ++ toLE 2 16 ++ toLE 2 4 ++ List.replicate 12 0
def tableMem : List Host.Cell := writeMem [] 0x100000 (toLE 8 0x40000000 ++ toLE 8 0x10000000 ++ toLE 8 0x40000000 ++ toLE 4 7 ++ toLE 4 0)
def grp0 : Group := { regs := [(0, 5), (1, 7), (256, 0xFFFFFFFF)], mask := 3, exited := 0xFFFFFFFC, pc := 0x40000000, stack := [], calls := [], wait := .none, tiles := .all none, issued := 0, frag := none }
def blk0 : Block := { index := 0, core := 0, groups := [grp0], bls := [], staged := [], committed := none }
def rn0 : Run := { origin := .queue 0 0, cmd := { cmd0 with body := lbody }, body := lbody, eng := .launch, ctx := 0, asid := 1, gen := gen1, strict := false, ch := 0, cls := 1, units := 1, map := 1, window := 0, wcet := 900, start := 0, tick := 0, blocks := [blk0], nextBlk := 1, status := 0, staged := [], stagedN := 0, defers := [], calls := 0, pass := none, cut := 0, tally := [], notice := none, opens := [], peerOpen := [], waited := false, finished := false }
def wk0 : State := { up0 with mem := tableMem, ctxs := [(0, ctx0)], batons := [(0, baton0)], spaces := [(1, space1)], runs := [(0, rn0)], nextId := 1, queues := [(0, { queue0 with head := some { track := 0, cmd := { cmd0 with body := lbody }, phase := .running 0, gen := 1 }, order := [⟨0, { cmd0 with body := lbody }, none⟩] })] }
def gr : GroupRef := { run := 0, block := 0, group := 0 }
def onRun (f : Run → Run) (s : State) : State := { s with runs := s.runs.map (fun e => (e.1, f e.2)) }
def onGrp (f : Group → Group) (s : State) : State := onRun (fun r => { r with blocks := r.blocks.map (fun b => { b with groups := b.groups.map f }) }) s
def regs (l : List (Nat × Word32)) (s : State) : State := onGrp (fun g => { g with regs := l }) s

def okAt (e : Except Nat (Nat × Bool × Nat)) (k : Nat) : Bool := match e with | .ok p => p.1 == k | .error _ => false
theorem okAt_ex {e : Except Nat (Nat × Bool × Nat)} {k : Nat} (h : okAt e k = true) : ∃ p q, e = .ok (k, p, q) := by
  match e, h with
  | .ok (a, p, q), h => simp [okAt] at h; subst h; exact ⟨p, q, rfl⟩
theorem lanesOk {L : List Nat} {A : Nat → Prop} {e : Nat → Except Nat (Nat × Bool × Nat)} {k : Nat → Nat}
    (h : ∀ l ∈ L, A l ∧ okAt (e l) (k l) = true) : ∀ l ∈ L, A l ∧ ∃ p q, e l = .ok (k l, p, q) :=
  fun l hl => ⟨(h l hl).1, okAt_ex (h l hl).2⟩
theorem lanesOk2 {L : List Nat} {A B : Nat → Prop} {e : Nat → Except Nat (Nat × Bool × Nat)} {k : Nat → Nat}
    (h : ∀ l ∈ L, A l ∧ B l ∧ okAt (e l) (k l) = true) : ∀ l ∈ L, A l ∧ B l ∧ ∃ p q, e l = .ok (k l, p, q) :=
  fun l hl => ⟨(h l hl).1, (h l hl).2.1, okAt_ex (h l hl).2.2⟩
theorem allOk0 {L : List Nat} {e : Nat → Except Nat (Nat × Bool × Nat)} {k : Nat → Nat}
    (h : ∀ l ∈ L, okAt (e l) (k l) = true) : ∀ l ∈ L, ∃ p q, e l = .ok (k l, p, q) := fun l hl => okAt_ex (h l hl)
theorem allOk3 {L : List Nat} {A B C : Nat → Prop} {e : Nat → Except Nat (Nat × Bool × Nat)} {k : Nat → Nat}
    (h : ∀ l ∈ L, A l ∧ B l ∧ C l ∧ okAt (e l) (k l) = true) : ∀ l ∈ L, A l ∧ B l ∧ C l ∧ ∃ p q, e l = .ok (k l, p, q) :=
  fun l hl => ⟨(h l hl).1, (h l hl).2.1, (h l hl).2.2.1, okAt_ex (h l hl).2.2.2⟩
theorem allOk4 {L : List Nat} {A B C D : Nat → Prop} {e : Nat → Except Nat (Nat × Bool × Nat)} {k : Nat → Nat}
    (h : ∀ l ∈ L, A l ∧ B l ∧ C l ∧ D l ∧ okAt (e l) (k l) = true) : ∀ l ∈ L, A l ∧ B l ∧ C l ∧ D l ∧ ∃ p q, e l = .ok (k l, p, q) :=
  fun l hl => ⟨(h l hl).1, (h l hl).2.1, (h l hl).2.2.1, (h l hl).2.2.2.1, okAt_ex (h l hl).2.2.2.2⟩
def okIs {α ε : Type} [DecidableEq α] (e : Except ε α) (v : α) : Bool := match e with | .ok a => decide (a = v) | .error _ => false
theorem okIs_eq {α ε : Type} [DecidableEq α] {e : Except ε α} {v : α} (h : okIs e v = true) : e = .ok v := by
  match e, h with
  | .ok a, h => simp [okIs] at h; rw [h]
theorem allIs {α : Type} [DecidableEq α] {L : List Nat} {e : Nat → Except Nat α} {v : Nat → α} (h : ∀ l ∈ L, okIs (e l) (v l) = true) :
    ∀ l ∈ L, e l = .ok (v l) := fun l hl => okIs_eq (h l hl)
theorem allIs2 {α : Type} [DecidableEq α] {L : List Nat} {A B : Nat → Prop} {e : Nat → Except Nat α} {v : Nat → α} (h : ∀ l ∈ L, A l ∧ B l ∧ okIs (e l) (v l) = true) :
    ∀ l ∈ L, A l ∧ B l ∧ e l = .ok (v l) := fun l hl => ⟨(h l hl).1, (h l hl).2.1, okIs_eq (h l hl).2.2⟩
def errIs {α ε : Type} [DecidableEq ε] (e : Except ε α) (v : ε) : Bool := match e with | .ok _ => false | .error a => decide (a = v)
theorem errIs_eq {α ε : Type} [DecidableEq ε] {e : Except ε α} {v : ε} (h : errIs e v = true) : e = .error v := by
  match e, h with
  | .error a, h => simp [errIs] at h; rw [h]

def okD {α ε : Type} (e : Except ε α) (d : α) : α := match e with | .ok a => a | .error _ => d
theorem okExD {e : Except Nat (Nat × Bool × Nat)} {k : Nat} (h : okAt e k = true) : ∃ p q, e = .ok (k, p, q) := okAt_ex h
def full (s : State) : State := onGrp (fun g => { g with mask := 0xFFFFFFFF, exited := 0, regs := [] }) s
def one (l : List (Nat × Word32)) (s : State) : State := onGrp (fun g => { g with mask := 1, exited := 0xFFFFFFFE, regs := l }) s
def withMem (a : Nat) (b : List Byte) (s : State) : State := { s with mem := writeMem s.mem a b }

namespace W01

def run0 : State := { State.reset with marshal := .running, released := true }
def up0 : State := forEach chans (fun s c => s.setObj (Obj.memState c) 2) run0
def page (l : List Nat) : List Byte := l.map (BitVec.ofNat 8)
def frameW (op index sub count : Nat) (data : List Byte) (tag : Nat) : List Byte := slice (toLE 4 0x49513744 ++ toLE 2 1 ++ toLE 2 op) 0 8 ++ data
theorem witness_StepRunsTheFrontCommand :
    (∃ (c : Instr) (rest : List Instr) (s : State), s.pending = c :: rest) ∧
    (∃ (s : State), s.pending = []) :=
  ⟨⟨.promotion, [], { run0 with pending := [.promotion] }, by decide +kernel⟩,
   ⟨run0, by decide +kernel⟩⟩
theorem witness_ClocksStopsAndElectricalEvents :
    (∃ (i : Instr) (s : State) (h : Halt), s.halt = some h ∧ i ∉ [Instr.supplyUndervoltage, Instr.supplyRestored, Instr.sysRefclkReturn]) ∧
    (∃ (s : State), s.halt = some .supply) ∧
    (∃ (s : State), s.clocksRun) ∧
    (∃ (s : State), s.clocksRun) ∧
    (∃ (s : State), s.halt = some .refclk) ∧
    (∃ (s : State) (above : Bool), s.clocksRun) :=
  ⟨⟨.promotion, { run0 with halt := some .trip }, .trip, by decide +kernel⟩,
   ⟨{ run0 with halt := some .supply }, by decide +kernel⟩,
   ⟨run0, by decide +kernel⟩,
   ⟨run0, by decide +kernel⟩,
   ⟨{ run0 with halt := some .refclk }, by decide +kernel⟩,
   ⟨run0, true, by decide +kernel⟩⟩

end W01

namespace W02

def rd : DictRequest := { src := .fn 0, tag := 5, admitted := true, frame := frm 1 5 0x2000 2 0 0 [] }
def wr : DictRequest := { src := .fn 0, tag := 5, admitted := true, frame := frm 2 5 0x2000 2 0 4 (toLE 4 0x073B0000) }
def dg (tag : Nat) : List Byte := frm 1 tag 0x1001 1 0 0 []
def t1up : State := run0.setObj Obj.t1State 2
def win : OpenWindow := { index := 0, cls := 1, backfill := false, start := 0, stop := 925 }
def followed : State := { run0 with pacers := run0.pacers.set 1 { run0.pacers.get 1 with pending := some { PacerCfg.reset 1 with ctrl := 0x01F40000 }, applyAt := 0 } }
def trans1 : State := { run0 with pacers := run0.pacers.set 1 { run0.pacers.get 1 with transition := true, cfg := { PacerCfg.reset 1 with ctrl := 0x01F40000 }, edge := 0, len := 1850 }, now := 3700 }

def tpBodyG : List Byte := toLE 4 2250 ++ toLE 4 0x4C ++ toLE 4 1 ++ toLE 1 0 ++ List.replicate 15 0
def tpHeadG : List Byte := toLE 4 0x47525054 ++ toLE 4 7 ++ toLE 4 2250 ++ toLE 2 1 ++ toLE 2 1 ++ toLE 4 2 ++ toLE 4 0 ++ toLE 4 0 ++ toLE 4 0 ++ sha3 tpBodyG
def gangLoad : State := setO [(Obj.gangCtrl 0, 0x40000000)] (pac { up0 with ctxs := [(0, ctx0)], batons := [(0, baton0)], mem := writeMem (writeMem [] 0x5000 (tpHeadG ++ tpBodyG)) 0x6000 (List.replicate 16 1) } (fun p => { p with change := .checking 5 0x5000 0 0 0x6000 }))
theorem witness_RequestsAreExecutedAndAnswered :
    (∃ (s : State) (q : DictRequest) (rest : List DictRequest) (f : Nat) (n : Nat) (r : ObjRow), (s.clocksRun ∧ s.requestsWait = false) ∧ s.marshalQ = q :: rest ∧ q.src = .fn f ∧ (frameGood q = true ∧ frameOp q.frame = 1 ∧ frameCount q.frame = 0 ∧ frameOff q.frame = 0) ∧ objRow (frameIndex q.frame) (frameSub q.frame) = some (r, n) ∧ (r.acc ≠ .wo ∧ r.acc ≠ .cmd ∧ r.ty.size ≤ 1024 ∧ 0 < r.ty.size ∧ s.gate (.fn f) (frameIndex q.frame) (frameSub q.frame) = rcOk ∧ r.ty.size = objSize (.fn f) (((blockOf (frameIndex q.frame)).map (·.1)).getD 0) r)) ∧
    (∃ (s : State) (q : DictRequest) (rest : List DictRequest) (f : Nat) (n : Nat) (r : ObjRow), (s.clocksRun ∧ s.requestsWait = false) ∧ s.marshalQ = q :: rest ∧ q.src = .fn f ∧ (frameGood q = true ∧ frameOp q.frame = 2 ∧ frameFlags q.frame = 0 ∧ frameOff q.frame = 0 ∧ frameCount q.frame ≤ 1024) ∧ objRow (frameIndex q.frame) (frameSub q.frame) = some (r, n) ∧ r.ty.size ≤ 1024) :=
  ⟨⟨{ run0 with marshalQ := [rd] }, _, _, _, _, _, by decide +kernel, rfl, rfl, by decide +kernel, rfl, by decide +kernel⟩,
   ⟨{ run0 with marshalQ := [wr] }, _, _, _, _, _, by decide +kernel, rfl, rfl, by decide +kernel, rfl, by decide +kernel⟩⟩
theorem witness_ObjectWriteStoresOrRefuses :
    (∃ (s : State) (who : Req) (index : Nat) (sub : Nat) (n : Nat) (b : Nat) (r : ObjRow) (bytes : List Byte) (f : State → State), (s.clocksRun ∧ s.requestsWait = false ∧ objRow index sub = some (r, n) ∧ b = ((blockOf index).map (·.1)).getD 0 ∧ s.gate who index sub = rcOk ∧ r.acc ≠ .ro ∧ bytes.length = r.ty.size ∧ (r.ty = .bool → leNat bytes ≤ 1)) ∧ rowOp who b n sub (leNat bytes) bytes = some f) ∧
    (∃ (s : State) (who : Req) (index : Nat) (sub : Nat) (n : Nat) (b : Nat) (r : ObjRow) (bytes : List Byte), s.clocksRun ∧ s.requestsWait = false ∧ objRow index sub = some (r, n) ∧ b = ((blockOf index).map (·.1)).getD 0 ∧ s.gate who index sub = rcOk ∧ r.acc ≠ .ro ∧ bytes.length = r.ty.size ∧ (r.ty = .bool → leNat bytes ≤ 1) ∧ rowOp who b n sub (leNat bytes) bytes = none ∧ bits (s.obj Obj.pairCtrl) 31 30 = 0 ∧ b ∉ [0x1400, 0x1800, 0xB000] ∧ (b, sub) ∉ [(0x1020, 7), (0x8000, 1), (0xC000, 1)] ∧ r.ty.isOctets = true) ∧
    (∃ (s : State) (who : Req) (index : Nat) (sub : Nat) (n : Nat) (b : Nat) (r : ObjRow) (bytes : List Byte), s.clocksRun ∧ s.requestsWait = false ∧ objRow index sub = some (r, n) ∧ b = ((blockOf index).map (·.1)).getD 0 ∧ s.gate who index sub = rcOk ∧ r.acc ≠ .ro ∧ bytes.length = r.ty.size ∧ (r.ty = .bool → leNat bytes ≤ 1) ∧ rowOp who b n sub (leNat bytes) bytes = none ∧ bits (s.obj Obj.pairCtrl) 31 30 = 0 ∧ b ∉ [0x1400, 0x1800, 0xB000] ∧ (b, sub) ∉ [(0x1020, 7), (0x8000, 1), (0xC000, 1)] ∧ r.ty.isOctets = false ∧ valueOk b n sub (writtenValue b n sub (leNat bytes)) = true) ∧
    (∃ (s : State) (who : Req) (index : Nat) (sub : Nat) (n : Nat) (b : Nat) (r : ObjRow) (bytes : List Byte), s.clocksRun ∧ s.requestsWait = false ∧ objRow index sub = some (r, n) ∧ b = ((blockOf index).map (·.1)).getD 0 ∧ s.gate who index sub = rcOk ∧ r.acc ≠ .ro ∧ bytes.length = r.ty.size ∧ (r.ty = .bool → leNat bytes ≤ 1) ∧ rowOp who b n sub (leNat bytes) bytes = none ∧ bits (s.obj Obj.pairCtrl) 31 30 = 0 ∧ b ∉ [0x1400, 0x1800, 0xB000] ∧ (b, sub) ∉ [(0x1020, 7), (0x8000, 1), (0xC000, 1)] ∧ r.ty.isOctets = false ∧ valueOk b n sub (writtenValue b n sub (leNat bytes)) = false) ∧
    (∃ (s : State) (who : Req) (index : Nat) (sub : Nat) (bytes : List Byte), s.clocksRun ∧ s.requestsWait = true) ∧
    (∃ (s : State) (who : Req) (index : Nat) (sub : Nat) (n : Nat) (r : ObjRow) (bytes : List Byte), s.clocksRun ∧ s.requestsWait = false ∧ objRow index sub = some (r, n) ∧ s.gate who index sub = rcOk ∧ r.acc = .ro) ∧
    (∃ (s : State) (who : Req) (index : Nat) (sub : Nat) (n : Nat) (r : ObjRow) (bytes : List Byte), s.clocksRun ∧ s.requestsWait = false ∧ objRow index sub = some (r, n) ∧ s.gate who index sub = rcOk ∧ r.acc ≠ .ro ∧ r.acc ≠ .cmd ∧ bytes.length ≠ r.ty.size) ∧
    (∃ (s : State) (who : Req) (index : Nat) (sub : Nat) (n : Nat) (r : ObjRow) (bytes : List Byte), s.clocksRun ∧ s.requestsWait = false ∧ objRow index sub = some (r, n) ∧ s.gate who index sub = rcOk ∧ r.acc ≠ .ro ∧ r.acc ≠ .cmd ∧ r.ty = .bool ∧ bytes.length = 1 ∧ 1 < leNat bytes) :=
  ⟨⟨run0, (.fn 0), 0x1001, 3, ((objRow 0x1001 3).getD (⟨0, .u8, .ro, 0⟩, 0)).2, ((blockOf 0x1001).map (·.1)).getD 0, ((objRow 0x1001 3).getD (⟨0, .u8, .ro, 0⟩, 0)).1, toLE 4 0, opAttnAck (.fn 0) 0, by decide +kernel, rfl⟩,
   ⟨run0, (.fn 0), 0x6000, 4, ((objRow 0x6000 4).getD (⟨0, .u8, .ro, 0⟩, 0)).2, ((blockOf 0x6000).map (·.1)).getD 0, ((objRow 0x6000 4).getD (⟨0, .u8, .ro, 0⟩, 0)).1, List.replicate 12 1, by decide +kernel⟩,
   ⟨run0, (.fn 0), 0xA100, 1, ((objRow 0xA100 1).getD (⟨0, .u8, .ro, 0⟩, 0)).2, ((blockOf 0xA100).map (·.1)).getD 0, ((objRow 0xA100 1).getD (⟨0, .u8, .ro, 0⟩, 0)).1, toLE 4 7, by decide +kernel⟩,
   ⟨run0, (.fn 0), 0xA100, 1, ((objRow 0xA100 1).getD (⟨0, .u8, .ro, 0⟩, 0)).2, ((blockOf 0xA100).map (·.1)).getD 0, ((objRow 0xA100 1).getD (⟨0, .u8, .ro, 0⟩, 0)).1, toLE 4 0, by decide +kernel⟩,
   ⟨{ run0 with power := { run0.power with p2 := .standby } }, (.fn 0), 0x1001, 1, [], by decide +kernel⟩,
   ⟨run0, (.fn 0), 0x1001, 1, ((objRow 0x1001 1).getD (⟨0, .u8, .ro, 0⟩, 0)).2, ((objRow 0x1001 1).getD (⟨0, .u8, .ro, 0⟩, 0)).1, toLE 4 0, by decide +kernel⟩,
   ⟨run0, (.fn 0), 0x1200, 1, ((objRow 0x1200 1).getD (⟨0, .u8, .ro, 0⟩, 0)).2, ((objRow 0x1200 1).getD (⟨0, .u8, .ro, 0⟩, 0)).1, [1], by decide +kernel⟩,
   ⟨run0, (.fn 0), 0x3100, 1, ((objRow 0x3100 1).getD (⟨0, .u8, .ro, 0⟩, 0)).2, ((objRow 0x3100 1).getD (⟨0, .u8, .ro, 0⟩, 0)).1, [2], by decide +kernel⟩⟩
theorem witness_ObjectWriteStoresOrRefuses_8 :
    (∃ (s : State) (who : Req) (k : Nat) (bytes : List Byte), s.clocksRun ∧ s.requestsWait = false ∧ k ∈ [Obj.updateTarget, Obj.wakeMask, Obj.traceDestIp, Obj.traceDestPort, Obj.digestDesc, Obj.serial] ∧ s.gate who (k / 256) (k % 256) = rcOk ∧ k = Obj.updateTarget ∧ bytes.length = 2) ∧
    (∃ (s : State) (who : Req) (k : Nat) (bytes : List Byte), s.clocksRun ∧ s.requestsWait = false ∧ k ∈ [Obj.updateTarget, Obj.wakeMask, Obj.traceDestIp, Obj.traceDestPort, Obj.digestDesc, Obj.serial] ∧ s.gate who (k / 256) (k % 256) = rcOk ∧ k = Obj.traceDestIp ∧ bytes.length = 4) ∧
    (∃ (s : State) (who : Req) (k : Nat) (bytes : List Byte), s.clocksRun ∧ s.requestsWait = false ∧ k ∈ [Obj.updateTarget, Obj.wakeMask, Obj.traceDestIp, Obj.traceDestPort, Obj.digestDesc, Obj.serial] ∧ s.gate who (k / 256) (k % 256) = rcOk ∧ k = Obj.traceDestPort ∧ bytes.length = 2) ∧
    (∃ (s : State) (who : Req) (k : Nat) (bytes : List Byte), s.clocksRun ∧ s.requestsWait = false ∧ k ∈ [Obj.updateTarget, Obj.wakeMask, Obj.traceDestIp, Obj.traceDestPort, Obj.digestDesc, Obj.serial] ∧ s.gate who (k / 256) (k % 256) = rcOk ∧ k = Obj.serial) ∧
    (∃ (s : State) (who : Req) (k : Nat) (bytes : List Byte), s.clocksRun ∧ s.requestsWait = false ∧ k ∈ [Obj.updateTarget, Obj.wakeMask, Obj.traceDestIp, Obj.traceDestPort, Obj.digestDesc, Obj.serial] ∧ s.gate who (k / 256) (k % 256) = rcOk ∧ k = Obj.traceDestPort ∧ bytes.length ≠ 2) ∧
    (∃ (s : State) (who : Req) (index : Nat) (sub : Nat) (bytes : List Byte), s.clocksRun ∧ s.requestsWait = false ∧ objRow index sub = none ∧ strayGang index sub = false) ∧
    (∃ (s : State) (v : Nat), s.clocksRun ∧ s.marshal = .running ∧ s.awake = true ∧ v < 65536) :=
  ⟨⟨run0, (.fn 0), Obj.updateTarget, [0,0], by decide +kernel⟩,
   ⟨run0, (.fn 0), Obj.traceDestIp, [1,2,3,4], by decide +kernel⟩,
   ⟨run0, (.fn 0), Obj.traceDestPort, [1,2], by decide +kernel⟩,
   ⟨run0, (.fn 0), Obj.serial, [], by decide +kernel⟩,
   ⟨run0, (.fn 0), Obj.traceDestPort, [1], by decide +kernel⟩,
   ⟨run0, (.fn 0), 0x1002, 1, [], by decide +kernel⟩,
   ⟨run0, 7, by decide +kernel⟩⟩
theorem witness_DoorbellsAndDatagrams :
    (∃ (s : State) (f : Nat) (tag : Nat) (frame : List Byte), s.clocksRun ∧ s.power.p2 = .awake ∧ f < 16 ∧ s.resetting f = false ∧ (s.window f).busy = false) ∧
    (∃ (s : State) (f : Nat) (tag : Nat) (frame : List Byte), s.clocksRun ∧ s.power.p2 = .awake ∧ f < 16 ∧ s.resetting f = false ∧ (s.window f).busy = true) ∧
    (∃ (s : State) (f : Nat) (tag : Nat) (frame : List Byte), s.clocksRun ∧ s.power.p2 = .awake ∧ s.resetting f = true) ∧
    (∃ (s : State) (f : Nat) (v : Nat), s.clocksRun ∧ f < 16) ∧
    (∃ (s : State) (f : Nat) (v : Nat) (q : Nat) (size : Nat), s.clocksRun ∧ f < 16 ∧ q < 2048 ∧ size ∈ [4, 8]) ∧
    (∃ (s : State) (ip : Nat) (port : Nat) (b : List Byte), s.clocksRun ∧ s.power.p2 = .awake ∧ s.obj Obj.t1State = 2 ∧ datagramBad b = true) ∧
    (∃ (s : State) (ip : Nat) (port : Nat) (b : List Byte), s.clocksRun ∧ s.power.p2 = .awake ∧ s.obj Obj.t1State = 2 ∧ datagramBad b = false ∧ (s.marshalQ.any (fun q => q.src = .t1 ip port && q.tag = frameTag b)) = false ∧ ({ s with t1Clients := heardFrom s.t1Clients ip port } : State).keptReply ip port (frameTag b) = none ∧ (s.marshalQ.filter (fun q => match q.src with | .t1 _ _ => true | .fn _ => false)).length < 32) ∧
    (∃ (s : State) (ip : Nat) (port : Nat) (b : List Byte), s.clocksRun ∧ s.power.p2 = .awake ∧ s.obj Obj.t1State = 2 ∧ datagramBad b = false ∧ (s.marshalQ.any (fun q => q.src = .t1 ip port && q.tag = frameTag b)) = true) :=
  ⟨⟨run0, 3, 9, frm 1 9 0x1001 1 0 0 [], by decide +kernel⟩,
   ⟨(run0.setWindow 3 { req := [], reply := [], busy := true, overrun := false, tag := 0 }), 3, 9, [], by decide +kernel⟩,
   ⟨{ run0 with power := { run0.power with resets := [5] } }, 5, 1, [], by decide +kernel⟩,
   ⟨run0, 5, 9, by decide +kernel⟩,
   ⟨run0, 0, 9, 3, 4, by decide +kernel⟩,
   ⟨t1up, 1, 2, [1], by decide +kernel⟩,
   ⟨t1up, 1, 2, dg 7, by decide +kernel⟩,
   ⟨{ t1up with marshalQ := [{ src := .t1 1 2, tag := 7, admitted := true, frame := dg 7 }] }, 1, 2, dg 7, by decide +kernel⟩⟩
theorem witness_DoorbellsAndDatagrams_8 :
    (∃ (s : State) (ip : Nat) (port : Nat) (b : List Byte), s.clocksRun ∧ s.power.p2 = .awake ∧ s.obj Obj.t1State = 2 ∧ datagramBad b = false ∧ (s.marshalQ.any (fun q => q.src = .t1 ip port && q.tag = frameTag b)) = false ∧ ({ s with t1Clients := heardFrom s.t1Clients ip port } : State).keptReply ip port (frameTag b) = none ∧ 32 ≤ (s.marshalQ.filter (fun q => match q.src with | .t1 _ _ => true | .fn _ => false)).length) ∧
    (∃ (s : State) (ip : Nat) (port : Nat) (b : List Byte) (r : List Byte), (s.clocksRun ∧ s.power.p2 = .awake ∧ s.requestsWait = false ∧ s.obj Obj.t1State = 2 ∧ datagramBad b = false ∧ (s.marshalQ.any (fun q => q.src = .t1 ip port && q.tag = frameTag b)) = false) ∧ ({ s with t1Clients := heardFrom s.t1Clients ip port } : State).keptReply ip port (frameTag b) = some r) :=
  ⟨⟨{ t1up with marshalQ := List.replicate 32 { src := .t1 1 2, tag := 7, admitted := true, frame := dg 7 } }, 1, 2, dg 8, by decide +kernel⟩,
   ⟨{ t1up with t1Clients := [{ ip := 1, port := 2, kept := [(7, List.replicate 24 1)] }] }, 1, 2, dg 7, _, by decide +kernel, rfl⟩⟩
theorem witness_AttachmentChangesAtItsTick :
    (∃ (s : State) (who : Req) (u : AttachUnit) (T : Nat), s.serves' who (attachOf u).apply ∧ s.obj (attachOf u).next < 16 ∧ ((s.obj (attachOf u).next = 0 ∨ (maskChans (s.obj (attachOf u).next)).length = 1 ∨ s.gangAt T (maskChans (s.obj (attachOf u).next)) = true)) ∧ (∀ c ∈ maskChans (s.obj (attachOf u).owner) ++ maskChans (s.obj (attachOf u).next), s.paceOf c = ((maskChans (s.obj (attachOf u).owner) ++ maskChans (s.obj (attachOf u).next)).map s.paceOf).headD 0) ∧ s.tick (((maskChans (s.obj (attachOf u).owner) ++ maskChans (s.obj (attachOf u).next)).map s.paceOf).headD 0) + 2 ≤ T ∧ s.underTest (attachOf u) = false ∧ (s.unitImage (attachOf u).unit).apply = none ∧ bits (s.obj Obj.pairCtrl) 31 30 = 0) ∧
    (∃ (s : State) (who : Req) (u : AttachUnit) (T : Nat), s.serves' who (attachOf u).apply ∧ 16 ≤ s.obj (attachOf u).next) ∧
    (∃ (s : State) (who : Req) (u : AttachUnit) (T : Nat), s.serves' who (attachOf u).apply ∧ s.obj (attachOf u).next ≠ 0 ∧ (maskChans (s.obj (attachOf u).next)).length ≠ 1 ∧ s.gangAt T (maskChans (s.obj (attachOf u).next)) = false) ∧
    (∃ (s : State) (u : AttachUnit) (T : Nat) (v : Nat), s.clocksRun ∧ s.attach.get (attachOf u).slot = some (T, v) ∧ T ≤ s.tick (((maskChans (s.obj (attachOf u).owner) ++ maskChans v).map s.paceOf).headD 0) ∧ (maskChans (s.obj (attachOf u).owner) ++ maskChans v).any s.gangDue = false ∧ (maskChans (s.obj (attachOf u).owner) ++ maskChans v).any s.applyDue = false ∧ ((s.isOwner v = false ∧ (maskChans (s.obj (attachOf u).owner) ++ maskChans v).all s.atEdge = true ∨ s.oneEdge (maskChans (s.obj (attachOf u).owner) ++ maskChans v) = false))) ∧
    (∃ (s : State) (T : Nat) (v : Nat), s.clocksRun ∧ s.attach.get 3 = some (T, v) ∧ v ≠ 0 ∧ s.isOwner v = true ∧ (maskChans (s.obj (Obj.klAttachOwner 1)) ++ maskChans v).any s.gangDue = false ∧ (maskChans (s.obj (Obj.klAttachOwner 1)) ++ maskChans v).any s.applyDue = false ∧ s.oneEdge (maskChans (s.obj (Obj.klAttachOwner 1)) ++ maskChans v) = true ∧ (maskChans (s.obj (Obj.klAttachOwner 1)) ++ maskChans v).all s.atEdge = true ∧ T ≤ s.tick (((maskChans (s.obj (Obj.klAttachOwner 1)) ++ maskChans v).map s.paceOf).headD 0)) ∧
    (∃ (s : State) (T : Nat) (v : Nat), s.clocksRun ∧ s.attach.get 0 = some (T, v) ∧ v ≠ 0 ∧ s.isOwner v = true ∧ (maskChans (s.obj (Obj.attachOwner 0)) ++ maskChans v).any s.gangDue = false ∧ (maskChans (s.obj (Obj.attachOwner 0)) ++ maskChans v).any s.applyDue = false ∧ s.oneEdge (maskChans (s.obj (Obj.attachOwner 0)) ++ maskChans v) = true ∧ (maskChans (s.obj (Obj.attachOwner 0)) ++ maskChans v).all s.atEdge = true ∧ T ≤ s.tick (((maskChans (s.obj (Obj.attachOwner 0)) ++ maskChans v).map s.paceOf).headD 0)) :=
  ⟨⟨(run0.setObj (Obj.attachTo 0) 1), (.fn 0), .dpin0, 2, by decide +kernel⟩,
   ⟨(run0.setObj (Obj.attachTo 1) 16), (.fn 0), .dpin1, 9, by decide +kernel⟩,
   ⟨(run0.setObj (Obj.attachTo 1) 3), (.fn 0), .dpin1, 9, by decide +kernel⟩,
   ⟨{ run0 with attach := run0.attach.set 3 (some (0, 3)) }, .kl1, 0, 3, by decide +kernel⟩,
   ⟨{ run0 with attach := run0.attach.set 3 (some (0, 2)) }, 0, 2, by decide +kernel⟩,
   ⟨{ run0 with attach := run0.attach.set 0 (some (0, 2)) }, 0, 2, by decide +kernel⟩⟩
theorem witness_TickEdgesAndLock :
    (∃ (s : State) (ch : Fin 4) (period : Nat) (ref : Option Nat) (ecc : Ecc), s.clocksRun ∧ s.ticking = true ∧ (s.pacer ch).following = false ∧ (s.pacer ch).transition = false ∧ (ch :: s.followers ch).any s.edgeOpen = false) ∧
    (∃ (s : State) (ch : Fin 4) (period : Nat) (ref : Option Nat) (ecc : Ecc), s.clocksRun ∧ (ch :: s.followers ch).any s.edgeOpen = true) ∧
    (∃ (p : Pacer) (want : Nat) (err : Option Int), ((p.lock = .acquiring ∨ p.lock = .locked)) ∧ ctrlLockSrc p.cfg.ctrl ≠ 0) ∧
    (∃ (p : Pacer) (want : Nat) (err : Option Int), ctrlLockSrc p.cfg.ctrl = 0) ∧
    (∃ (s : State) (ch : Fin 4), s.clocksRun ∧ s.marshal ≠ .updating ∧ ctrlLockSrc (s.pacer ch).cfg.ctrl ≠ 0 ∧ (((s.pacer ch).lock = .acquiring ∨ (s.pacer ch).lock = .locked))) ∧
    (∃ (s : State) (ch : Fin 4), s.clocksRun ∧ ctrlLockSrc (s.pacer ch).cfg.ctrl ≠ 0 ∧ (s.pacer ch).lock = .hold ∧ s.lockPresent (ctrlLockSrc (s.pacer ch).cfg.ctrl) ch = true) ∧
    (∃ (s : State) (p : Pacer) (e : Nat) (period : Nat) (ref : Option Nat), p.lock = .hold ∧ p.back = true) :=
  ⟨⟨run0, 0, 0, none, { corrected := [], bad := none, via := .mem }, by decide +kernel⟩,
   ⟨pac run0 (fun p => { p with opened := false, pending := some p.cfg, applyAt := 0 }), 0, 0, none, { corrected := [], bad := none, via := .mem }, by decide +kernel⟩,
   ⟨{ Pacer.reset 0 with lock := .acquiring, cfg := { PacerCfg.reset 0 with ctrl := 0x11F40000 } }, 0x073A0000, some 5, by decide +kernel⟩,
   ⟨Pacer.reset 0, 0, none, by decide +kernel⟩,
   ⟨pac run0 (fun p => { p with lock := .locked, cfg := { p.cfg with ctrl := 0x11F40000 } }), 0, by decide +kernel⟩,
   ⟨pac (run0.setObj Obj.t1AsState 2) (fun p => { p with lock := .hold, cfg := { p.cfg with ctrl := 0x31F40000 } }), 0, by decide +kernel⟩,
   ⟨run0, { Pacer.reset 0 with lock := .hold, back := true, cfg := { PacerCfg.reset 0 with ctrl := 0x11F40000 } }, 0, 0, none, by decide +kernel⟩⟩
theorem witness_ApplyTakesEffectAtTheEdge :
    (∃ (s : State) (who : Req) (ch : Fin 4) (ms : List ModelFigures), s.serves' who (Obj.apply ch) ∧ s.inPair ch = false ∧ s.gangOf ch = [] ∧ s.applyOk ch (s.stagedCfg ch) ms = true) ∧
    (∃ (s : State) (who : Req) (ch : Fin 4) (ms : List ModelFigures), s.serves' who (Obj.apply ch) ∧ s.inPair ch = false ∧ ((periodField (s.stagedCfg ch).period < 0x01F40000 ∨ 0x1F400000 < periodField (s.stagedCfg ch).period ∨ 1000 < ctrlRange (s.stagedCfg ch).ctrl ∨ 4 < ctrlLockSrc (s.stagedCfg ch).ctrl ∨ s.applyOk ch (s.stagedCfg ch) ms = false))) ∧
    (∃ (s : State) (ch : Fin 4) (c : PacerCfg), s.clocksRun ∧ (s.pacer ch).pending = some c ∧ (s.pacer ch).applyAt ≤ s.edgeNo ch ∧ s.atEdge ch = true ∧ followOf ch c = ch) ∧
    (∃ (s : State) (ch : Fin 4) (c : PacerCfg), s.clocksRun ∧ (s.pacer ch).pending = some c ∧ (s.pacer ch).applyAt ≤ s.edgeNo ch ∧ s.atEdge ch = true ∧ followOf ch c ≠ ch ∧ (s.pacer ch).following = false ∧ (s.pacer ch).transition = false ∧ (s.pacer ch).edge < (s.pacer (followOf ch c)).edge + (s.pacer (followOf ch c)).len ∧ s.applyDue (followOf ch c) = false) ∧
    (∃ (s : State) (ch : Fin 4) (c : PacerCfg), s.clocksRun ∧ (s.pacer ch).pending = some c ∧ (s.pacer ch).applyAt ≤ s.edgeNo ch ∧ s.atEdge ch = true ∧ followOf ch c ≠ ch ∧ (s.pacer ch).following = false ∧ (s.pacer ch).transition = false ∧ ((s.pacer (followOf ch c)).edge + (s.pacer (followOf ch c)).len ≤ (s.pacer ch).edge ∨ s.applyDue (followOf ch c) = true)) ∧
    (∃ (s : State) (ch : Fin 4) (ecc : Ecc), s.clocksRun ∧ (s.pacer ch).transition = true ∧ s.edgeOpen ch = false ∧ (s.pacer ch).edge + (s.pacer ch).len ≤ (s.pacer (followOf ch (s.pacer ch).cfg)).edge) :=
  ⟨⟨run0, (.fn 0), 0, [], by decide +kernel⟩,
   ⟨(run0.setObj (Obj.pacerPeriod 0) 0), (.fn 0), 0, [], by decide +kernel⟩,
   ⟨pac run0 (fun p => { p with pending := some { p.cfg with unitMap := 5 } }), 0, { PacerCfg.reset 0 with unitMap := 5 }, by decide +kernel⟩,
   ⟨followed, 1, { PacerCfg.reset 1 with ctrl := 0x01F40000 }, by decide +kernel⟩,
   ⟨{ followed with pacers := followed.pacers.set 1 { followed.pacers.get 1 with edge := 1850 }, now := 1850 }, 1, { PacerCfg.reset 1 with ctrl := 0x01F40000 }, by decide +kernel⟩,
   ⟨{ trans1 with pacers := trans1.pacers.set 0 { trans1.pacers.get 0 with edge := 1850, tick := 1 } }, 1, { corrected := [], bad := none, via := .mem }, by decide +kernel⟩⟩
theorem witness_WindowsKillsAndOverruns :
    (∃ (s : State) (ch : Fin 4) (m : Fin 4) (w : Nat) (a : Nat) (e : Nat), s.clocksRun ∧ windowSpan (mapRegs (s.pacer ch).cfg.windows m) w (s.pacer ch).len = some (a, e) ∧ ((s.pacer ch).wins.get m = none ∧ a < (s.pacer ch).len ∧ s.edgeOpen ch = false)) ∧
    (∃ (s : State) (ch : Fin 4) (m : Fin 4) (w : OpenWindow), s.clocksRun ∧ (s.pacer ch).wins.get m = some w) :=
  ⟨⟨run0, 0, 0, 0, _, _, by decide +kernel, rfl, by decide +kernel⟩,
   ⟨pac run0 (fun p => { p with wins := p.wins.set 1 (some win) }), 0, 1, _, by decide +kernel, rfl⟩⟩
theorem witness_TickProgramLoad :
    (∃ (s : State) (who : Req) (ch : Fin 4) (T : Nat), s.serves' who (Obj.tpLoad ch) ∧ s.inPair ch = false ∧ s.obj (Obj.chPstate ch) = 0 ∧ s.ready ch = true ∧ s.changeFixed ch = false) ∧
    (∃ (s : State) (who : Req) (ch : Fin 4) (T : Nat), s.serves' who (Obj.tpLoad ch) ∧ s.inPair ch = false ∧ ((s.obj (Obj.chPstate ch) ≠ 0 ∨ s.ready ch = false ∨ s.changeFixed ch = true))) ∧
    (∃ (s : State) (ch : Fin 4) (n : Fin 4) (T : Nat) (a : Nat) (ctx : Nat) (b : Nat) (pa : Nat) (v : Nat) (mp : Nat) (w : Nat) (m : ModelFigures), (s.clocksRun ∧ (s.pacer ch).change = .checking T a ctx b pa ∧ s.tick ch < T) ∧ s.checkProgram ch T a ctx b pa m = .error (ePipeFormat, v, mp, w) ∧ (s.gangMisfit ch (s.checkGang ch (field (s.devRead a 64) 0x10 4)) ⟨s.devRead pa 0x68⟩ T = true ∧ n ∈ s.checkGang ch (field (s.devRead a 64) 0x10 4) ∧ ((n = ch ∨ (s.pacer n).change.loadAt T = true)))) ∧
    (∃ (s : State) (ch : Fin 4) (T : Nat) (a : Nat) (ctx : Nat) (b : Nat) (pa : Nat), s.clocksRun ∧ (s.pacer ch).change = .checking T a ctx b pa ∧ (T ≠ 0 ∧ T ≤ s.tick ch)) :=
  ⟨⟨up0, (.fn 0), 0, 0, by decide +kernel⟩,
   ⟨run0, (.fn 0), 0, 0, by decide +kernel⟩,
   ⟨gangLoad, 0, 0, 5, 0x5000, 0, 0, 0x6000, 0, 0, 0, ⟨[], 0, 0⟩, by decide +kernel, (errIs_eq (by decide +kernel)), by decide +kernel⟩,
   ⟨pac up0 (fun p => { p with tick := 5, change := .checking 3 0 0 0 0 }), 0, _, _, _, _, _, by decide +kernel, rfl, by decide +kernel⟩⟩
theorem witness_TickProgramSwitchAndUnload :
    (∃ (s : State) (ch : Fin 4) (T : Nat) (p : Program), s.clocksRun ∧ (s.pacer ch).change = .waiting T p ∧ (T ≤ s.tick ch ∧ s.atEdge ch = true ∧ s.applyDue ch = false ∧ s.applyDue (s.paceOf ch) = false ∧ s.gangDue ch = false ∧ s.dpDue ch = false)) ∧
    (∃ (s : State) (who : Req) (ch : Fin 4) (T : Nat), s.serves' who (Obj.tpUnload ch) ∧ s.inPair ch = false ∧ (s.pacer ch).program ≠ none ∧ s.leaderOf ch = ch ∧ (s.ownerSet ch).any s.changeFixed = false ∧ ((T = 0 ∨ (s.isBoundary ch T = true ∧ s.tick ch + 2 ≤ T)))) ∧
    (∃ (s : State) (who : Req) (ch : Fin 4) (T : Nat), s.serves' who (Obj.tpUnload ch) ∧ s.inPair ch = false ∧ (((s.pacer ch).program = none ∨ s.leaderOf ch ≠ ch ∨ (s.ownerSet ch).any s.changeFixed = true))) ∧
    (∃ (s : State) (who : Req) (ch : Fin 4) (T : Nat), s.serves' who (Obj.tpUnload ch) ∧ s.inPair ch = false ∧ (s.pacer ch).program ≠ none ∧ s.leaderOf ch = ch ∧ (s.ownerSet ch).any s.changeFixed = false ∧ T ≠ 0 ∧ ((T < s.tick ch + 2 ∨ s.isBoundary ch T = false))) ∧
    (∃ (s : State) (ch : Fin 4) (T : Nat), s.clocksRun ∧ (s.pacer ch).change = .unload T ∧ (T ≤ s.tick ch ∧ s.atEdge ch = true ∧ s.gangDue ch = false)) :=
  ⟨⟨pac up0 (fun p => { p with tick := 5, change := .waiting 5 prog0 }), 0, _, _, by decide +kernel, rfl, by decide +kernel⟩,
   ⟨pac up0 (fun p => { p with program := some prog0 }), (.fn 0), 0, 2250, by decide +kernel⟩,
   ⟨run0, (.fn 0), 0, 0, by decide +kernel⟩,
   ⟨pac up0 (fun p => { p with program := some prog0 }), (.fn 0), 0, 1, by decide +kernel⟩,
   ⟨pac up0 (fun p => { p with tick := 2250, program := some prog0, change := .unload 2250 }), 0, _, by decide +kernel, rfl, by decide +kernel⟩⟩

end W02

namespace W03

def frag0 : Fragment := { prim := 0, front := true, pix := List.replicate 32 (0, 0), bary := List.replicate 32 0 }
def pass0 : Pass := { phase := .tiles, direct := false, auto := false, next := 0, skip := 0, entries := 0, lists := [], touched := [], stored := [], drawn := (0, 0), poolKb := 0, chunks := [], stageCh := [], final := true, tile := 0, prim := 0, stamp := 0, slots := [], opened := true, pix := [], widths := [4, 0, 0, 0, 0], stage := [] }
def up1 : Pub := { origin := .queue 0 0, cmd := cmd0, ctx := 0, asid := 1, gen := gen1, ch := 0, cls := 1, status := 0, cells := [(0x40000000, 1)], defers := [], opens := [(.l2 0, filterOf [(0x40000000, 1)] 0)], landed := [], prior := [], exports := [], claims := [], peer := [], failed := 0 }
def ga : List (Nat × Word32) := [(0, 0x40000100), (256, 0x40000200)]
def la : List (Nat × Word32) := [(0, 0x100), (256, 0x200)]
def fqueue : Queue := { queue0 with wptr := 1, bufAddr := 0x40002000, bufBytes := 48, bufOff := 0, engine := 0 }
def fmem : List Host.Cell := writeMem tableMem 0x40002000 (bytes [0, 1])
def fst : State := { wk0 with mem := fmem, runs := [], queues := [(0, fqueue)] }
def fin : State := onRun (fun r => { r with finished := true, staged := [(0x40000000, 1)], stagedN := 1, blocks := [] }) wk0
def many : List (Nat × Pub) := (List.range 48).map (fun i => (i + 10, { up1 with opens := [(.sc 0, [0]), (.l2 0, [0])] }))
def sealed : State := pac (onRun (fun r => { r with opens := (fin.runPoints r).map (fun p => (p, filterOf r.allStaged (pointCh p))) }) fin) (fun p => { p with wins := p.wins.set 1 (some { index := 0, cls := 1, backfill := false, start := 0, stop := 925 }) })
def pubS : State := { wk0 with runs := [], pubs := [(0, up1)], queues := [(0, { queue0 with order := [⟨0, { cmd0 with signalEn := true, sigBaton := 0, sigValue := 5 }, none⟩] })] }
def pubE : State := { pubS with pubs := [(0, { up1 with opens := [], cmd := { cmd0 with signalEn := true, sigBaton := 0, sigValue := 5 } })] }
def win : OpenWindow := { index := 0, cls := 1, backfill := false, start := 0, stop := 925 }
def startS : State := pac { wk0 with runs := [], queues := [(0, { queue0 with engine := 1, head := some { track := 0, cmd := { cmd0 with op := 2, body := List.replicate 128 0 }, phase := .fetched, gen := 1 }, order := [⟨0, cmd0, none⟩] })] } (fun p => { p with wins := .all (some win) })
def slotS : State := pac { wk0 with runs := [], queues := [], mem := writeMem [] 0x3000 (bytes [1, 0, 1, 0] ++ toLE 4 100 ++ toLE 2 48 ++ List.replicate 38 0 ++ lbody) } (fun p => { p with wins := .all (some { win with cls := 0 }), slots := [.waiting], program := some { prog0 with runs := [(0, 2250)], variants := [[⟨0, 0, 0, 0, 0x3000⟩]] } })
def slotCmd : Cmd := ((slotS.readySlot 0 0 10).map (fun p => p.2.2.1)).getD cmd0

def EC : Ecc := { corrected := [], bad := none, via := .mem }
def ftc (s : State) (q : Queue) : Fetched := s.stampFetched 0 (toCh q.ch) q.engine q.cls (s.fetchAt 0 (toCh q.ch) q.engine q.cls (q.bufAddr + q.bufOff) (q.bufBytes - q.bufOff))
def badF : State := { fst with mem := writeMem fmem 0x40002001 [7] }
def heldF : State := { fst with pubs := [(0, { up1 with opens := [(.l2 0, filterOf [(0x40002000, 1)] 0)] })] }
def launchQ : Queue := { queue0 with engine := 0, head := some { track := 0, cmd := { cmd0 with body := lbody.take 0x1B ++ [1] ++ lbody.drop 0x1C }, phase := .fetched, gen := 1 } }
def rasterQ : Queue := { queue0 with engine := 3, head := some { track := 0, cmd := { cmd0 with op := 4, body := List.replicate 128 0 ++ (lbody.take 0x1B ++ [1] ++ lbody.drop 0x1C) }, phase := .fetched, gen := 1 } }
def twoQ : State := pac { wk0 with runs := [], queues := [(0, launchQ), (1, { rasterQ with engine := 3 })] } (fun p => { p with wins := .all (some win) })
def candA : Cand := ((twoQ.cands 0).drop 0).headD { eng := 0, origin := .queue 0 0, cmd := cmd0, ctx := 0, killed := false, units := 0, key := 0 }
def candB : Cand := ((twoQ.cands 0).drop 1).headD { eng := 0, origin := .queue 0 0, cmd := cmd0, ctx := 0, killed := false, units := 0, key := 0 }
def hostPub : Pub := { up1 with opens := [], origin := .slot 0 0 0 }
def cbody (b : List Byte) : List Byte := b.take 0x1A ++ [2] ++ b.drop 0x1B
def clu : State := regs la (onRun (fun r => { r with body := cbody r.body, blocks := [blk0, { blk0 with index := 1, core := 1 }] }) wk0)
theorem witness_WindowsKillsAndOverruns :
    (∃ (s : State) (ch : Fin 4) (m : Fin 4) (w : Nat) (a : Nat) (e : Nat), s.clocksRun ∧ windowSpan (mapRegs (s.pacer ch).cfg.windows m) w (s.pacer ch).len = some (a, e) ∧ ((s.pacer ch).wins.get m = none ∧ a < (s.pacer ch).len ∧ s.edgeOpen ch = false)) ∧
    (∃ (s : State) (ch : Fin 4) (m : Fin 4) (w : OpenWindow), s.clocksRun ∧ (s.pacer ch).wins.get m = some w) ∧
    (∃ (s : State) (ch : Fin 4) (m : Fin 4) (w : OpenWindow) (id : Nat) (r : Run), s.clocksRun ∧ (s.pacer ch).wins.get m = some w ∧ look s.runs id = some r ∧ (s.runsIn ch m = [id] ∧ r.ch = ch.val ∧ r.map = m.val ∧ r.cls ∈ [1, 2, 3] ∧ max s.now ((s.pacer ch).edge + w.stop) - r.start < r.wcet)) ∧
    (∃ (s : State) (id : Nat) (r : Run) (x : Context), s.clocksRun ∧ look s.runs id = some r ∧ (r.cls ≠ 0 ∧ r.start + r.wcet ≤ s.windowEnd r) ∧ look s.ctxs r.ctx = some x ∧ x.state = .active) :=
  ⟨⟨run0, 0, 0, 0, _, _, by decide +kernel, rfl, by decide +kernel⟩,
   ⟨pac run0 (fun p => { p with wins := p.wins.set 1 (some win) }), 0, 1, _, by decide +kernel, rfl⟩,
   ⟨pac { onRun (fun r => { r with start := 100 }) wk0 with now := 500 } (fun p => { p with wins := p.wins.set 1 (some win) }), 0, 1, _, 0, _, by decide +kernel, rfl, rfl, by decide +kernel⟩,
   ⟨wk0, 0, _, _, by decide +kernel, rfl, by decide +kernel, rfl, by decide +kernel⟩⟩
theorem witness_EngineFetchesOrFaults :
    (∃ (s : State) (u : State) (q : Nat) (ecc : Ecc) (x : Queue) (g : Fetched) (f : Fetched), s.clocksRun ∧ look s.queues q = some x ∧ (x.stopped = false ∧ x.closing = false ∧ s.ctxActive x.ctx = true ∧ x.head = none ∧ x.bufOff < x.bufBytes ∧ ecc.bad = none ∧ u = s.noteEcc (toCh x.ch) ecc) ∧ g = u.fetchAt x.ctx (toCh x.ch) x.engine x.cls (x.bufAddr + x.bufOff) (x.bufBytes - x.bufOff) ∧ (f = (u.touchFetch x x.engine (x.bufAddr + x.bufOff) g.size).stampFetched x.ctx (toCh x.ch) x.engine x.cls g ∧ f.fault = 0 ∧ f.code = 0 ∧ ((f.cmd.ring = false ∨ x.ring = 0)) ∧ f.cmd.waitEn = false) ∧ s.quiet) ∧
    (∃ (s : State) (u : State) (q : Nat) (ecc : Ecc) (x : Queue) (g : Fetched) (f : Fetched) (c : Context), s.clocksRun ∧ look s.queues q = some x ∧ (x.stopped = false ∧ x.closing = false) ∧ look s.ctxs x.ctx = some c ∧ (c.state = .active ∧ x.head = none ∧ x.bufOff < x.bufBytes ∧ ecc.bad = none ∧ u = s.noteEcc (toCh x.ch) ecc) ∧ g = u.fetchAt x.ctx (toCh x.ch) x.engine x.cls (x.bufAddr + x.bufOff) (x.bufBytes - x.bufOff) ∧ (f = (u.touchFetch x x.engine (x.bufAddr + x.bufOff) g.size).stampFetched x.ctx (toCh x.ch) x.engine x.cls g ∧ f.heldKey = none ∧ f.fault ≠ 0 ∧ ((f.cmd.ring = false ∨ x.ring = 0)))) ∧
    (∃ (s : State) (q : Nat) (ecc : Ecc) (x : Queue) (c : Context), s.clocksRun ∧ look s.queues q = some x ∧ x.stopped = false ∧ x.closing = false ∧ look s.ctxs x.ctx = some c ∧ c.state = .active ∧ ecc.bad ≠ none) ∧
    (∃ (s : State) (u : State) (q : Nat) (k : Nat) (ecc : Ecc) (x : Queue) (g : Fetched) (f : Fetched), (s.clocksRun ∧ look s.queues q = some x ∧ x.stopped = false ∧ x.closing = false ∧ s.ctxActive x.ctx = true ∧ x.head = none ∧ x.bufOff < x.bufBytes ∧ ecc.bad = none ∧ u = s.noteEcc (toCh x.ch) ecc) ∧ g = u.fetchAt x.ctx (toCh x.ch) x.engine x.cls (x.bufAddr + x.bufOff) (x.bufBytes - x.bufOff) ∧ f = (u.touchFetch x x.engine (x.bufAddr + x.bufOff) g.size).stampFetched x.ctx (toCh x.ch) x.engine x.cls g ∧ f.heldKey = some k ∧ ((f.cmd.ring = false ∨ x.ring = 0))) :=
  ⟨⟨fst, fst, 0, EC, _, _, ftc fst fqueue, by decide +kernel, rfl, by decide +kernel, rfl, by decide +kernel, ⟨rfl, rfl, rfl⟩⟩,
   ⟨badF, badF, 0, EC, _, _, ftc badF fqueue, _, by decide +kernel, rfl, by decide +kernel, rfl, by decide +kernel, rfl, by decide +kernel⟩,
   ⟨fst, 0, { corrected := [], bad := some 0x40000100, via := .mem }, fqueue, ctx0, by decide +kernel⟩,
   ⟨heldF, heldF, 0, _, EC, fqueue, _, ftc heldF fqueue, by decide +kernel, rfl, by decide +kernel, rfl, by decide +kernel⟩⟩
theorem witness_CommandStarts :
    (∃ (s : State) (u : State) (ch : Fin 4) (now : Nat) (i : Nat) (m : Nat) (ecc : Ecc) (sl : Slot) (c : Cmd) (w : OpenWindow), (s.clocksRun ∧ s.now ≤ now ∧ (s.pacer ch).edge ≤ now ∧ now < (s.pacer ch).edge + (s.pacer ch).len ∧ ecc.bad = none) ∧ u = (s.noteEcc ch ecc).holdStarts ch 0 ∧ ((u.at now).readySlot ch 0 (now - (s.pacer ch).edge) = some (i, sl, c, m, w) ∧ c.op = 1 ∧ launchCheck c.body = 0 ∧ i < (s.pacer ch).slots.length)) ∧
    (∃ (s : State) (u : State) (v : State) (ch : Fin 4) (eng : Engine) (now : Nat) (m : Nat) (ecc : Ecc) (k : Cand) (w : OpenWindow), (s.clocksRun ∧ s.now ≤ now ∧ (s.pacer ch).edge ≤ now ∧ now < (s.pacer ch).edge + (s.pacer ch).len ∧ ecc.bad = none) ∧ u = (s.noteEcc ch ecc).holdStarts ch (engNo eng) ∧ ((u.at now).readySlot ch (engNo eng) (now - (s.pacer ch).edge) = none ∧ (s.lend.get ch).lending = false ∧ (s.lend.get ch).backAt = none ∧ (∀ a ∈ u.cands ch, a.eng = engNo eng → a.killed = false)) ∧ v = [1, 2, 3].foldl (fun x cls => x.addHold ch (u.cands ch) (now - (s.pacer ch).edge) cls) (u.dropHolds ch (u.cands ch)) ∧ (leastCand ((u.cands ch).filter (fun a => a.eng = engNo eng && v.mayStart ch (u.cands ch) (now - (s.pacer ch).edge) a)) = some k ∧ v.windowAt ch k.units (now - (s.pacer ch).edge) = some (m, w) ∧ k.cmd.op ≠ 5)) ∧
    (∃ (s : State) (ch : Fin 4) (now : Nat) (a : Cand) (k : Cand), a ∈ s.cands ch ∧ a.eng ≠ k.eng ∧ a.meets k = true ∧ s.canStart ch (s.cands ch) (now - (s.pacer ch).edge) a = true ∧ s.candBefore ch a k = true) ∧
    (∃ (s : State) (ch : Fin 4) (eng : Engine) (now : Nat) (ecc : Ecc), s.clocksRun ∧ ((now < s.now ∨ now < (s.pacer ch).edge ∨ (s.pacer ch).edge + (s.pacer ch).len ≤ now))) :=
  ⟨⟨slotS, (slotS.noteEcc 0 EC).holdStarts 0 0, 0, 10, 0, 0, EC, ⟨0, 0, 0, 0, 0x3000⟩, slotCmd, { win with cls := 0 }, by decide +kernel, rfl, by decide +kernel⟩,
   ⟨startS, (startS.noteEcc 0 EC).holdStarts 0 1, [1, 2, 3].foldl (fun x cls => x.addHold 0 (((startS.noteEcc 0 EC).holdStarts 0 1).cands 0) 10 cls) (((startS.noteEcc 0 EC).holdStarts 0 1).dropHolds 0 (((startS.noteEcc 0 EC).holdStarts 0 1).cands 0)), 0, .bearing, 10, 0, EC, (leastCand ((startS.cands 0).filter (fun a => a.eng = 1))).getD candA, win, by decide +kernel, rfl, by decide +kernel, rfl, by decide +kernel⟩,
   ⟨twoQ, 0, 10, candA, candB, by decide +kernel⟩,
   ⟨{ wk0 with now := 5 }, 0, .launch, 3, EC, by decide +kernel⟩⟩
theorem witness_PublicationOpensSealsClosesEnds :
    (∃ (s : State) (id : Nat) (pt : CohPoint) (r : Run), s.clocksRun ∧ look s.runs id = some r ∧ (r.finished = true ∧ pt ∈ s.runPoints r ∧ (r.opens.any (fun o => o.1 = pt)) = false ∧ s.openAt pt true + s.openAt pt false < 64 ∧ ((r.cls = 0 ∨ s.openAt pt false < 48)) ∧ ((r.opens ≠ [] ∨ s.links = [])))) ∧
    (∃ (s : State) (id : Nat) (pt : CohPoint) (r : Run), s.clocksRun ∧ look s.runs id = some r ∧ (r.finished = true ∧ pt ∈ s.runPoints r ∧ (r.opens.any (fun o => o.1 = pt)) = false ∧ ((64 ≤ s.openAt pt true + s.openAt pt false ∨ (r.cls ≠ 0 ∧ 48 ≤ s.openAt pt false))) ∧ r.waited = false)) ∧
    (∃ (s : State) (id : Nat) (now : Nat) (q : Nat) (k : Nat) (ports : List Nat) (r : Run) (w : OpenWindow), s.clocksRun ∧ look s.runs id = some r ∧ r.finished = true ∧ r.origin = .queue q k ∧ s.now ≤ now ∧ (s.pacer (toCh r.ch)).wins.get (toCh r.map) = some w ∧ (now < (s.pacer (toCh r.ch)).edge + w.stop ∧ ((r.cls = 0 ∨ now < r.start + r.wcet)) ∧ (∀ pt ∈ s.runPoints r, r.opens.any (fun o => o.1 = pt) = true) ∧ (∀ x ∈ r.peerOpen, x.2 = true → x.1 ∈ ports) ∧ r.defers = [])) ∧
    (∃ (s : State) (id : Nat) (now : Nat) (ports : List Nat) (r : Run), s.clocksRun ∧ look s.runs id = some r ∧ (((r.cls ≠ 0 ∧ r.start + r.wcet ≤ now) ∨ (∃ x ∈ r.peerOpen, x.2 = true ∧ x.1 ∉ ports)))) ∧
    (∃ (s : State) (id : Nat) (now : Nat) (err : Ecc) (pt : CohPoint) (p : Pub), s.clocksRun ∧ look s.pubs id = some p ∧ ((p.opens.any (fun o => o.1 = pt)) = true ∧ (pointCh pt).val ∉ p.landed ∧ p.defers = [] ∧ Memory.wf s.mem = true ∧ (∀ a, err.bad = some a → look p.prior (a / 64) = none))) ∧
    (∃ (s : State) (id : Nat) (now : Nat) (a : Nat) (err : Ecc) (pt : CohPoint) (p : Pub), s.clocksRun ∧ look s.pubs id = some p ∧ ((p.opens.any (fun o => o.1 = pt)) = true ∧ (pointCh pt).val ∈ p.landed ∧ Memory.wf s.mem = true ∧ ((err.bad = none ∨ err.bad = some a)) ∧ (∀ bs, look p.prior (a / 64) = some bs → bs.length = 64))) ∧
    (∃ (s : State) (id : Nat) (q : Nat) (k : Nat) (b : Nat) (p : Pub) (x : Queue) (y : Baton) (c : Nat), s.clocksRun ∧ look s.pubs id = some p ∧ (p.opens = [] ∧ p.peer = [] ∧ p.failed = 0 ∧ ((p.cells.all (fun c => decide (c.1 < devEnd)) = true ∨ (s.pcieFn (s.ctxFn p.ctx)).busMaster = true)) ∧ p.claims = []) ∧ p.origin = .queue q k ∧ look s.queues q = some x ∧ (x.order = [⟨k, p.cmd, none⟩] ∧ p.cmd.ring = false ∧ p.cmd.signalEn = true) ∧ p.cmd.sigBaton = b ∧ look s.batons b = some y ∧ (y.owner = some c ∧ y.value < p.cmd.sigValue ∧ p.cmd.sigValue < errValue ∧ s.links = []) ∧ s.quiet ∧ look s.replays x.ctx = none) ∧
    (∃ (s : State) (id : Nat) (p : Pub), s.clocksRun ∧ look s.pubs id = some p ∧ (p.opens = [] ∧ p.peer = [] ∧ p.origin = .slot p.ch 0 0 ∧ (s.pcieFn (s.ctxFn p.ctx)).busMaster = false)) :=
  ⟨⟨fin, 0, .l2 0, _, by decide +kernel, rfl, by decide +kernel⟩,
   ⟨{ fin with pubs := many }, 0, .l2 0, _, by decide +kernel, rfl, by decide +kernel⟩,
   ⟨sealed, 0, 500, _, _, [], _, _, by decide +kernel, rfl, by decide +kernel, rfl, by decide +kernel, rfl, by decide +kernel⟩,
   ⟨wk0, 0, 2000, [], _, by decide +kernel, rfl, by decide +kernel⟩,
   ⟨pubS, 0, 5, EC, .l2 0, _, by decide +kernel, rfl, by decide +kernel⟩,
   ⟨{ wk0 with runs := [], pubs := [(0, { up1 with opens := [(.l2 0, filterOf [(0x40000000, 1)] 0)], landed := [0], prior := [(0x1000000, List.replicate 64 3)] })] }, 0, 5, 0x40000000, { corrected := [], bad := some 0x40000000, via := .mem }, .l2 0, _, by decide +kernel, rfl, by decide +kernel⟩,
   ⟨pubE, 0, _, _, _, _, _, _, 0, by decide +kernel, rfl, by decide +kernel, rfl, rfl, by decide +kernel, rfl, rfl, by decide +kernel, ⟨rfl, rfl, rfl⟩, by decide +kernel⟩,
   ⟨{ wk0 with runs := [], pubs := [(0, hostPub)], pcieFns := [] }, 0, _, by decide +kernel, rfl, by decide +kernel⟩⟩
theorem witness_IntegerArithmetic :
    (∃ (s : State) (g : GroupRef) (ty : IntTy) (sat : Bool) (d : Nat) (a : Nat) (b : Nat), s.clocksRun ∧ s.issues g [(d, tyRegs ty), (a, tyRegs ty), (b, tyRegs ty)] = true) ∧
    (∃ (s : State) (g : GroupRef) (ty : IntTy) (sat : Bool) (d : Nat) (a : Nat) (b : Nat), s.clocksRun ∧ s.issues g [(d, tyRegs ty), (a, tyRegs ty), (b, tyRegs ty)] = true) ∧
    (∃ (s : State) (g : GroupRef) (ty : IntTy) (sat : Bool) (d : Nat) (a : Nat) (b : Nat), s.clocksRun ∧ s.issues g [(d, tyRegs ty), (a, tyRegs ty), (b, tyRegs ty)] = true) ∧
    (∃ (s : State) (g : GroupRef) (ty : IntTy) (sat : Bool) (d : Nat) (a : Nat) (b : Nat) (c : Nat), s.clocksRun ∧ s.issues g [(d, tyRegs ty), (a, tyRegs ty), (b, tyRegs ty), (c, tyRegs ty)] = true) :=
  ⟨⟨regs [(0,5),(1,7),(2,9),(256,1),(257,3)] wk0, gr, .i32, false, 4, 0, 1, by decide +kernel⟩,
   ⟨regs [(0,5),(1,7),(2,9),(256,1),(257,3)] wk0, gr, .i32, true, 4, 0, 1, by decide +kernel⟩,
   ⟨regs [(0,5),(1,7),(2,9),(256,1),(257,3)] wk0, gr, .i64, true, 4, 0, 2, by decide +kernel⟩,
   ⟨regs [(0,5),(1,7),(2,9),(256,1),(257,3)] wk0, gr, .i32, false, 4, 0, 1, 2, by decide +kernel⟩⟩
theorem witness_ShiftLogicCompareSelect :
    (∃ (s : State) (g : GroupRef) (ty : IntTy) (k : ShiftKind) (d : Nat) (a : Nat) (b : Nat) (x : Group), (s.clocksRun ∧ s.issues g [(d, tyRegs ty), (a, tyRegs ty), (b, 1)] = true) ∧ s.group g = some x ∧ (∀ l ∈ x.active, (x.reg l b).toNat < tyBits ty)) ∧
    (∃ (s : State) (g : GroupRef) (ty : IntTy) (k : ShiftKind) (d : Nat) (a : Nat) (b : Nat) (x : Group), (s.clocksRun ∧ s.issues g [(d, tyRegs ty), (a, tyRegs ty), (b, 1)] = true) ∧ s.group g = some x) ∧
    (∃ (s : State) (g : GroupRef) (ty : IntTy) (op : LogicOp) (d : Nat) (a : Nat) (b : Nat), s.clocksRun ∧ s.issues g [(d, tyRegs ty), (a, tyRegs ty), (b, tyRegs ty)] = true) ∧
    (∃ (s : State) (g : GroupRef) (ty : IntTy) (op : CmpOp) (sgn : Bool) (d : Nat) (a : Nat) (b : Nat), s.clocksRun ∧ s.issues g [(d, 1), (a, tyRegs ty), (b, tyRegs ty)] = true) ∧
    (∃ (s : State) (g : GroupRef) (ty : IntTy) (d : Nat) (p : Nat) (a : Nat) (b : Nat), s.clocksRun ∧ s.issues g [(d, tyRegs ty), (p, 1), (a, tyRegs ty), (b, tyRegs ty)] = true) :=
  ⟨⟨regs [(0,5),(1,7),(2,9),(256,1),(257,3)] wk0, gr, .i32, .left, 4, 0, 1, _, by decide +kernel, rfl, by decide +kernel⟩,
   ⟨regs [(0,5),(1,32)] wk0, gr, .i32, .left, 4, 0, 1, _, by decide +kernel, rfl⟩,
   ⟨regs [(0,5),(1,7),(2,9),(256,1),(257,3)] wk0, gr, .i8, .and, 4, 0, 1, by decide +kernel⟩,
   ⟨regs [(0,5),(1,7),(2,9),(256,1),(257,3)] wk0, gr, .i16, .lt, true, 4, 0, 1, by decide +kernel⟩,
   ⟨regs [(0,5),(1,7),(2,9),(256,1),(257,3)] wk0, gr, .i32, 4, 0, 1, 2, by decide +kernel⟩⟩
theorem witness_ConversionsAndBlockElements :
    (∃ (s : State) (g : GroupRef) (src : IntTy) (dst : IntTy) (sgn : Bool) (d : Nat) (a : Nat), s.clocksRun ∧ tyBits src < tyBits dst ∧ s.issues g [(d, tyRegs dst), (a, tyRegs src)] = true) ∧
    (∃ (s : State) (g : GroupRef) (src : IntTy) (dst : IntTy) (d : Nat) (a : Nat), s.clocksRun ∧ tyBits dst < tyBits src ∧ s.issues g [(d, tyRegs dst), (a, tyRegs src)] = true) ∧
    (∃ (s : State) (g : GroupRef) (fmt : BlockFmt) (d : Nat) (a : Nat), s.clocksRun ∧ s.issues g [(d, 1), (a, 32 / fmtBits fmt)] = true) ∧
    (∃ (s : State) (g : GroupRef) (fmt : BlockFmt) (d : Nat) (a : Nat), s.clocksRun ∧ s.issues g [(d, 32 / fmtBits fmt), (a, 1)] = true) :=
  ⟨⟨regs [(0,5),(1,7),(2,9),(256,1),(257,3)] wk0, gr, .i8, .i64, true, 4, 0, by decide +kernel⟩,
   ⟨regs [(0,5),(1,7),(2,9),(256,1),(257,3)] wk0, gr, .i32, .i8, 4, 0, by decide +kernel⟩,
   ⟨regs [(0,5),(1,7),(2,9),(256,1),(257,3)] wk0, gr, .b8, 8, 0, by decide +kernel⟩,
   ⟨regs [(0,5),(1,7),(2,9),(256,1),(257,3)] wk0, gr, .b4, 8, 0, by decide +kernel⟩⟩
theorem witness_ControlFlow :
    (∃ (s : State) (g : GroupRef) (mr : Bool) (p : Nat) (target : Nat) (reconv : Nat) (x : Group), (s.clocksRun ∧ s.issues g [(p, 1)] = true) ∧ s.group g = some x ∧ (∀ l ∈ x.active, x.reg l p ≠ 0)) ∧
    (∃ (s : State) (g : GroupRef) (mr : Bool) (p : Nat) (target : Nat) (reconv : Nat) (x : Group), (s.clocksRun ∧ s.issues g [(p, 1)] = true) ∧ s.group g = some x ∧ (∀ l ∈ x.active, x.reg l p = 0)) ∧
    (∃ (s : State) (g : GroupRef) (p : Nat) (target : Nat) (reconv : Nat) (x : Group), (s.clocksRun ∧ s.issues g [(p, 1)] = true) ∧ s.group g = some x ∧ ((∃ l ∈ x.active, x.reg l p ≠ 0) ∧ (∃ l ∈ x.active, x.reg l p = 0) ∧ x.stack.length ≤ 30 ∧ x.pc + 8 ≠ reconv)) ∧
    (∃ (s : State) (g : GroupRef) (mr : Bool) (r : Nat) (reconv : Nat) (a : Nat) (x : Group), (s.clocksRun ∧ s.issues g [(r, 2)] = true) ∧ s.group g = some x ∧ (∀ l ∈ x.active, x.pair l r = a)) ∧
    (∃ (s : State) (g : GroupRef) (mr : Bool) (a : Nat) (reconv : Nat) (x : Group), (s.clocksRun ∧ s.issues g [] = true) ∧ s.group g = some x) ∧
    (∃ (s : State) (g : GroupRef) (x : Group) (a : Nat) (l : List Nat), (s.clocksRun ∧ s.issues g [] = true) ∧ s.group g = some x ∧ x.calls = a :: l) ∧
    (∃ (s : State) (g : GroupRef) (x : Group), (s.clocksRun ∧ s.issues g [] = true) ∧ s.group g = some x ∧ x.calls = []) ∧
    (∃ (s : State) (g : GroupRef) (x : Group), (s.clocksRun ∧ s.issues g [] = true) ∧ s.group g = some x) :=
  ⟨⟨regs [(0,5),(1,7),(2,9),(256,1),(257,3)] wk0, gr, false, 0, 0x40000100, 0x40000200, _, by decide +kernel, rfl, by decide +kernel⟩,
   ⟨regs [] wk0, gr, true, 0, 0x40000100, 0x40000200, _, by decide +kernel, rfl, by decide +kernel⟩,
   ⟨regs [(0,1)] wk0, gr, 0, 0x40000100, 0x40000200, _, by decide +kernel, rfl, by decide +kernel⟩,
   ⟨regs [(0, 0x40000100), (256, 0x40000100)] wk0, gr, false, 0, 0x40000800, 0x40000100, _, by decide +kernel, rfl, by decide +kernel⟩,
   ⟨wk0, gr, false, 0x40000100, 0x40000200, _, by decide +kernel, rfl⟩,
   ⟨onGrp (fun g => { g with calls := [8, 16] }) wk0, gr, _, 8, [16], by decide +kernel, rfl, by decide +kernel⟩,
   ⟨wk0, gr, _, by decide +kernel, rfl, by decide +kernel⟩,
   ⟨wk0, gr, _, by decide +kernel, rfl⟩⟩
theorem witness_ControlFlow_8 : ∃ (x : Group) (e : StackEntry), x.stack = [e] :=
  ⟨{ grp0 with stack := [⟨0x40, 0x80, 1, []⟩] }, ⟨0x40, 0x80, 1, []⟩, by decide +kernel⟩
theorem witness_SpecialRegisters :
    (∃ (s : State) (g : GroupRef) (sr : SpecialReg) (d : Nat) (now : Nat) (r : Run) (b : Block) (x : Group), (s.clocksRun ∧ sr ≠ .clock ∧ s.issues g [(d, 1)] = true) ∧ s.findGroup g = some (r, b, x) ∧ (∀ l ∈ x.active, specialValue g r b x l sr ≠ none)) ∧
    (∃ (s : State) (g : GroupRef) (d : Nat) (now : Nat) (r : Run) (b : Block) (x : Group), (s.clocksRun ∧ s.issues g [(d, 3)] = true) ∧ s.findGroup g = some (r, b, x) ∧ r.strict = false) ∧
    (∃ (s : State) (g : GroupRef) (d : Nat) (now : Nat) (r : Run) (b : Block) (x : Group) (c : Context), (s.clocksRun ∧ s.issues g [(d, 3)] = true) ∧ s.findGroup g = some (r, b, x) ∧ (r.strict = true ∧ r.cls ≠ 0) ∧ look s.ctxs r.ctx = some c ∧ c.state = .active) :=
  ⟨⟨wk0, gr, .blockX, 4, 10, _, _, _, by decide +kernel, rfl, by decide +kernel⟩,
   ⟨wk0, gr, 4, 10, _, _, _, by decide +kernel, rfl, by decide +kernel⟩,
   ⟨onRun (fun r => { r with strict := true }) wk0, gr, 4, 10, _, _, _, _, by decide +kernel, rfl, by decide +kernel, rfl, by decide +kernel⟩⟩
theorem witness_Loads :
    (∃ (s : State) (g : GroupRef) (size : Nat) (d : Nat) (a : Nat) (rank : Nat) (e : Ecc) (r : Run) (b : Block) (x : Group), (s.clocksRun ∧ s.issues g [(d, accessRegs size), (a, 1)] = true) ∧ s.findGroup g = some (r, b, x) ∧ (accessSize size = true ∧ (∀ l ∈ x.active, (x.reg l a).toNat % size = 0 ∧ r.inBls (x.reg l a).toNat size = true))) ∧
    (∃ (s : State) (g : GroupRef) (size : Nat) (d : Nat) (a : Nat) (rank : Nat) (e : Ecc) (r : Run) (b : Block) (home : Block) (x : Group), (s.clocksRun ∧ s.issues g [(d, accessRegs size), (a, 1)] = true) ∧ s.findGroup g = some (r, b, x) ∧ (accessSize size = true ∧ rank < max (lbCluster r.body) 1) ∧ r.rankBlock b rank = some home ∧ (∀ l ∈ x.active, (x.reg l a).toNat % size = 0 ∧ r.inBls (x.reg l a).toNat size = true)) ∧
    (∃ (s : State) (g : GroupRef) (size : Nat) (d : Nat) (a : Nat) (rank : Nat) (e : Ecc) (r : Run) (b : Block) (x : Group) (p : Pass) (at' : Nat → Nat), (s.clocksRun ∧ s.issues g [(d, accessRegs size), (a, 1)] = true) ∧ s.findGroup g = some (r, b, x) ∧ accessSize size = true ∧ r.pass = some p ∧ (∀ l ∈ x.active, tileKey (some p) x.frag l (x.reg l a).toNat size false = .ok (at' l))) ∧
    (∃ (s : State) (g : GroupRef) (size : Nat) (d : Nat) (a : Nat) (rank : Nat) (r : Run) (b : Block) (x : Group) (e : Ecc) (at' : Nat → Nat), (s.clocksRun ∧ s.issues g [(d, accessRegs size), (a, 2)] = true) ∧ s.findGroup g = some (r, b, x) ∧ (accessSize size = true ∧ e.bad = none) ∧ (∀ l ∈ x.active, x.pair l a % size = 0 ∧ s.isHeld (toCh r.ch) (at' l) = false ∧ ∃ p q, s.translate (s.runXlat r (some b.core)) (x.pair l a) rightR = .ok (at' l, p, q))) ∧
    (∃ (s : State) (g : GroupRef) (size : Nat) (d : Nat) (a : Nat) (rank : Nat) (r : Run) (b : Block) (x : Group) (e : Ecc) (at' : Nat → Nat), (s.clocksRun ∧ s.issues g [(d, accessRegs size), (a, 2)] = true) ∧ s.findGroup g = some (r, b, x) ∧ (accessSize size = true ∧ e.bad = none) ∧ (∀ l ∈ x.active, x.pair l a % size = 0 ∧ ∃ p q, s.translate (s.runXlat r (some b.core)) (x.pair l a) rightR = .ok (at' l, p, q)) ∧ (∃ l ∈ x.active, s.isHeld (toCh r.ch) (at' l) = true)) ∧
    (∃ (s : State) (g : GroupRef) (size : Nat) (d : Nat) (a : Nat) (rank : Nat) (r : Run) (b : Block) (x : Group) (e : Ecc) (at' : Nat → Nat) (c : Context), (s.clocksRun ∧ s.issues g [(d, accessRegs size), (a, 2)] = true) ∧ s.findGroup g = some (r, b, x) ∧ (accessSize size = true ∧ e.bad ≠ none) ∧ (∀ l ∈ x.active, x.pair l a % size = 0 ∧ ∃ p q, s.translate (s.runXlat r (some b.core)) (x.pair l a) rightR = .ok (at' l, p, q)) ∧ r.cls ≠ 0 ∧ look s.ctxs r.ctx = some c ∧ c.state = .active) ∧
    (∃ (s : State) (g : GroupRef) (size : Nat) (d : Nat) (a : Nat) (l : Nat) (e : Ecc) (r : Run) (b : Block) (x : Group) (er : Nat) (k : Nat), (s.clocksRun ∧ s.issues g [(d, accessRegs size), (a, 1)] = true) ∧ s.findGroup g = some (r, b, x) ∧ (accessSize size = true ∧ x.active = [l] ∧ (x.reg l a).toNat % size = 0 ∧ (x.reg l a).toNat + size ≤ field r.body 0x10 2) ∧ s.loadV (s.runXlat r (some b.core)) (field r.body 0x08 8 + (x.reg l a).toNat) size = .error er ∧ heldAt er = some k) ∧
    (∃ (s : State) (g : GroupRef) (size : Nat) (d : Nat) (a : Nat) (e : Ecc) (r : Run) (b : Block) (x : Group) (bytes : Nat → List Byte), (s.clocksRun ∧ s.issues g [(d, accessRegs size), (a, 1)] = true) ∧ s.findGroup g = some (r, b, x) ∧ accessSize size = true ∧ (∀ l ∈ x.active, (x.reg l a).toNat % size = 0 ∧ (x.reg l a).toNat + size ≤ field r.body 0x10 2 ∧ s.loadV (s.runXlat r (some b.core)) (field r.body 0x08 8 + (x.reg l a).toNat) size = .ok (bytes l)) ∧ e.bad = none) :=
  ⟨⟨regs la wk0, gr, 8, 4, 0, 0, { corrected := [], bad := none, via := .mem }, _, _, _, by decide +kernel, rfl, by decide +kernel⟩,
   ⟨regs la wk0, gr, 4, 4, 0, 0, { corrected := [], bad := none, via := .mem }, _, _, _, _, by decide +kernel, rfl, by decide +kernel, rfl, by decide +kernel⟩,
   ⟨onRun (fun r => { r with pass := some pass0 }) (onGrp (fun g => { g with regs := [], frag := some frag0 }) wk0), gr, 4, 4, 0, 0, { corrected := [], bad := none, via := .mem }, _, _, _, _, fun _ => pixKey 0 0 0 0, by decide +kernel, rfl, by decide +kernel, rfl, (allIs (by decide +kernel))⟩,
   ⟨regs [(0, 0x40000100), (256, 0x40000200)] wk0, gr, 4, 4, 0, 0, _, _, _, { corrected := [], bad := none, via := .mem }, fun l => if l = 0 then 0x40000100 else 0x40000200, by decide +kernel, rfl, by decide +kernel, (lanesOk2 (by decide +kernel))⟩,
   ⟨{ regs ga wk0 with pubs := [(0, { up1 with opens := [(.l2 0, filterOf [(0x40000100, 1)] 0)] })] }, gr, 4, 4, 0, 0, _, _, _, { corrected := [], bad := none, via := .mem }, fun l => if l = 0 then 0x40000100 else 0x40000200, by decide +kernel, rfl, by decide +kernel, (lanesOk (by decide +kernel)), by decide +kernel⟩,
   ⟨regs ga wk0, gr, 4, 4, 0, 0, _, _, _, { corrected := [], bad := some 0x40000100, via := .mem }, fun l => if l = 0 then 0x40000100 else 0x40000200, _, by decide +kernel, rfl, by decide +kernel, (lanesOk (by decide +kernel)), by decide +kernel, rfl, by decide +kernel⟩,
   ⟨{ one [] wk0 with pubs := [(0, { up1 with opens := [(.l2 0, filterOf [(0x40001000, 1)] 0)] })] }, gr, 4, 4, 0, 0, EC, _, _, _, 0x10000 + 0x40001000, 0x40001000, by decide +kernel, rfl, by decide +kernel, (errIs_eq (by decide +kernel)), by decide +kernel⟩,
   ⟨regs [] wk0, gr, 4, 4, 0, EC, _, _, _, fun _ => [0, 0, 0, 0], by decide +kernel, rfl, by decide +kernel, (allIs2 (by decide +kernel)), by decide +kernel⟩⟩
theorem witness_Stores :
    (∃ (s : State) (g : GroupRef) (size : Nat) (v : Nat) (a : Nat) (rank : Nat) (r : Run) (b : Block) (x : Group), (s.clocksRun ∧ s.issues g [(v, accessRegs size), (a, 1)] = true) ∧ s.findGroup g = some (r, b, x) ∧ (accessSize size = true ∧ (∀ l ∈ x.active, (x.reg l a).toNat % size = 0 ∧ r.inBls (x.reg l a).toNat size = true))) ∧
    (∃ (s : State) (g : GroupRef) (size : Nat) (v : Nat) (a : Nat) (rank : Nat) (r : Run) (b : Block) (x : Group) (at' : Nat → Nat) (cells : List Host.Cell), (s.clocksRun ∧ s.issues g [(v, accessRegs size), (a, 2)] = true) ∧ s.findGroup g = some (r, b, x) ∧ accessSize size = true ∧ (∀ l ∈ x.active, x.pair l a % size = 0 ∧ ∃ p q, s.translate (s.runXlat r (some b.core)) (x.pair l a) rightW = .ok (at' l, p, q)) ∧ cells = (x.active.map (fun l => (upto size).map (fun i => (at' l + i, ((toLE size (x.data l v size)).drop i).headD 0)))).flatten ∧ r.commitUse b.core cells ≤ r.commitRoom) ∧
    (∃ (s : State) (g : GroupRef) (size : Nat) (v : Nat) (a : Nat) (rank : Nat) (r : Run) (b : Block) (home : Block) (x : Group), (s.clocksRun ∧ s.issues g [(v, accessRegs size), (a, 1)] = true) ∧ s.findGroup g = some (r, b, x) ∧ (accessSize size = true ∧ rank < max (lbCluster r.body) 1 ∧ r.rankBlock b rank = some home ∧ home.index ≠ b.index ∧ (∀ l ∈ x.active, (x.reg l a).toNat % size = 0 ∧ r.inBls (x.reg l a).toNat size = true))) ∧
    (∃ (s : State) (g : GroupRef) (size : Nat) (v : Nat) (a : Nat) (rank : Nat) (r : Run) (b : Block) (x : Group) (p : Pass) (at' : Nat → Nat), (s.clocksRun ∧ s.issues g [(v, accessRegs size), (a, 1)] = true) ∧ s.findGroup g = some (r, b, x) ∧ accessSize size = true ∧ r.pass = some p ∧ (∀ l ∈ x.active, tileKey (some p) x.frag l (x.reg l a).toNat size true = .ok (at' l))) :=
  ⟨⟨regs la wk0, gr, 4, 4, 0, 0, _, _, _, by decide +kernel, rfl, by decide +kernel⟩,
   ⟨regs ga wk0, gr, 4, 4, 0, 0, _, _, _, fun l => if l = 0 then 0x40000100 else 0x40000200, _, by decide +kernel, rfl, by decide +kernel, (lanesOk (by decide +kernel)), rfl, by decide +kernel⟩,
   ⟨clu, gr, 4, 4, 0, 1, _, _, { blk0 with index := 1, core := 1, groups := [{ grp0 with regs := la }] }, _, by decide +kernel, rfl, by decide +kernel⟩,
   ⟨onRun (fun r => { r with pass := some pass0 }) (onGrp (fun g => { g with regs := [], frag := some frag0 }) wk0), gr, 4, 4, 0, 0, _, _, _, _, fun _ => pixKey 0 0 0 0, by decide +kernel, rfl, by decide +kernel, rfl, (allIs (by decide +kernel))⟩⟩

end W03

namespace W04

def aform (sp : Space) (sc : Scope) : AtomForm := { scope := sc, space := sp, is64 := false, fetch := true, addr := 0, rank := 0, dst := 8, ecc := ⟨[], none, .mem⟩ }
def ga1 : List (Nat × Word32) := [(0, 0x40000100), (4, 3)]
def lst : List Byte := toLE 8 0x40004000 ++ toLE 4 16 ++ toLE 4 3 ++ toLE 4 0 ++ bytes [0] ++ List.replicate 11 0
def two : State := onRun (fun r => { r with blocks := r.blocks.map (fun b => { b with groups := [grp0, grp0] }) }) wk0
def twoC (n:Nat):Nat:=n
def pool : Allocator := { base := 0x2000000, chunks := 64, staged := none, asOf := 0, zeroed := (List.range 64).drop 1, ready := true, allocs := [], taken := [] }
def ag : Gen := { gen1 with allocVa := 0x80000000, allocEn := true }
def pl : State := (onRun (fun r => { r with gen := ag }) (one [] { wk0 with allocs := .all pool, spaces := [(1, { space1 with force := .all ag, newest := ag })] })).setObj (key 0x4801 9) 0x1000000

def writeMem2 (b : List Byte) : List Byte := b.take 0x1A ++ [2] ++ b.drop 0x1B
def tpBody : List Byte := toLE 4 2250 ++ toLE 4 0x4C ++ toLE 4 1 ++ toLE 1 0 ++ List.replicate 15 0
def tpHead : List Byte := toLE 4 0x47525054 ++ toLE 4 7 ++ toLE 4 2250 ++ toLE 2 1 ++ toLE 2 1 ++ toLE 4 0 ++ toLE 4 0 ++ toLE 4 0 ++ toLE 4 0 ++ sha3 tpBody
def tpS : State := pac { up0 with ctxs := [(0, ctx0)], batons := [(0, baton0)], mem := writeMem [] 0x5000 (tpHead ++ tpBody) } (fun p => { p with change := .checking 5 0x5000 0 0 0 })
def al1 (p : Option Nat) : Alloc := { size := 256, asid := 1, ctx := 0, prov := p, priv := false, kv := false }
def fr (p : Option Nat) : State := (one [(0, 0x82010000)] { pl with allocs := pl.allocs.set 0 { pool with allocs := [(0x2010000, al1 p)] } })

def hostGen : Gen := { gen1 with addr := 0x200000 }
def hostWk : State := (onRun (fun r => { r with gen := gen1 }) (one [(0, 0x50000100), (4, 3)] { wk0 with mem := writeMem wk0.mem 0x100000 (toLE 8 0x50000000 ++ toLE 8 0x1000 ++ toLE 8 0x5000 ++ toLE 4 0x17 ++ toLE 4 0), pcieFns := [(0, ⟨true, true⟩)] }))
def clusterWk : State := onRun (fun r => { r with strict := true, body := writeMem2 r.body, blocks := r.blocks ++ [{ blk0 with index := 1, core := 1 }] }) (one [(0, 0x40), (4, 3)] wk0)

def heldWk : State := { one ga1 wk0 with pubs := [(0, { origin := .queue 0 0, cmd := cmd0, ctx := 0, asid := 1, gen := gen1, ch := 0, cls := 1, status := 0, cells := [(0x40000100, 1)], defers := [], opens := [(.l2 0, filterOf [(0x40000100, 1)] 0)], landed := [], prior := [], exports := [], claims := [], peer := [], failed := 0 })] }
theorem witness_AtomicOperations_global : ∃ (s : State) (g : GroupRef) (f : AtomForm) (r : Run) (b : Block) (x : Group) (at' : Nat → Nat), s.clocksRun ∧
    s.issues g (atomRegs f true [4]) = true ∧ s.issues g (atomRegs f true [5, 4]) = true ∧ s.findGroup g = some (r, b, x) ∧ f.space = .global ∧
    (f.scope = .device ∨ f.scope = .system) ∧ f.ecc.bad = none ∧ r.strict = false ∧
    ∀ l ∈ x.active, x.pair l f.addr % AtomBytes f = 0 ∧ s.isHeld (toCh r.ch) (at' l) = false ∧ at' l < hostBase ∧
      ∃ p q, s.translate (s.runXlat r (some b.core)) (x.pair l f.addr) rightA = .ok (at' l, p, q) :=
  ⟨one ga1 wk0, gr, aform .global .device, _, _, _, fun _ => 0x40000100, by decide +kernel, by decide +kernel, by decide +kernel, rfl, rfl, .inl rfl, rfl, by decide +kernel,
   allOk3 (by decide +kernel)⟩
theorem witness_AtomicOperations_host : ∃ (s : State) (g : GroupRef) (f : AtomForm) (r : Run) (b : Block) (x : Group) (at' : Nat → Nat), s.clocksRun ∧
    s.issues g (atomRegs f true [4]) = true ∧ s.findGroup g = some (r, b, x) ∧ f.space = .global ∧ f.scope = .device ∧ f.ecc.bad = none ∧ r.strict = false ∧
    ∀ l ∈ x.active, x.pair l f.addr % AtomBytes f = 0 ∧ s.isHeld (toCh r.ch) (at' l) = false ∧
      (hostBase ≤ at' l ∧ (s.pcieFn (s.ctxFn r.ctx)).atomicEn = true) ∧
      ∃ p q, s.translate (s.runXlat r (some b.core)) (x.pair l f.addr) rightA = .ok (at' l, p, q) :=
  ⟨hostWk, gr, aform .global .device, _, _, _, fun _ => hostBase + 0x5100, by decide +kernel, by decide +kernel, rfl, rfl, rfl, rfl, by decide +kernel,
   allOk3 (by decide +kernel)⟩
theorem witness_AtomicOperations_held : ∃ (s : State) (g : GroupRef) (f : AtomForm) (l k : Nat) (r : Run) (b : Block) (x : Group), s.clocksRun ∧
    s.issues g (atomRegs f f.fetch [4]) = true ∧ s.findGroup g = some (r, b, x) ∧ f.space = .global ∧ f.scope = .device ∧ r.strict = false ∧ x.active = [l] ∧
    x.pair l f.addr % AtomBytes f = 0 ∧ k < hostBase ∧ s.isHeld (toCh r.ch) k = true ∧
    ∃ p q, s.translate (s.runXlat r (some b.core)) (x.pair l f.addr) rightA = .ok (k, p, q) :=
  ⟨heldWk, gr, aform .global .device, 0, 0x40000100, _, _, _, by decide +kernel, by decide +kernel, rfl, rfl, rfl, by decide +kernel, by decide +kernel, by decide +kernel,
   by decide +kernel, by decide +kernel, okAt_ex (by decide +kernel)⟩
theorem witness_AtomicOperations_local : ∃ (s : State) (g : GroupRef) (f : AtomForm) (r : Run) (b : Block) (x : Group), s.clocksRun ∧
    s.issues g (atomRegs f true [5, 4]) = true ∧ s.issues g (atomRegs f true [4]) = true ∧ s.findGroup g = some (r, b, x) ∧ f.ecc.bad = none ∧ f.space = .blockLocal ∧
    f.scope = .block ∧ r.strict = false ∧
    ∀ l ∈ x.active, (x.reg l f.addr).toNat % AtomBytes f = 0 ∧ r.inBls (x.reg l f.addr).toNat (AtomBytes f) = true :=
  ⟨one [(0, 0x40), (4, 3)] wk0, gr, aform .blockLocal .block, _, _, _, by decide +kernel, by decide +kernel, by decide +kernel, rfl, rfl, rfl, rfl, by decide +kernel, by decide +kernel⟩
theorem witness_AtomicOperations_cluster : ∃ (s : State) (g : GroupRef) (f : AtomForm) (r : Run) (b home : Block) (x : Group), s.clocksRun ∧
    s.issues g (atomRegs f false [4]) = true ∧ s.findGroup g = some (r, b, x) ∧ f.ecc.bad = none ∧ f.space = .cluster ∧ f.scope = .cluster ∧
    f.rank < max (lbCluster r.body) 1 ∧ r.rankBlock b f.rank = some home ∧ r.strict = true ∧
    ∀ l ∈ x.active, (x.reg l f.addr).toNat % AtomBytes f = 0 ∧ r.inBls (x.reg l f.addr).toNat (AtomBytes f) = true :=
  ⟨clusterWk, gr, { aform .cluster .cluster with fetch := false, rank := 1 }, _, _, { blk0 with index := 1, core := 1 }, _, by decide +kernel, by decide +kernel, rfl, rfl, rfl, rfl,
   by decide +kernel, by decide +kernel, by decide +kernel, by decide +kernel⟩
theorem witness_TickProgramLoad_2 :
    (∃ (s : State) (ch : Fin 4) (T0 : Nat) (T : Nat) (a : Nat) (ctx : Nat) (b : Nat) (pa : Nat) (m : ModelFigures) (p : Program), s.clocksRun ∧ (s.pacer ch).change = .checking T0 a ctx b pa ∧ (((T0 = 0 ∨ s.tick ch < T0)) ∧ T = (if T0 = 0 then max (s.nextBoundary ch) (s.tick ch + s.relay ch + 1) else T0)) ∧ s.checkProgram ch T a ctx b pa m = .ok p) ∧
    (∃ (s : State) (ch : Fin 4) (T : Nat) (a : Nat) (ctx : Nat) (b : Nat) (pa : Nat) (code : Nat) (v : Nat) (mp : Nat) (w : Nat) (m : ModelFigures), (s.clocksRun ∧ (s.pacer ch).change = .checking T a ctx b pa ∧ s.tick ch < T) ∧ s.checkProgram ch T a ctx b pa m = .error (code, v, mp, w) ∧ (((code ≠ ePipeFormat ∨ s.gangMisfit ch (s.checkGang ch (field (s.devRead a 64) 0x10 4)) ⟨s.devRead pa 0x68⟩ T = false)) ∧ s.marshal ≠ .updating)) :=
  ⟨⟨tpS, 0, _, 5, 0x5000, 0, 0, 0, ⟨[], 0, 0⟩, okD (tpS.checkProgram 0 5 0x5000 0 0 0 ⟨[], 0, 0⟩) prog0, by decide +kernel, rfl, by decide +kernel, (okIs_eq (by decide +kernel))⟩,
   ⟨{ tpS with mem := [] }, 0, 5, 0x5000, 0, 0, 0, eTpFormat, 0, 0, 0, ⟨[], 0, 0⟩, by decide +kernel, (errIs_eq (by decide +kernel)), by decide +kernel⟩⟩
theorem witness_AtomicOperations_11 :
    (∃ (s : State) (g : GroupRef) (f : AtomForm) (v : Nat) (r : Run) (b : Block) (x : Group) (i : Instr), (s.clocksRun ∧ s.issues g (atomRegs f true [v]) = true) ∧ s.findGroup g = some (r, b, x) ∧ (f.fetch = true ∧ (((f.space = .blockLocal ∧ f.scope = .block) ∨ (f.space = .cluster ∧ f.scope = .cluster) ∨ (f.space = .global ∧ (f.scope = .device ∨ f.scope = .system)))) ∧ r.strict = true ∧ i ∈ [Instr.atomAdd g f v, .atomSub g f v, .atomMin g f false v, .atomMax g f true v, .atomAnd g f v, .atomOr g f v, .atomXor g f v,
      .atomExch g f v, .atomSadd g f v, .atomSsub g f v])) ∧
    (∃ (s : State) (g : GroupRef) (f : AtomForm) (v : Nat) (r : Run) (b : Block) (x : Group) (at' : Nat → Nat) (sub : Bool), (s.clocksRun ∧ s.issues g (atomRegs f false [v]) = true) ∧ s.findGroup g = some (r, b, x) ∧ (r.strict = true ∧ f.fetch = false ∧ f.space = .global ∧ ((f.scope = .device ∨ f.scope = .system))) ∧ (∀ l ∈ x.active, x.pair l f.addr % AtomBytes f = 0 ∧ at' l < hostBase ∧ ∃ p q, s.translate (s.runXlat r (some b.core)) (x.pair l f.addr) rightA = .ok (at' l, p, q)) ∧ (r.deferCount + x.active.length ≤ 65536 ∧ ({ r with defers := r.defers ++ x.active.map (fun l => Defer.mk b.index g.group l x.issued (if sub then .ssub f.is64 else .sadd f.is64) none (at' l) (x.atomVal f l v) 0) } : Run).commitUse b.core [] ≤ r.commitRoom)) ∧
    (∃ (s : State) (g : GroupRef) (f : AtomForm) (v : Nat) (r : Run) (b : Block) (x : Group) (sub : Bool), (s.clocksRun ∧ s.issues g (atomRegs f false [v]) = true) ∧ s.findGroup g = some (r, b, x) ∧ (r.strict = true ∧ f.fetch = false ∧ f.space = .blockLocal ∧ ((f.scope = .group ∨ f.scope = .block)) ∧ (∀ l ∈ x.active, (x.reg l f.addr).toNat % AtomBytes f = 0 ∧ r.inBls (x.reg l f.addr).toNat (AtomBytes f) = true) ∧ r.deferCount + x.active.length ≤ 65536 ∧ ({ r with defers := r.defers ++ x.active.map (fun l => Defer.mk b.index g.group l x.issued (if sub then .ssub f.is64 else .sadd f.is64) (some b.index) (x.reg l f.addr).toNat (x.atomVal f l v) 0) } : Run).commitUse b.core [] ≤ r.commitRoom)) :=
  ⟨⟨onRun (fun r => { r with strict := true }) (one ga1 wk0), gr, aform .global .device, 4, _, _, _, .atomAdd gr (aform .global .device) 4, by decide +kernel, rfl, by decide +kernel⟩,
   ⟨onRun (fun r => { r with strict := true }) (one ga1 wk0), gr, { aform .global .device with fetch := false }, 4, _, _, _, fun _ => 0x40000100, true, by decide +kernel, rfl, by decide +kernel, (lanesOk2 (by decide +kernel)), by decide +kernel⟩,
   ⟨onRun (fun r => { r with strict := true }) (one [(0, 0x40), (4, 3)] wk0), gr, { aform .blockLocal .block with fetch := false }, 4, _, _, _, true, by decide +kernel, rfl, by decide +kernel⟩⟩
theorem witness_Locks :
    (∃ (s : State) (g : GroupRef) (f : AtomForm) (v : Nat) (now : Nat) (l : Nat) (k : Nat) (r : Run) (b : Block) (x : Group), (s.clocksRun ∧ s.issues g (atomRegs f true [v]) = true) ∧ s.findGroup g = some (r, b, x) ∧ (f.ecc.bad = none ∧ f.space = .global ∧ f.scope = .device ∧ r.strict = false ∧ x.active = [l] ∧ x.pair l f.addr % AtomBytes f = 0 ∧ k < hostBase ∧ s.isHeld (toCh r.ch) k = false) ∧ (∃ p q, s.translate (s.runXlat r (some b.core)) (x.pair l f.addr) rightA = .ok (k, p, q)) ∧ (s.readNat k (AtomBytes f) = 0 ∧ x.atomVal f l v ≠ 0 ∧ (s.tags.filter (fun t => t.unit = .channel (toCh r.ch))).length < 1024)) ∧
    (∃ (s : State) (g : GroupRef) (f : AtomForm) (cmp : Nat) (v : Nat) (now : Nat) (l : Nat) (k : Nat) (r : Run) (b : Block) (x : Group), (s.clocksRun ∧ s.issues g (atomRegs f true [cmp, v]) = true) ∧ s.findGroup g = some (r, b, x) ∧ (f.ecc.bad = none ∧ f.space = .global ∧ f.scope = .device ∧ r.strict = false ∧ x.active = [l] ∧ x.pair l f.addr % AtomBytes f = 0 ∧ k < hostBase ∧ s.isHeld (toCh r.ch) k = false) ∧ (∃ p q, s.translate (s.runXlat r (some b.core)) (x.pair l f.addr) rightA = .ok (k, p, q)) ∧ (s.readNat k (AtomBytes f) = x.atomVal f l cmp ∧ x.atomVal f l v ≠ 0 ∧ (s.tags.filter (fun t => t.unit = .channel (toCh r.ch))).length < 1024)) ∧
    (∃ (s : State) (g : GroupRef) (f : AtomForm) (cmp : Nat) (v : Nat) (now : Nat) (l : Nat) (k : Nat) (r : Run) (b : Block) (x : Group), (s.clocksRun ∧ s.issues g (atomRegs f true [cmp, v]) = true) ∧ s.findGroup g = some (r, b, x) ∧ (f.ecc.bad = none ∧ f.space = .global ∧ f.scope = .device ∧ r.strict = false ∧ x.active = [l] ∧ x.pair l f.addr % AtomBytes f = 0 ∧ k < hostBase ∧ s.isHeld (toCh r.ch) k = false) ∧ (∃ p q, s.translate (s.runXlat r (some b.core)) (x.pair l f.addr) rightA = .ok (k, p, q)) ∧ s.readNat k (AtomBytes f) ≠ x.atomVal f l cmp) ∧
    (∃ (s : State) (g : GroupRef) (f : AtomForm) (l : Nat) (k : Nat) (r : Run) (b : Block) (x : Group), (s.clocksRun ∧ s.issues g (atomRegs f false []) = true) ∧ s.findGroup g = some (r, b, x) ∧ (f.ecc.bad = none ∧ f.space = .global ∧ f.scope = .device ∧ x.active = [l] ∧ x.pair l f.addr % AtomBytes f = 0 ∧ k < hostBase ∧ s.isHeld (toCh r.ch) k = false) ∧ (∃ p q, s.translate (s.runXlat r (some b.core)) (x.pair l f.addr) rightA = .ok (k, p, q))) ∧
    (∃ (s : State) (u : TagUnit) (addr : Nat) (w : Tag), s.clocksRun ∧ firstTag (s.tags.filter (fun t => t.unit = u && t.addr = addr && t.t0 ≠ none)) = some w ∧ w.further = false) ∧
    (∃ (s : State) (u : TagUnit) (addr : Nat) (w : Tag) (r : Run) (c : Context), s.clocksRun ∧ firstTag (s.tags.filter (fun t => t.unit = u && t.addr = addr && t.t0 ≠ none)) = some w ∧ w.further = true ∧ look s.runs w.run = some r ∧ r.cls ≠ 0 ∧ look s.ctxs r.ctx = some c ∧ c.state = .active) :=
  ⟨⟨one ga1 wk0, gr, aform .global .device, 4, 0, 0, 0x40000100, _, _, _, by decide +kernel, rfl, by decide +kernel, (okAt_ex (by decide +kernel)), by decide +kernel⟩,
   ⟨one ga1 wk0, gr, aform .global .device, 5, 4, 0, 0, 0x40000100, _, _, _, by decide +kernel, rfl, by decide +kernel, (okAt_ex (by decide +kernel)), by decide +kernel⟩,
   ⟨one ga1 wk0, gr, aform .global .device, 4, 4, 0, 0, 0x40000100, _, _, _, by decide +kernel, rfl, by decide +kernel, (okAt_ex (by decide +kernel)), by decide +kernel⟩,
   ⟨one ga1 wk0, gr, aform .global .device, 0, 0x40000100, _, _, _, by decide +kernel, rfl, by decide +kernel, (okAt_ex (by decide +kernel))⟩,
   ⟨{ wk0 with tags := [⟨.channel 0, 8, none, false, 0, 0, 0, 0, 0, 0, some 4, false⟩] }, .channel 0, 8, _, by decide +kernel, rfl, by decide +kernel⟩,
   ⟨{ wk0 with tags := [⟨.channel 0, 8, none, false, 0, 0, 0, 0, 0, 0, some 4, true⟩] }, .channel 0, 8, _, _, _, by decide +kernel, rfl, by decide +kernel, rfl, by decide +kernel, rfl, by decide +kernel⟩⟩
theorem witness_AppendsAndFences :
    (∃ (s : State) (u : State) (g : GroupRef) (desc : Nat) (v : Nat) (d : Nat) (l : Nat) (k : Nat) (ek : Nat) (e : Ecc) (r : Run) (b : Block) (x : Group), (s.clocksRun ∧ s.issues g [(desc, 2), (v, 2), (d, 1)] = true) ∧ s.findGroup g = some (r, b, x) ∧ (r.strict = false ∧ x.active = [l] ∧ e.bad = none ∧ x.pair l desc % 32 = 0 ∧ k < hostBase ∧ s.isHeld (toCh r.ch) k = false) ∧ (∃ p q, s.translate (s.runXlat r (some b.core)) (x.pair l desc) rightA = .ok (k, p, q)) ∧ (appendOk (s.read k 32) = true ∧ field (s.read k 32) 0x0C 4 < field (s.read k 32) 0x08 4) ∧ u = (s.noteEcc (toCh r.ch) e).lookups r (some b.core) [x.pair l desc] ∧ (∃ p q, u.translate (s.runXlat r (some b.core)) (field (s.read k 32) 0 8 + (if field (s.read k 32) 0x14 1 = 1 then 8 else 4) * field (s.read k 32) 0x0C 4) rightW = .ok (ek, p, q))) ∧
    (∃ (s : State) (g : GroupRef) (desc : Nat) (v : Nat) (d : Nat) (l : Nat) (k : Nat) (e : Ecc) (r : Run) (b : Block) (x : Group), (s.clocksRun ∧ s.issues g [(desc, 2), (v, 2), (d, 1)] = true) ∧ s.findGroup g = some (r, b, x) ∧ (r.strict = false ∧ x.active = [l] ∧ e.bad = none ∧ x.pair l desc % 32 = 0 ∧ k < hostBase ∧ s.isHeld (toCh r.ch) k = false) ∧ (∃ p q, s.translate (s.runXlat r (some b.core)) (x.pair l desc) rightA = .ok (k, p, q)) ∧ (appendOk (s.read k 32) = true ∧ field (s.read k 32) 0x08 4 ≤ field (s.read k 32) 0x0C 4)) ∧
    (∃ (s : State) (g : GroupRef) (desc : Nat) (v : Nat) (d : Nat) (e : Ecc) (r : Run) (b : Block) (x : Group) (key : Nat → Nat) (ds : List Defer), (s.clocksRun ∧ s.issues g [(desc, 2), (v, 2), (d, 1)] = true) ∧ s.findGroup g = some (r, b, x) ∧ (r.strict = true ∧ e.bad = none) ∧ (∀ l ∈ x.active, x.pair l desc % 32 = 0 ∧ key l < hostBase ∧ s.isHeld (toCh r.ch) (key l) = false ∧ appendOk (s.read (key l) 32) = true ∧ ∃ p q, s.translate (s.runXlat r (some b.core)) (x.pair l desc) rightA = .ok (key l, p, q)) ∧ ds = x.active.map (fun l => Defer.mk b.index g.group l x.issued .append none (key l) (if field (s.read (key l) 32) 0x14 1 = 1 then x.pair l v else (x.reg l v).toNat) 0) ∧ (r.deferCount + x.active.length ≤ 65536 ∧ ({ r with defers := r.defers ++ ds } : Run).commitUse b.core [] ≤ r.commitRoom)) ∧
    (∃ (s : State) (g : GroupRef) (x : Group) (i : Instr), (s.clocksRun ∧ s.issues g [] = true) ∧ s.group g = some x ∧ i ∈ [Instr.fenceG g, Instr.fenceB g, Instr.fenceC g, Instr.fenceD g]) ∧
    (∃ (s : State) (g : GroupRef) (r : Run) (b : Block) (x : Group), (s.clocksRun ∧ s.issues g [] = true) ∧ s.findGroup g = some (r, b, x)) :=
  ⟨⟨withMem 0x40000100 lst (one ga1 wk0), _, gr, 0, 4, 8, 0, 0x40000100, 0x4000400C, { corrected := [], bad := none, via := .mem }, _, _, _, by decide +kernel, rfl, by decide +kernel, (okAt_ex (by decide +kernel)), by decide +kernel, rfl, (okAt_ex (by decide +kernel))⟩,
   ⟨withMem 0x4000010C [16] (withMem 0x40000100 lst (one ga1 wk0)), gr, 0, 4, 8, 0, 0x40000100, { corrected := [], bad := none, via := .mem }, _, _, _, by decide +kernel, rfl, by decide +kernel, (okAt_ex (by decide +kernel)), by decide +kernel⟩,
   ⟨onRun (fun r => { r with strict := true }) (withMem 0x40000100 lst (one ga1 wk0)), gr, 0, 4, 8, { corrected := [], bad := none, via := .mem }, _, _, _, fun _ => 0x40000100, _, by decide +kernel, rfl, by decide +kernel, (allOk4 (by decide +kernel)), rfl, by decide +kernel⟩,
   ⟨wk0, gr, _, .fenceG gr, by decide +kernel, rfl, by decide +kernel⟩,
   ⟨wk0, gr, _, _, _, by decide +kernel, rfl⟩⟩
theorem witness_BarriersAndCommit :
    (∃ (s : State) (g : GroupRef) (n : Nat) (r : Run) (b : Block) (x : Group) (z : Group) (j : Nat), (s.clocksRun ∧ s.issues g [] = true) ∧ s.findGroup g = some (r, b, x) ∧ (n < 16 ∧ x.converged = true ∧ j ≠ g.group) ∧ b.groups[j]? = some z ∧ (z.dead = false ∧ z.wait ≠ .barB n)) ∧
    (∃ (s : State) (g : GroupRef) (n : Nat) (r : Run) (b : Block) (x : Group), (s.clocksRun ∧ s.issues g [] = true) ∧ s.findGroup g = some (r, b, x) ∧ (n < 16 ∧ x.converged = true) ∧ ((∀ j z, j ≠ g.group → b.groups[j]? = some z → z.dead = true ∨ z.wait = .barB n))) ∧
    (∃ (s : State) (g : GroupRef) (n : Nat) (r : Run) (b : Block) (x : Group) (c : Context), (s.clocksRun ∧ s.issues g [] = true) ∧ s.findGroup g = some (r, b, x) ∧ (n < 16 ∧ x.converged = false ∧ r.cls ≠ 0) ∧ look s.ctxs r.ctx = some c ∧ c.state = .active) ∧
    (∃ (s : State) (g : GroupRef) (n : Nat) (x : Group), (s.clocksRun ∧ s.issues g [] = true) ∧ s.group g = some x ∧ (n < 16 ∧ x.converged = false)) ∧
    (∃ (s : State) (g : GroupRef) (n : Nat) (r : Run) (b : Block) (x : Group), (s.clocksRun ∧ s.issues g [] = true) ∧ s.findGroup g = some (r, b, x) ∧ (n < 16 ∧ x.exited ||| x.mask = 0xFFFFFFFF) ∧ ((∀ j z, j ≠ g.group → b.groups[j]? = some z → z.dead = true ∨ z.wait = .barB n))) ∧
    (∃ (s : State) (g : GroupRef) (r : Run) (b : Block) (b2 : Block) (x : Group) (z : Group), (s.clocksRun ∧ s.issues g [] = true) ∧ s.findGroup g = some (r, b, x) ∧ (x.converged = true ∧ b2 ∈ r.clusterOf b.index ∧ b2.index ≠ b.index ∧ z ∈ b2.groups ∧ z.dead = false ∧ z.wait ≠ .barC)) ∧
    (∃ (s : State) (g : GroupRef) (r : Run) (b : Block) (x : Group), (s.clocksRun ∧ s.issues g [] = true) ∧ s.findGroup g = some (r, b, x) ∧ (x.converged = true ∧ lbCluster r.body ≤ 1 ∧ r.blocks = [b] ∧ b.groups = [x])) ∧
    (∃ (s : State) (g : GroupRef) (st : Nat) (r : Run) (b : Block) (x : Group) (z : Group) (j : Nat), (s.clocksRun ∧ s.issues g [] = true) ∧ s.findGroup g = some (r, b, x) ∧ (x.frag = none ∧ x.converged = true ∧ j ≠ g.group) ∧ b.groups[j]? = some z ∧ z.dead = false ∧ (∀ n, z.wait ≠ .commit n) ∧ (∀ n, z.wait ≠ .barB n) ∧ z.wait ≠ .barC) :=
  ⟨⟨two, gr, 3, _, _, _, _, 1, by decide +kernel, rfl, by decide +kernel, rfl, by decide +kernel⟩,
   ⟨wk0, gr, 3, _, _, _, by decide +kernel, rfl, by decide +kernel, (by intro j z hj hz; match j, hj, hz with | 0, hj, _ => exact absurd rfl hj | j + 1, _, hz => simp [wk0, rn0, blk0, gr] at hz)⟩,
   ⟨onGrp (fun g => { g with mask := 1 }) wk0, gr, 3, _, _, _, _, by decide +kernel, rfl, by decide +kernel, rfl, by decide +kernel⟩,
   ⟨onGrp (fun g => { g with mask := 1 }) wk0, gr, 3, _, by decide +kernel, rfl, by decide +kernel⟩,
   ⟨full wk0, gr, 3, _, _, _, by decide +kernel, rfl, by decide +kernel, (by intro j z hj hz; match j, hj, hz with | 0, hj, _ => exact absurd rfl hj | j + 1, _, hz => simp [wk0, rn0, blk0, gr] at hz)⟩,
   ⟨onRun (fun r => { r with body := writeMem2 r.body, blocks := [blk0, { blk0 with index := 1, core := 1 }] }) wk0, gr, _, _, { blk0 with index := 1, core := 1 }, _, grp0, by decide +kernel, rfl, by decide +kernel⟩,
   ⟨wk0, gr, _, _, _, by decide +kernel, rfl, by decide +kernel⟩,
   ⟨two, gr, 7, _, _, _, _, 1, by decide +kernel, rfl, by decide +kernel, rfl, by decide +kernel, (fun n h => by cases h), (fun n h => by cases h), by decide +kernel⟩⟩
theorem witness_BarriersAndCommit_8 : ∃ (s : State) (g : GroupRef) (st : Nat) (r : Run) (b : Block) (x : Group), (s.clocksRun ∧ s.issues g [] = true) ∧ s.findGroup g = some (r, b, x) ∧ (x.frag = none ∧ x.converged = true ∧ b.groups = [x]) :=
  ⟨wk0, gr, 7, _, _, _, by decide +kernel, rfl, by decide +kernel⟩
theorem witness_AllocatorCalls :
    (∃ (s : State) (g : GroupRef) (d : Nat) (size : Nat) (align : Nat) (l : Nat) (pa : Nat) (e : Ecc) (r : Run) (b : Block) (x : Group) (must : Bool), (s.clocksRun ∧ e.bad = none ∧ s.issues g [(d, 2)] = true) ∧ s.findGroup g = some (r, b, x) ∧ (allocArgs size align = true ∧ r.calls < lbAllocMax r.body ∧ s.memUp (toCh r.ch) = true ∧ x.active = [l] ∧ r.gen.allocEn = true ∧ s.place r.asid (toCh r.ch) size align = some pa ∧ r.gen.allocVa + pa ≠ 0)) ∧
    (∃ (s : State) (g : GroupRef) (d : Nat) (size : Nat) (align : Nat) (l : Nat) (e : Ecc) (r : Run) (b : Block) (x : Group), (s.clocksRun ∧ e.bad = none ∧ s.issues g [(d, 2)] = true) ∧ s.findGroup g = some (r, b, x) ∧ (allocArgs size align = true ∧ r.calls < lbAllocMax r.body ∧ s.memUp (toCh r.ch) = true ∧ x.active = [l] ∧ s.place r.asid (toCh r.ch) size align = none)) ∧
    (∃ (s : State) (g : GroupRef) (d : Nat) (size : Nat) (align : Nat) (l : Nat) (e : Ecc) (r : Run) (b : Block) (x : Group) (c : Context), (s.clocksRun ∧ e.bad = none ∧ s.issues g [(d, 2)] = true) ∧ s.findGroup g = some (r, b, x) ∧ (allocArgs size align = true ∧ r.calls < lbAllocMax r.body ∧ s.memUp (toCh r.ch) = true ∧ x.active = [l] ∧ s.place r.asid (toCh r.ch) size align = none ∧ r.cls ≠ 0) ∧ look s.ctxs r.ctx = some c ∧ c.state = .active) ∧
    (∃ (s : State) (g : GroupRef) (a : Nat) (l : Nat) (e : Ecc) (r : Run) (b : Block) (x : Group) (al : Alloc), (s.clocksRun ∧ s.issues g [(a, 2)] = true ∧ e.bad = none) ∧ s.findGroup g = some (r, b, x) ∧ (s.memUp (toCh r.ch) = true ∧ x.active = [l] ∧ r.gen.allocEn = true ∧ r.gen.allocVa ≤ x.pair l a) ∧ look (s.allocs.get (toCh r.ch)).allocs (x.pair l a - r.gen.allocVa) = some al ∧ (al.ctx = r.ctx ∧ al.kv = false ∧ al.prov = some g.run)) ∧
    (∃ (s : State) (g : GroupRef) (a : Nat) (l : Nat) (e : Ecc) (r : Run) (b : Block) (x : Group) (al : Alloc), (s.clocksRun ∧ s.issues g [(a, 2)] = true ∧ e.bad = none) ∧ s.findGroup g = some (r, b, x) ∧ (s.memUp (toCh r.ch) = true ∧ x.active = [l] ∧ r.gen.allocEn = true ∧ r.gen.allocVa ≤ x.pair l a) ∧ look (s.allocs.get (toCh r.ch)).allocs (x.pair l a - r.gen.allocVa) = some al ∧ (al.ctx = r.ctx ∧ al.kv = false ∧ al.prov ≠ some g.run ∧ (∀ e ∈ r.defers, e.kind = .free → e.addr ≠ x.pair l a - r.gen.allocVa))) ∧
    (∃ (s : State) (g : GroupRef) (d : Nat) (size : Nat) (align : Nat) (a : Nat) (e : Ecc) (r : Run) (b : Block) (x : Group) (i : Instr), s.clocksRun ∧ ((i ∈ [Instr.alloc g d size align e, .allocF g d size align e] ∧ s.issues g [(d, 2)] = true ∧ allocArgs size align = true ∧ r.calls + x.active.length ≤ lbAllocMax r.body ∨ i = .free g a e ∧ s.issues g [(a, 2)] = true)) ∧ s.findGroup g = some (r, b, x) ∧ (s.memUp (toCh r.ch) = true ∧ e.bad ≠ none)) :=
  ⟨⟨pl, gr, 8, 256, 256, 0, (pl.place 1 0 256 256).getD 0, { corrected := [], bad := none, via := .mem }, _, _, _, true, by decide +kernel, rfl, by decide +kernel⟩,
   ⟨pl.setObj (key 0x4801 9) 0, gr, 8, 256, 256, 0, { corrected := [], bad := none, via := .mem }, _, _, _, by decide +kernel, rfl, by decide +kernel⟩,
   ⟨pl.setObj (key 0x4801 9) 0, gr, 8, 256, 256, 0, { corrected := [], bad := none, via := .mem }, _, _, _, _, by decide +kernel, rfl, by decide +kernel, rfl, by decide +kernel⟩,
   ⟨fr (some 0), gr, 0, 0, { corrected := [], bad := none, via := .mem }, _, _, _, _, by decide +kernel, rfl, by decide +kernel, rfl, by decide +kernel⟩,
   ⟨fr none, gr, 0, 0, { corrected := [], bad := none, via := .mem }, _, _, _, _, by decide +kernel, rfl, by decide +kernel, rfl, by decide +kernel⟩,
   ⟨pl, gr, 8, 256, 256, 0, { corrected := [], bad := some 0x2010000, via := .mem }, _, _, _, .alloc gr 8 256 256 { corrected := [], bad := some 0x2010000, via := .mem }, by decide +kernel, (.inl (by decide +kernel)), rfl, by decide +kernel⟩⟩
theorem witness_LaunchStartsBlocks :
    (∃ (s : State) (id : Nat) (r : Run), s.clocksRun ∧ look s.runs id = some r ∧ (r.eng = .launch ∧ r.cmd.op = 1 ∧ r.finished = false ∧ r.blocks = [] ∧ 1 ≤ lbCluster r.body ∧ lbCluster r.body ≤ lbBlocks r.body ∧ 0 < resLimit r.body 0)) ∧
    (∃ (s : State) (id : Nat) (core : Nat) (c : Nat) (r : Run), s.clocksRun ∧ look s.runs id = some r ∧ (r.eng = .launch ∧ r.finished = false ∧ 1 ≤ lbCluster r.body) ∧ (upto (lbBlocks r.body / lbCluster r.body)).find? (fun c => (upto (lbCluster r.body)).any (fun k => placeCore r.body c k = core) && !r.blocks.any (fun b => b.index / lbCluster r.body = c)) = some c ∧ (∀ k < lbCluster r.body, r.resident (placeCore r.body c k) < resLimit r.body 0)) ∧
    (∃ (body : List Byte) (i : Nat) (core : Nat) (x : Group) (l : Nat) (r : Nat), x ∈ (startBlock body i core).groups) :=
  ⟨⟨onRun (fun r => { r with blocks := [] }) wk0, 0, _, by decide +kernel, rfl, by decide +kernel⟩,
   ⟨onRun (fun r => { r with blocks := [] }) wk0, 0, 0, _, _, by decide +kernel, rfl, by decide +kernel, rfl, by decide +kernel⟩,
   ⟨lbody, 0, 0, (startBlock lbody 0 0).groups.headD grp0, 0, 0, by decide +kernel⟩⟩

end W04

namespace W05

def vrec : List Byte := toLE 8 0x1000 ++ toLE 8 0x2000 ++ toLE 4 16 ++ toLE 4 32 ++ toLE 4 32 ++ toLE 2 1 ++ bytes [1, 0]
def mview : View := { ebase := 0x1000, sbase := 0x2000, rows := 16, cols := 32, estride := 32, sstride := 1, fmt := 1, sp := .blockLocal }
def cfgF : Nat := 0x50000000
def cfgS : Nat := 0x10000000
def tile0 : Tile := { frag := 16, cfg := cfgF, va := mview, vb := mview, i0 := 0, j0 := 0, k0 := 0, n := 1, eAcc := 0, count := 0 }
def bls0 : List Host.Cell := writeMem (writeMem [] 0 vrec) (0x4000 + 0x800) (toLE 4 cfgF)
def mx : State := onRun (fun r => { r with blocks := r.blocks.map (fun b => { b with bls := bls0 }) }) (full wk0)
def mxS : State := onRun (fun r => { r with body := r.body.take 0x1E ++ toLE 2 32 ++ r.body.drop 0x20 }) mx
def mtS : State := onGrp (fun g => { g with tiles := ⟨some tile0, some { tile0 with frag := 32, eAcc := 3, count := 0 }, none, none⟩ }) mxS
def z0 : List Int × Int := (List.replicate 32 0, 0)
def mstepOk (x : Group) (q : Tile) (as bs : List (List Int × Int)) (e : Nat) : Bool :=
  match as[e / 16]?, bs[e % 16]? with
  | some u, some v => decide (u.2 + v.2 ≤ (if accMode q.cfg = 0 then q.bound else accMbound q.cfg)) && fits64 (x.fragElem q.frag e + align (blockDot u.1 v.1) (u.2 + v.2) q.eAcc)
  | _, _ => false
theorem mstep_hyp {x : Group} {q : Tile} {as bs : List (List Int × Int)} (h : ∀ e < 256, mstepOk x q as bs e = true) :
    ∀ e < 256, ∃ u v, as[e / 16]? = some u ∧ bs[e % 16]? = some v ∧ u.2 + v.2 ≤ (if accMode q.cfg = 0 then q.bound else accMbound q.cfg) ∧
      fits64 (x.fragElem q.frag e + align (blockDot u.1 v.1) (u.2 + v.2) q.eAcc) = true := by
  intro e he
  have h1 := h e he
  unfold mstepOk at h1
  split at h1
  · rename_i u v hu hv
    simp only [Bool.and_eq_true, decide_eq_true_eq] at h1
    exact ⟨u, v, hu, hv, h1.1, h1.2⟩
  · cases h1
def edesc : List Byte := bytes [5, 0, 0, 0] ++ toLE 2 0 ++ bytes [0, 0] ++ List.replicate 24 0
def orec : List Byte := toLE 8 0x1000 ++ toLE 8 0x2000 ++ toLE 4 16 ++ toLE 4 16 ++ toLE 4 64 ++ toLE 2 1 ++ bytes [1, 0]
def me : State := onRun (fun r => { r with blocks := r.blocks.map (fun b => { b with bls := writeMem (writeMem b.bls 0x100 edesc) 0x200 orec }) }) mtS
def erun : Run := { rn0 with body := lbody.take 0x1E ++ toLE 2 32 ++ lbody.drop 0x20 }
def mrow : List (List Int) := List.replicate 16 (List.replicate 16 0)
def surfd : List Byte := toLE 8 0x40005000 ++ toLE 8 0 ++ toLE 4 64 ++ toLE 4 8 ++ toLE 4 8 ++ List.replicate 20 0
def ray1 : State := onRun (fun r => { r with eng := .traverse, cmd := { r.cmd with op := 3, body := List.replicate 4 0 ++ toLE 4 1 ++ List.replicate 16 0 ++ toLE 8 0 ++ toLE 8 0x40000100 ++ toLE 8 0x40000200 ++ List.replicate 80 0 } }) wk0
def held (s : State) : State := { s with pubs := [(0, { origin := .queue 0 0, cmd := cmd0, ctx := 0, asid := 1, gen := gen1, ch := 0, cls := 1, status := 0, cells := [(0x40000100, 1)], defers := [], opens := [(.l2 0, filterOf [(0x40000100, 1)] 0)], landed := [], prior := [], exports := [], claims := [], peer := [], failed := 0 })] }
def copyB (m : Nat) : List Byte := bytes [m, 0, 0, 0] ++ toLE 4 1 ++ toLE 4 64 ++ toLE 4 0 ++ toLE 8 0x40000100 ++ toLE 4 0 ++ toLE 4 0 ++ toLE 8 0x40000200 ++ List.replicate 24 0
def cp (op m : Nat) : State := onRun (fun r => { r with eng := .copy, cmd := { r.cmd with op := op, body := copyB m } }) wk0
def takeS : State := onRun (fun r => { r with eng := .copy, cmd := { r.cmd with op := 7, body := bytes [0, 0, 0, 0] ++ toLE 4 0 ++ toLE 8 0x40000200 ++ List.replicate 16 0 } }) { wk0 with mboxes := [(32, { reg := 0, pending := true, ptr := 5, tag := 6, seq := 1, rc := 0 })] }
def pass0 : Pass := { phase := .tiles, direct := true, auto := false, next := 0, skip := 0, entries := 0, lists := [], touched := [], stored := [], drawn := (0, 0), poolKb := 0, chunks := [], stageCh := [], final := true, tile := 4096, prim := 0, stamp := 0, slots := [], opened := false, pix := [], widths := [0, 0, 0, 0, 0], stage := [] }
def rs : State := onRun (fun r => { r with eng := .raster, pass := some pass0, blocks := [], cmd := { r.cmd with op := 4, body := List.replicate 176 0 } }) wk0
def pool : Allocator := { base := 0x2000000, chunks := 64, staged := none, asOf := 0, zeroed := (List.range 64).drop 1, ready := true, allocs := [], taken := [] }
def growS : State := (onRun (fun r => { r with eng := .raster, pass := some { pass0 with phase := .growing }, blocks := [], cmd := { r.cmd with op := 4, body := List.replicate 0x1A 0 ++ toLE 2 64 ++ List.replicate 160 0 } }) { wk0 with allocs := .all pool }).setObj (key 0x4801 9) 0x1000000

def cprun (s : State) : Run := (s.runs.headD (0, rn0)).2
def mrun : Run := cprun me
def mblk : Block := mrun.blocks.headD blk0
def mgrp : Group := mblk.groups.headD grp0
def mepi : Epi := { fmt := 5, flags := 0, eb := 0, mexp := 0, oexp := 0, smax := 0, bias := 0, mul := 0, nlt := 0 }
def mvo : View := { mview with cols := 16, estride := 64 }
def mouts : List (List (Nat × List Byte) × Nat) := ((okD (me.epiValues mrun mblk .blockLocal mepi mgrp 0) ([], 0, 0)).1.zipIdx.filter (fun p => 0 + p.2 < mvo.rows)).map (fun p => if mepi.fmt ≤ 2 then blockRow mepi mvo (0 + p.2) 0 0 p.1 else scalarRow mepi mvo (0 + p.2) 0 0 p.1)

def ag : Gen := { gen1 with allocVa := 0x80000000, allocEn := true }
def growG : State := onRun (fun r => { r with gen := ag }) { growS with spaces := [(1, { space1 with force := .all ag, newest := ag })] }

theorem put_len {α : Type} (l : List (Nat × α)) (k : Nat) (v : α) : (put l k v).length ≤ l.length + 1 := by
  induction l with
  | nil => simp [put]
  | cons a t ih =>
    simp only [put]
    split
    · simp
    · split
      · simp
      · simp only [List.length_cons]; omega
theorem stage_len (new : List Host.Cell) : ∀ cs : List Host.Cell, (stage cs new).length ≤ cs.length + new.length := by
  induction new with
  | nil => intro cs; simp [stage]
  | cons c t ih =>
    intro cs
    have h1 := ih (put cs c.1 c.2)
    have h2 := put_len cs c.1 c.2
    simp only [stage, List.foldl_cons, List.length_cons] at *
    omega
theorem lines_len (cs : List Host.Cell) : (linesOf cs).length ≤ cs.length := by
  have h : ∀ (cs : List Host.Cell) (l : List Nat), (cs.foldl (fun l c => if l.head? = some (c.1 / 64) then l else (c.1 / 64) :: l) l).length ≤ l.length + cs.length := by
    intro cs
    induction cs with
    | nil => intro l; simp
    | cons c t ih =>
      intro l
      simp only [List.foldl_cons, List.length_cons]
      split
      · have := ih l; omega
      · have := ih ((c.1 / 64) :: l); simp only [List.length_cons] at this; omega
  have h1 := h cs []
  simpa [linesOf] using h1
/-- A core whose blocks have staged and deferred nothing uses at most 80 bytes for each byte staged. -/
theorem use_le {r : Run} {core n : Nat} {cells : List Host.Cell} (h1 : ((r.blocks.filter (fun b => b.core = core)).foldl (fun m b => stage m b.staged) [] = []))
    (h2 : r.defers = []) (h3 : cells.length = n) (h4 : 80 * n ≤ r.commitRoom) : r.commitUse core cells ≤ r.commitRoom := by
  have a := lines_len (stage [] cells)
  have b := stage_len cells []
  simp only [Run.commitUse, h1, h2, List.filter_nil, List.length_nil] at *
  omega
def msG : State := onRun (fun r => { r with body := r.body.take 0x20 ++ toLE 2 255 ++ r.body.drop 0x22 }) mtS

def mcells : List Host.Cell := okD (msG.stageV (msG.runXlat (cprun msG)) 0x40000100 (recBytes tile0 (mgrp.fragment 16))) []
theorem mcells_len : mcells.length = 2064 := by decide +kernel
theorem mcells_at : msG.stageV (msG.runXlat (cprun msG)) 0x40000100 (recBytes tile0 (mgrp.fragment 16)) = .ok mcells := okIs_eq (by decide +kernel)

def msB : Block := (cprun msG).blocks.headD blk0
theorem witness_MatrixTiles :
    (∃ (s : State) (u : State) (ecc : Ecc) (g : GroupRef) (t : Nat) (f : Nat) (cfg : Nat) (va : Nat) (vb : Nat) (i0 : Nat) (j0 : Nat) (k0 : Nat) (n : Nat) (sp : MSpace) (r : Run) (b : Block) (x : Group) (a : View) (c : View), (s.clocksRun ∧ ecc.bad = none ∧ s.issues g [] = true) ∧ s.findGroup g = some (r, b, x) ∧ u = s.noteEcc (toCh r.ch) ecc ∧ (t < 4 ∧ x.mask = 0xFFFFFFFF) ∧ u.openViews r b x t f cfg va vb sp = .ok (a, c) ∧ accMode cfg = 1) ∧
    (∃ (s : State) (u : State) (ecc : Ecc) (g : GroupRef) (t : Nat) (f : Nat) (cfg : Nat) (va : Nat) (vb : Nat) (i0 : Nat) (j0 : Nat) (k0 : Nat) (n : Nat) (sp : MSpace) (r : Run) (b : Block) (x : Group) (a : View) (c : View) (p : Int) (q : Int), (s.clocksRun ∧ ecc.bad = none ∧ s.issues g [] = true) ∧ s.findGroup g = some (r, b, x) ∧ u = s.noteEcc (toCh r.ch) ecc ∧ (t < 4 ∧ x.mask = 0xFFFFFFFF) ∧ u.openViews r b x t f cfg va vb sp = .ok (a, c) ∧ (accMode cfg = 0 ∧ n ≠ 0) ∧ u.scan r b a i0 k0 n = .ok p ∧ u.scan r b c j0 k0 n = .ok q) ∧
    (∃ (s : State) (u : State) (ecc : Ecc) (g : GroupRef) (t : Nat) (f : Nat) (recAddr : Nat) (cfg : Nat) (va : Nat) (vb : Nat) (i0 : Nat) (j0 : Nat) (k0 : Nat) (n : Nat) (sp : MSpace) (r : Run) (b : Block) (x : Group) (a : View) (c : View) (q : TileRec), (s.clocksRun ∧ ecc.bad = none ∧ s.issues g [] = true) ∧ s.findGroup g = some (r, b, x) ∧ u = s.noteEcc (toCh r.ch) ecc ∧ (t < 4 ∧ x.mask = 0xFFFFFFFF) ∧ u.openViews r b x t f cfg va vb sp = .ok (a, c) ∧ u.tileRec r b sp recAddr = .ok q ∧ q.cfg = cfg) ∧
    (∃ (s : State) (w : State) (ecc : Ecc) (g : GroupRef) (t : Nat) (k : Nat) (r : Run) (b : Block) (x : Group) (q : Tile) (as : List (List Int × Int)) (bs : List (List Int × Int)), (s.clocksRun ∧ ecc.bad = none ∧ s.issues g [] = true) ∧ s.findGroup g = some (r, b, x) ∧ w = s.noteEcc (toCh r.ch) ecc ∧ (t < 4 ∧ x.mask = 0xFFFFFFFF ∧ x.tiles.get (toCh t) = some q ∧ q.k0 ≤ k ∧ k < q.k0 + q.n ∧ q.count + 1 ≤ 2 ^ accClog q.cfg) ∧ allOk ((upto 16).map (fun i => w.viewBlock r b q.va (q.i0 + i) k)) = .ok as ∧ allOk ((upto 16).map (fun j => w.viewBlock r b q.vb (q.j0 + j) k)) = .ok bs ∧ (∀ e < 256, ∃ u v, as[e / 16]? = some u ∧ bs[e % 16]? = some v ∧ u.2 + v.2 ≤ (if accMode q.cfg = 0 then q.bound else accMbound q.cfg) ∧ fits64 (x.fragElem q.frag e + align (blockDot u.1 v.1) (u.2 + v.2) q.eAcc) = true) ∧ accMode q.cfg ≤ 1) ∧
    (∃ (s : State) (g : GroupRef) (t : Nat) (u : Nat) (r : Run) (b : Block) (x : Group) (p : Tile) (q : Tile) (m : Tile × List Int), (s.clocksRun ∧ s.issues g [] = true) ∧ s.findGroup g = some (r, b, x) ∧ (t < 4 ∧ u < 4 ∧ t ≠ u ∧ x.mask = 0xFFFFFFFF ∧ x.tiles.get (toCh t) = some p ∧ x.tiles.get (toCh u) = some q) ∧ mergeInto p (x.fragment p.frag) q.cfg q.eAcc q.count (x.fragment q.frag) = .ok m) ∧
    (∃ (s : State) (u : State) (ecc : Ecc) (g : GroupRef) (t : Nat) (recAddr : Nat) (sp : MSpace) (r : Run) (b : Block) (x : Group) (p : Tile) (q : TileRec) (m : Tile × List Int), (s.clocksRun ∧ ecc.bad = none ∧ s.issues g [] = true) ∧ s.findGroup g = some (r, b, x) ∧ u = s.noteEcc (toCh r.ch) ecc ∧ (t < 4 ∧ x.mask = 0xFFFFFFFF ∧ x.tiles.get (toCh t) = some p) ∧ u.tileRec r b sp recAddr = .ok q ∧ mergeInto p (x.fragment p.frag) q.cfg q.eAcc q.count q.vals = .ok m) ∧
    (∃ (s : State) (g : GroupRef) (t : Nat) (recAddr : Nat) (r : Run) (b : Block) (x : Group) (q : Tile), (s.clocksRun ∧ s.issues g [] = true) ∧ s.findGroup g = some (r, b, x) ∧ (t < 4 ∧ x.mask = 0xFFFFFFFF ∧ x.tiles.get (toCh t) = some q ∧ recAddr % 16 = 0 ∧ r.inBls recAddr 2064 = true)) ∧
    (∃ (s : State) (g : GroupRef) (t : Nat) (recAddr : Nat) (r : Run) (b : Block) (x : Group) (q : Tile) (cells : List Host.Cell), (s.clocksRun ∧ s.issues g [] = true ∧ s.findGroup g = some (r, b, x) ∧ t < 4 ∧ x.mask = 0xFFFFFFFF ∧ x.tiles.get (toCh t) = some q ∧ recAddr % 16 = 0) ∧ s.stageV (s.runXlat r (some b.core)) recAddr (recBytes q (x.fragment q.frag)) = .ok cells ∧ r.commitUse b.core cells ≤ r.commitRoom) :=
  ⟨⟨mxS, _, { corrected := [], bad := none, via := .mem }, gr, 0, 16, cfgF, 0, 0, 0, 0, 0, 1, .blockLocal, _, _, _, mview, mview, by decide +kernel, rfl, rfl, by decide +kernel, (okIs_eq (by decide +kernel)), by decide +kernel⟩,
   ⟨mxS, _, { corrected := [], bad := none, via := .mem }, gr, 0, 16, cfgS, 0, 0, 0, 0, 0, 1, .blockLocal, _, _, _, mview, mview, 0, 0, by decide +kernel, rfl, rfl, by decide +kernel, (okIs_eq (by decide +kernel)), by decide +kernel, (okIs_eq (by decide +kernel)), (okIs_eq (by decide +kernel))⟩,
   ⟨mxS, _, { corrected := [], bad := none, via := .mem }, gr, 0, 16, 0x4000, cfgF, 0, 0, 0, 0, 0, 1, .blockLocal, _, _, _, mview, mview, ⟨List.replicate 256 0, cfgF, 0, 0⟩, by decide +kernel, rfl, rfl, by decide +kernel, (okIs_eq (by decide +kernel)), (okIs_eq (by decide +kernel)), by decide +kernel⟩,
   ⟨mtS, _, { corrected := [], bad := none, via := .mem }, gr, 0, 0, _, _, _, tile0, List.replicate 16 z0, List.replicate 16 z0, by decide +kernel, rfl, rfl, by decide +kernel, (okIs_eq (by decide +kernel)), (okIs_eq (by decide +kernel)), (mstep_hyp (by decide +kernel)), by decide +kernel⟩,
   ⟨mtS, gr, 0, 1, _, _, _, tile0, { tile0 with frag := 32, eAcc := 3 }, ({ tile0 with eAcc := 3 }, List.replicate 256 0), by decide +kernel, rfl, by decide +kernel, (okIs_eq (by decide +kernel))⟩,
   ⟨mtS, _, { corrected := [], bad := none, via := .mem }, gr, 0, 0x4000, .blockLocal, _, _, _, tile0, ⟨List.replicate 256 0, cfgF, 0, 0⟩, (tile0, List.replicate 256 0), by decide +kernel, rfl, rfl, by decide +kernel, (okIs_eq (by decide +kernel)), (okIs_eq (by decide +kernel))⟩,
   ⟨mtS, gr, 0, 0x5000, _, _, _, tile0, by decide +kernel, rfl, by decide +kernel⟩,
   ⟨msG, gr, 0, 0x40000100, cprun msG, msB, (msB.groups.headD grp0), tile0, mcells, by decide +kernel, mcells_at, (use_le (n := 2064) (by decide +kernel) (by decide +kernel) mcells_len (by decide +kernel))⟩⟩
theorem witness_MatrixTiles_8 :
    (∃ (s : State) (u : State) (ecc : Ecc) (g : GroupRef) (t : Nat) (desc : Nat) (vo : Nat) (io : Nat) (bo : Nat) (c : Nat) (r : Run) (r' : Run) (b : Block) (b' : Block) (x : Group) (sp : MSpace) (d : Epi) (v : View) (rows : List (List Int)) (ev : Int) (outs : List (List (Nat × List Byte) × Nat)), (s.clocksRun ∧ ecc.bad = none ∧ s.issues g [] = true ∧ s.findGroup g = some (r, b, x)) ∧ u = s.noteEcc (toCh r.ch) ecc ∧ (t < 4 ∧ x.mask = 0xFFFFFFFF) ∧ u.epiAt r b sp desc = .ok d ∧ (d.fmt ≤ 1 → t % 2 = 0) ∧ u.viewAt r b sp vo (if d.fmt ≤ 2 then 0 else scalarBits d.fmt / 8) = .ok v ∧ u.epiValues r b sp d x t = .ok (rows, ev, c) ∧ (d.fmt ≤ 2 → v.fmt = d.fmt) ∧ outs = (rows.zipIdx.filter (fun p => io + p.2 < v.rows)).map (fun p => if d.fmt ≤ 2 then blockRow d v (io + p.2) bo ev p.1 else scalarRow d v (io + p.2) bo ev p.1) ∧ u.mwrites sp r b (outs.map (·.1)).flatten = .ok (r', b')) ∧
    (∃ (s : State) (g : GroupRef) (t : Nat) (r : Run) (b : Block) (x : Group), (s.clocksRun ∧ s.issues g [] = true) ∧ s.findGroup g = some (r, b, x) ∧ (t < 4 ∧ x.mask = 0xFFFFFFFF)) ∧
    (∃ (s : State) (ecc : Ecc) (g : GroupRef) (t : Nat) (k : Nat) (r : Run) (b : Block) (x : Group) (c : Context), (s.clocksRun ∧ s.issues g [] = true) ∧ s.findGroup g = some (r, b, x) ∧ (t < 4 ∧ x.mask ≠ 0xFFFFFFFF ∧ r.cls ≠ 0) ∧ look s.ctxs r.ctx = some c ∧ c.state = .active) :=
  ⟨⟨me, _, { corrected := [], bad := none, via := .mem }, gr, 0, 0x100, 0x200, 0, 0, 0, mrun, (okD (me.mwrites .blockLocal mrun mblk (mouts.map (·.1)).flatten) (mrun, mblk)).1, mblk, (okD (me.mwrites .blockLocal mrun mblk (mouts.map (·.1)).flatten) (mrun, mblk)).2, mgrp, .blockLocal, { fmt := 5, flags := 0, eb := 0, mexp := 0, oexp := 0, smax := 0, bias := 0, mul := 0, nlt := 0 }, { mview with cols := 16, estride := 64 }, (okD (me.epiValues mrun mblk .blockLocal mepi mgrp 0) ([], 0, 0)).1, 0, _, by decide +kernel, rfl, by decide +kernel, (okIs_eq (by decide +kernel)), (by decide), (okIs_eq (by decide +kernel)), (okIs_eq (by decide +kernel)), (by decide), (show mouts = _ from rfl), (okIs_eq (by decide +kernel))⟩,
   ⟨mtS, gr, 0, _, _, _, by decide +kernel, rfl, by decide +kernel⟩,
   ⟨onGrp (fun g => { g with mask := 3 }) wk0, { corrected := [], bad := none, via := .mem }, gr, 0, 0, _, _, _, _, by decide +kernel, rfl, by decide +kernel, rfl, by decide +kernel⟩⟩
theorem witness_QueriesAndSearches_1 :
    (∃ (s : State) (w : State) (ecc : Ecc) (g : GroupRef) (d : Nat) (sr : Nat) (h : Nat) (r : Run) (b : Block) (x : Group) (rec' : Nat → List Byte) (visits : Nat → Nat) (lim : Nat → Bool) (nodes : Nat → List (Nat × Nat)), (s.clocksRun ∧ s.issues g [(d, 4), (sr, 8), (h, 2)] = true) ∧ s.findGroup g = some (r, b, x) ∧ ecc.bad = none ∧ w = s.noteEcc (toCh r.ch) ecc ∧ (∀ l ∈ x.active, w.rayAnswer { r with eng := .traverse } (x.pair l h) (rayOf (toLE 32 (x.words l sr 8)) 65535) = .ok (rec' l, visits l, lim l, nodes l))) ∧
    (∃ (s : State) (run : Nat) (ecc : Ecc) (r : Run) (o : EngineOut) (i : Instr) (f : Run → Except Nat EngineOut), s.clocksRun ∧ look s.runs run = some r ∧ (r.finished = false ∧ ecc.bad = none) ∧ ((i = .bearingSearch run ecc ∧ bearingMode 0 r = true ∧ f = s.search ∨ i = .bearingRefine run ecc ∧ bearingMode 1 r = true ∧ f = s.refine ∨ i = .bearingOcclude run ecc ∧ bearingMode 2 r = true ∧ f = s.occlude ∨ i = .traverseRays run ecc ∧ traverseMode 0 r = true ∧ f = s.rays ∨ i = .traversePatch run ecc ∧ traverseMode 1 r = true ∧ f = s.patches)) ∧ f r = .ok o) ∧
    (∃ (s : State) (w : State) (run : Nat) (e : Nat) (k : Nat) (ecc : Ecc) (r : Run) (i : Instr) (f : Run → Except Nat EngineOut), s.clocksRun ∧ look s.runs run = some r ∧ (r.finished = false ∧ ecc.bad = none) ∧ ((i = .bearingSearch run ecc ∧ bearingMode 0 r = true ∧ f = s.search ∨ i = .bearingRefine run ecc ∧ bearingMode 1 r = true ∧ f = s.refine ∨ i = .bearingOcclude run ecc ∧ bearingMode 2 r = true ∧ f = s.occlude ∨ i = .traverseRays run ecc ∧ traverseMode 0 r = true ∧ f = s.rays ∨ i = .traversePatch run ecc ∧ traverseMode 1 r = true ∧ f = s.patches)) ∧ f r = .error e ∧ heldAt e = some k ∧ w = s.noteEcc (toCh r.ch) ecc ∧ (w.heldFrom (some (toCh r.ch)) k = true ∧ (∀ x ∈ s.holds, x.who = .run run → x.key ≠ k))) :=
  ⟨⟨onGrp (fun g => { g with regs := [] }) wk0, (onGrp (fun g => { g with regs := [] }) wk0), { corrected := [], bad := none, via := .mem }, gr, 16, 0, 8, _, _, _, fun _ => toLE 1 3 ++ toLE 15 0, fun _ => 0, fun _ => false, fun _ => [], by decide +kernel, rfl, by decide +kernel, rfl, (allIs (by decide +kernel))⟩,
   ⟨ray1, 0, { corrected := [], bad := none, via := .mem }, _, okD (ray1.rays (ray1.runs.headD (0, rn0)).2) ⟨[], [], 0, [], []⟩, .traverseRays 0 { corrected := [], bad := none, via := .mem }, ray1.rays, by decide +kernel, rfl, by decide +kernel, (.inr (.inr (.inr (.inl ⟨rfl, by decide +kernel, rfl⟩)))), (okIs_eq (by decide +kernel))⟩,
   ⟨held ray1, (held ray1).noteEcc 0 { corrected := [], bad := none, via := .mem }, 0, 0x10000 + 0x40000100, 0x40000100, { corrected := [], bad := none, via := .mem }, _, .traverseRays 0 { corrected := [], bad := none, via := .mem }, (held ray1).rays, by decide +kernel, rfl, by decide +kernel, (.inr (.inr (.inr (.inl ⟨rfl, by decide +kernel, rfl⟩)))), (errIs_eq (by decide +kernel)), by decide +kernel, rfl, by decide +kernel⟩⟩
theorem witness_CopiesAndRasterPasses :
    (∃ (s : State) (run : Nat) (ecc : Ecc) (r : Run) (cs : List Host.Cell), s.clocksRun ∧ look s.runs run = some r ∧ (r.finished = false ∧ r.cmd.op = 5 ∧ field r.cmd.body 0 1 = 0 ∧ ecc.bad = none) ∧ copyRows s r (fun i => s.eread r (field r.cmd.body 0x10 8 + i * field r.cmd.body 0x18 4) (field r.cmd.body 8 4)) = .ok cs) ∧
    (∃ (s : State) (run : Nat) (r : Run) (cs : List Host.Cell), s.clocksRun ∧ look s.runs run = some r ∧ (r.finished = false ∧ r.cmd.op = 5 ∧ field r.cmd.body 0 1 = 1) ∧ copyRows s r (fun _ => .ok ((upto (field r.cmd.body 8 4)).map (fun j => ((slice r.cmd.body 0x10 8).drop (j % 8)).headD 0))) = .ok cs) ∧
    (∃ (s : State) (run : Nat) (r : Run) (cs : List Host.Cell), s.clocksRun ∧ look s.runs run = some r ∧ (r.finished = false ∧ r.cmd.op = 7 ∧ (s.mbox (mbChan (field r.cmd.body 0 1) r.ch)).pending = true) ∧ s.stageV (s.runXlat r) (field r.cmd.body 8 8) (toLE 8 (s.mbox (mbChan (field r.cmd.body 0 1) r.ch)).ptr ++ toLE 4 (s.mbox (mbChan (field r.cmd.body 0 1) r.ch)).tag ++ toLE 4 0) = .ok cs) ∧
    (∃ (s : State) (w : State) (run : Nat) (ecc : Ecc) (r : Run) (p : Pass) (sf : List (Nat × Surf)) (cs : List Host.Cell) (blocks : Nat) (sectors : Nat) (d : Nat) (i : Instr), s.clocksRun ∧ look s.runs run = some r ∧ (r.eng = .raster ∧ r.cmd.op = 4) ∧ ((i = .rasterBinned run ecc ∧ pdMode r.cmd.body = 0 ∨ i = .rasterDirect run ecc ∧ pdMode r.cmd.body = 1 ∨ i = .rasterAuto run ecc ∧ pdMode r.cmd.body = 2)) ∧ (r.finished = false ∧ (∀ b ∈ r.blocks, b.committed ≠ none)) ∧ r.pass = some p ∧ (p.phase = .tiles ∧ p.final = true ∧ tileCount r.cmd.body ≤ p.tile ∧ ecc.bad = none) ∧ w = s.noteEcc (toCh r.ch) ecc ∧ w.passSurfs r r.cmd.body = .ok sf ∧ w.resolve r r.cmd.body p sf = .ok (cs, blocks, sectors) ∧ w.droppedPrims r r.cmd.body = .ok d) ∧
    (∃ (s : State) (s1 : State) (run : Nat) (r : Run) (p : Pass), s.clocksRun ∧ look s.runs run = some r ∧ r.pass = some p ∧ p.phase = .growing ∧ s.claim r.gen r.asid (toCh r.ch) (wholeChunks (field r.cmd.body 0x1A 2 * 1024)) = (.error ePool, s1)) ∧
    (∃ (s : State) (s1 : State) (run : Nat) (r : Run) (p : Pass) (c : List Nat), s.clocksRun ∧ look s.runs run = some r ∧ r.pass = some p ∧ p.phase = .growing ∧ s.claim r.gen r.asid (toCh r.ch) (wholeChunks (field r.cmd.body 0x1A 2 * 1024)) = (.ok c, s1)) ∧
    (∃ (s : State) (run : Nat) (r : Run) (p : Pass) (c : Context), s.clocksRun ∧ look s.runs run = some r ∧ r.pass = some p ∧ (p.phase = .growing ∧ wholeChunks (field r.cmd.body 0x1A 2 * 1024) ≠ 0 ∧ s.memUp (toCh r.ch) = false ∧ r.cls ≠ 0) ∧ look s.ctxs r.ctx = some c ∧ c.state = .active) :=
  ⟨⟨cp 5 0, 0, { corrected := [], bad := none, via := .mem }, _, okD (copyRows (cp 5 0) (cprun (cp 5 0)) (fun i => (cp 5 0).eread (cprun (cp 5 0)) (0x40000100 + i * 0) 64)) [], by decide +kernel, rfl, by decide +kernel, (okIs_eq (by decide +kernel))⟩,
   ⟨cp 5 1, 0, _, okD (copyRows (cp 5 1) (cprun (cp 5 1)) (fun _ => .ok ((upto 64).map (fun j => ((slice (copyB 1) 0x10 8).drop (j % 8)).headD 0)))) [], by decide +kernel, rfl, by decide +kernel, (okIs_eq (by decide +kernel))⟩,
   ⟨takeS, 0, _, okD (takeS.stageV (takeS.runXlat (cprun takeS)) 0x40000200 (toLE 8 5 ++ toLE 4 6 ++ toLE 4 0)) [], by decide +kernel, rfl, by decide +kernel, (okIs_eq (by decide +kernel))⟩,
   ⟨rs, _, 0, { corrected := [], bad := none, via := .mem }, _, _, [], [], 0, 0, 0, .rasterBinned 0 { corrected := [], bad := none, via := .mem }, by decide +kernel, rfl, by decide +kernel, (.inl ⟨rfl, by decide +kernel⟩), by decide +kernel, rfl, by decide +kernel, rfl, (okIs_eq (by decide +kernel)), (okIs_eq (by decide +kernel)), (okIs_eq (by decide +kernel))⟩,
   ⟨growS.setObj (key 0x4801 9) 0, _, 0, _, _, by decide +kernel, rfl, rfl, by decide +kernel, rfl⟩,
   ⟨growG, _, 0, _, _, _, by decide +kernel, rfl, rfl, by decide +kernel, rfl⟩,
   ⟨growS.setObj (Obj.memState 0) 0, 0, _, _, _, by decide +kernel, rfl, rfl, by decide +kernel, rfl, by decide +kernel⟩⟩

end W05

namespace W06

def qhead (op : Nat) (body : List Byte) : Cmd := { cmd0 with op := op, wcet := 0, immediate := false, body := body }
def qst (c : Cmd) : State := { wk0 with runs := [], queues := [(0, { queue0 with head := some { track := 0, cmd := c, phase := .fetched, gen := 1 }, order := [⟨0, c, none⟩] })] }
def fenceC : Cmd := { qhead 0 [] with signalEn := true, sigBaton := 0, sigValue := 5 }
def node0 : CourseNode := { engine := 0, dep0 := 0, dep1 := 0, cmd := 0x40000000 }
def course0 : Course := { state := .ready, ctx := 0, cls := 1, code := 0, failNode := 0, version := 1, versions := [(1, [node0])], checking := none, waiting := none, since := .all 0 }
def heat0 : Heat := { ctx := 0, addr := 0x40006000, seen := [] }
def heatRec : List Byte := toLE 4 0x54414548 ++ bytes [1, 0, 0, 0] ++ toLE 4 256 ++ toLE 4 16 ++ toLE 8 0x40007000 ++ List.replicate 40 0
def hst : State := withMem 0x40006000 heatRec (({ qst (qhead 8 (toLE 2 3 ++ bytes [0, 0] ++ List.replicate 12 0)) with courses := [(3, course0)], heats := [(0, heat0)] }).setObj (Obj.heatState 0 0) 1)
def launch0 (h : Option Nat) : Launch := { course := 3, version := 1, queue := 0, track := 0, nodes := [node0], phases := [.waiting], heat := h, admitted := false }
def pd (kind : Nat) : PipeDesc := ⟨toLE 4 0x45504950 ++ bytes [0, kind, 2, 2] ++ toLE 2 64 ++ toLE 2 64 ++ toLE 2 0 ++ bytes [0, 1] ++ toLE 8 0x1000000 ++ toLE 4 0x8000 ++ toLE 4 65536 ++ toLE 8 0x2000000 ++ toLE 8 0x2100000 ++ toLE 2 8 ++ bytes [0, 1] ++ toLE 2 500 ++ toLE 2 0 ++ toLE 4 10 ++ toLE 2 1920 ++ toLE 2 1080 ++ bytes [8] ++ List.replicate 7 0 ++ toLE 2 0 ++ toLE 2 1 ++ bytes [0, 0, 0, 0] ++ List.replicate 24 0⟩
def fmt0 : StreamFmt := { width := 64, height := 64, rate := 6000, sampling := 0, bpc := 10, colour := 0, hdcpType := 0 }
def pipeS (kind : Nat) : State := pac ({ up0 with streams := [(0, fmt0)] }.setObj (Obj.dpinState 0) 3) (fun p => { p with tick := 100, program := some { prog0 with pipe := some (pd kind), frameTicks := 9000 } })
def fr0 : SrcFrame := { sfn := 1, t0 := 50, rows := [0], torn := false, before := none, whole := false, prot := 0, rgb := false, bpc := 10 }
def frW : SrcFrame := { fr0 with whole := true }
def capS : State := { pipeS 0 with pictures := (pipeS 0).pictures.set 0 { Picture.reset with slots := [(0, { fr0 with t0 := 100 })], newest := some 0, capturing := some 0 } }
def lateS : State := { pipeS 0 with pictures := (pipeS 0).pictures.set 0 { Picture.reset with slots := [(0, fr0)], newest := some 0, capturing := some 0 } }
def bindS : State := pac ({ pipeS 0 with pictures := (pipeS 0).pictures.set 0 { Picture.reset with slots := [(0, frW)], newest := some 0 } }.setObj (Obj.inputState 0) 1) (fun p => { p with tick := 8999 })
def startS : State := pac (pipeS 0) (fun p => { p with tick := 9000 })
def gangS : State := ({ up0 with pacers := up0.pacers.set 1 { up0.pacers.get 1 with following := true, cfg := { (up0.pacers.get 1).cfg with ctrl := 0x01F40000 } } }).setObj (Obj.gangCtrl 0) (0x40000000 + 2160 * 131072 + 7680 * 16)
def gv : Nat := 0x40000000 + 2160 * 131072 + 7680 * 16
def gangP : State := { up0 with gangs := up0.gangs.set 0 { ctrl := 0, pending := some (0, gv) }, pacers := (up0.pacers.set 0 { up0.pacers.get 0 with program := some { prog0 with flags := 2 } }).set 1 { up0.pacers.get 1 with program := some { prog0 with flags := 2 } } }
def setS : State := (pac { up0 with comps := up0.comps.set 0 { Comp.reset with frame := some 0 }, dps := up0.dps.set 0 (DpLink.reset 0x80400180) } (fun p => { p with tick := 8999 })).setObj (Obj.setPtrAddr 0) 0x3000000
def setS1 : State := setS.setComp 0 { setS.comp 0 with snapped := true }
def dpS : State := { up0 with dps := up0.dps.set 0 (DpLink.reset 0x80400180) }
def dpT : State := dpS.setObj (Obj.dpState 0) 1

def pd2 : PipeDesc := ⟨(pd 0).bytes.take 0x4C ++ bytes [1] ++ (pd 0).bytes.drop 0x4D⟩
def genS0 : State := pac ({ pipeS 0 with pictures := (pipeS 0).pictures.set 0 { Picture.reset with slots := [(0, frW), (1, frW)], newest := some 0 } }.setObj (Obj.inputState 0) 1) (fun p => { p with tick := 8999, program := some { prog0 with pipe := some pd2, frameTicks := 9000 } })
def genN : Nat := ({ prog0 with pipe := some pd2, frameTicks := 9000 } : Program).ofnAt pd2 0 8999
def genS : State := { genS0 with pictures := genS0.pictures.mod 0 (fun p => { p with reals := [(genN - 1, 0, 1), (genN + 1, 1, 2)] }) }
def gangF : State := { gangP with pacers := gangP.pacers.set 1 { gangP.pacers.get 1 with following := true, cfg := { (gangP.pacers.get 1).cfg with ctrl := 0x01F40000 } } }
def safeS (h : Bool) : State := { up0 with service := .all .reduced, dps := up0.dps.set 0 { DpLink.reset 0x80400180 with hpd := h } }
def heldSet : State := { setS with pubs := [(0, { origin := .queue 0 0, cmd := cmd0, ctx := 0, asid := 1, gen := gen1, ch := 0, cls := 1, status := 0, cells := [(0x3000000, 1)], defers := [], opens := [(.sc 0, filterOf [(0x3000000, 1)] 0)], landed := [], prior := [], exports := [], claims := [], peer := [], failed := 0 })] }

def asleep : State := { run0 with power := { run0.power with p2 := .standby } }
def hu : State := hst.noteEcc 0 { corrected := [], bad := none, via := .mem }
def hxl : Xlat := hu.heatXlat 0 0
def hv : HeatView := okD (hu.heatHeader hxl 0x40006000) ⟨0, 0, 0, 0, 0, 0, 0⟩
def hq1 : State := (hu.setObj (Obj.heatState 0 0) 2).startCourse 0 ((look hst.queues 0).getD queue0) { track := 0, cmd := qhead 8 (toLE 2 3 ++ bytes [0, 0] ++ List.replicate 12 0), phase := .fetched, gen := 1 } 3 course0 (some 0)
theorem witness_QueueCommands :
    (∃ (s : State) (q : Nat) (x : Queue) (h : Head) (y : Baton), s.clocksRun ∧ s.quiet ∧ look s.queues q = some x ∧ x.head = some h ∧ (h.phase = .fetched ∧ h.cmd.op = 0 ∧ s.awake = true ∧ s.ctxActive x.ctx = true ∧ x.stopped = false ∧ x.closing = false ∧ s.waitMet h.cmd = true ∧ look s.replays x.ctx = none ∧ x.order = [Track.mk h.track h.cmd none] ∧ h.cmd.ring = false ∧ s.links = [] ∧ h.cmd.signalEn = true) ∧ look s.batons h.cmd.sigBaton = some y ∧ (y.inError = false ∧ y.owner ≠ none ∧ y.value < h.cmd.sigValue ∧ h.cmd.sigValue < errValue)) ∧
    (∃ (s : State) (q : Nat) (x : Queue) (h : Head), s.clocksRun ∧ look s.queues q = some x ∧ x.head = some h ∧ (h.phase = .fetched ∧ h.cmd.op = 0 ∧ s.waitMet h.cmd = false)) ∧
    (∃ (s : State) (q : Nat), s.clocksRun ∧ s.awake = false) ∧
    (∃ (s : State) (q : Nat), s.clocksRun ∧ s.awake = false) ∧
    (∃ (s : State) (q : Nat), s.clocksRun ∧ s.awake = false) ∧
    (∃ (s : State) (q : Nat) (x : Queue) (h : Head), s.clocksRun ∧ s.quiet ∧ look s.queues q = some x ∧ x.head = some h ∧ (h.phase = .fetched ∧ h.cmd.op = 6 ∧ s.awake = true ∧ s.waitOver x (.queue q h.track) h.cmd = true ∧ look s.replays x.ctx = none ∧ x.order = [Track.mk h.track h.cmd none] ∧ h.cmd.ring = false ∧ h.cmd.signalEn = false ∧ (s.mbox (mbChan x.ch (field h.cmd.body 0 1))).pending = false)) ∧
    (∃ (s : State) (q : Nat) (x : Queue) (h : Head) (k : Course) (v : Nat) (nodes : List CourseNode), s.clocksRun ∧ s.quiet ∧ look s.queues q = some x ∧ x.head = some h ∧ (h.phase = .fetched ∧ h.cmd.op = 8 ∧ s.awake = true ∧ field h.cmd.body 2 1 = 0xFF ∧ s.waitOver x (.queue q h.track) h.cmd = true) ∧ look s.courses (field h.cmd.body 0 2) = some k ∧ s.bindVersion k (toCh x.ch) = (v, nodes) ∧ nodes ≠ []) ∧
    (∃ (s : State) (u : State) (s1 : State) (s2 : State) (q : Nat) (ecc : Ecc) (x : Queue) (h : Head) (k : Nat) (y : Heat) (c : Course) (v : HeatView) (xl : Xlat), (s.clocksRun ∧ s.awake = true ∧ ecc.bad = none) ∧ look s.queues q = some x ∧ s.stepHead x = some (h, k) ∧ look s.heats k = some y ∧ look s.courses (field h.cmd.body 0 2) = some c ∧ (s.obj (Obj.heatState (toCh x.ch) (k % 16)) = 1 ∧ s.stepFirst q x k = true) ∧ u = s.noteEcc (toCh x.ch) ecc ∧ xl = u.heatXlat y.ctx (toCh x.ch) ∧ u.heatHeld xl y.addr = none ∧ u.heatHeader xl y.addr = .ok v ∧ u.recordBad xl v = false ∧ s1 = (u.setObj (Obj.heatState (toCh x.ch) (k % 16)) 2).startCourse q x h (field h.cmd.body 0 2) c (some k) ∧ s2 = s1.admitRequest xl (toCh x.ch) (k % 16) y.ctx v ∧ ((u.memUp (toCh x.ch) = true ∨ s1.calledPool s2 (toCh x.ch) (k % 16) = false))) :=
  ⟨⟨qst fenceC, 0, _, _, _, by decide +kernel, ⟨rfl, rfl, rfl⟩, rfl, rfl, by decide +kernel, rfl, by decide +kernel⟩,
   ⟨qst { fenceC with waitEn := true, waitValue := 3 }, 0, _, _, by decide +kernel, rfl, rfl, by decide +kernel⟩,
   ⟨asleep, 0, by decide +kernel⟩,
   ⟨asleep, 0, by decide +kernel⟩,
   ⟨asleep, 0, by decide +kernel⟩,
   ⟨qst (qhead 6 (List.replicate 16 0)), 0, _, _, by decide +kernel, ⟨rfl, rfl, rfl⟩, rfl, rfl, by decide +kernel⟩,
   ⟨{ qst (qhead 8 (toLE 2 3 ++ bytes [255, 0] ++ List.replicate 12 0)) with courses := [(3, course0)] }, 0, _, _, _, _, _, by decide +kernel, ⟨rfl, rfl, rfl⟩, rfl, rfl, by decide +kernel, rfl, rfl, by decide +kernel⟩,
   ⟨hst, hu, hq1, hq1.admitRequest hxl 0 0 0 hv, 0, { corrected := [], bad := none, via := .mem }, _, _, _, _, _, hv, hxl, by decide +kernel, rfl, rfl, rfl, rfl, by decide +kernel, rfl, rfl, by decide +kernel, (okIs_eq (by decide +kernel)), by decide +kernel, rfl, rfl, by decide +kernel⟩⟩
theorem witness_QueueCommands_8 : ∃ (s : State) (ch : Fin 4) (heat : Nat) (l : Nat) (y : Heat) (x : Launch), s.clocksRun ∧ s.quiet ∧ look s.heats (heatKey ch heat) = some y ∧ s.ctxActive y.ctx = true ∧ look s.launches l = some x ∧ (x.heat = some (heatKey ch heat) ∧ x.admitted = false ∧ (∀ e ∈ s.launches, e.2.heat = some (heatKey ch heat) → e.2.phases.all nodeOver = false)) :=
  ⟨{ qst fenceC with heats := [(5, heat0)], launches := [(9, launch0 (some 5))] }, 0, 5, 9, _, _, by decide +kernel, ⟨rfl, rfl, rfl⟩, rfl, by decide +kernel, rfl, by decide +kernel⟩
theorem witness_SourceFrames :
    (∃ (s : State) (i : Dpin) (ch : Fin 4) (row : Nat) (slot : Nat) (planes : List (List (BitVec 8))) (st : StreamFmt) (d : PipeDesc) (f : SrcFrame), (s.clocksRun ∧ s.inputSet (Dpin.num i) = [ch]) ∧ look s.streams (Dpin.num i) = some st ∧ s.captures ch = some d ∧ (s.streamOk (Dpin.num i) st d = true ∧ row < d.srcH ∧ row ≠ 0 ∧ s.obj (Obj.dpinState (Dpin.num i)) = 3 ∧ s.deadlines ch = s ∧ (s.picture ch).capturing = some slot) ∧ look (s.picture ch).slots slot = some f ∧ (f.whole = false ∧ row ∉ f.rows ∧ s.ownsRow ch d row = true ∧ s.outBy.get ch = none ∧ s.inPair ch = false)) ∧
    (∃ (s : State) (i : Dpin) (ch : Fin 4) (slot : Nat) (planes : List (List (BitVec 8))) (st : StreamFmt) (d : PipeDesc), (s.clocksRun ∧ s.inputSet (Dpin.num i) = [ch]) ∧ look s.streams (Dpin.num i) = some st ∧ s.captures ch = some d ∧ (s.streamOk (Dpin.num i) st d = true ∧ 0 < d.srcH ∧ s.obj (Obj.dpinState (Dpin.num i)) = 3 ∧ s.deadlines ch = s ∧ s.freeSlot [ch] d = some slot ∧ s.inPair ch = false)) ∧
    (∃ (s : State) (ch : Fin 4) (d : PipeDesc) (slot : Nat) (f : SrcFrame), (s.clocksRun ∧ s.ownerSet ch = [ch]) ∧ s.captures ch = some d ∧ (s.picture ch).slots = [(slot, f)] ∧ (f.whole = false ∧ (∃ r < d.srcH, rowDeadline d f.t0 r < s.tick ch ∧ r ∉ f.rows))) ∧
    (∃ (s : State) (i : Dpin) (ch : Fin 4) (st : StreamFmt) (d : PipeDesc), (s.clocksRun ∧ s.inputSet (Dpin.num i) = [ch]) ∧ look s.streams (Dpin.num i) = some st ∧ s.captures ch = some d ∧ s.streamOk (Dpin.num i) st d = false) ∧
    (∃ (s : State) (ch : Fin 4) (d : PipeDesc), (s.clocksRun ∧ s.ownerSet ch = [ch]) ∧ s.pipe ch = some d ∧ (s.obj (Obj.inputState ch) = 1 ∧ d.srcKind ≠ 2 ∧ d.lossTicks < s.tick ch - (s.picture ch).lastRow)) ∧
    (∃ (s : State) (ch : Fin 4) (d : PipeDesc), (s.clocksRun ∧ s.ownerSet ch = [ch]) ∧ s.pipe ch = some d ∧ s.tick ch - (s.picture ch).lastRow ≤ d.lossTicks) ∧
    (∃ (s : State) (who : Req) (ch : Fin 4) (slot : Nat) (d : PipeDesc), (s.serves' who (Obj.srcSubmit ch) ∧ s.inPair ch = false) ∧ s.pipe ch = some d ∧ (s.leaderOf ch = ch ∧ d.srcKind = 1 ∧ slot < d.slots ∧ (∀ m ∈ s.ownerSet ch, (s.picture m).slotFree slot = true))) ∧
    (∃ (s : State) (who : Req) (ch : Fin 4) (slot : Nat) (d : PipeDesc), (s.serves' who (Obj.srcSubmit ch) ∧ s.inPair ch = false) ∧ s.pipe ch = some d ∧ (s.leaderOf ch = ch ∧ d.srcKind = 1 ∧ slot < d.slots ∧ (∃ m ∈ s.ownerSet ch, (s.picture m).slotFree slot = false))) :=
  ⟨⟨capS, .in0, 0, 1, 0, [], _, _, _, by decide +kernel, rfl, rfl, by decide +kernel, rfl, by decide +kernel⟩,
   ⟨pipeS 0, .in0, 0, 0, [], _, _, by decide +kernel, rfl, rfl, by decide +kernel⟩,
   ⟨lateS, 0, _, _, _, by decide +kernel, rfl, rfl, by decide +kernel⟩,
   ⟨{ pipeS 0 with streams := [(0, { fmt0 with width := 72 })] }, .in0, 0, _, _, by decide +kernel, rfl, rfl, by decide +kernel⟩,
   ⟨(pipeS 0).setObj (Obj.inputState 0) 1, 0, _, by decide +kernel, rfl, by decide +kernel⟩,
   ⟨{ pipeS 0 with pictures := (pipeS 0).pictures.set 0 { Picture.reset with lastRow := 95 } }, 0, _, by decide +kernel, rfl, by decide +kernel⟩,
   ⟨pipeS 1, (.fn 0), 0, 1, _, by decide +kernel, rfl, by decide +kernel⟩,
   ⟨{ pipeS 1 with pictures := (pipeS 1).pictures.set 0 { Picture.reset with newest := some 1 } }, (.fn 0), 0, 1, _, by decide +kernel, rfl, by decide +kernel⟩⟩
theorem witness_SourceFrames_8 :
    (∃ (s : State) (who : Req) (ch : Fin 4) (slot : Nat), (s.serves' who (Obj.srcSubmit ch) ∧ s.inPair ch = false) ∧ ((s.leaderOf ch ≠ ch ∨ ∀ d, s.pipe ch = some d → d.srcKind ≠ 1 ∨ d.slots ≤ slot))) ∧
    (∃ (s : State) (ch : Fin 4) (slot : Nat) (t0 : Nat) (rest : List (Nat × Nat)), s.clocksRun ∧ s.ownerSet ch = [ch] ∧ (s.picture ch).submit = (slot, t0) :: rest ∧ t0 ≤ s.edgeNo ch ∧ s.edgeDue ch = false) :=
  ⟨⟨up0, (.fn 0), 0, 0, by decide +kernel, (.inr (by intro d h; cases h))⟩,
   ⟨{ pipeS 1 with pictures := (pipeS 1).pictures.set 0 { Picture.reset with submit := [(1, 0)] } }, 0, 1, 0, [], by decide +kernel⟩⟩
theorem witness_OutputFramesAndGangs :
    (∃ (s : State) (ch : Fin 4) (p : Program) (d : PipeDesc) (e : Nat) (k : Nat) (n : Nat) (r : FrameRec), s.clocksRun ∧ s.bindDue ch = some (p, d, e) ∧ (s.edgeDue ch = false ∧ s.inPair ch = false ∧ d.plan e = 0 ∧ (s.picture ch).newestBefore (s.tick ch) = some (k, n) ∧ (r = FrameRec.mk (p.ofnAt d e (s.tick ch)) 0 k k n n (decide ((s.picture ch).realNear (p.ofnAt d e (s.tick ch)) false = some (k, n))) (decide ((s.obj (Obj.inputState ch) = 2 ∨ s.obj (Obj.inputState ch) = 3) ∧ d.holdFrames ≤ (s.picture ch).heldFor)) 0 (s.tick ch)))) ∧
    (∃ (s : State) (ch : Fin 4) (p : Program) (d : PipeDesc) (e : Nat) (n : Nat) (a : Nat × Nat) (b : Nat × Nat), s.clocksRun ∧ s.bindDue ch = some (p, d, e) ∧ (s.edgeDue ch = false ∧ s.inPair ch = false ∧ d.plan e ≠ 0) ∧ n = p.ofnAt d e (s.tick ch) ∧ (s.picture ch).realNear n true = some b ∧ (s.picture ch).realNear n false = some a) ∧
    (∃ (s : State) (ch : Fin 4) (ecc : Ecc), s.clocksRun ∧ s.frameDue ch = true) ∧
    (∃ (s : State) (who : Req) (ch : Fin 4) (o : Fin 4) (at' : Nat) (v : Nat), (s.serves' who (Obj.gangApply ch) ∧ s.inPair ch = false ∧ ch.val % 2 = 0 ∧ v = s.obj (Obj.gangCtrl ch) ∧ gangCtrlOk ch v = true) ∧ o = (if ch = 0 then 2 else 0) ∧ ((∀ m ∈ gangSet ch v, m ∉ gangSet o (s.ctrlAt o at') ∧ m ∉ gangSet o (((s.gangs.get o).pending.map (fun p => p.2)).getD 0)) ∧ (∀ m ∈ gangSet ch v, m ≠ ch → s.followsOn m ch = true) ∧ (s.paceOf ch = ch ∧ followOf ch (s.cfgNext ch) = ch) ∧ s.ahead ch at' = true ∧ ((gangSet ch v).filter s.goingOut).length < 2)) ∧
    (∃ (s : State) (who : Req) (ch : Fin 4) (at' : Nat), s.clocksRun ∧ ch.val % 2 = 1) ∧
    (∃ (s : State) (who : Req) (ch : Fin 4) (o : Fin 4) (at' : Nat) (v : Nat), (s.serves' who (Obj.gangApply ch) ∧ s.inPair ch = false ∧ ch.val % 2 = 0) ∧ v = s.obj (Obj.gangCtrl ch) ∧ o = (if ch = 0 then 2 else 0) ∧ ((gangCtrlOk ch v = false ∨ s.ahead ch at' = false ∨ (∃ m ∈ gangSet ch v, m ≠ ch ∧ s.followsOn m ch = false) ∨ ∃ m ∈ gangSet ch v, m ∈ gangSet o (s.ctrlAt o at') ∨ m ∈ gangSet o (((s.gangs.get o).pending.map (fun p => p.2)).getD 0)))) ∧
    (∃ (s : State) (ch : Fin 4) (o : Fin 4) (at' : Nat) (v : Nat), s.clocksRun ∧ (s.gangs.get ch).pending = some (at', v) ∧ (at' ≤ s.tick ch ∧ s.applyDue ch = false) ∧ o = (if ch = 0 then 2 else 0) ∧ (((∀ m, (gangSet ch v).contains m = true ∨ (gangSet ch (s.gangs.get ch).ctrl).contains m = true → s.programAt m at' ((gangSet ch v).contains m) = true)) ∧ ((∀ m ∈ gangSet ch v, m ∉ gangSet o (s.gangs.get o).ctrl ∧ (m = ch ∨ s.paceOf m = ch))))) ∧
    (∃ (s : State) (ch : Fin 4) (m : Fin 4) (at' : Nat) (v : Nat), s.clocksRun ∧ (s.gangs.get ch).pending = some (at', v) ∧ (at' ≤ s.tick ch ∧ s.applyDue ch = false ∧ (gangSet ch v).contains m = true ∧ ((s.programAt m at' true = false ∨ (m ≠ ch ∧ s.paceOf m ≠ ch))))) :=
  ⟨⟨bindS, 0, _, _, 0, 0, 1, ⟨(({ prog0 with pipe := some (pd 0), frameTicks := 9000 } : Program).ofnAt (pd 0) 0 8999), 0, 0, 0, 1, 1, false, false, 0, 8999⟩, by decide +kernel, rfl, by decide +kernel⟩,
   ⟨genS, 0, _, _, 0, _, _, _, by decide +kernel, rfl, by decide +kernel, rfl, rfl, rfl⟩,
   ⟨startS, 0, { corrected := [], bad := none, via := .mem }, by decide +kernel⟩,
   ⟨gangS, (.fn 0), 0, _, 9, gv, by decide +kernel, rfl, by decide +kernel⟩,
   ⟨run0, (.fn 0), 1, 0, by decide +kernel⟩,
   ⟨gangS.setObj (Obj.gangCtrl 0) 0x40000000, (.fn 0), 0, _, 0, _, by decide +kernel, rfl, rfl, by decide +kernel⟩,
   ⟨gangF, 0, _, _, _, by decide +kernel, rfl, by decide +kernel, rfl, by decide +kernel⟩,
   ⟨{ up0 with gangs := up0.gangs.set 0 { ctrl := 0, pending := some (0, gv) } }, 0, 1, _, _, by decide +kernel, rfl, by decide +kernel⟩⟩
theorem witness_OutputFramesAndGangs_8 :
    (∃ (s : State), s.clocksRun ∧ (s.dp 0).safe = false ∧ (s.pacer 0).program = none ∧ (s.comp 0).frame = none ∧ bit (s.dp 0).cfg.ctrl 31 = true ∧ s.svc 0 = .reduced ∧ (s.dp 0).hpd = true) ∧
    (∃ (s : State), s.clocksRun ∧ (s.dp 0).safe = false ∧ (s.pacer 0).program = none ∧ (s.comp 0).frame = none ∧ bit (s.dp 0).cfg.ctrl 31 = true ∧ s.svc 0 = .reduced ∧ (s.dp 0).hpd = false) :=
  ⟨⟨safeS true, by decide +kernel⟩,
   ⟨safeS false, by decide +kernel⟩⟩
theorem witness_CompositionSets :
    (∃ (s : State) (u : State) (s1 : State) (ch : Fin 4) (ecc : Ecc) (n : Nat) (a : Nat) (x : Snap), s.clocksRun ∧ u = { s.noteEcc ch ecc with readFault := ecc.bad } ∧ (u.nextFrame ch = some n ∧ (u.comp ch).snapped = false ∧ (u.comp ch).frame ≠ none ∧ n ≤ u.snapLead ch ∧ u.compUp ch = true ∧ u.edgeDue ch = false ∧ u.frameDue ch = false ∧ u.inPair ch = false) ∧ s1 = u.setComp ch { u.comp ch with snapped := true } ∧ ((s1.setPtr ch = 0 ∨ s1.ptrHeld (s1.setPtr ch) = false)) ∧ a = (if s1.setPtr ch = 0 then 0 else s1.devNat (s1.setPtr ch) 8) ∧ x = s1.takeSet ch a ∧ x.bad = none) ∧
    (∃ (s : State) (u : State) (s1 : State) (ch : Fin 4) (ecc : Ecc) (n : Nat) (a : Nat) (o : Nat), s.clocksRun ∧ u = { s.noteEcc ch ecc with readFault := ecc.bad } ∧ (u.nextFrame ch = some n ∧ (u.comp ch).snapped = false ∧ (u.comp ch).frame ≠ none ∧ n ≤ u.snapLead ch ∧ u.compUp ch = true ∧ u.edgeDue ch = false ∧ u.frameDue ch = false ∧ u.inPair ch = false) ∧ s1 = u.setComp ch { u.comp ch with snapped := true } ∧ ((s1.setPtr ch = 0 ∨ s1.ptrHeld (s1.setPtr ch) = false)) ∧ a = (if s1.setPtr ch = 0 then 0 else s1.devNat (s1.setPtr ch) 8) ∧ (s1.takeSet ch a).bad = some o) ∧
    (∃ (s : State) (u : State) (s1 : State) (ch : Fin 4) (ecc : Ecc) (n : Nat), s.clocksRun ∧ u = { s.noteEcc ch ecc with readFault := ecc.bad } ∧ (u.nextFrame ch = some n ∧ (u.comp ch).snapped = false ∧ (u.comp ch).frame ≠ none ∧ n ≤ u.snapLead ch ∧ u.compUp ch = true ∧ u.edgeDue ch = false ∧ u.frameDue ch = false ∧ u.inPair ch = false) ∧ s1 = u.setComp ch { u.comp ch with snapped := true } ∧ (s1.setPtr ch ≠ 0 ∧ s1.ptrHeld (s1.setPtr ch) = true)) ∧
    (∃ (s : State) (u : State) (ch : Fin 4) (ecc : Ecc) (x : CompSet), s.clocksRun ∧ u = { s.noteEcc ch ecc with readFault := ecc.bad } ∧ (u.comp ch).loading = some x ∧ (u.comp ch).idle = none) ∧
    (∃ (s : State) (who : Req) (ch : Fin 4) (mask : Nat), s.serves' who (Obj.closureClear ch) ∧ s.inPair ch = false) :=
  ⟨⟨setS, _, _, 0, { corrected := [], bad := none, via := .mem }, 1, _, _, by decide +kernel, rfl, by decide +kernel, rfl, by decide +kernel, rfl, rfl, by decide +kernel⟩,
   ⟨withMem 0x3000000 [1] setS, _, _, 0, { corrected := [], bad := none, via := .mem }, 1, _, 0, by decide +kernel, rfl, by decide +kernel, rfl, by decide +kernel, rfl, by decide +kernel⟩,
   ⟨heldSet, _, _, 0, { corrected := [], bad := none, via := .mem }, 1, by decide +kernel, rfl, by decide +kernel, rfl, by decide +kernel⟩,
   ⟨{ up0 with comps := up0.comps.set 0 { Comp.reset with loading := some ⟨0x40, List.replicate 0x440 0⟩ } }, _, 0, { corrected := [], bad := none, via := .mem }, _, by decide +kernel, rfl, rfl, by decide +kernel⟩,
   ⟨up0, (.fn 0), 0, 5, by decide +kernel⟩⟩
theorem witness_DisplayLinks :
    (∃ (s : State) (who : Req) (ch : Fin 4) (at' : Nat), s.serves' who (Obj.dpApply ch) ∧ s.inPair ch = false ∧ dpCtrlOk (s.stagedDp ch).ctrl = true ∧ timingOk (s.stagedDp ch) (s.lChk ch) (s.periodOf ch) = true ∧ dscOk (s.stagedDp ch) (s.periodOf ch) = true ∧ s.ahead ch at' = true ∧ s.fitsWaiting ch at' (s.stagedDp ch) = true ∧ ((s.startsAt ch at' = true ∨ ((s.pacer ch).change.dueAt = some at' ∧ at' ≠ 0)))) ∧
    (∃ (s : State) (who : Req) (ch : Fin 4) (at' : Nat), s.serves' who (Obj.dpApply ch) ∧ s.inPair ch = false ∧ ((dpCtrlOk (s.stagedDp ch).ctrl = false ∨ timingOk (s.stagedDp ch) (s.lChk ch) (s.periodOf ch) = false ∨ dscOk (s.stagedDp ch) (s.periodOf ch) = false ∨ s.ahead ch at' = false ∨ s.fitsWaiting ch at' (s.stagedDp ch) = false))) ∧
    (∃ (s : State) (ch : Fin 4) (at' : Nat) (c : DpCfg), s.clocksRun ∧ (s.dp ch).pending = some (at', c) ∧ at' ≤ s.tick ch) ∧
    (∃ (s : State) (ch : Fin 4), s.clocksRun ∧ s.obj (Obj.dpState ch) = 1 ∧ s.linkReady ch = true ∧ dpRateOk (s.dp ch).cfg.ctrl = true) ∧
    (∃ (s : State) (ch : Fin 4) (ok : Bool), s.clocksRun ∧ s.obj (Obj.dpState ch) = 1 ∧ s.linkReady ch = true ∧ ((ok = false ∨ dpRateOk (s.dp ch).cfg.ctrl = false)) ∧ (s.dp ch).attempts < 4) ∧
    (∃ (s : State) (ch : Fin 4) (ok : Bool), s.clocksRun ∧ s.obj (Obj.dpState ch) = 1 ∧ s.linkReady ch = true ∧ ((ok = false ∨ dpRateOk (s.dp ch).cfg.ctrl = false)) ∧ 4 ≤ (s.dp ch).attempts) ∧
    (∃ (s : State) (ch : Fin 4), s.clocksRun ∧ bit (s.dp ch).cfg.ctrl 31 = true) ∧
    (∃ (s : State) (ch : Fin 4), s.clocksRun ∧ bit (s.dp ch).cfg.ctrl 31 = true ∧ (s.dp ch).hpd = false) :=
  ⟨⟨dpS, (.fn 0), 0, 5, by decide +kernel⟩,
   ⟨dpS.setObj (Obj.dpLineTicks 0) 0, (.fn 0), 0, 5, by decide +kernel⟩,
   ⟨{ dpS with dps := dpS.dps.set 0 { DpLink.reset 0x80400180 with pending := some (0, { (DpLink.reset 0).cfg with ctrl := 0x80800180 }) } }, 0, _, _, by decide +kernel, rfl, by decide +kernel⟩,
   ⟨dpT, 0, by decide +kernel⟩,
   ⟨dpT, 0, false, by decide +kernel⟩,
   ⟨{ dpT with dps := dpT.dps.set 0 { DpLink.reset 0x80400180 with attempts := 4 } }, 0, false, by decide +kernel⟩,
   ⟨dpT, 0, by decide +kernel⟩,
   ⟨dpT, 0, by decide +kernel⟩⟩
theorem witness_DisplayLinks_8 :
    (∃ (s : State) (ch : Fin 4), s.clocksRun ∧ bit (s.dp ch).cfg.ctrl 31 = true ∧ s.obj (Obj.dpState ch) = 2 ∧ (s.dp ch).hpd = true) ∧
    (∃ (s : State) (ch : Fin 4) (type1 : Bool), s.clocksRun ∧ bit (s.dp ch).cfg.ctrl 10 = true ∧ s.obj (Obj.dpState ch) = 2 ∧ s.obj Obj.hdcpKeyState ≠ 0) ∧
    (∃ (s : State) (ch : Fin 4), s.clocksRun ∧ s.obj (Obj.hdcpState ch) ≠ 0) ∧
    (∃ (s : State) (i : Dpin) (rate : Nat) (lanes : Nat), s.clocksRun ∧ rate ≤ bits (s.obj (Obj.dpinCtrl (Dpin.num i))) 30 28 ∧ lanes ≤ bits (s.obj (Obj.dpinCtrl (Dpin.num i))) 27 26 ∧ s.dpinOn (Dpin.num i) = true ∧ s.inputSet (Dpin.num i) ≠ [] ∧ s.obj (Obj.dpinState (Dpin.num i)) < 2 ∧ s.linkReady (4 + Dpin.num i) = true) ∧
    (∃ (s : State) (i : Dpin) (rate : Nat) (lanes : Nat), s.clocksRun ∧ ((bits (s.obj (Obj.dpinCtrl (Dpin.num i))) 30 28 < rate ∨ bits (s.obj (Obj.dpinCtrl (Dpin.num i))) 27 26 < lanes))) ∧
    (∃ (s : State) (i : Dpin) (f : StreamFmt), s.clocksRun ∧ ((s.obj (Obj.dpinState (Dpin.num i)) = 2 ∨ s.obj (Obj.dpinState (Dpin.num i)) = 3))) ∧
    (∃ (s : State) (i : Dpin), s.clocksRun ∧ ((s.obj (Obj.dpinState (Dpin.num i)) = 2 ∨ s.obj (Obj.dpinState (Dpin.num i)) = 3))) :=
  ⟨⟨({ dpT with dps := dpT.dps.set 0 { DpLink.reset 0x80400180 with hpd := true } }).setObj (Obj.dpState 0) 2, 0, by decide +kernel⟩,
   ⟨(({ dpT with dps := dpT.dps.set 0 (DpLink.reset 0x80400580) }).setObj (Obj.dpState 0) 2).setObj Obj.hdcpKeyState 1, 0, true, by decide +kernel⟩,
   ⟨dpT.setObj (Obj.hdcpState 0) 2, 0, by decide +kernel⟩,
   ⟨up0.setObj (Obj.dpinCtrl 0) 0x80000000, .in0, 0, 0, by decide +kernel⟩,
   ⟨up0, .in0, 9, 0, by decide +kernel⟩,
   ⟨up0.setObj (Obj.dpinState 0) 2, .in0, fmt0, by decide +kernel⟩,
   ⟨pipeS 0, .in0, by decide +kernel⟩⟩

end W06

namespace W07

def mem (c : Nat) (v : Nat) : State := run0.setObj (Obj.memState c) v
def off0 : State := { up0 with service := ⟨.offline, .offline, .offline, .offline⟩ }
def csl (p : SlicePhase) : State := pac { up0 with caches := up0.caches.set 0 { Caches.reset with h0 := { phase := p, lines := [], trackers := [] } } } (fun p => { p with tick := 9, count := 9 })
def pool0 : Allocator := { base := 0x2000000, chunks := 64, staged := some (0x3000000, 4), asOf := 0, zeroed := [], ready := true, allocs := [], taken := [] }
def poolS : State := { up0 with allocs := up0.allocs.set 0 pool0 }
def owned : State := { poolS with mem := writeMem [] (0x2000000 + 2 * 5) [1, 1], allocs := poolS.allocs.set 0 { pool0 with staged := none } }
def sp (x : AddrSpace) : State := pac { up0 with spaces := [(1, x)] } (fun p => { p with tick := 9, count := 9 })
def t1 (v : Nat) : State := run0.setObj Obj.t1State v
def qs : State := { run0 with queues := [(5, { queue0 with ctx := 0 })], ctxs := [(0, ctx0)] }
def imgHost : List Host.Cell := writeMem [] (hostBase + 0x1000) (toLE 8 0x2000 ++ toLE 8 8200)
def imgS : State := { up0 with mem := writeMem imgHost (hostBase + 0x2000) (List.replicate 6 0 ++ toLE 2 0x60) }
def ringS : State := { up0 with mem := writeMem [] (hostBase + 0x1000) (toLE 8 0x8000 ++ toLE 4 64 ++ toLE 4 0) }
def tdn : Context := { ctx0 with state := .teardown, hostRefs := 0 }
def td (x : Context) : State := pac { up0 with ctxs := [(0, x)], spaces := [(1, { space1 with newest := Gen.empty, force := .all Gen.empty })] } (fun p => { p with tick := 9, count := 9 })
def bt (x : Baton) : State := { run0 with ctxs := [(0, ctx0), (1, ctx0)], batons := [(0, x)] }
def rsv : State := up0.setMbox (mbH2m 0) ((up0.mbox (mbH2m 0)).send 0x1000 (4 * 2 ^ 24 + 0 + 0))
def rest0 : Restored × State := (rsv.takeWith 0 0).restore ((up0.read (spaceKey false 0x1000) 304))

def rimg : List Byte := toLE 4 0x54534552 ++ toLE 2 1 ++ toLE 2 1 ++ List.replicate 56 0 ++ (toLE 2 0x1020 ++ bytes [2, 0] ++ toLE 2 4 ++ toLE 2 0 ++ toLE 4 0x0A000001 ++ toLE 4 0)
def rst1 : State := { up0 with mem := writeMem [] (hostBase + 0x1000) rimg }
def restR : Restored × State := ((rst1.setMbox (mbH2m 0) ((rst1.mbox (mbH2m 0)).send 0x1000 (4 * 2 ^ 24 + (if false then 2 ^ 23 else 0) + 0))).takeWith 0 0).restore (rst1.read (spaceKey false 0x1000) 304)

def heldB : State := { up0 with pubs := [(0, { origin := .queue 0 0, cmd := cmd0, ctx := 0, asid := 1, gen := gen1, ch := 0, cls := 1, status := 0, cells := [(0x1000, 1)], defers := [], opens := [(.l2 0, filterOf [(0x1000, 1)] 0)], landed := [], prior := [], exports := [], claims := [], peer := [], failed := 0 })] }
theorem witness_MemoriesAndCaches :
    (∃ (s : State) (ch : Fin 4), s.clocksRun ∧ s.obj (Obj.memState ch) = 1) ∧
    (∃ (s : State) (ch : Fin 4), s.clocksRun ∧ s.obj (Obj.memState ch) = 1) ∧
    (∃ (s : State) (ch : Fin 4) (hot : Bool), s.clocksRun) ∧
    (∃ (s : State) (ch : Fin 4) (movement : Nat), s.clocksRun ∧ s.obj (Obj.memState ch) = 2 ∧ movement < 256) ∧
    (∃ (s : State) (who : Req) (ch : Fin 4), s.serves' who (Obj.memRetrain ch) ∧ ((s.svc ch = .covered ∨ s.svc ch = .offline)) ∧ ((s.obj (Obj.memState ch) = 2 ∨ s.obj (Obj.memState ch) = 4))) ∧
    (∃ (s : State) (who : Req) (ch : Fin 4), s.serves' who (Obj.memRetrain ch) ∧ (((s.svc ch ≠ .covered ∧ s.svc ch ≠ .offline) ∨ (s.obj (Obj.memState ch) ≠ 2 ∧ s.obj (Obj.memState ch) ≠ 4)))) ∧
    (∃ (s : State) (ch : Fin 4), s.clocksRun ∧ s.obj (Obj.memState ch) = 3) ∧
    (∃ (s : State) (ch : Fin 4), s.clocksRun ∧ s.obj (Obj.memState ch) = 3) :=
  ⟨⟨mem 0 1, 0, by decide +kernel⟩,
   ⟨mem 0 1, 0, by decide +kernel⟩,
   ⟨run0, 0, true, by decide +kernel⟩,
   ⟨mem 0 2, 0, 255, by decide +kernel⟩,
   ⟨off0, (.fn 0), 0, by decide +kernel⟩,
   ⟨up0, (.fn 0), 0, by decide +kernel⟩,
   ⟨mem 0 3, 0, by decide +kernel⟩,
   ⟨mem 0 3, 0, by decide +kernel⟩⟩
theorem witness_MemoriesAndCaches_8 :
    (∃ (s : State) (who : Req) (ch : Fin 4) (v : Nat), s.serves' who (Obj.cacheCtrl ch) ∧ (∀ p ∈ slices, bit (s.obj (Obj.cacheCtrl ch)) p.2 = false → bit (v % 64) p.2 = true → s.sliceFailed ch p.2 = false) ∧ ((s.leavesBare ch (v % 64) = false ∨ s.svc ch = .offline)) ∧ s.obj (Obj.memState ch) ≠ 0) ∧
    (∃ (s : State) (who : Req) (ch : Fin 4) (v : Nat) (passes : Bool), s.serves' who (Obj.cacheCtrl ch) ∧ (((∃ p ∈ slices, bit (s.obj (Obj.cacheCtrl ch)) p.2 = false ∧ bit (v % 64) p.2 = true ∧ s.sliceFailed ch p.2 = true) ∨ (passes = false ∧ (s.pacer ch).program.isSome = true ∧ ∃ p ∈ slices, bit (s.obj (Obj.cacheCtrl ch)) p.2 = true ∧ bit (v % 64) p.2 = false)))) ∧
    (∃ (s : State) (who : Req) (ch : Fin 4) (v : Nat), s.serves' who (Obj.cacheCtrl ch) ∧ (∀ p ∈ slices, bit (s.obj (Obj.cacheCtrl ch)) p.2 = false → bit (v % 64) p.2 = true → s.sliceFailed ch p.2 = false) ∧ (∃ p ∈ slices, bit (s.obj (Obj.cacheCtrl ch)) p.2 = true ∧ bit (v % 64) p.2 = false) ∧ s.leavesBare ch (v % 64) = true ∧ s.svc ch ≠ .offline) ∧
    (∃ (s : State) (ch : Fin 4) (sl : Slice), s.clocksRun ∧ (s.cacheSlice ch sl).phase = .invalidating ∧ (∃ p ∈ slices, p.1 = sl ∧ bit (s.obj (Obj.cacheCtrl ch)) p.2 = true)) ∧
    (∃ (s : State) (ch : Fin 4) (sl : Slice), s.clocksRun ∧ (s.cacheSlice ch sl).phase = .invalidating ∧ (∀ p ∈ slices, p.1 = sl → bit (s.obj (Obj.cacheCtrl ch)) p.2 = false)) ∧
    (∃ (s : State) (ch : Fin 4) (sl : Slice) (u : Nat), s.clocksRun ∧ (s.cacheSlice ch sl).phase = .departAt u ∧ u ≤ s.tick ch) ∧
    (∃ (s : State) (ch : Fin 4) (p : Slice × Nat), p ∈ slices ∧ (s.cacheSlice ch p.1).phase = .drained ∧ s.pointIdle ch p.1 = true) ∧
    (∃ (s : State) (ch : Fin 4) (sl : Slice) (u : Nat), s.clocksRun ∧ (s.cacheSlice ch sl).phase = .scanAt u ∧ u ≤ s.tick ch) :=
  ⟨⟨off0.setObj (Obj.memState 0) 2, (.fn 0), 0, 63, by decide +kernel⟩,
   ⟨pac up0 (fun p => { p with program := some prog0 }), (.fn 0), 0, 0, false, by decide +kernel⟩,
   ⟨up0, (.fn 0), 0, 0, by decide +kernel⟩,
   ⟨csl .invalidating, 0, .sc 0, by decide +kernel⟩,
   ⟨(csl .invalidating).setObj (Obj.cacheCtrl 0) 0x2F, 0, .sc 0, by decide +kernel⟩,
   ⟨(csl (.departAt 3)).setObj (Obj.cacheCtrl 0) 0x2F, 0, .sc 0, _, by decide +kernel, rfl, by decide +kernel⟩,
   ⟨csl .drained, 0, (.sc 0, 4), by decide +kernel⟩,
   ⟨csl (.scanAt 3), 0, .sc 0, _, by decide +kernel, rfl, by decide +kernel⟩⟩
theorem witness_PoolsAndAddressSpaces :
    (∃ (s : State) (who : Req) (ch : Fin 4) (chunks : Bool) (v : Nat) (b : Nat) (n : Nat), s.serves' who (if chunks then Obj.allocChunks ch else Obj.allocBase ch) ∧ s.poolOwned ch = false ∧ (b, n) = (if chunks then ((s.poolNext ch).1, v) else (v, (s.poolNext ch).2)) ∧ n ≤ 65536 ∧ b % 65536 = 0 ∧ s.poolBad ch b n = false) ∧
    (∃ (s : State) (who : Req) (ch : Fin 4) (chunks : Bool) (v : Nat), s.serves' who (if chunks then Obj.allocChunks ch else Obj.allocBase ch) ∧ s.poolOwned ch = true) ∧
    (∃ (s : State) (ch : Fin 4) (b : Nat) (n : Nat), s.clocksRun ∧ (s.allocs.get ch).staged = some (b, n) ∧ s.poolDue ch = true) ∧
    (∃ (s : State) (ch : Fin 4) (chunk : Nat), s.clocksRun ∧ (s.allocs.get ch).dataChunks.contains chunk = true ∧ (s.allocs.get ch).zeroed.contains chunk = false ∧ entryOwned (s.owner ch chunk) = false ∧ s.memUp ch = true) ∧
    (∃ (s : State) (who : Req) (k : Nat), s.serves' who (Obj.allocTrim k) ∧ (s.space k).busy = false) ∧
    (∃ (s : State) (who : Req) (k : Nat), s.serves' who (Obj.allocTrim k) ∧ (s.space k).busy = true) ∧
    (∃ (s : State) (ch : Fin 4) (k : Nat), s.clocksRun ∧ (s.space k).phase = .pending ∧ (s.space k).trim = true ∧ (s.space k).passed.contains ch.val = false ∧ (s.space k).since.get ch < s.edgeNo ch) ∧
    (∃ (s : State) (k : Nat), s.clocksRun ∧ (s.space k).phase = .draining ∧ (s.space k).trim = true ∧ (s.space k).empty = false ∧ (∀ i ∈ (s.space k).trimRuns, s.runs.any (fun e => e.1 = i) = false ∧ s.pubs.any (fun e => e.1 = i) = false)) :=
  ⟨⟨up0, (.fn 0), 0, false, 0x2000000, 0x2000000, 0, by decide +kernel⟩,
   ⟨owned, (.fn 0), 0, true, 64, by decide +kernel⟩,
   ⟨pac poolS (fun p => { p with tick := 9, count := 9 }), 0, _, _, by decide +kernel, rfl, by decide +kernel⟩,
   ⟨{ poolS with allocs := poolS.allocs.set 0 { pool0 with staged := none } }, 0, 9, by decide +kernel⟩,
   ⟨sp space1, (.fn 0), 1, by decide +kernel⟩,
   ⟨sp { space1 with phase := .pending }, (.fn 0), 1, by decide +kernel⟩,
   ⟨sp { space1 with phase := .pending, trim := true }, 0, 1, by decide +kernel⟩,
   ⟨sp { space1 with phase := .draining, trim := true }, 1, by decide +kernel⟩⟩
theorem witness_PoolsAndAddressSpaces_8 :
    (∃ (s : State) (who : Req) (k : Nat), s.serves' who (Obj.asInstall k) ∧ (s.space k).busy = false) ∧
    (∃ (s : State) (who : Req) (k : Nat), s.serves' who (Obj.asInstall k) ∧ (s.space k).busy = true) ∧
    (∃ (s : State) (u : State) (k : Nat) (g : Gen) (ecc : Ecc), (s.clocksRun ∧ (s.space k).phase = .checking) ∧ (s.space k).next = some g ∧ ecc.bad = none ∧ u = s.noteEcc (chanOf g.addr) ecc ∧ u.tableCheck k g = none) ∧
    (∃ (s : State) (u : State) (k : Nat) (i : Nat) (g : Gen) (ecc : Ecc), (s.clocksRun ∧ (s.space k).phase = .checking) ∧ (s.space k).next = some g ∧ (s.space k).empty = false ∧ u = s.noteEcc (chanOf g.addr) ecc ∧ ((ecc.bad = none ∧ u.tableCheck k g = some i ∨ ecc.bad ≠ none ∧ i = 0))) ∧
    (∃ (s : State) (ch : Fin 4) (k : Nat) (g : Gen), (s.clocksRun ∧ (s.space k).phase = .pending) ∧ (s.space k).next = some g ∧ ((s.space k).trim = false ∧ (s.space k).passed.contains ch.val = false ∧ (s.space k).since.get ch < s.edgeNo ch)) ∧
    (∃ (s : State) (k : Nat) (g : Gen), (s.clocksRun ∧ (s.space k).phase = .draining) ∧ (s.space k).next = some g ∧ ((s.space k).trim = false ∧ (s.space k).empty = false ∧ (s.space k).making = false ∧ s.drained k = true)) :=
  ⟨⟨sp space1, (.fn 0), 1, by decide +kernel⟩,
   ⟨sp { space1 with phase := .checking }, (.fn 0), 1, by decide +kernel⟩,
   ⟨sp { space1 with phase := .checking, next := some { Gen.empty with num := 2 } }, _, 1, _, { corrected := [], bad := none, via := .mem }, by decide +kernel, rfl, by decide +kernel, rfl, by decide +kernel⟩,
   ⟨sp { space1 with phase := .checking, next := some { Gen.empty with num := 2, addr := 0x1001, count := 1 } }, _, 1, 0, _, { corrected := [], bad := none, via := .mem }, by decide +kernel, rfl, by decide +kernel, rfl, by decide +kernel⟩,
   ⟨sp { space1 with phase := .pending, next := some { Gen.empty with num := 2 } }, 0, 1, _, by decide +kernel, rfl, by decide +kernel⟩,
   ⟨sp { space1 with phase := .draining, next := some { Gen.empty with num := 2 } }, 1, _, by decide +kernel, rfl, by decide +kernel⟩⟩
theorem witness_HostPort :
    (∃ (s : State) (f : Nat) (bm : Bool) (at' : Bool), s.clocksRun ∧ f < 16) ∧
    (∃ (s : State) (speed : Nat) (width : Nat), s.clocksRun ∧ 1 ≤ speed ∧ speed ≤ 5 ∧ ((width = 1 ∨ width = 2 ∨ width = 4 ∨ width = 8))) ∧
    (∃ (s : State) (f : Nat), s.clocksRun ∧ s.awake = true ∧ 1 ≤ f ∧ f < 16 ∧ s.ctxsOf f = []) ∧
    (∃ (s : State), s.clocksRun ∧ s.awake = true ∧ s.ctxs = []) ∧
    (∃ (s : State), s.clocksRun ∧ s.awake = true ∧ s.ctxs = []) ∧
    (∃ (s : State) (a : Nat) (n : Nat) (e : Ecc), s.clocksRun ∧ s.awake = true ∧ bar2Ok 0 a n = true ∧ s.bar2Open a n = true ∧ (pieces a n).find? (s.heldFrom none) = none) ∧
    (∃ (s : State) (a : Nat) (n : Nat) (k : Nat) (e : Ecc), (s.clocksRun ∧ s.awake = true ∧ bar2Ok 0 a n = true ∧ s.bar2Open a n = true) ∧ (pieces a n).find? (s.heldFrom none) = some k) ∧
    (∃ (s : State) (a : Nat) (n : Nat) (e : Ecc), s.clocksRun ∧ s.awake = true ∧ bar2Ok 0 a n = true ∧ s.bar2Open a n = false) :=
  ⟨⟨run0, 15, false, true, by decide +kernel⟩,
   ⟨run0, 5, 8, by decide +kernel⟩,
   ⟨run0, 3, by decide +kernel⟩,
   ⟨run0, by decide +kernel⟩,
   ⟨run0, by decide +kernel⟩,
   ⟨up0, 0x1000, 8, { corrected := [], bad := none, via := .mem }, by decide +kernel⟩,
   ⟨heldB, 0x1000, 8, _, { corrected := [], bad := none, via := .mem }, by decide +kernel, rfl⟩,
   ⟨{ up0 with service := .all .offline }, 0x1000, 8, { corrected := [], bad := none, via := .mem }, by decide +kernel⟩⟩
theorem witness_HostPort_8 :
    (∃ (s : State) (f : Nat) (a : Nat) (n : Nat) (e : Ecc), s.clocksRun ∧ s.awake = true ∧ bar2Ok f a n = false) ∧
    (∃ (s : State) (a : Nat) (bs : List (BitVec 8)), s.clocksRun ∧ s.awake = true ∧ bar2Ok 0 a bs.length = true ∧ s.bar2Open a bs.length = true) ∧
    (∃ (s : State) (f : Nat) (a : Nat) (n : Nat) (bs : List (BitVec 8)) (e : Ecc), s.clocksRun ∧ s.awake = false) ∧
    (∃ (s : State) (f : Nat) (a : Nat) (n : Nat) (bs : List (BitVec 8)) (e : Ecc), s.clocksRun ∧ s.awake = false) ∧
    (∃ (s : State) (f : Nat) (a : Nat) (bs : List (BitVec 8)), s.clocksRun ∧ s.awake = true ∧ ((bar2Ok f a bs.length = false ∨ s.bar2Open a bs.length = false))) ∧
    (∃ (s : State) (f : Nat) (ptr : Nat) (seq : Nat), s.clocksRun ∧ f < 16 ∧ (s.mbox (mbM2h f)).pending = false) ∧
    (∃ (s : State) (f : Nat) (rc : Nat), s.clocksRun ∧ f < 16 ∧ (s.mbox (mbM2h f)).pending = true ∧ rc < 65536) :=
  ⟨⟨up0, 3, 0x1000, 8, { corrected := [], bad := none, via := .mem }, by decide +kernel⟩,
   ⟨up0, 0x1000, [1, 2, 3, 4], by decide +kernel⟩,
   ⟨{ run0 with power := { run0.power with p2 := .standby } }, 0, 0x1000, 0, [1], { corrected := [], bad := none, via := .mem }, by decide +kernel⟩,
   ⟨{ run0 with power := { run0.power with p2 := .standby } }, 0, 0x1000, 4, [], { corrected := [], bad := none, via := .mem }, by decide +kernel⟩,
   ⟨run0, 1, 0, [1], by decide +kernel⟩,
   ⟨run0, 3, 0x1000, 7, by decide +kernel⟩,
   ⟨(run0.setMbox (mbM2h 3) { run0.mbox (mbM2h 3) with pending := true, seq := 255 }), 3, 5, by decide +kernel⟩⟩
theorem witness_T1PortAndDoorbells :
    (∃ (s : State), s.clocksRun ∧ s.obj Obj.t1State = 0) ∧
    (∃ (s : State), s.clocksRun) ∧
    (∃ (s : State) (a : Nat), s.clocksRun ∧ s.obj Obj.t1State = 1 ∧ s.obj Obj.t1Ipv4 ≠ 0) ∧
    (∃ (s : State) (a : Nat), s.clocksRun ∧ s.obj Obj.t1State = 1 ∧ s.obj Obj.t1Ipv4 = 0 ∧ linkLocal a = true) ∧
    (∃ (s : State), s.clocksRun ∧ s.obj Obj.t1State ≠ 0 ∧ s.obj Obj.t1Ipv4 ≠ 0) ∧
    (∃ (s : State), s.clocksRun ∧ s.obj Obj.t1State ≠ 0 ∧ s.obj Obj.t1Ipv4 = 0 ∧ s.obj Obj.t1State = 2 ∧ (∀ t, s.defended = some t → t + defendInterval ≤ s.now)) ∧
    (∃ (s : State), s.clocksRun ∧ s.obj Obj.t1State ≠ 0 ∧ s.obj Obj.t1Ipv4 = 0 ∧ ((s.obj Obj.t1State ≠ 2 ∨ ∃ t, s.defended = some t ∧ s.now < t + defendInterval))) ∧
    (∃ (s : State) (who : Req) (v : List (BitVec 8)), s.serves' who (key 0x1020 2) ∧ v.length = 4 ∧ s.obj Obj.t1State ≠ 0) :=
  ⟨⟨run0, by decide +kernel⟩,
   ⟨t1 2, by decide +kernel⟩,
   ⟨(t1 1).setObj Obj.t1Ipv4 0x0A000001, 5, by decide +kernel⟩,
   ⟨t1 1, 0xA9FE0101, by decide +kernel⟩,
   ⟨(t1 2).setObj Obj.t1Ipv4 0x0A000001, by decide +kernel⟩,
   ⟨t1 2, by decide +kernel⟩,
   ⟨{ t1 2 with defended := some 0 }, by decide +kernel⟩,
   ⟨t1 2, (.fn 0), [1, 2, 3, 4], by decide +kernel⟩⟩
theorem witness_T1PortAndDoorbells_9 :
    (∃ (s : State) (ip : Nat) (mac : Nat) (target : Nat), s.clocksRun ∧ s.obj Obj.t1State = 2 ∧ target = s.obj Obj.t1Addr) ∧
    (∃ (s : State) (ip : Nat) (mac : Nat) (target : Nat), s.clocksRun ∧ target ≠ s.obj Obj.t1Addr) ∧
    (∃ (s : State) (ip : Nat) (ident : Nat) (data : List (BitVec 8)), s.clocksRun ∧ s.obj Obj.t1State = 2 ∧ data.length ≤ 1024) ∧
    (∃ (s : State) (ip : Nat) (ident : Nat) (data : List (BitVec 8)), s.clocksRun ∧ s.obj Obj.t1State = 2 ∧ 1024 < data.length) ∧
    (∃ (s : State) (now : Nat) (time : Nat) (delay : Nat), s.clocksRun ∧ s.obj Obj.t1AsEn ≠ 0 ∧ s.obj Obj.t1State ≠ 0) ∧
    (∃ (s : State) (now : Nat) (time : Nat) (delay : Nat), s.clocksRun ∧ s.obj Obj.t1AsEn ≠ 0 ∧ s.obj Obj.t1State ≠ 0) ∧
    (∃ (s : State), s.clocksRun ∧ s.obj Obj.t1AsState = 2) ∧
    (∃ (s : State) (f : Nat) (q : Nat) (w : Nat) (x : Queue) (c : Context), (s.clocksRun ∧ s.power.p2 = .awake ∧ f < 16 ∧ q < 2048 ∧ s.resetting f = false) ∧ look s.queues q = some x ∧ look s.ctxs x.ctx = some c ∧ (c.owner = f ∧ c.state ≠ .teardown ∧ w < x.entries)) :=
  ⟨⟨(t1 2).setObj Obj.t1Addr 9, 1, 2, 9, by decide +kernel⟩,
   ⟨t1 2, 1, 2, 9, by decide +kernel⟩,
   ⟨t1 2, 1, 7, [1], by decide +kernel⟩,
   ⟨t1 2, 1, 7, List.replicate 1025 0, by decide +kernel⟩,
   ⟨(t1 2).setObj Obj.t1AsEn 1, 9, 5, 6, by decide +kernel⟩,
   ⟨(t1 2).setObj Obj.t1AsEn 1, 9, 5, 6, by decide +kernel⟩,
   ⟨(t1 2).setObj Obj.t1AsState 2, by decide +kernel⟩,
   ⟨qs, 0, 5, 63, _, _, by decide +kernel, rfl, rfl, by decide +kernel⟩⟩
theorem witness_T1PortAndDoorbells_17 :
    (∃ (s : State) (f : Nat) (q : Nat) (w : Nat), s.clocksRun ∧ s.power.p2 = .awake ∧ f < 16 ∧ q < 2048 ∧ s.resetting f = false ∧ ((∀ x, look s.queues q = some x → x.entries ≤ w ∨ ∀ c, look s.ctxs x.ctx = some c → c.owner ≠ f ∨ c.state = .teardown))) ∧
    (∃ (s : State) (f : Nat) (q : Nat) (w : Nat), s.clocksRun ∧ s.power.p2 = .awake ∧ s.resetting f = true) ∧
    (∃ (s : State) (q : Nat) (x : Queue) (y : Queue), s.clocksRun ∧ look s.queues q = some x ∧ y = { x with sampled := x.wptr, rung := false, idle := false } ∧ ((x.rung = true ∨ x.readPtr ≠ x.sampled))) ∧
    (∃ (s : State) (q : Nat) (x : Queue), s.clocksRun ∧ look s.queues q = some x ∧ (x.rung = false ∧ x.readPtr = x.sampled)) :=
  ⟨⟨qs, 0, 2047, 0, by decide +kernel⟩,
   ⟨{ run0 with power := { run0.power with resets := [3] } }, 3, 5, 1, by decide +kernel⟩,
   ⟨{ qs with queues := [(5, { queue0 with rung := true, wptr := 3 })] }, 5, _, _, by decide +kernel, rfl, rfl, by decide +kernel⟩,
   ⟨qs, 5, _, by decide +kernel, rfl, by decide +kernel⟩⟩
theorem witness_NoticesToMarshal :
    (∃ (s : State) (s1 : State) (ptr : Nat) (user : Nat) (n : Nat) (u : Nat) (code : Nat) (dev : Bool) (b : List Byte), (s.clocksRun ∧ s.power.p2 = .awake ∧ s.marshal = .running ∧ (s.mbox (mbH2m 0)).pending = false ∧ ptr < 2 ^ 64 ∧ ptr % 8 = 0 ∧ s.reaches dev ptr 128 = true ∧ user < 2 ^ 23 ∧ n = s.readNat (spaceKey dev ptr + 8) 8 ∧ s.reaches dev (s.readNat (spaceKey dev ptr) 8) n = true ∧ s.receiving = none) ∧ headerSize ≤ n ∧ (n ≤ imageLimit ∧ b = s.read (spaceKey dev (s.readNat (spaceKey dev ptr) 8)) n ∧ u = field b 6 2 ∧ (s.headerCheck b = 0 → s.mayReceive (.fn 0) u = true ∧ s.unitOff u = false) ∧ code = s.imageCheck b ∧ s1 = s.setMbox (mbH2m 0) ((s.mbox (mbH2m 0)).send ptr (2 ^ 24 + (if dev then 2 ^ 23 else 0) + user)))) ∧
    (∃ (s : State) (ptr : Nat) (user : Nat) (n : Nat) (dev : Bool) (b : List Byte), s.clocksRun ∧ s.power.p2 = .awake ∧ s.marshal = .running ∧ (s.mbox (mbH2m 0)).pending = false ∧ ptr < 2 ^ 64 ∧ ptr % 8 = 0 ∧ s.reaches dev ptr 128 = true ∧ user < 2 ^ 23 ∧ n = s.readNat (spaceKey dev ptr + 8) 8 ∧ s.reaches dev (s.readNat (spaceKey dev ptr) 8) n = true ∧ b = s.read (spaceKey dev (s.readNat (spaceKey dev ptr) 8)) (min n (policySize + 1))) ∧
    (∃ (s : State) (ptr : Nat) (user : Nat) (n : Nat) (i : Nat) (dev : Bool), s.clocksRun ∧ s.power.p2 = .awake ∧ s.marshal = .running ∧ (s.mbox (mbH2m 0)).pending = false ∧ ptr < 2 ^ 64 ∧ ptr % 8 = 0 ∧ s.reaches dev ptr 32 = true ∧ user < 2 ^ 23 ∧ s.readNat (spaceKey dev ptr) 8 % 32 = 0 ∧ n = s.readNat (spaceKey dev ptr + 8) 4 ∧ 6 ≤ i ∧ i ≤ 20 ∧ n = 2 ^ i ∧ s.readNat (spaceKey dev ptr + 0x0C) 4 = 0) ∧
    (∃ (s : State) (ptr : Nat) (user : Nat) (dev : Bool), s.clocksRun ∧ s.power.p2 = .awake ∧ s.marshal = .running ∧ (s.mbox (mbH2m 0)).pending = false ∧ ptr < 2 ^ 64 ∧ ptr % 8 = 0 ∧ s.reaches dev ptr 304 = true ∧ user < 2 ^ 23 ∧ restoreShape (s.read (spaceKey dev ptr) 304) = false) ∧
    (∃ (s : State) (s1 : State) (ptr : Nat) (user : Nat) (dev : Bool) (r : Restored), s.clocksRun ∧ s.power.p2 = .awake ∧ s.marshal = .running ∧ (s.mbox (mbH2m 0)).pending = false ∧ ptr < 2 ^ 64 ∧ ptr % 8 = 0 ∧ s.reaches dev ptr 304 = true ∧ user < 2 ^ 23 ∧ (((s.setMbox (mbH2m 0) ((s.mbox (mbH2m 0)).send ptr (4 * 2 ^ 24 + (if dev then 2 ^ 23 else 0) + user))).takeWith 0 0).restore (s.read (spaceKey dev ptr) 304)) = (r, s1) ∧ r.code = 0) ∧
    (∃ (s : State) (f : Nat) (ptr : Nat) (user : Nat) (dev : Bool) (i : Instr), s.clocksRun ∧ s.power.p2 = .awake ∧ s.marshal = .running ∧ 1 ≤ f ∧ f < 16 ∧ (s.mbox (mbH2m f)).pending = false ∧ i ∈ [Instr.image f ptr dev user, Instr.policy f ptr dev user, Instr.traceRing f ptr dev user, Instr.restore f ptr dev user]) ∧
    (∃ (s : State) (f : Nat) (ptr : Nat) (user : Nat) (dev : Bool) (i : Instr), s.clocksRun ∧ s.power.p2 = .awake ∧ f < 16 ∧ (s.mbox (mbH2m f)).pending = true ∧ i ∈ [Instr.image f ptr dev user, Instr.policy f ptr dev user, Instr.traceRing f ptr dev user, Instr.restore f ptr dev user]) :=
  ⟨⟨imgS, imgS.setMbox (mbH2m 0) ((imgS.mbox (mbH2m 0)).send 0x1000 (2 ^ 24 + 0 + 3)), 0x1000, 3, 8200, 0x60, imgS.imageCheck (imgS.read (hostBase + 0x2000) 8200), false, imgS.read (hostBase + 0x2000) 8200, by decide +kernel, (by decide +kernel), by decide +kernel⟩,
   ⟨{ up0 with mem := imgHost }, 0x1000, 3, 8200, false, ({ up0 with mem := imgHost } : State).read (hostBase + 0x2000) (min 8200 (policySize + 1)), by decide +kernel⟩,
   ⟨ringS, 0x1000, 3, 64, 6, false, by decide +kernel⟩,
   ⟨up0, 0x1000, 0, false, by decide +kernel⟩,
   ⟨rst1, restR.2, 0x1000, 0, false, restR.1, by decide +kernel⟩,
   ⟨up0, 1, 0x1000, 0, false, .policy 1 0x1000 false 0, by decide +kernel⟩,
   ⟨{ run0 with mboxes := [(mbH2m 3, { reg := 0, pending := true, ptr := 0, tag := 0, seq := 0, rc := 0 })] }, 3, 0x1000, 0, false, .policy 3 0x1000 false 0, by decide +kernel⟩⟩
theorem witness_Contexts :
    (∃ (s : State) (who : Req) (c : Nat) (v : Nat), s.serves' who (Obj.ctxCreate c) ∧ v < 512 ∧ look s.ctxs c = none ∧ s.boundElse (v % 256) (reqFn who) = false ∧ (s.space (v % 256)).empty = false ∧ (s.space (v % 256)).making = false ∧ (s.ctxsOf (reqFn who)).length < s.obj (Obj.ctxQuota (reqFn who))) ∧
    (∃ (s : State) (who : Req) (c : Nat) (v : Nat), s.serves' who (Obj.ctxCreate c) ∧ v < 512 ∧ look s.ctxs c ≠ none) ∧
    (∃ (s : State) (who : Req) (c : Nat) (x : Context), s.serves' who (Obj.ctxHold c) ∧ look s.ctxs c = some x ∧ x.state ≠ .teardown) ∧
    (∃ (s : State) (who : Req) (c : Nat) (x : Context), s.serves' who (Obj.ctxRelease c) ∧ look s.ctxs c = some x ∧ (x.state ≠ .teardown ∧ s.displays c = false ∧ 2 ≤ x.hostRefs)) ∧
    (∃ (s : State) (who : Req) (c : Nat) (x : Context), s.serves' who (Obj.ctxRelease c) ∧ look s.ctxs c = some x ∧ (x.state ≠ .teardown ∧ s.displays c = false ∧ x.hostRefs ≤ 1)) ∧
    (∃ (s : State) (who : Req) (c : Nat) (x : Context), s.serves' who (Obj.ctxAbort c) ∧ look s.ctxs c = some x ∧ (x.state ≠ .teardown ∧ s.displays c = false)) ∧
    (∃ (s : State) (who : Req) (c : Nat) (x : Context), s.serves' who (Obj.ctxAbort c) ∧ look s.ctxs c = some x ∧ (x.state ≠ .teardown ∧ s.displays c = true)) ∧
    (∃ (s : State) (ch : Fin 4) (c : Nat) (x : Context), s.clocksRun ∧ s.quiet ∧ look s.ctxs c = some x ∧ (x.state = .teardown ∧ x.edges.contains ch.val = false ∧ x.since.get ch < s.edgeNo ch ∧ s.ctxRuns ch c = [] ∧ (∀ e ∈ s.queues, e.2.ctx = c → e.2.ch ≠ ch.val) ∧ (s.space x.asid).making = false)) :=
  ⟨⟨run0, (.fn 0), 5, 257, by decide +kernel⟩,
   ⟨td ctx0, (.fn 0), 0, 1, by decide +kernel⟩,
   ⟨td ctx0, (.fn 0), 0, _, by decide +kernel, rfl, by decide +kernel⟩,
   ⟨td { ctx0 with hostRefs := 2 }, (.fn 0), 0, _, by decide +kernel, rfl, by decide +kernel⟩,
   ⟨td { ctx0 with hostRefs := 1 }, (.fn 0), 0, _, by decide +kernel, rfl, by decide +kernel⟩,
   ⟨td ctx0, (.fn 0), 0, _, by decide +kernel, rfl, by decide +kernel⟩,
   ⟨pac (td ctx0) (fun p => { p with program := some prog0 }), (.fn 0), 0, _, by decide +kernel, rfl, by decide +kernel⟩,
   ⟨td tdn, 0, 0, _, by decide +kernel, ⟨rfl, rfl, rfl⟩, rfl, by decide +kernel⟩⟩
theorem witness_Contexts_8 :
    (∃ (s : State) (ch : Fin 4) (c : Nat) (x : Context), s.clocksRun ∧ look s.ctxs c = some x ∧ (x.state = .teardown ∧ x.edges.contains ch.val = false ∧ x.since.get ch < s.edgeNo ch)) ∧
    (∃ (s : State) (c : Nat) (x : Context), s.clocksRun ∧ look s.ctxs c = some x ∧ (x.state = .teardown ∧ x.edges.length = 4 ∧ s.ctxQuiet c = true)) :=
  ⟨⟨{ td tdn with runs := [(0, rn0)] }, 0, 0, _, by decide +kernel, rfl, by decide +kernel⟩,
   ⟨td { tdn with edges := [0, 1, 2, 3] }, 0, _, by decide +kernel, rfl, by decide +kernel⟩⟩
theorem witness_BatonsAndQuotas :
    (∃ (s : State) (who : Req) (c : Nat) (b : Nat), s.serves' who (Obj.ctxBatonCreate c) ∧ s.ownActive who c = true ∧ b < 16384 ∧ s.inTenant (reqFn who) b = true ∧ look s.batons b = none) ∧
    (∃ (s : State) (who : Req) (c : Nat) (b : Nat), s.serves' who (Obj.ctxBatonCreate c) ∧ s.ownActive who c = false) ∧
    (∃ (s : State) (who : Req) (c : Nat) (v : Nat) (x : Baton), (s.serves' who (Obj.ctxBatonShare c) ∧ v < 2 ^ 24 ∧ s.mayShare who c (bits v 23 16) = true) ∧ look s.batons (bits v 15 0) = some x ∧ (x.heldBy c = true ∧ x.refs < 255 ∧ x.heldBy (bits v 23 16) = false)) ∧
    (∃ (s : State) (who : Req) (c : Nat) (b : Nat) (d : Nat) (x : Baton), s.serves' who (Obj.ctxBatonRelease c) ∧ s.quiet ∧ look s.batons b = some x ∧ x.owner = some d ∧ (d ≠ c ∧ x.shares.contains c = true)) ∧
    (∃ (s : State) (who : Req) (c : Nat) (b : Nat) (x : Baton), s.serves' who (Obj.ctxBatonRelease c) ∧ s.quiet ∧ rising s.batons = true ∧ look s.batons b = some x ∧ (x.owner = some c ∧ x.shares = [] ∧ (∀ m ∈ s.liveCmds, m.signalEn = true → m.sigBaton ≠ b) ∧ (∀ m ∈ s.waitingCmds, m.waitEn = true → m.waitBaton ≠ b))) ∧
    (∃ (s : State) (who : Req) (b : Nat) (v : Nat) (x : Baton), s.serves' who Obj.batonSignal ∧ s.quiet ∧ (s.maySignal who b = true ∧ s.links = []) ∧ look s.batons b = some x ∧ (x.inError = false ∧ x.owner ≠ none ∧ x.value < v ∧ v < errValue)) ∧
    (∃ (s : State) (who : Req) (b : Nat) (v : Nat), s.serves' who Obj.batonSignal ∧ s.maySignal who b = false) ∧
    (∃ (s : State) (who : Req) (b : Nat) (code : Nat) (x : Baton), (s.serves' who Obj.batonFail ∧ s.maySignal who b = true ∧ s.links = []) ∧ look s.batons b = some x ∧ (x.inError = false ∧ x.owner ≠ none ∧ 1 ≤ code ∧ code < 0x8000)) :=
  ⟨⟨bt baton0, (.fn 0), 0, 7, by decide +kernel⟩,
   ⟨run0, (.fn 0), 0, 7, by decide +kernel⟩,
   ⟨bt baton0, (.fn 0), 0, 0x10000, _, by decide +kernel, rfl, by decide +kernel⟩,
   ⟨bt { baton0 with shares := [1] }, (.fn 0), 1, 0, _, _, by decide +kernel, ⟨rfl, rfl, rfl⟩, rfl, rfl, by decide +kernel⟩,
   ⟨bt baton0, (.fn 0), 0, 0, _, by decide +kernel, ⟨rfl, rfl, rfl⟩, by decide +kernel, rfl, by decide +kernel⟩,
   ⟨bt baton0, (.fn 0), 0, 9, _, by decide +kernel, ⟨rfl, rfl, rfl⟩, by decide +kernel, rfl, by decide +kernel⟩,
   ⟨bt baton0, (.fn 3), 0, 9, by decide +kernel⟩,
   ⟨bt baton0, (.fn 0), 0, 5, _, by decide +kernel, rfl, by decide +kernel⟩⟩
theorem witness_BatonsAndQuotas_8 :
    (∃ (s : State) (who : Req) (t' : Nat) (sub : Nat) (v : Nat) (base : Nat) (n : Nat), s.serves' who (key (0x1200 + t') sub) ∧ t' < 16 ∧ ((sub = 1 ∨ sub = 2)) ∧ base = (if sub = 1 then v else s.obj (Obj.batonBase t')) ∧ n = (if sub = 2 then v else s.obj (Obj.batonQuota t')) ∧ s.rangeMeets t' base n = false ∧ base + n ≤ 16384 ∧ (∀ b ∈ s.tenantBatons t', base ≤ b ∧ b < base + n)) ∧
    (∃ (s : State) (who : Req) (t' : Nat) (v : Nat), s.serves' who (key (0x1200 + t') 3) ∧ t' < 16 ∧ (s.ctxsOf t').length ≤ v) ∧
    (∃ (s : State) (who : Req) (t' : Nat) (v : Nat), s.serves' who (key (0x1200 + t') 3) ∧ t' < 16 ∧ v < (s.ctxsOf t').length) :=
  ⟨⟨run0, (.fn 0), 3, 1, 100, 100, 0, by decide +kernel⟩,
   ⟨bt baton0, (.fn 0), 0, 2, by decide +kernel⟩,
   ⟨bt baton0, (.fn 0), 0, 1, by decide +kernel⟩⟩

end W07

namespace W08

def course0 : Course := { state := .ready, ctx := 0, cls := 1, code := 0, failNode := 0, version := 1, versions := [(1, [])], checking := none, waiting := none, since := .all 0 }
def ctab : List Byte := toLE 4 0x45535243 ++ toLE 2 1 ++ List.replicate 26 0 ++ (bytes [0, 0, 0, 0, 0, 0, 0, 0] ++ toLE 8 0x40000000)
def cst (x : Course) : State := withMem 0x40000000 (bytes [0, 1]) <| withMem 0x40003000 ctab { wk0 with runs := [], queues := [], courses := [(3, x)] }
def qz : State := { wk0 with runs := [], queues := [(7, queue0)] }
def heatRec : List Byte := toLE 4 0x54414548 ++ bytes [1, 0, 0, 0] ++ toLE 4 256 ++ toLE 4 16 ++ toLE 8 0x40007000 ++ List.replicate 40 0
def hst : State := (withMem 0x40006000 heatRec { wk0 with runs := [], queues := [] }).setObj (Obj.heatAddr 0 15) 0x40006000
def hz (n : Nat) : State := { wk0 with runs := [], queues := [], heats := [(15, { ctx := 0, addr := 0x40006000, seen := [] })] }.setObj (Obj.heatState 0 15) n
def kl (n : Nat) : State := run0.setObj (Obj.klState 0) n
def imp : List Byte := toLE 4 (2 ^ 31 + 2 ^ 28 + 9)
def klb (t : List Byte) : State := { (kl 2).setLink 0 { (kl 2).link 0 with batons := t } with batons := [(9, baton0)] }
def klp (n : Nat) : State := pac (run0.setLink 0 { run0.link 0 with pending := some (n, [1], [2]) }) (fun p => { p with tick := 5, count := 5 })
def fl (crc : Bool) (ty seq err : Nat) : Flit := { symErrors := err, bytes := flitBytes ty seq 0 0 0 (if crc then [] else [1]) ++ if crc then [] else [0] }
def link0 : Launch := { course := 3, version := 1, queue := 0, track := 0, nodes := [], phases := [], heat := none, admitted := true }
def sy (v : Nat) : State := run0.setObj Obj.syncCtrl v
def head : Nat := 0x40000000 + 16 * 2 ^ 22 + 2 * 2 ^ 11
def foll : Nat := 0x80000000 + 16 * 2 ^ 22 + 2 * 2 ^ 11
def syr (v : Nat) (r a st : Bool) (sent : Option Nat) (mark : Option (Nat × Nat)) : State := { sy v with sync := { sent := sent, out := none, mark := mark, run := r, armed := a, start := st } }
def pctl (role : Nat) : Nat := role * 2 ^ 30 + 2 * 2 ^ 26 + 1 * 2 ^ 22 + 5 * 2 ^ 14
def pr (role st : Nat) : State := ((((up0.setObj (Obj.klState 0) 2).setObj Obj.startValid 1).setObj Obj.pairCtrl (pctl 2)).setObj Obj.pairRole role).setObj Obj.pairState st
def pr1 (role st : Nat) : State := (pr role st).setObj Obj.pairCtrl (pctl 1)
def dec0 : Decision := { ch := 0, tick := 5, ofn := 1, begun := none, bind := none, snap := none, subst := none, seg := 0, input := 1, shadow := false }
def rec0 : FrameRec := { ofn := 1, kind := 0, slotA := 0, slotB := 0, sfnA := 1, sfnB := 1, again := false, mute := false, cut := 0, tick := 5 }
def ddesc : List Byte := toLE 4 0x54534744 ++ bytes [0, 0] ++ toLE 2 1 ++ toLE 8 0x9000 ++ List.replicate 16 0 ++ (bytes [0, 0, 0, 0, 0, 0, 0, 0] ++ toLE 8 0xA000 ++ toLE 8 64)
def dg : State := ({ up0 with mem := writeMem [] 0x8000 ddesc }).setObj Obj.digestDesc 0x8000
def lnd : State := up0.setObj Obj.lendTicks 0
def lending : State := { up0 with lend := up0.lend.set 0 { idle := 0, started := false, lending := true, backAt := none }, runs := [(0, rn0)] }
def offp : State := { up0 with service := .all .offline }
def prg : State := pac up0 (fun p => { p with program := some prog0 })
def pend (v n : Nat) : State := pac { up0 with chPend := up0.chPend.set 0 { up0.chPend.get 0 with power := some (v, n) }, runs := [(0, rn0)] } (fun p => { p with tick := 5, count := 5 })

def mirU (s : State) (v : List Byte) : State := ({ s.setObj Obj.pairRole 0 with marshal := if s.marshal = .updating then .running else s.marshal } : State).writeObject (.fn 0) 0x2000 2 (s.peerValue 0x2000 2 v)

def mk (s : State) : State := s.setObj (Obj.dpCtrl 0) 0x80400380
def pv0 : PairView := (mk (pr 0 0)).pairView
def pv1 : PairView := (mk (pr1 0 0)).pairView
def fL : KlLink := ((kl 2).link 0).acked 0
def fV : State := (kl 2).setLink 0 fL
def rp (n : Nat) : List Byte := flitBytes 1 n 0 0 0 []
def klr : State := (kl 2).setLink 0 { (kl 2).link 0 with replay := [rp 3, rp 4] }
def fLr : KlLink := (klr.link 0).acked 0
def atS (s : State) (k : Nat) : State := pac s (fun p => { p with tick := k, program := some prog0 })
def mirV (s : State) (n : Nat) (v : List Byte) : State := ({ s.setObj Obj.pairRole 0 with marshal := if s.marshal = .updating then .running else s.marshal, pair := { s.pair with effect := some ((5 + s.obj Obj.peerOffset) % 2 ^ 64) } } : State).writeObject (.fn 0) 0x2000 2 (s.peerValue 0x2000 2 (if v.length ≤ n then v else slice v 0 n))
theorem witness_QueuesCoursesHeats :
    (∃ (s : State) (who : Req) (q : Nat) (v : Nat) (base : Nat) (n : Nat) (ring : Nat) (ringN : Nat), (s.serves' who (Obj.qCreate q) ∧ v < 0x8000 ∧ bits v 10 8 ≤ 4 ∧ bits v 14 13 ≠ 0) ∧ base = s.obj (own who (Obj.qBase q)) ∧ n = s.obj (own who (Obj.qEntries q)) ∧ ring = s.obj (own who (Obj.qRing q)) ∧ ringN = s.obj (own who (Obj.qRingEntries q)) ∧ (base % 16 = 0 ∧ 2 ≤ n ∧ n ≤ 65536 ∧ ring % 64 = 0 ∧ (ring ≠ 0 → 2 ≤ ringN ∧ ringN ≤ 4096) ∧ look s.queues q = none ∧ s.ownActive who (bits v 7 0) = true ∧ (s.tenantQueues (reqFn who)).length < s.obj (Obj.queueQuota (reqFn who)))) ∧
    (∃ (s : State) (who : Req) (q : Nat) (x : Queue), s.serves' who (Obj.qDestroy q) ∧ s.quiet ∧ look s.queues q = some x ∧ (x.closing = false ∧ s.ctxActive x.ctx = true ∧ x.head = none)) ∧
    (∃ (s : State) (q : Nat) (x : Queue), s.clocksRun ∧ s.quiet ∧ look s.queues q = some x ∧ (x.closing = true ∧ x.head = none ∧ x.order = [])) ∧
    (∃ (s : State) (q : Nat) (x : Queue), s.clocksRun ∧ look s.queues q = some x ∧ (x.stalled = false ∧ s.obj (Obj.stallTicks x.ch) ≤ x.readyTicks)) ∧
    (∃ (s : State) (who : Req) (k : Nat) (v : Nat), s.serves' who (Obj.courseCreate k) ∧ v < 1024 ∧ bits v 9 8 ≠ 0 ∧ look s.courses k = none ∧ s.ownActive who (v % 256) = true) ∧
    (∃ (s : State) (u : State) (k : Nat) (a : Nat) (ecc : Ecc) (x : Course) (nodes : List CourseNode), s.clocksRun ∧ look s.courses k = some x ∧ (x.checking = some a ∧ ecc.bad = none) ∧ u = s.noteEcc 0 ecc ∧ u.courseTable (u.ctxXlat x.ctx 0 4 x.cls) x.cls a = .ok nodes ∧ x.state = .checking) ∧
    (∃ (s : State) (u : State) (k : Nat) (a : Nat) (ecc : Ecc) (x : Course) (nodes : List CourseNode), s.clocksRun ∧ look s.courses k = some x ∧ (x.checking = some a ∧ ecc.bad = none) ∧ u = s.noteEcc 0 ecc ∧ u.courseTable (u.ctxXlat x.ctx 0 4 x.cls) x.cls a = .ok nodes ∧ x.state = .ready) ∧
    (∃ (s : State) (u : State) (k : Nat) (a : Nat) (e : Nat) (i : Nat) (ecc : Ecc) (x : Course), s.clocksRun ∧ look s.courses k = some x ∧ (x.checking = some a ∧ x.state = .checking) ∧ u = s.noteEcc 0 ecc ∧ (((ecc.bad ≠ none ∧ e = eMemError ∧ i = 0) ∨ (ecc.bad = none ∧ u.courseTable (u.ctxXlat x.ctx 0 4 x.cls) x.cls a = .error (e, i) ∧ (heldAt e).isNone = true)))) :=
  ⟨⟨((({ run0 with ctxs := [(0, ctx0)] }).setObj (own (.fn 0) (Obj.qBase 7)) 0x10000).setObj (own (.fn 0) (Obj.qEntries 7)) 64), (.fn 0), 7, 0x2000, _, _, _, _, by decide +kernel, rfl, rfl, rfl, rfl, by decide +kernel⟩,
   ⟨qz, (.fn 0), 7, _, by decide +kernel, ⟨rfl, rfl, rfl⟩, rfl, by decide +kernel⟩,
   ⟨{ qz with queues := [(7, { queue0 with closing := true })] }, 7, _, by decide +kernel, ⟨rfl, rfl, rfl⟩, rfl, by decide +kernel⟩,
   ⟨qz.setObj (Obj.stallTicks 0) 0, 7, _, by decide +kernel, rfl, by decide +kernel⟩,
   ⟨{ run0 with ctxs := [(0, ctx0)] }, (.fn 0), 3, 256, by decide +kernel⟩,
   ⟨cst { course0 with state := .checking, checking := some 0x40003000 }, ((cst { course0 with state := .checking, checking := some 0x40003000 }).noteEcc 0 { corrected := [], bad := none, via := .mem }), 3, 0x40003000, { corrected := [], bad := none, via := .mem }, _, [{ engine := 0, dep0 := 0, dep1 := 0, cmd := 0x40000000 }], by decide +kernel, rfl, by decide +kernel, rfl, (okIs_eq (by decide +kernel)), by decide +kernel⟩,
   ⟨cst { course0 with checking := some 0x40003000 }, ((cst { course0 with checking := some 0x40003000 }).noteEcc 0 { corrected := [], bad := none, via := .mem }), 3, 0x40003000, { corrected := [], bad := none, via := .mem }, _, [{ engine := 0, dep0 := 0, dep1 := 0, cmd := 0x40000000 }], by decide +kernel, rfl, by decide +kernel, rfl, (okIs_eq (by decide +kernel)), by decide +kernel⟩,
   ⟨cst { course0 with state := .checking, checking := some 0x40004000 }, ((cst { course0 with state := .checking, checking := some 0x40004000 }).noteEcc 0 { corrected := [], bad := some 5, via := .mem }), 3, 0x40004000, eMemError, 0, { corrected := [], bad := some 5, via := .mem }, _, by decide +kernel, rfl, by decide +kernel, rfl, (.inl (by decide +kernel))⟩⟩
theorem witness_QueuesCoursesHeats_8 :
    (∃ (s : State) (who : Req) (k : Nat) (x : Course), s.serves' who (Obj.coursePatch k) ∧ look s.courses k = some x ∧ (x.state ≠ .refused ∧ x.checking = none ∧ x.waiting = none)) ∧
    (∃ (s : State) (k : Nat) (x : Course) (nodes : List CourseNode), s.clocksRun ∧ s.quiet ∧ rising s.courses = true ∧ look s.courses k = some x ∧ x.waiting = some nodes ∧ (∀ c, x.since.get c < s.edgeNo c)) ∧
    (∃ (s : State) (who : Req) (k : Nat), s.serves' who (Obj.courseDestroy k) ∧ look s.courses k ≠ none ∧ (∀ l ∈ s.launches, l.2.course ≠ k)) ∧
    (∃ (s : State) (who : Req) (k : Nat), s.serves' who (Obj.courseDestroy k) ∧ look s.courses k ≠ none ∧ (∃ l ∈ s.launches, l.2.course = k)) ∧
    (∃ (s : State) (who : Req) (ch : Fin 4) (h : Nat) (c : Nat) (v : HeatView), (s.serves' who (Obj.heatCreate ch h) ∧ h < 16 ∧ look s.heats (heatKey ch h) = none ∧ s.ownActive who c = true) ∧ s.heatHeader (s.heatXlat c ch) (s.obj (Obj.heatAddr ch h)) = .ok v ∧ (∀ i < v.slots, s.getV (s.heatXlat c ch) (v.slot i) 4 = 0)) ∧
    (∃ (s : State) (who : Req) (ch : Fin 4) (h : Nat) (y : Heat), s.serves' who (Obj.heatDestroy ch h) ∧ look s.heats (heatKey ch h) = some y ∧ (s.obj (Obj.heatState ch h) ≠ 2 ∧ (∀ l ∈ s.launches, l.2.heat ≠ some (heatKey ch h)) ∧ ((s.memUp ch = true ∨ s.getV (s.heatXlat y.ctx ch) (y.addr + 4) 1 = 0)))) ∧
    (∃ (s : State) (who : Req) (ch : Fin 4) (h : Nat) (y : Heat), s.serves' who (Obj.heatDestroy ch h) ∧ look s.heats (heatKey ch h) = some y ∧ ((s.obj (Obj.heatState ch h) = 2 ∨ (∃ l ∈ s.launches, l.2.heat = some (heatKey ch h))))) :=
  ⟨⟨cst course0, (.fn 0), 3, _, by decide +kernel, rfl, by decide +kernel⟩,
   ⟨{ cst { course0 with waiting := some [] } with pacers := .all { Pacer.reset 0 with tick := 3, count := 3 } }, 3, _, _, by decide +kernel, ⟨rfl, rfl, rfl⟩, by decide +kernel, rfl, rfl, by decide +kernel⟩,
   ⟨cst course0, (.fn 0), 3, by decide +kernel⟩,
   ⟨{ cst course0 with launches := [(0, link0)] }, (.fn 0), 3, by decide +kernel⟩,
   ⟨hst, (.fn 0), 0, 15, 0, okD (hst.heatHeader (hst.heatXlat 0 0) 0x40006000) ⟨0, 0, 0, 0, 0, 0, 0⟩, by decide +kernel, (okIs_eq (by decide +kernel)), by decide +kernel⟩,
   ⟨hz 1, (.fn 0), 0, 15, _, by decide +kernel, rfl, by decide +kernel⟩,
   ⟨hz 2, (.fn 0), 0, 15, _, by decide +kernel, rfl, by decide +kernel⟩⟩
theorem witness_KisterLink :
    (∃ (s : State) (p : KlPort), s.clocksRun ∧ s.portUp (KlPort.num p) = true) ∧
    (∃ (s : State) (p : KlPort), s.clocksRun ∧ s.portUp (KlPort.num p) = false) ∧
    (∃ (s : State) (p : KlPort) (wide : Bool) (ok : Bool), s.clocksRun ∧ s.obj (Obj.klState (KlPort.num p)) = 1 ∧ ok = true ∧ s.linkReady (6 + KlPort.num p) = true ∧ ((wide = true ∨ bit (s.obj (Obj.klCtrl (KlPort.num p))) 29 = true))) ∧
    (∃ (s : State) (p : KlPort) (wide : Bool) (ok : Bool), s.clocksRun ∧ s.obj (Obj.klState (KlPort.num p)) = 1 ∧ ((ok = false ∨ s.linkReady (6 + KlPort.num p) = false ∨ (wide = false ∧ bit (s.obj (Obj.klCtrl (KlPort.num p))) 29 = false)))) ∧
    (∃ (s : State) (p : KlPort) (d : List Byte) (index : Nat) (port : Nat), s.clocksRun ∧ s.portUp (KlPort.num p) = true ∧ index = xor2 (s.obj Obj.deviceIndex) (if KlPort.num p = 0 then 1 else 2) ∧ port = KlPort.num p) ∧
    (∃ (s : State) (p : KlPort) (d : List Byte) (index : Nat) (port : Nat), s.clocksRun ∧ s.portUp (KlPort.num p) = true ∧ port ≠ KlPort.num p) ∧
    (∃ (s : State) (p : KlPort) (tag : Nat), s.clocksRun) ∧
    (∃ (s : State) (p : KlPort) (b : Nat) (v : Nat) (x : Baton), s.clocksRun ∧ s.quiet ∧ s.portUp (KlPort.num p) = true ∧ look s.batons b = some x ∧ (x.owner ≠ none ∧ x.inError = false ∧ x.value < v ∧ v < errValue ∧ importsBaton (s.link (KlPort.num p)).batons b = true)) :=
  ⟨⟨kl 2, .kl0, by decide +kernel⟩,
   ⟨kl 1, .kl0, by decide +kernel⟩,
   ⟨kl 1, .kl0, true, true, by decide +kernel⟩,
   ⟨kl 1, .kl0, false, false, by decide +kernel⟩,
   ⟨kl 2, .kl0, [1], xor2 ((kl 2).obj Obj.deviceIndex) 1, 0, by decide +kernel⟩,
   ⟨kl 2, .kl0, [1], 9, 1, by decide +kernel⟩,
   ⟨kl 2, .kl0, 4, by decide +kernel⟩,
   ⟨klb imp, .kl0, 9, 5, _, by decide +kernel, ⟨rfl, rfl, rfl⟩, by decide +kernel, rfl, by decide +kernel⟩⟩
theorem witness_KisterLink_8 :
    (∃ (s : State) (p : KlPort) (b : Nat) (v : Nat) (x : Baton), s.clocksRun ∧ s.quiet ∧ s.portUp (KlPort.num p) = true ∧ look s.batons b = some x ∧ (x.owner ≠ none ∧ x.inError = false ∧ x.value < v ∧ v < errValue ∧ importsBaton (s.link (KlPort.num p)).batons b = false)) ∧
    (∃ (s : State) (p : KlPort) (b : Nat) (v : Nat) (code : Nat) (x : Baton), (s.clocksRun ∧ s.portUp (KlPort.num p) = true) ∧ look s.batons b = some x ∧ (x.owner ≠ none ∧ x.inError = false ∧ importsBaton (s.link (KlPort.num p)).batons b = true ∧ ((v = errValue ∨ code ≠ 0)))) ∧
    (∃ (s : State) (who : Req) (p : KlPort) (w : List Byte) (b : List Byte) (theirs : List Byte), s.serves' who (Obj.klApply (KlPort.num p)) ∧ w = s.oct (Obj.klWindows (KlPort.num p)) 512 ∧ b = s.oct (Obj.klBatons (KlPort.num p)) 256 ∧ theirs = ((s.link (1 - KlPort.num p)).pending.map (fun x => x.2.1)).getD (s.link (1 - KlPort.num p)).windows ∧ ((∀ i < 16, winEntryOk (s.portSet (KlPort.num p)) w i = true) ∧ overlapping (exportsOf w ++ exportsOf theirs) = false ∧ (∀ i < 64, bits (field b (4 * i) 4) 30 29 = 0))) ∧
    (∃ (s : State) (who : Req) (p : KlPort) (w : List Byte) (b : List Byte) (theirs : List Byte), s.serves' who (Obj.klApply (KlPort.num p)) ∧ w = s.oct (Obj.klWindows (KlPort.num p)) 512 ∧ b = s.oct (Obj.klBatons (KlPort.num p)) 256 ∧ theirs = ((s.link (1 - KlPort.num p)).pending.map (fun x => x.2.1)).getD (s.link (1 - KlPort.num p)).windows ∧ (((∃ i < 16, winEntryOk (s.portSet (KlPort.num p)) w i = false) ∨ overlapping (exportsOf w ++ exportsOf theirs) = true ∨ (∃ i < 64, bits (field b (4 * i) 4) 30 29 ≠ 0)))) ∧
    (∃ (s : State) (p : KlPort) (at' : Nat) (w : List Byte) (b : List Byte), s.clocksRun ∧ (s.link (KlPort.num p)).pending = some (at', w, b) ∧ (at' < s.edgeNo ((s.portSet (KlPort.num p)).headD 0) ∧ (∀ c ∈ s.portSet (KlPort.num p), s.atEdge c = true))) ∧
    (∃ (s : State) (p : KlPort) (at' : Nat) (w : List Byte) (b : List Byte), s.clocksRun ∧ (s.link (KlPort.num p)).pending = some (at', w, b) ∧ ((s.edgeNo ((s.portSet (KlPort.num p)).headD 0) ≤ at' ∨ (∃ c ∈ s.portSet (KlPort.num p), s.atEdge c = false)))) ∧
    (∃ (s : State) (u : State) (p : KlPort) (x : Flit) (next : Nat), (s.clocksRun ∧ s.portUp (KlPort.num p) = true) ∧ next = ((s.link (KlPort.num p)).rxSeq + 1) % 4096 ∧ u = (if 1 ≤ x.symErrors ∧ x.symErrors ≤ 3 then s.setObj (Obj.klFecCorrected (KlPort.num p)) ((s.obj (Obj.klFecCorrected (KlPort.num p)) + 1) % 2 ^ 64) else s) ∧ (((3 < x.symErrors ∨ flitGood x.bytes = false)) ∧ (s.link (KlPort.num p)).fails < 7)) ∧
    (∃ (s : State) (u : State) (p : KlPort) (x : Flit) (next : Nat), (s.clocksRun ∧ s.portUp (KlPort.num p) = true) ∧ next = ((s.link (KlPort.num p)).rxSeq + 1) % 4096 ∧ u = (if 1 ≤ x.symErrors ∧ x.symErrors ≤ 3 then s.setObj (Obj.klFecCorrected (KlPort.num p)) ((s.obj (Obj.klFecCorrected (KlPort.num p)) + 1) % 2 ^ 64) else s) ∧ (((3 < x.symErrors ∨ flitGood x.bytes = false)) ∧ (s.link (KlPort.num p)).fails = 7)) :=
  ⟨⟨klb [], .kl0, 9, 5, _, by decide +kernel, ⟨rfl, rfl, rfl⟩, by decide +kernel, rfl, by decide +kernel⟩,
   ⟨klb imp, .kl0, 9, errValue, 5, _, by decide +kernel, rfl, by decide +kernel⟩,
   ⟨run0, (.fn 0), .kl0, _, _, _, by decide +kernel, rfl, rfl, rfl, by decide +kernel⟩,
   ⟨run0.setOct (Obj.klWindows 0) [1], (.fn 0), .kl0, _, _, _, by decide +kernel, rfl, rfl, rfl, by decide +kernel⟩,
   ⟨klp 4, .kl0, _, _, _, by decide +kernel, rfl, by decide +kernel⟩,
   ⟨klp 5, .kl0, _, _, _, by decide +kernel, rfl, by decide +kernel⟩,
   ⟨kl 2, kl 2, .kl0, fl false 1 1 0, _, by decide +kernel, rfl, rfl, by decide +kernel⟩,
   ⟨(kl 2).setLink 0 { (kl 2).link 0 with fails := 7 }, (kl 2).setLink 0 { (kl 2).link 0 with fails := 7 }, .kl0, fl false 1 1 0, _, by decide +kernel, rfl, rfl, by decide +kernel⟩⟩
theorem witness_KisterLink_16 :
    (∃ (s : State) (u : State) (p : KlPort) (x : Flit) (next : Nat) (v : State) (l : KlLink) (type : Nat) (seq : Nat), (s.clocksRun ∧ s.portUp (KlPort.num p) = true) ∧ next = ((s.link (KlPort.num p)).rxSeq + 1) % 4096 ∧ u = (if 1 ≤ x.symErrors ∧ x.symErrors ≤ 3 then s.setObj (Obj.klFecCorrected (KlPort.num p)) ((s.obj (Obj.klFecCorrected (KlPort.num p)) + 1) % 2 ^ 64) else s) ∧ (x.symErrors ≤ 3 ∧ flitGood x.bytes = true) ∧ l = (s.link (KlPort.num p)).acked (field x.bytes 2 2 % 4096) ∧ v = u.setLink (KlPort.num p) l ∧ (field x.bytes 0 2 = seq + 4096 * type ∧ seq < 4096 ∧ type = 0)) ∧
    (∃ (s : State) (u : State) (p : KlPort) (x : Flit) (next : Nat) (v : State) (l : KlLink) (type : Nat) (seq : Nat), (s.clocksRun ∧ s.portUp (KlPort.num p) = true) ∧ next = ((s.link (KlPort.num p)).rxSeq + 1) % 4096 ∧ u = (if 1 ≤ x.symErrors ∧ x.symErrors ≤ 3 then s.setObj (Obj.klFecCorrected (KlPort.num p)) ((s.obj (Obj.klFecCorrected (KlPort.num p)) + 1) % 2 ^ 64) else s) ∧ (x.symErrors ≤ 3 ∧ flitGood x.bytes = true) ∧ l = (s.link (KlPort.num p)).acked (field x.bytes 2 2 % 4096) ∧ v = u.setLink (KlPort.num p) l ∧ (field x.bytes 0 2 = seq + 4096 * type ∧ seq < 4096 ∧ type = 1 ∧ seq = next)) ∧
    (∃ (s : State) (u : State) (p : KlPort) (x : Flit) (next : Nat) (v : State) (l : KlLink) (type : Nat) (seq : Nat), (s.clocksRun ∧ s.portUp (KlPort.num p) = true) ∧ next = ((s.link (KlPort.num p)).rxSeq + 1) % 4096 ∧ u = (if 1 ≤ x.symErrors ∧ x.symErrors ≤ 3 then s.setObj (Obj.klFecCorrected (KlPort.num p)) ((s.obj (Obj.klFecCorrected (KlPort.num p)) + 1) % 2 ^ 64) else s) ∧ (x.symErrors ≤ 3 ∧ flitGood x.bytes = true) ∧ l = (s.link (KlPort.num p)).acked (field x.bytes 2 2 % 4096) ∧ v = u.setLink (KlPort.num p) l ∧ (field x.bytes 0 2 = seq + 4096 * type ∧ seq < 4096 ∧ type = 1 ∧ seq ≠ next)) ∧
    (∃ (s : State) (u : State) (p : KlPort) (x : Flit) (next : Nat) (v : State) (l : KlLink) (type : Nat) (seq : Nat) (fs : List (List Byte)), (s.clocksRun ∧ s.portUp (KlPort.num p) = true) ∧ next = ((s.link (KlPort.num p)).rxSeq + 1) % 4096 ∧ u = (if 1 ≤ x.symErrors ∧ x.symErrors ≤ 3 then s.setObj (Obj.klFecCorrected (KlPort.num p)) ((s.obj (Obj.klFecCorrected (KlPort.num p)) + 1) % 2 ^ 64) else s) ∧ (x.symErrors ≤ 3 ∧ flitGood x.bytes = true) ∧ l = (s.link (KlPort.num p)).acked (field x.bytes 2 2 % 4096) ∧ v = u.setLink (KlPort.num p) l ∧ (field x.bytes 0 2 = seq + 4096 * type ∧ seq < 4096 ∧ type = 2 ∧ fs = l.replay.dropWhile (fun f => field f 0 2 % 4096 ≠ seq) ∧ fs ≠ [])) ∧
    (∃ (s : State) (u : State) (p : KlPort) (x : Flit) (next : Nat) (v : State) (l : KlLink) (type : Nat) (seq : Nat), (s.clocksRun ∧ s.portUp (KlPort.num p) = true) ∧ next = ((s.link (KlPort.num p)).rxSeq + 1) % 4096 ∧ u = (if 1 ≤ x.symErrors ∧ x.symErrors ≤ 3 then s.setObj (Obj.klFecCorrected (KlPort.num p)) ((s.obj (Obj.klFecCorrected (KlPort.num p)) + 1) % 2 ^ 64) else s) ∧ (x.symErrors ≤ 3 ∧ flitGood x.bytes = true) ∧ l = (s.link (KlPort.num p)).acked (field x.bytes 2 2 % 4096) ∧ v = u.setLink (KlPort.num p) l ∧ (field x.bytes 0 2 = seq + 4096 * type ∧ seq < 4096 ∧ type = 3)) ∧
    (∃ (l : KlLink) (before : List (List Byte)) (after : List (List Byte)) (f : List Byte) (ack : Nat), l.replay = before ++ f :: after ∧ field f 0 2 % 4096 = ack ∧ (∀ g ∈ before, field g 0 2 % 4096 ≠ ack)) :=
  ⟨⟨kl 2, kl 2, .kl0, fl true 0 0 0, _, (kl 2).setLink 0 (((kl 2).link 0).acked 0), ((kl 2).link 0).acked 0, 0, 0, by decide +kernel, rfl, rfl, by decide +kernel, rfl, rfl, by decide +kernel⟩,
   ⟨kl 2, kl 2, .kl0, fl true 1 0 0, _, (kl 2).setLink 0 (((kl 2).link 0).acked 0), ((kl 2).link 0).acked 0, 1, 0, by decide +kernel, rfl, rfl, by decide +kernel, rfl, rfl, by decide +kernel⟩,
   ⟨kl 2, kl 2, .kl0, fl true 1 9 0, _, (kl 2).setLink 0 (((kl 2).link 0).acked 0), ((kl 2).link 0).acked 0, 1, 9, by decide +kernel, rfl, rfl, by decide +kernel, rfl, rfl, by decide +kernel⟩,
   ⟨klr, klr, .kl0, fl true 2 4 0, _, (klr).setLink 0 (((klr).link 0).acked 0), ((klr).link 0).acked 0, 2, 4, [rp 4], by decide +kernel, rfl, rfl, by decide +kernel, rfl, rfl, by decide +kernel⟩,
   ⟨kl 2, kl 2, .kl0, fl true 3 0 0, _, (kl 2).setLink 0 (((kl 2).link 0).acked 0), ((kl 2).link 0).acked 0, 3, 0, by decide +kernel, rfl, rfl, by decide +kernel, rfl, rfl, by decide +kernel⟩,
   ⟨klr.link 0, [rp 3], [], rp 4, 4, by decide +kernel⟩⟩
theorem witness_SyncChainAndStartLine :
    (∃ (s : State) (width : Nat) (now : Nat) (w : Nat), s.clocksRun ∧ syncRole (s.obj Obj.syncCtrl) = 2 ∧ markOf width = some w) ∧
    (∃ (s : State) (width : Nat) (now : Nat), s.clocksRun ∧ markOf width = none) ∧
    (∃ (s : State) (width : Nat) (now : Nat) (w : Nat) (u : Nat), s.clocksRun ∧ syncRole (s.obj Obj.syncCtrl) = 1 ∧ markOf width = some w ∧ s.sync.sent = some u) ∧
    (∃ (s : State) (now : Nat), s.clocksRun ∧ syncRole (s.obj Obj.syncCtrl) = 1 ∧ s.now ≤ now ∧ now + syncLead (s.obj Obj.syncCtrl) = (s.pacer 0).edge + (s.pacer 0).len ∧ s.sync.run = false) ∧
    (∃ (s : State) (now : Nat), s.clocksRun ∧ syncRole (s.obj Obj.syncCtrl) = 1 ∧ s.now ≤ now ∧ now + syncLead (s.obj Obj.syncCtrl) = (s.pacer 0).edge + (s.pacer 0).len ∧ s.sync.run = true ∧ s.sync.armed = false) ∧
    (∃ (s : State) (now : Nat), s.clocksRun ∧ syncRole (s.obj Obj.syncCtrl) = 1 ∧ s.now ≤ now ∧ now + syncLead (s.obj Obj.syncCtrl) = (s.pacer 0).edge + (s.pacer 0).len ∧ s.sync.run = true ∧ s.sync.armed = true) ∧
    (∃ (s : State), s.clocksRun ∧ ctrlLockSrc (s.pacer 0).cfg.ctrl = 4) ∧
    (∃ (s : State), s.clocksRun ∧ ctrlLockSrc (s.pacer 0).cfg.ctrl ≠ 4) :=
  ⟨⟨sy foll, 5, 10, 4, by decide +kernel⟩,
   ⟨sy foll, 6, 10, by decide +kernel⟩,
   ⟨syr head true false false (some 3) none, 8, 10, 8, 3, by decide +kernel⟩,
   ⟨sy head, 1834, by decide +kernel⟩,
   ⟨syr head true false false none none, 1834, by decide +kernel⟩,
   ⟨syr head true true false none none, 1834, by decide +kernel⟩,
   ⟨pac run0 (fun p => { p with cfg := { p.cfg with ctrl := 0x41F40000 }, lock := .locked }), by decide +kernel⟩,
   ⟨run0, by decide +kernel⟩⟩
theorem witness_SyncChainAndStartLine_8 :
    (∃ (s : State) (who : Req) (w : Nat) (v : Nat), s.serves' who Obj.syncCtrl ∧ v = bits w 31 11 * 2 ^ 11 ∧ syncRole v ≠ 3 ∧ 16 ≤ syncLead v ∧ 2 ≤ syncCount v ∧ syncCount v ≤ 4 ∧ syncRole v = syncRole (s.obj Obj.syncCtrl)) ∧
    (∃ (s : State) (who : Req) (w : Nat) (v : Nat), s.serves' who Obj.syncCtrl ∧ v = bits w 31 11 * 2 ^ 11 ∧ syncRole v ≠ 3 ∧ 16 ≤ syncLead v ∧ 2 ≤ syncCount v ∧ syncCount v ≤ 4 ∧ syncRole v ≠ syncRole (s.obj Obj.syncCtrl)) ∧
    (∃ (s : State) (who : Req) (w : Nat) (v : Nat), s.serves' who Obj.syncCtrl ∧ v = bits w 31 11 * 2 ^ 11 ∧ ((syncRole v = 3 ∨ syncLead v < 16 ∨ syncCount v < 2 ∨ 4 < syncCount v))) ∧
    (∃ (s : State) (who : Req), s.serves' who Obj.startLine ∧ syncRole (s.obj Obj.syncCtrl) = 1) ∧
    (∃ (s : State) (who : Req), s.serves' who Obj.startLine ∧ syncRole (s.obj Obj.syncCtrl) = 1) ∧
    (∃ (s : State) (who : Req), s.serves' who Obj.startLine ∧ syncRole (s.obj Obj.syncCtrl) ≠ 1) ∧
    (∃ (s : State) (u : Nat), (s.clocksRun ∧ s.sync.start = true ∧ u < (s.pacer 0).edge) ∧ (((syncRole (s.obj Obj.syncCtrl) = 1 ∧ s.sync.sent = some u) ∨ (syncRole (s.obj Obj.syncCtrl) = 2 ∧ ∃ e, s.sync.mark = some (u, e))))) :=
  ⟨⟨sy head, (.fn 0), head + 2 ^ 14, head + 2 ^ 14, by decide +kernel⟩,
   ⟨sy foll, (.fn 0), head, head, by decide +kernel⟩,
   ⟨sy foll, (.fn 0), 0xC0000000, 0xC0000000, by decide +kernel⟩,
   ⟨sy head, (.fn 0), by decide +kernel⟩,
   ⟨sy head, (.fn 0), by decide +kernel⟩,
   ⟨sy foll, (.fn 0), by decide +kernel⟩,
   ⟨pac (syr foll false false true none (some (5, 20))) (fun p => { p with edge := 20 }), 5, by decide +kernel, (.inr ⟨by decide +kernel, 20, rfl⟩)⟩⟩
theorem witness_TwinPairs :
    (∃ (s : State) (who : Req) (peer : PairView) (n : Nat), s.serves' who Obj.pairJoin ∧ n = s.joinFails peer true ∧ bits (s.obj Obj.pairCtrl) 31 30 = 2 ∧ n = 0) ∧
    (∃ (s : State) (who : Req) (peer : PairView) (n : Nat), s.serves' who Obj.pairJoin ∧ n = s.joinFails peer true ∧ bits (s.obj Obj.pairCtrl) 31 30 = 2 ∧ n ≠ 0) ∧
    (∃ (s : State) (who : Req) (peer : PairView) (n : Nat), s.serves' who Obj.pairJoin ∧ n = s.joinFails peer true ∧ bits (s.obj Obj.pairCtrl) 31 30 ≠ 2) ∧
    (∃ (s : State) (peer : PairView) (numbers : List (Nat × Nat)) (lead : Fin 4), s.clocksRun ∧ lead = s.pairMask.headD 0 ∧ (bits (s.obj Obj.pairCtrl) 31 30 = 2 ∧ ((s.portUp 0 = false ∨ s.startsAt lead (s.tick lead) = false)))) ∧
    (∃ (s : State) (peer : PairView) (numbers : List (Nat × Nat)) (lead : Fin 4), s.clocksRun ∧ lead = s.pairMask.headD 0 ∧ (s.portUp 0 = true ∧ s.startsAt lead (s.tick lead) = true ∧ bits (s.obj Obj.pairCtrl) 31 30 = 2 ∧ s.pair.joining = true)) ∧
    (∃ (s : State) (peer : PairView) (numbers : List (Nat × Nat)) (lead : Fin 4), s.clocksRun ∧ lead = s.pairMask.headD 0 ∧ (bits (s.obj Obj.pairCtrl) 31 30 = 1 ∧ s.joinFails peer false ≠ 0)) ∧
    (∃ (s : State) (peer : PairView) (numbers : List (Nat × Nat)) (lead : Fin 4), s.clocksRun ∧ lead = s.pairMask.headD 0 ∧ (bits (s.obj Obj.pairCtrl) 31 30 = 1 ∧ s.joinFails peer false = 0 ∧ s.startsAt lead (s.tick lead) = true)) ∧
    (∃ (s : State) (peer : PairView) (numbers : List (Nat × Nat)) (lead : Fin 4), s.clocksRun ∧ lead = s.pairMask.headD 0 ∧ (bits (s.obj Obj.pairCtrl) 31 30 = 1 ∧ s.joinFails peer false = 0 ∧ s.startsAt lead (s.tick lead) = false)) :=
  ⟨⟨mk (pr 0 0), (.fn 0), pv0, 0, by decide +kernel⟩,
   ⟨(pr 0 0).setObj Obj.startValid 0, (.fn 0), pv0, ((pr 0 0).setObj Obj.startValid 0).joinFails pv0 true, by decide +kernel⟩,
   ⟨pr1 0 0, (.fn 0), pv0, (pr1 0 0).joinFails pv0 true, by decide +kernel⟩,
   ⟨run0.setObj Obj.pairCtrl (pctl 2), pv0, [], _, by decide +kernel, rfl, by decide +kernel⟩,
   ⟨{ mk (pr 0 0) with pair := { run0.pair with joining := true } }, pv0, [], _, by decide +kernel, rfl, by decide +kernel⟩,
   ⟨(pr1 0 0).setObj Obj.startValid 0, pv1, [], _, by decide +kernel, rfl, by decide +kernel⟩,
   ⟨mk (pr1 0 0), pv1, [], _, by decide +kernel, rfl, by decide +kernel⟩,
   ⟨atS (mk (pr1 0 0)) 5, (atS (mk (pr1 0 0)) 5).pairView, [], _, by decide +kernel, rfl, by decide +kernel⟩⟩
theorem witness_TwinPairs_9 :
    (∃ (s : State) (b : List Byte) (d : Decision), s.clocksRun ∧ s.portUp 0 = true ∧ s.obj Obj.pairRole ≠ 0 ∧ readDatum b (s.obj Obj.peerOffset) = some d ∧ s.inPair d.ch = true ∧ toCh d.ch ∈ s.portSet 0 ∧ s.tick (toCh d.ch) < d.tick + s.relayTicks ∧ ((s.obj Obj.pairRole = 2 ∨ ∃ u, s.pair.swapped = some u ∧ d.tick < u))) ∧
    (∃ (s : State) (b : List Byte) (d : Decision), s.clocksRun ∧ s.portUp 0 = true ∧ s.obj Obj.pairRole ≠ 0 ∧ readDatum b (s.obj Obj.peerOffset) = some d ∧ s.inPair d.ch = true ∧ toCh d.ch ∈ s.portSet 0 ∧ s.tick (toCh d.ch) < d.tick + s.relayTicks ∧ s.obj Obj.pairRole = 1 ∧ s.pair.swapped = none) ∧
    (∃ (s : State) (b : List Byte) (d : Decision), s.clocksRun ∧ s.portUp 0 = true ∧ s.obj Obj.pairRole ≠ 0 ∧ readDatum b (s.obj Obj.peerOffset) = some d ∧ s.inPair d.ch = true ∧ toCh d.ch ∈ s.portSet 0 ∧ d.tick + s.relayTicks ≤ s.tick (toCh d.ch)) ∧
    (∃ (s : State) (b : List Byte), s.clocksRun ∧ readDatum b (s.obj Obj.peerOffset) = none) ∧
    (∃ (s : State) (ch : Fin 4) (o : Decision) (r : FrameRec), (s.clocksRun ∧ s.inPair ch = true) ∧ s.pair.own = [o] ∧ (s.pair.heard = [] ∧ o.ch = ch.val ∧ o.tick + s.relayTicks ≤ s.tick ch ∧ o.shadow = false) ∧ o.bind = some r) ∧
    (∃ (s : State) (ch : Fin 4), s.clocksRun ∧ s.pair.own = [] ∧ s.pair.heard = []) ∧
    (∃ (s : State) (u : State) (index : Nat) (sub : Nat) (tick : Nat) (n : Nat) (v : List Byte), (s.clocksRun ∧ s.awake = true ∧ s.portUp 0 = true ∧ s.obj Obj.pairRole = 2 ∧ s.standbyBars (key index sub) = true ∧ n = ((objRow index sub).map (fun r => r.1.ty.size)).getD v.length) ∧ u = ({ s.setObj Obj.pairRole 0 with marshal := if s.marshal = .updating then .running else s.marshal, pair := { s.pair with effect := some ((tick + s.obj Obj.peerOffset) % 2 ^ 64) } } : State).writeObject (.fn 0) index sub (s.peerValue index sub (if v.length ≤ n then v else slice v 0 n)) ∧ u.reply = rcOk) ∧
    (∃ (s : State) (u : State) (index : Nat) (sub : Nat) (tick : Nat) (n : Nat) (v : List Byte), (s.clocksRun ∧ s.awake = true ∧ s.portUp 0 = true ∧ s.obj Obj.pairRole = 2 ∧ s.standbyBars (key index sub) = true ∧ n = ((objRow index sub).map (fun r => r.1.ty.size)).getD v.length) ∧ u = ({ s.setObj Obj.pairRole 0 with marshal := if s.marshal = .updating then .running else s.marshal, pair := { s.pair with effect := some ((tick + s.obj Obj.peerOffset) % 2 ^ 64) } } : State).writeObject (.fn 0) index sub (s.peerValue index sub (if v.length ≤ n then v else slice v 0 n)) ∧ (u.reply ≠ rcOk ∧ u.obj Obj.pairState = 2)) :=
  ⟨⟨pr 2 1, datumBytes dec0 false, ((readDatum (datumBytes dec0 false) 0).getD dec0), by decide +kernel⟩,
   ⟨pr 1 1, datumBytes dec0 false, ((readDatum (datumBytes dec0 false) 0).getD dec0), by decide +kernel⟩,
   ⟨pac (pr 2 1) (fun p => { p with tick := 7, count := 7 }), datumBytes dec0 false, ((readDatum (datumBytes dec0 false) 0).getD dec0), by decide +kernel⟩,
   ⟨pr 2 1, [1], by decide +kernel⟩,
   ⟨pac { pr 1 1 with pair := { run0.pair with own := [{ dec0 with bind := some rec0 }] } } (fun p => { p with tick := 7, count := 7 }), 0, _, _, by decide +kernel, rfl, by decide +kernel, rfl⟩,
   ⟨pr 1 1, 0, by decide +kernel⟩,
   ⟨pr 2 1, (mirV (pr 2 1) 4 [0, 0, 0x3B, 7]), 0x2000, 2, 5, 4, [0, 0, 0x3B, 7], by decide +kernel, rfl, by decide +kernel⟩,
   ⟨pr 2 2, (mirV (pr 2 2) 4 [0]), 0x2000, 2, 5, 4, [0], by decide +kernel, rfl, by decide +kernel⟩⟩
theorem witness_TwinPairs_17 :
    (∃ (s : State), s.clocksRun ∧ s.obj Obj.pairRole = 2 ∧ ((∃ m ∈ s.pairMask, s.roleDue m = true ∨ (s.missing m).isSome = true))) ∧
    (∃ (s : State), s.clocksRun ∧ ((s.obj Obj.pairRole ≠ 2 ∨ ∀ m ∈ s.pairMask, s.roleDue m = false ∧ s.missing m = none))) ∧
    (∃ (s : State) (who : Req) (n : Nat), s.serves' who Obj.pairSwap ∧ s.obj Obj.pairRole = 1 ∧ s.obj Obj.pairState = 2 ∧ (∀ c ∈ s.pairMask, s.tick c + s.relayTicks + 1 ≤ n ∧ s.startsAt c n = true)) ∧
    (∃ (s : State) (who : Req) (n : Nat), s.serves' who Obj.pairSwap ∧ ((s.obj Obj.pairRole ≠ 1 ∨ s.obj Obj.pairState ≠ 2 ∨ ∃ c ∈ s.pairMask, n < s.tick c + s.relayTicks + 1 ∨ s.startsAt c n = false))) ∧
    (∃ (s : State) (n : Nat), s.clocksRun ∧ s.obj Obj.pairState = 2 ∧ s.portUp 0 = true ∧ s.obj Obj.pairRole = 1 ∧ s.pair.swap = some n ∧ n ≤ s.tick (s.pairMask.headD 0)) ∧
    (∃ (s : State) (n : Nat), s.clocksRun ∧ s.obj Obj.pairState = 2 ∧ s.portUp 0 = true ∧ s.obj Obj.pairRole = 1 ∧ s.pair.swap = some n ∧ s.tick (s.pairMask.headD 0) < n) ∧
    (∃ (s : State) (n : Nat), s.clocksRun ∧ s.obj Obj.pairState = 2 ∧ s.portUp 0 = true ∧ s.obj Obj.pairRole = 2 ∧ (∀ c ∈ s.pairMask, s.startsAt c (s.tick c) = true ∧ s.missing c = none)) ∧
    (∃ (s : State) (who : Req) (a : Nat) (n : Nat) (b : List Byte), (s.serves' who Obj.digestRun ∧ s.digest = none) ∧ a = s.obj Obj.digestDesc ∧ n = 0x20 + digestEntry (field (s.devRead a 0x20) 4 1) * min (field (s.devRead a 0x20) 6 2) 1024 ∧ b = s.devRead a n ∧ s.gatedAt a n = true) :=
  ⟨⟨{ pr 2 2 with pair := { run0.pair with own := [{ dec0 with tick := 0, shadow := true }] }, pacers := (pr 2 2).pacers.mod 0 (fun p => { p with tick := 9, count := 9 }) }, by decide +kernel⟩,
   ⟨pr 1 2, by decide +kernel⟩,
   ⟨pr 1 2, (.fn 0), 2250, by decide +kernel⟩,
   ⟨pr 2 2, (.fn 0), 9, by decide +kernel⟩,
   ⟨{ pac (pr 1 2) (fun p => { p with tick := 9, count := 9 }) with pair := { run0.pair with swap := some 9 } }, 9, by decide +kernel⟩,
   ⟨{ pr 1 2 with pair := { run0.pair with swap := some 9 } }, 9, by decide +kernel⟩,
   ⟨pr 2 2, 9, by decide +kernel⟩,
   ⟨dg.setObj (Obj.chPstate 0) 2, (.fn 0), _, _, _, by decide +kernel, rfl, rfl, rfl, by decide +kernel⟩⟩
theorem witness_TwinPairs_25 :
    (∃ (s : State) (who : Req) (a : Nat) (n : Nat) (b : List Byte), (s.serves' who Obj.digestRun ∧ s.digest = none) ∧ a = s.obj Obj.digestDesc ∧ n = 0x20 + digestEntry (field (s.devRead a 0x20) 4 1) * min (field (s.devRead a 0x20) 6 2) 1024 ∧ b = s.devRead a n ∧ (s.gatedAt a n = false ∧ digestBad a b = none ∧ s.gatedAt (field b 8 8) (digestOut b) = false ∧ (field b 4 1 = 0 → ∀ e ∈ digestEntries b, s.gatedAt (field e 8 8) (field e 0x10 8) = false))) ∧
    (∃ (s : State) (who : Req) (a : Nat) (n : Nat) (b : List Byte) (i : Nat), (s.serves' who Obj.digestRun ∧ s.digest = none) ∧ a = s.obj Obj.digestDesc ∧ n = 0x20 + digestEntry (field (s.devRead a 0x20) 4 1) * min (field (s.devRead a 0x20) 6 2) 1024 ∧ b = s.devRead a n ∧ (digestBad a b = some i ∧ s.gatedAt a n = false)) ∧
    (∃ (s : State) (b : List Byte), s.clocksRun ∧ s.digest = some b ∧ (s.digestHeld b = false ∧ field b 8 8 + (s.digestResult b).length ≤ devEnd ∧ s.memUp (chanOf (field b 8 8)) = true)) ∧
    (∃ (s : State) (who : Req) (c : Nat), s.serves' who (Obj.replayCtrl c) ∧ c < 256) ∧
    (∃ (s : State) (who : Req) (c : Nat) (x : Context), (s.serves' who (Obj.replayCtrl c) ∧ c < 256) ∧ look s.ctxs c = some x ∧ (x.strict = true ∧ bits (s.obj Obj.pairCtrl) 31 30 = 0 ∧ s.linksInUse = false ∧ (((s.queuesOf c).filterMap (look s.queues)).map Queue.ch).eraseDups.length ≤ 2 ∧ (∀ y ∈ (s.queuesOf c).filterMap (look s.queues), y.order = [] ∧ y.head = none))) ∧
    (∃ (s : State) (who : Req) (c : Nat) (x : Context), (s.serves' who (Obj.replayCtrl c) ∧ c < 256) ∧ look s.ctxs c = some x ∧ ((x.strict = false ∨ bits (s.obj Obj.pairCtrl) 31 30 ≠ 0 ∨ s.linksInUse = true))) :=
  ⟨⟨dg, (.fn 0), _, _, _, by decide +kernel, rfl, rfl, rfl, by decide +kernel⟩,
   ⟨dg.setObj Obj.digestDesc 0, (.fn 0), _, _, _, 0, by decide +kernel, rfl, rfl, rfl, by decide +kernel⟩,
   ⟨{ dg with digest := some ddesc }, _, by decide +kernel, rfl, by decide +kernel⟩,
   ⟨run0, (.fn 0), 255, by decide +kernel⟩,
   ⟨{ run0 with ctxs := [(3, { ctx0 with strict := true })] }, (.fn 0), 3, _, by decide +kernel, rfl, by decide +kernel⟩,
   ⟨{ run0 with ctxs := [(3, ctx0)] }, (.fn 0), 3, _, by decide +kernel, rfl, by decide +kernel⟩⟩
theorem witness_ChannelPower :
    (∃ (s : State) (who : Req) (ch : Fin 4) (v : Nat), s.serves' who (Obj.oppReq ch) ∧ v ≤ 6 ∧ s.floorOf ch ≤ v) ∧
    (∃ (s : State) (who : Req) (ch : Fin 4) (v : Nat), s.serves' who (Obj.oppReq ch) ∧ ((6 < v ∨ v < s.floorOf ch))) ∧
    (∃ (s : State) (ch : Fin 4), s.clocksRun ∧ s.marshal ≠ .updating ∧ s.atEdge ch = false) ∧
    (∃ (s : State) (ch : Fin 4), s.clocksRun ∧ s.marshal ≠ .updating ∧ s.atEdge ch = true ∧ s.drive.oppTarget ch ≤ s.drive.power.vreq ∧ (s.obj (Obj.oppCur ch) < s.drive.oppTarget ch → s.drive.power.vreqAt ≤ s.now)) ∧
    (∃ (s : State) (ch : Fin 4), s.clocksRun ∧ s.marshal ≠ .updating ∧ s.obj (Obj.oppCur ch) < s.drive.oppTarget ch ∧ s.now < s.drive.power.vreqAt) ∧
    (∃ (s : State) (who : Req) (ch : Fin 4) (v : Nat), s.serves' who (Obj.chBudget ch) ∧ s.budgets - s.obj (Obj.chBudget ch) + v + 20000 ≤ s.obj Obj.packageLimit ∧ oppPower (s.floorOf ch) ≤ v) ∧
    (∃ (s : State) (who : Req) (ch : Fin 4) (v : Nat), s.serves' who (Obj.chBudget ch) ∧ ((s.obj Obj.packageLimit < s.budgets - s.obj (Obj.chBudget ch) + v + 20000 ∨ v < oppPower (s.floorOf ch)))) ∧
    (∃ (s : State) (who : Req) (v : Nat), s.serves' who Obj.packageLimit ∧ 20000 ≤ v ∧ v ≤ 85000 ∧ s.budgets + 20000 ≤ v) :=
  ⟨⟨run0, (.fn 0), 0, 5, by decide +kernel⟩,
   ⟨run0, (.fn 0), 0, 7, by decide +kernel⟩,
   ⟨pac run0 (fun p => { p with opened := true }), 0, by decide +kernel⟩,
   ⟨run0, 0, by decide +kernel⟩,
   ⟨(({ run0 with power := { run0.power with vreq := 6, vreqAt := 99 } }).setObj (Obj.oppReq 0) 6).setObj (Obj.oppCur 0) 0, 0, by decide +kernel⟩,
   ⟨run0, (.fn 0), 0, 11000, by decide +kernel⟩,
   ⟨run0, (.fn 0), 0, 90000, by decide +kernel⟩,
   ⟨run0, (.fn 0), 85000, by decide +kernel⟩⟩
theorem witness_ChannelPower_8 :
    (∃ (s : State) (who : Req) (v : Nat), s.serves' who Obj.packageLimit ∧ ((v < 20000 ∨ 85000 < v ∨ v < s.budgets + 20000))) ∧
    (∃ (s : State) (ch : Fin 4), s.clocksRun ∧ s.marshal ≠ .updating ∧ s.lends ch = false ∧ s.obj Obj.lendTicks ≤ (s.lend.get ch).idle ∧ s.queuesRest ch = true ∧ s.hasWork ch = false ∧ s.atEdge ch = true) ∧
    (∃ (s : State) (ch : Fin 4), s.clocksRun ∧ s.marshal ≠ .updating ∧ (s.lend.get ch).lending = true ∧ s.atEdge ch = true ∧ ((s.queuesRest ch = false ∨ s.hasWork ch = true))) ∧
    (∃ (s : State) (ch : Fin 4), s.clocksRun ∧ s.marshal ≠ .updating ∧ (s.lend.get ch).lending = true ∧ ((s.atEdge ch = false ∨ (s.queuesRest ch = true ∧ s.hasWork ch = false)))) ∧
    (∃ (s : State) (who : Req) (ch : Fin 4), s.serves' who (Obj.chPower ch) ∧ s.power.p2 = .awake ∧ (s.pacer ch).program = none ∧ ((s.svc ch = .offline ∨ s.svc ch = .covered))) ∧
    (∃ (s : State) (who : Req) (ch : Fin 4), s.serves' who (Obj.chPower ch) ∧ s.power.p2 = .awake ∧ (s.pacer ch).program = none ∧ ((s.svc ch = .offline ∨ s.svc ch = .covered))) ∧
    (∃ (s : State) (who : Req) (ch : Fin 4), s.serves' who (Obj.chPower ch) ∧ s.power.p2 = .awake ∧ (((s.pacer ch).program ≠ none ∨ (s.svc ch ≠ .offline ∧ s.svc ch ≠ .covered)))) ∧
    (∃ (s : State) (who : Req) (ch : Fin 4), s.serves' who (Obj.chPower ch) ∧ s.power.p2 = .awake ∧ (((s.pacer ch).program ≠ none ∨ (s.svc ch ≠ .offline ∧ s.svc ch ≠ .covered)))) :=
  ⟨⟨run0, (.fn 0), 85001, by decide +kernel⟩,
   ⟨lnd, 0, by decide +kernel⟩,
   ⟨lending, 0, by decide +kernel⟩,
   ⟨{ lending with runs := [] }, 0, by decide +kernel⟩,
   ⟨offp, (.fn 0), 0, by decide +kernel⟩,
   ⟨offp, (.fn 0), 0, by decide +kernel⟩,
   ⟨prg, (.fn 0), 0, by decide +kernel⟩,
   ⟨prg, (.fn 0), 0, by decide +kernel⟩⟩
theorem witness_ChannelPower_16 :
    (∃ (s : State) (who : Req) (ch : Fin 4), s.serves' who (Obj.chPower ch) ∧ s.power.p2 = .awake ∧ s.obj (Obj.chPstate ch) = 0) ∧
    (∃ (s : State) (who : Req) (ch : Fin 4), s.serves' who (Obj.chPower ch) ∧ s.power.p2 = .awake ∧ s.obj (Obj.chPstate ch) ≠ 0) ∧
    (∃ (s : State) (ch : Fin 4) (v : Nat) (n : Nat), s.clocksRun ∧ (s.chPend.get ch).power = some (v, n) ∧ (v ≠ 0 ∧ n < s.edgeNo ch)) ∧
    (∃ (s : State) (ch : Fin 4) (v : Nat) (n : Nat), s.clocksRun ∧ (s.chPend.get ch).power = some (v, n) ∧ (v ≠ 0 ∧ s.edgeNo ch ≤ n)) ∧
    (∃ (s : State) (ch : Fin 4) (n : Nat), s.clocksRun ∧ (s.chPend.get ch).power = some (0, n) ∧ (n < s.edgeNo ch ∧ s.atEdge ch = true ∧ s.obj (Obj.memState ch) ≠ memTraining ∧ (∀ q ∈ slices, (s.cacheSlice ch q.1).phase ≠ .invalidating))) ∧
    (∃ (s : State) (pd : Nat), s.clocksRun ∧ 112 ≤ pd ∧ pd ≤ 123 ∧ bit s.power.off (pd - 112) = true ∧ s.enOf (pd - 112) = false) ∧
    (∃ (s : State) (pd : Nat), s.clocksRun ∧ 112 ≤ pd ∧ pd ≤ 123 ∧ bit s.power.off (pd - 112) = true ∧ s.enOf (pd - 112) = true) ∧
    (∃ (s : State) (pd : Nat), s.clocksRun ∧ 112 ≤ pd ∧ pd ≤ 123 ∧ bit s.power.off (pd - 112) = false) :=
  ⟨⟨up0, (.fn 0), 0, by decide +kernel⟩,
   ⟨up0.setObj (Obj.chPstate 0) 1, (.fn 0), 0, by decide +kernel⟩,
   ⟨pend 2 4, 0, _, _, by decide +kernel, rfl, by decide +kernel⟩,
   ⟨pend 1 5, 0, _, _, by decide +kernel, rfl, by decide +kernel⟩,
   ⟨pend 0 4, 0, _, by decide +kernel, rfl, by decide +kernel⟩,
   ⟨{ run0 with power := { run0.power with linger := 2, off := 2 } }, 113, by decide +kernel⟩,
   ⟨{ run0 with power := { run0.power with off := 1 }, dps := run0.dps.set 0 (DpLink.reset 0x80400180) }, 112, by decide +kernel⟩,
   ⟨run0, 123, by decide +kernel⟩⟩
theorem witness_ChannelPower_24 :
    (∃ (s : State) (who : Req) (v : Nat), s.serves' who Obj.padRelease ∧ v < 256) ∧
    (∃ (s : State) (who : Req) (v : Nat), s.serves' who Obj.padRelease ∧ 256 ≤ v) :=
  ⟨⟨run0.setObj Obj.padLatched 255, (.fn 0), 255, by decide +kernel⟩,
   ⟨run0, (.fn 0), 256, by decide +kernel⟩⟩

end W08

namespace W09
/-- A public key of zeros, with which the challenge alone makes a signature. -/
def keyZ : List Byte := List.replicate 1312 0
/-- The vendor root's key is `keyZ`. -/
def rootZ : Prop := Config.rootDigest = sha3 keyZ ∧ Config.rootKey = keyZ
/-- The signature with `keyZ` whose challenge seed is given. -/
def sigZ (seed : List Nat) : List Byte := seed.map (BitVec.ofNat 8) ++ (List.replicate 256 ([0, 0, 2, 0, 8, 0, 0x20, 0, 0x80].map (BitVec.ofNat 8))).flatten ++ List.replicate 84 0
/-- The SHA3-256 digest of the byte 7. -/
def digest7 : List Byte := [82, 35, 247, 103, 11, 59, 155, 160, 79, 87, 212, 119, 71, 138, 231, 122, 88, 25, 13, 137, 242, 29, 160, 176, 190, 119, 71, 53, 226, 63, 156, 150]
def imgS (u : Nat) (seed : List Nat) : List Byte :=
  toLE 4 0x474D4951 ++ toLE 2 1 ++ toLE 2 u ++ [0xB0, 0] ++ toLE 2 0 ++ toLE 4 3 ++ toLE 4 4 ++ toLE 4 7 ++ toLE 8 1 ++ digest7 ++ List.replicate 5076 0 ++ sigZ seed ++
    List.replicate 632 0 ++ [7]
def img00 : List Byte := imgS 0 [169, 40, 227, 25, 79, 8, 87, 247, 232, 189, 197, 182, 223, 11, 35, 177, 152, 151, 136, 43, 94, 72, 192, 59, 114, 177, 80, 34, 42, 169, 113, 46]
def img10 : List Byte := imgS 0x10 [182, 12, 16, 100, 226, 37, 112, 56, 5, 119, 67, 228, 126, 53, 128, 84, 49, 190, 38, 157, 91, 217, 161, 105, 53, 249, 190, 222, 98, 86, 22, 101]
def polB : List Byte :=
  toLE 4 0x594C4F50 ++ toLE 2 1 ++ [0, 0] ++ toLE 4 1 ++ List.replicate 3912 0 ++
    sigZ [247, 251, 26, 113, 77, 60, 119, 167, 44, 109, 51, 179, 139, 15, 129, 50, 200, 40, 254, 20, 18, 70, 167, 233, 245, 225, 184, 177, 12, 136, 45, 243]
def imgPlain (p : Policy) (b : List Byte) : Bool :=
  !(field b 0 4 ≠ 0x474D4951 || field b 4 2 ≠ 1 || !unitIds.contains (field b 6 2) || field b 0x18 8 = 0 || payloadLimit (unitKind (field b 6 2)) < field b 0x18 8 || 1 < field b 9 1 ||
     1 < field b 0x0A 2 || !reserved b 0x1D88 632 || (field b 9 1 = 0 && !reserved b 0x560 3764)) &&
  field b 8 1 = 0xB0 && slice b 0x40 1312 = keyZ && field b 9 1 = 0 && !bit p.flags 0 && !(field b 0x0C 4 < p.floors[unitKind (field b 6 2)]?.getD 0 : Bool) &&
  b.length = headerSize + field b 0x18 8 && b.drop headerSize = [7] && slice b 0x20 32 = digest7
theorem digest7_eq : sha3 [7] = digest7 := by decide +kernel
/-- The image's signature verifies with `keyZ`. -/
def ImageSigned (b : List Byte) : Prop := MlDsa.verify (ascii "LPX-IQ7200-IMAGE") keyZ (slice b 0 0x1414) (slice b 0x1414 2420) = true
def PolicySigned (b : List Byte) : Prop := MlDsa.verify (ascii "LPX-IQ7200-POLICY") keyZ (slice b 0 0xF54) (slice b 0xF54 2420) = true
theorem image_passes {s : State} {b : List Byte} (hv : ImageSigned b) (hr : rootZ) (h : imgPlain s.policy b = true) : s.imageCheck b = 0 := by
  unfold imgPlain at h
  simp only [Bool.and_eq_true, Bool.not_eq_true', decide_eq_true_eq, decide_eq_false_iff_not] at h
  obtain ⟨⟨⟨⟨⟨⟨⟨⟨h1, h2⟩, h3⟩, h4⟩, h5⟩, h6⟩, h7⟩, h8⟩, h9⟩ := h
  have hh : s.headerCheck b = 0 := by
    unfold State.headerCheck State.floor
    unfold ImageSigned at hv
    simp only [h2, h3, hr.1, h4, h5] at h1 ⊢
    simp only [h1, h6]
    simp [hv]
  simp only [State.imageCheck, payloadCheck, hh, h7, h8, h9, digest7_eq]
  simp
theorem plain00 : imgPlain Policy.none img00 = true := by decide +kernel
theorem plain10 : imgPlain Policy.none img10 = true := by decide +kernel
def polPlain (s : State) (b : List Byte) : Bool :=
  b.length = policySize && field b 0 4 = 0x594C4F50 && field b 4 2 = 1 && field b 6 1 = 0 && reserved b 7 1 && field b 0x0C 4 < 8 &&
  reserved b 0x34 4 && reserved b 0x7C 36 && reserved b 0xA0 3764 && s.policy.version < field b 8 4
theorem policy_passes {s : State} {b : List Byte} (hv : PolicySigned b) (hr : rootZ) (h : polPlain s b = true) : s.policyOk b = true := by
  unfold polPlain at h
  unfold PolicySigned at hv
  simp only [Bool.and_eq_true, decide_eq_true_eq] at h
  obtain ⟨⟨⟨⟨⟨⟨⟨⟨⟨h1, h2⟩, h3⟩, h4⟩, h5⟩, h6⟩, h7⟩, h8⟩, h9⟩, h10⟩ := h
  simp [State.policyOk, h1, h2, h3, h4, h5, h6, h7, h8, h9, h10, hr.2, hv]
/-- A flash that holds one image, as copy A or as copy B beside a copy A of zeros. -/
def flashOf (u : Nat) (b : List Byte) (second : Bool) : FlashRead :=
  { dir := toLE 4 0x52494451 ++ toLE 2 1 ++ List.replicate 10 0 ++ toLE 2 u ++ toLE 2 0 ++ toLE 4 0x1000 ++ toLE 4 (if second then 0x2000 else 0) ++ toLE 4 0,
    copies := if second then [(0x1000, List.replicate 8192 0), (0x2000, b)] else [(0x1000, b)] }
theorem flash_first {s : State} {u : Nat} {r : FlashRead} {b : List Byte} {e : FlashEntry}
    (h1 : ((flashEntries r.dir).getD []).find? (fun e => e.unit = u) = some e) (h2 : e.a ≠ 0) (h3 : look r.copies e.a = some b) (h4 : field b 6 2 = u)
    (h5 : s.imageCheck b = 0) : s.flashImage r u = some (b, false) := by
  simp [State.flashImage, h1, h2, h3, h4, h5, Option.filter]

def pw (ph : P2Phase) (w : Bool) (k : Nat) (s : State) : State := { s with power := { s.power with p2 := ph, window := w, woken := k } }
def tk (n : Nat) (s : State) : State := { s with pacers := s.pacers.set 0 { s.pacers.get 0 with tick := n, count := n } }
def prg : State := pac up0 (fun p => { p with program := some prog0 })
def rom (n : Nat) (s : State) : State := ({ s with marshal := .rom }.setObj Obj.bootInfo n).setObj Obj.idState 1
def polZ : List Byte := List.replicate 8192 0
def imgB (u len : Nat) (p : List Byte) : List Byte := toLE 4 0x474D4951 ++ toLE 2 1 ++ toLE 2 u ++ bytes [0xB0, 0] ++ toLE 2 0 ++ toLE 4 3 ++ toLE 4 4 ++ toLE 4 7 ++ toLE 8 len ++ List.replicate 32 0 ++ List.replicate (headerSize - 64) 0 ++ p
def imgZ : List Byte := []
def chunk (off n : Nat) (d : List Byte) : List Byte := toLE 4 off ++ toLE 2 n ++ toLE 2 0 ++ d ++ List.replicate (1016 - d.length) 0
def rxs (b : List Byte) : State := { up0 with receiving := some (.fn 0, b) }
def upT (u : Nat) (x : UnitImage) : State := ({ up0 with images := put up0.images u x }).setObj Obj.updateTarget u
def stg : UnitImage := { unit0 with staged := some { img0 with version := 5 } }
def apl (u n : Nat) : State := upT u { stg with apply := some n }
def pub0 : Pub := { origin := .queue 0 0, cmd := cmd0, ctx := 0, asid := 1, gen := gen1, ch := 0, cls := 1, status := 0, cells := [], defers := [], opens := [], landed := [], prior := [], exports := [], claims := [], peer := [], failed := 0 }
def flr (s : State) : State := { s with policy := { s.policy with floors := [9, 9, 9, 9, 9, 9, 9, 9] } }

def hdrBad : List Byte := toLE 4 0 ++ (imgB 0x10 1 []).drop 4
theorem witness_StandbyEntryAndReturn :
    (∃ (s : State) (who : Req), s.serves' who Obj.p2Enter ∧ s.power.p2 = .awake ∧ (∀ c, (s.pacer c).program = none ∧ s.svc c ≠ .covered ∧ (s.chPend.get c).power = none) ∧ bits (s.obj Obj.pairCtrl) 31 30 = 0 ∧ syncRole (s.obj Obj.syncCtrl) = 0 ∧ (∀ e ∈ s.spaces, e.2.phase ≠ .pending ∧ e.2.phase ≠ .draining)) ∧
    (∃ (s : State) (who : Req), (s.serves' who Obj.p2Enter ∧ s.power.p2 = .awake) ∧ (((∃ c, (s.pacer c).program ≠ none ∨ s.svc c = .covered ∨ (s.chPend.get c).power ≠ none) ∨ bits (s.obj Obj.pairCtrl) 31 30 ≠ 0 ∨ syncRole (s.obj Obj.syncCtrl) ≠ 0 ∨ (∃ e ∈ s.spaces, e.2.phase = .pending ∨ e.2.phase = .draining)))) ∧
    (∃ (s : State) (n : Nat), s.clocksRun ∧ s.power.p2 = .asked n ∧ n < s.edgeNo 0 ∧ s.atEdge 0 = true) ∧
    (∃ (s : State) (n : Nat), s.clocksRun ∧ s.power.p2 = .asked n ∧ ((s.edgeNo 0 ≤ n ∨ s.atEdge 0 = false))) ∧
    (∃ (s : State), s.clocksRun ∧ s.power.p2 = .entry 1 ∧ s.abortDue = false ∧ s.pubs = [] ∧ s.runs = [] ∧ s.linkTraffic = false) ∧
    (∃ (s : State), s.clocksRun ∧ s.power.p2 = .entry 1 ∧ s.abortDue = false ∧ ((s.pubs ≠ [] ∨ s.runs ≠ [] ∨ s.linkTraffic = true))) ∧
    (∃ (s : State) (n : Nat), s.clocksRun ∧ s.power.p2 = .entry n ∧ 2 ≤ n ∧ n ≤ 5 ∧ s.abortDue = false) ∧
    (∃ (s : State) (ma : Nat), s.clocksRun ∧ s.power.p2 = .entry 6 ∧ s.power.woken = 0) :=
  ⟨⟨{ up0 with service := .all .offline }, (.fn 0), by decide +kernel⟩,
   ⟨prg, (.fn 0), by decide +kernel, (.inl ⟨0, by decide +kernel⟩)⟩,
   ⟨tk 5 (pw (.asked 3) false 0 { run0 with runs := [(0, rn0)] }), 3, by decide +kernel⟩,
   ⟨tk 3 (pw (.asked 3) false 0 run0), 3, by decide +kernel⟩,
   ⟨pw (.entry 1) false 0 run0, by decide +kernel⟩,
   ⟨pw (.entry 1) false 0 { run0 with pubs := [(0, pub0)] }, by decide +kernel⟩,
   ⟨pw (.entry 3) true 0 run0, 3, by decide +kernel⟩,
   ⟨pw (.entry 6) false 0 run0, 900, by decide +kernel⟩⟩
theorem witness_StandbyEntryAndReturn_8 :
    (∃ (s : State) (ma : Nat), s.clocksRun ∧ s.power.p2 = .entry 6 ∧ s.power.woken ≠ 0) ∧
    (∃ (s : State) (src : Nat) (w : Bool), s.clocksRun ∧ src < 6 ∧ ((src = 0 ∨ bit (s.obj Obj.wakeMask) src = true)) ∧ ((src = 4 → s.enOf 8 = true ∨ s.enOf 9 = true)) ∧ ((src = 5 → s.enOf 10 = true ∨ s.enOf 11 = true)) ∧ s.power.p2 = .standby) ∧
    (∃ (s : State) (src : Nat) (w : Bool) (n : Nat), s.clocksRun ∧ src < 6 ∧ ((src = 0 ∨ bit (s.obj Obj.wakeMask) src = true)) ∧ ((src = 4 → s.enOf 8 = true ∨ s.enOf 9 = true)) ∧ ((src = 5 → s.enOf 10 = true ∨ s.enOf 11 = true)) ∧ s.power.p2 = .entry n ∧ ((s.power.window = false ∨ w = false ∨ (src ≠ 1 ∧ src ≠ 2)))) ∧
    (∃ (s : State) (src : Nat) (w : Bool) (n : Nat), s.clocksRun ∧ src < 6 ∧ ((src = 0 ∨ bit (s.obj Obj.wakeMask) src = true)) ∧ ((src = 4 → s.enOf 8 = true ∨ s.enOf 9 = true)) ∧ ((src = 5 → s.enOf 10 = true ∨ s.enOf 11 = true)) ∧ s.power.p2 = .entry n ∧ s.power.window = true ∧ w = true ∧ ((src = 1 ∨ src = 2))) ∧
    (∃ (s : State) (src : Nat) (w : Bool), s.clocksRun ∧ (((src ≠ 0 ∧ bit (s.obj Obj.wakeMask) src = false) ∨ (src = 4 ∧ s.enOf 8 = false ∧ s.enOf 9 = false) ∨ (src = 5 ∧ s.enOf 10 = false ∧ s.enOf 11 = false)))) ∧
    (∃ (s : State) (n : Nat), s.clocksRun ∧ s.power.p2 = .entry n ∧ n ≤ 5 ∧ s.power.window = false ∧ s.power.woken ≠ 0) ∧
    (∃ (s : State), s.clocksRun ∧ s.power.p2 = .undoing ∧ s.power.resets = [] ∧ s.barWait = [] ∧ (∀ f < 16, (s.mbox (mbH2m f)).pending = false)) ∧
    (∃ (s : State), s.clocksRun ∧ s.power.p2 = .returning ∧ s.power.resets = [] ∧ s.barWait = [] ∧ (∀ f < 16, (s.mbox (mbH2m f)).pending = false)) :=
  ⟨⟨pw (.entry 6) false 2 run0, 900, by decide +kernel⟩,
   ⟨pw .standby false 0 run0, 3, false, by decide +kernel⟩,
   ⟨pw (.entry 2) false 0 run0, 3, false, 2, by decide +kernel⟩,
   ⟨pw (.entry 2) true 0 (run0.setObj Obj.wakeMask 7), 1, true, 2, by decide +kernel⟩,
   ⟨pw (.entry 2) true 0 run0, 1, true, by decide +kernel⟩,
   ⟨pw (.entry 2) false 8 run0, 2, by decide +kernel⟩,
   ⟨pw .undoing false 8 { run0 with power := { run0.power with latched := 3 } }, by decide +kernel⟩,
   ⟨pw .returning false 0 run0, by decide +kernel⟩⟩
theorem witness_StandbyEntryAndReturn_16 :
    (∃ (s : State), s.clocksRun ∧ ((s.power.p2 = .entry 6 ∨ (s.power.p2 = .standby ∧ bit (s.obj Obj.vretMode) 0 = true)))) ∧
    (∃ (s : State), s.clocksRun ∧ s.power.p2 = .standby ∧ bit (s.obj Obj.vretMode) 0 = false) :=
  ⟨⟨pw (.entry 6) false 0 run0, by decide +kernel⟩,
   ⟨pw .standby false 0 (run0.setObj Obj.vretMode 0x80), by decide +kernel⟩⟩
theorem witness_Boot_2_given (hv : PolicySigned polB) (hr : rootZ) : ∃ (s : State) (b : List Byte), (s.clocksRun ∧ s.marshal = .rom ∧ s.obj Obj.idState ≠ 0 ∧ bit (s.obj Obj.bootInfo) 2 = true ∧ s.policyRead = false) ∧ s.policyOk b = true :=
  ⟨rom 4 run0, polB, by decide +kernel, (policy_passes hv hr (by decide +kernel))⟩
theorem witness_Boot_5_given (hv : ImageSigned img00) (hr : rootZ) : ∃ (s : State) (r : FlashRead) (b : List Byte) (copyB : Bool), (s.clocksRun ∧ s.marshal = .rom ∧ s.phase5 = true ∧ s.fromFlash = true) ∧ s.flashImage r 0 = some (b, copyB) :=
  ⟨rom 0 run0, flashOf 0 img00 false, img00, false, by decide +kernel, (flash_first (e := ⟨0, 0x1000, 0⟩) (by decide +kernel) (by decide +kernel) (by decide +kernel) (by decide +kernel) (image_passes hv hr plain00))⟩
theorem witness_Boot_8_given (hv : ImageSigned img00) (hr : rootZ) : ∃ (s : State) (r : FlashRead) (es : List FlashEntry) (e : FlashEntry) (a : List Byte), (flashEntries r.dir = some es ∧ es.find? (fun x => x.unit = e.unit) = some e ∧ e.a ≠ 0 ∧ look r.copies e.a = some a ∧ field a 6 2 = e.unit) ∧ s.imageCheck a = 0 :=
  ⟨run0, flashOf 0 img00 false, [⟨0, 0x1000, 0⟩], ⟨0, 0x1000, 0⟩, img00, by decide +kernel, (image_passes hv hr plain00)⟩
theorem witness_Boot_9_given (hv : ImageSigned img00) (hr : rootZ) : ∃ (s : State) (r : FlashRead) (es : List FlashEntry) (e : FlashEntry) (a : List Byte) (b : List Byte), (flashEntries r.dir = some es ∧ es.find? (fun x => x.unit = e.unit) = some e ∧ e.a ≠ 0 ∧ look r.copies e.a = some a ∧ field a 6 2 = e.unit ∧ s.imageCheck a ≠ 0 ∧ e.b ≠ 0 ∧ look r.copies e.b = some b) ∧ s.imageCheck b = 0 ∧ field b 6 2 = e.unit :=
  ⟨run0, flashOf 0 img00 true, [⟨0, 0x1000, 0x2000⟩], ⟨0, 0x1000, 0x2000⟩, List.replicate 8192 0, img00, by decide +kernel, (image_passes hv hr plain00), by decide +kernel⟩
theorem witness_Boot :
    (∃ (s : State), s.clocksRun ∧ s.released = true ∧ s.obj Obj.idState = 0) ∧
    (∃ (s : State), s.clocksRun ∧ s.released = true ∧ s.obj Obj.idState = 0) ∧
    (∃ (s : State) (b : List Byte), s.clocksRun ∧ s.marshal = .rom ∧ s.obj Obj.idState ≠ 0 ∧ bit (s.obj Obj.bootInfo) 2 = true ∧ s.policyRead = false ∧ s.policyOk b = false) ∧
    (∃ (s : State), s.clocksRun ∧ s.marshal = .rom ∧ s.obj Obj.idState ≠ 0 ∧ bit (s.obj Obj.bootInfo) 2 = true ∧ s.policyRead = false) ∧
    (∃ (s : State) (r : FlashRead), s.clocksRun ∧ s.marshal = .rom ∧ s.phase5 = true ∧ s.fromFlash = true ∧ s.flashImage r 0 = none) ∧
    (∃ (s : State) (r : FlashRead), s.clocksRun ∧ ((s.marshal ≠ .rom ∨ s.phase5 = false ∨ s.fromFlash = false))) ∧
    (∃ (s : State) (ch : Fin 4), s.clocksRun ∧ s.tested.get ch = false ∧ ((s.marshal = .loading ∨ s.marshal = .running)) ∧ (2 ≤ ch.val → s.phase6Over = true)) ∧
    (∃ (s : State) (ch : Fin 4) (p : Nat), s.clocksRun ∧ s.tested.get ch = false ∧ ((s.marshal = .loading ∨ s.marshal = .running)) ∧ (2 ≤ ch.val → s.phase6Over = true) ∧ p < 16) :=
  ⟨⟨run0, by decide +kernel⟩,
   ⟨run0, by decide +kernel⟩,
   ⟨rom 4 run0, polZ, by decide +kernel⟩,
   ⟨rom 4 run0, by decide +kernel⟩,
   ⟨rom 0 run0, ⟨[], []⟩, by decide +kernel⟩,
   ⟨run0, ⟨[], []⟩, by decide +kernel⟩,
   ⟨run0, 0, by decide +kernel⟩,
   ⟨run0, 0, 5, by decide +kernel⟩⟩
theorem witness_Boot_14_given (hv : ImageSigned img10) (hr : rootZ) : ∃ (s : State) (r : FlashRead) (u : Nat) (b : List Byte) (copyB : Bool), (s.clocksRun ∧ s.marshal = .loading ∧ (∀ f < 16, (s.mbox (mbH2m f)).pending = false) ∧ s.fromFlash = true ∧ u ∈ unitIds ∧ u ≠ 0) ∧ s.flashImage r u = some (b, copyB) :=
  ⟨{ run0 with marshal := .loading }, flashOf 0x10 img10 false, 0x10, img10, false, by decide +kernel, (flash_first (e := ⟨0x10, 0x1000, 0⟩) (by decide +kernel) (by decide +kernel) (by decide +kernel) (by decide +kernel) (image_passes hv hr plain10))⟩
theorem witness_Boot_12 :
    (∃ (s : State) (ch : Fin 4) (p : Nat), s.clocksRun ∧ s.tested.get ch = false ∧ ((s.marshal = .loading ∨ s.marshal = .running)) ∧ (2 ≤ ch.val → s.phase6Over = true) ∧ p < 16) ∧
    (∃ (s : State) (r : FlashRead), s.clocksRun ∧ s.marshal = .loading ∧ (∀ f < 16, (s.mbox (mbH2m f)).pending = false) ∧ ((s.fromFlash = false ∨ ∀ u ∈ unitIds, s.flashImage r u = none))) :=
  ⟨⟨run0, 0, 5, by decide +kernel⟩,
   ⟨{ run0 with marshal := .loading }, ⟨[], []⟩, by decide +kernel⟩⟩
theorem witness_ImagesPoliciesAndUpdates :
    (∃ (s : State) (who : Req) (v : List Byte) (old : List Byte) (n : Nat) (b : List Byte) (u : Nat) (header : Prop), (s.serves' who Obj.imageChunk ∧ v.length = 1024 ∧ n = field v 4 2 ∧ 1 ≤ n ∧ n ≤ 1016 ∧ reserved v (8 + n) (1016 - n) = true ∧ reserved v 6 2 = true) ∧ ((s.receiving = none ∨ ∃ b, s.receiving = some (who, b))) ∧ (old = (if field v 0 4 = 0 then [] else (s.receiving.map (·.2)).getD []) ∧ field v 0 4 = old.length) ∧ b = old ++ slice v 8 n ∧ u = field b 6 2 ∧ header = (old.length < headerSize ∧ headerSize ≤ b.length) ∧ ((b.length < headerSize ∨ (headerSize ≤ b.length ∧ b.length < headerSize + field b 0x18 8 ∧ (header → s.headerCheck b = 0 ∧ s.mayReceive who u = true ∧ s.unitOff u = false))))) ∧
    (∃ (s : State) (who : Req) (v : List Byte) (old : List Byte) (n : Nat) (b : List Byte) (u : Nat) (header : Prop), (s.serves' who Obj.imageChunk ∧ v.length = 1024 ∧ n = field v 4 2 ∧ 1 ≤ n ∧ n ≤ 1016 ∧ reserved v (8 + n) (1016 - n) = true ∧ reserved v 6 2 = true) ∧ ((s.receiving = none ∨ ∃ b, s.receiving = some (who, b))) ∧ (old = (if field v 0 4 = 0 then [] else (s.receiving.map (·.2)).getD []) ∧ field v 0 4 = old.length) ∧ b = old ++ slice v 8 n ∧ u = field b 6 2 ∧ header = (old.length < headerSize ∧ headerSize ≤ b.length) ∧ (headerSize ≤ b.length ∧ b.length = headerSize + field b 0x18 8 ∧ (header → s.headerCheck b = 0) ∧ s.mayReceive who u = true ∧ s.unitOff u = false)) ∧
    (∃ (s : State) (who : Req) (v : List Byte) (old : List Byte) (n : Nat) (b : List Byte) (u : Nat) (header : Prop), (s.serves' who Obj.imageChunk ∧ v.length = 1024 ∧ n = field v 4 2 ∧ 1 ≤ n ∧ n ≤ 1016 ∧ reserved v (8 + n) (1016 - n) = true ∧ reserved v 6 2 = true) ∧ ((s.receiving = none ∨ ∃ b, s.receiving = some (who, b))) ∧ (old = (if field v 0 4 = 0 then [] else (s.receiving.map (·.2)).getD []) ∧ field v 0 4 = old.length) ∧ b = old ++ slice v 8 n ∧ u = field b 6 2 ∧ header = (old.length < headerSize ∧ headerSize ≤ b.length) ∧ (header ∧ s.headerCheck b ≠ 0)) ∧
    (∃ (s : State) (who : Req) (v : List Byte) (old : List Byte) (n : Nat) (b : List Byte) (u : Nat) (header : Prop), (s.serves' who Obj.imageChunk ∧ v.length = 1024 ∧ n = field v 4 2 ∧ 1 ≤ n ∧ n ≤ 1016 ∧ reserved v (8 + n) (1016 - n) = true ∧ reserved v 6 2 = true) ∧ ((s.receiving = none ∨ ∃ b, s.receiving = some (who, b))) ∧ (old = (if field v 0 4 = 0 then [] else (s.receiving.map (·.2)).getD []) ∧ field v 0 4 = old.length) ∧ b = old ++ slice v 8 n ∧ u = field b 6 2 ∧ header = (old.length < headerSize ∧ headerSize ≤ b.length) ∧ (((header ∧ s.headerCheck b = 0 ∨ headerSize ≤ old.length ∧ b.length = headerSize + field b 0x18 8)) ∧ ((s.mayReceive who u = false ∨ s.unitOff u = true)))) ∧
    (∃ (s : State) (who : Req) (v : List Byte) (old : List Byte) (n : Nat) (b : List Byte) (u : Nat) (header : Prop), (s.serves' who Obj.imageChunk ∧ v.length = 1024 ∧ n = field v 4 2 ∧ 1 ≤ n ∧ n ≤ 1016 ∧ reserved v (8 + n) (1016 - n) = true ∧ reserved v 6 2 = true) ∧ ((s.receiving = none ∨ ∃ b, s.receiving = some (who, b))) ∧ (old = (if field v 0 4 = 0 then [] else (s.receiving.map (·.2)).getD []) ∧ field v 0 4 = old.length) ∧ b = old ++ slice v 8 n ∧ u = field b 6 2 ∧ header = (old.length < headerSize ∧ headerSize ≤ b.length) ∧ (headerSize ≤ old.length ∧ headerSize + field b 0x18 8 < b.length)) ∧
    (∃ (s : State) (who : Req) (v : List Byte) (old : List Byte) (n : Nat), (s.serves' who Obj.imageChunk ∧ v.length = 1024 ∧ n = field v 4 2 ∧ 1 ≤ n ∧ n ≤ 1016 ∧ reserved v (8 + n) (1016 - n) = true ∧ reserved v 6 2 = true) ∧ ((s.receiving = none ∨ ∃ b, s.receiving = some (who, b))) ∧ (old = (if field v 0 4 = 0 then [] else (s.receiving.map (·.2)).getD []) ∧ field v 0 4 ≠ old.length)) ∧
    (∃ (s : State) (who : Req) (x : Req) (v : List Byte) (b : List Byte), s.serves' who Obj.imageChunk ∧ v.length = 1024 ∧ 1 ≤ field v 4 2 ∧ field v 4 2 ≤ 1016 ∧ reserved v (8 + field v 4 2) (1016 - field v 4 2) = true ∧ reserved v 6 2 = true ∧ s.receiving = some (x, b) ∧ x ≠ who) ∧
    (∃ (s : State) (who : Req) (v : List Byte), s.serves' who Obj.imageChunk ∧ v.length ≠ 1024) :=
  ⟨⟨up0, (.fn 0), chunk 0 1 [7], [], 1, _, _, _, by decide +kernel, (.inl rfl), by decide +kernel, rfl, rfl, rfl, by decide +kernel⟩,
   ⟨rxs (imgB 0x10 2 [7, 8]).dropLast, (.fn 0), chunk 8193 1 [8], (imgB 0x10 2 [7, 8]).dropLast, 1, _, _, _, by decide +kernel, (.inr ⟨_, rfl⟩), by decide +kernel, rfl, rfl, rfl, by decide +kernel⟩,
   ⟨rxs (hdrBad.take 7600), (.fn 0), chunk 7600 592 ((hdrBad.drop 7600).take 592), hdrBad.take 7600, 592, _, _, _, by decide +kernel, (.inr ⟨_, rfl⟩), by decide +kernel, rfl, rfl, rfl, by decide +kernel⟩,
   ⟨{ rxs (imgB 0x10 2 [7, 8]).dropLast with marshal := .recovery }, (.fn 0), chunk 8193 1 [8], (imgB 0x10 2 [7, 8]).dropLast, 1, _, _, _, by decide +kernel, (.inr ⟨_, rfl⟩), by decide +kernel, rfl, rfl, rfl, by decide +kernel⟩,
   ⟨rxs (imgB 0x10 1 []), (.fn 0), chunk 8192 2 [7, 8], imgB 0x10 1 [], 2, _, _, _, by decide +kernel, (.inr ⟨_, rfl⟩), by decide +kernel, rfl, rfl, rfl, by decide +kernel⟩,
   ⟨rxs [1, 2], (.fn 0), chunk 3 1 [8], [1, 2], 1, by decide +kernel, (.inr ⟨_, rfl⟩), by decide +kernel⟩,
   ⟨{ up0 with receiving := some (.fn 1, []) }, (.fn 0), .fn 1, chunk 0 1 [7], [], by decide +kernel⟩,
   ⟨up0, (.fn 0), [1], by decide +kernel⟩⟩
theorem witness_ImagesPoliciesAndUpdates_10_given (hv : PolicySigned polB) (hr : rootZ) : ∃ (s : State) (who : Req) (b : List Byte), (s.serves' who Obj.policyWrite ∧ b.length = policySize) ∧ s.policyOk b = true :=
  ⟨up0, (.fn 0), polB, by decide +kernel, (policy_passes hv hr (by decide +kernel))⟩
theorem witness_ImagesPoliciesAndUpdates_8 :
    (∃ (s : State) (who : Req) (b : List Byte), s.serves' who Obj.policyWrite ∧ b.length ≠ policySize) ∧
    (∃ (s : State) (who : Req) (b : List Byte), s.serves' who Obj.policyWrite ∧ b.length = policySize ∧ s.policyOk b = false) ∧
    (∃ (s : State) (who : Req), s.serves' who Obj.attestRun ∧ s.quoting = none ∧ s.obj Obj.idState = 1) ∧
    (∃ (s : State) (who : Req), s.serves' who Obj.attestRun ∧ s.quoting = none ∧ s.obj Obj.idState ≠ 1) ∧
    (∃ (s : State) (who : Req), s.serves' who Obj.attestRun ∧ s.quoting ≠ none) ∧
    (∃ (s : State) (b : List Byte), s.clocksRun ∧ s.quoting = some b) ∧
    (∃ (s : State) (keys : List Byte), s.serves' (.fn 0) Obj.hdcpKeys ∧ keys.length = 2048) ∧
    (∃ (s : State) (keys : List Byte), s.serves' (.fn 0) Obj.hdcpKeys ∧ keys.length ≠ 2048) :=
  ⟨⟨up0, (.fn 0), [1], by decide +kernel⟩,
   ⟨up0, (.fn 0), List.replicate policySize 0, by decide +kernel⟩,
   ⟨up0.setObj Obj.idState 1, (.fn 0), by decide +kernel⟩,
   ⟨up0.setObj Obj.idState 2, (.fn 0), by decide +kernel⟩,
   ⟨{ up0 with quoting := some [1] }, (.fn 0), by decide +kernel⟩,
   ⟨{ up0 with quoting := some [1] }, [1], by decide +kernel⟩,
   ⟨up0, List.replicate 2048 5, by decide +kernel⟩,
   ⟨up0, [5], by decide +kernel⟩⟩
theorem witness_ImagesPoliciesAndUpdates_17 :
    (∃ (s : State) (ip : Nat) (port : Nat) (keys : List Byte), s.serves' (.t1 ip port) Obj.hdcpKeys) ∧
    (∃ (s : State) (who : Req) (n : Nat) (u : Nat) (i : Image), s.serves' who Obj.updateApply ∧ u = s.obj Obj.updateTarget ∧ unitIds.contains u = false) ∧
    (∃ (s : State) (who : Req) (n : Nat) (u : Nat) (i : Image), s.serves' who Obj.updateApply ∧ u = s.obj Obj.updateTarget ∧ unitIds.contains u = true ∧ (s.unitImage u).staged = none) ∧
    (∃ (s : State) (who : Req) (n : Nat) (u : Nat) (i : Image), s.serves' who Obj.updateApply ∧ u = s.obj Obj.updateTarget ∧ unitIds.contains u = true ∧ (s.unitImage u).staged = some i ∧ (s.unitImage u).apply = none ∧ s.unitTested u = false ∧ bits (s.obj Obj.pairCtrl) 31 30 = 0 ∧ ((∀ c : Fin 4, (u = 0 ∨ u = coresetId c) → ∀ p, (s.pacer c).program = some p → p.model = i.model))) ∧
    (∃ (s : State) (u : Nat) (n : Nat) (i : Image), s.clocksRun ∧ (s.unitImage u).apply = some n ∧ (s.unitImage u).staged = some i ∧ s.applyReady u n = true ∧ s.atEdge (s.applyCh u) = true ∧ s.floor (unitKind u) ≤ i.version) ∧
    (∃ (s : State) (u : Nat) (n : Nat) (i : Image), s.clocksRun ∧ (s.unitImage u).apply = some n ∧ (s.unitImage u).staged = some i ∧ s.applyReady u n = true ∧ s.atEdge (s.applyCh u) = true ∧ i.version < s.floor (unitKind u)) ∧
    (∃ (s : State) (u : Nat) (n : Nat) (i : Image), s.clocksRun ∧ (s.unitImage u).apply = some n ∧ (s.unitImage u).staged = some i ∧ ((s.applyReady u n = false ∨ s.atEdge (s.applyCh u) = false))) ∧
    (∃ (s : State), s.clocksRun ∧ s.marshal = .updating ∧ (∀ f < 16, (s.mbox (mbH2m f)).pending = false)) :=
  ⟨⟨{ up0.setObj Obj.t1State 2 with t1Clients := [] }, 1, 2, [5], by decide +kernel⟩,
   ⟨upT 0x99 unit0, (.fn 0), 5, 0x99, img0, by decide +kernel⟩,
   ⟨upT 0x40 unit0, (.fn 0), 5, 0x40, img0, by decide +kernel⟩,
   ⟨upT 0x40 stg, (.fn 0), 5, 0x40, { img0 with version := 5 }, by decide +kernel⟩,
   ⟨tk 9 (apl 0x40 5), 0x40, 5, { img0 with version := 5 }, by decide +kernel⟩,
   ⟨flr (tk 9 (apl 0x40 5)), 0x40, 5, { img0 with version := 5 }, by decide +kernel⟩,
   ⟨apl 0x40 5, 0x40, 5, { img0 with version := 5 }, by decide +kernel⟩,
   ⟨{ up0 with marshal := .updating }, by decide +kernel⟩⟩
theorem witness_ImagesPoliciesAndUpdates_27_given (hv : ImageSigned img10) (hr : rootZ) : ∃ (s : State) (u : Nat) (r : FlashRead) (i : Image) (b : List Byte) (copyB : Bool), (s.clocksRun ∧ (s.unitImage u).needed = true ∧ s.unitOff u = false ∧ (s.unitImage u).running = some i ∧ i.flash = true) ∧ s.flashImage r u = some (b, copyB) :=
  ⟨upT 0x10 { unit0 with needed := true }, 0x10, flashOf 0x10 img10 false, img0, img10, false, by decide +kernel, (flash_first (e := ⟨0x10, 0x1000, 0⟩) (by decide +kernel) (by decide +kernel) (by decide +kernel) (by decide +kernel) (image_passes hv hr plain10))⟩
theorem witness_ImagesPoliciesAndUpdates_25 :
    (∃ (s : State) (who : Req) (u : Nat), s.serves' who Obj.updateDiscard ∧ unitIds.contains u = true) ∧
    (∃ (s : State) (who : Req) (u : Nat), s.serves' who Obj.updateDiscard ∧ unitIds.contains u = false) ∧
    (∃ (s : State) (u : Nat) (r : FlashRead), s.clocksRun ∧ (s.unitImage u).needed = true ∧ s.unitOff u = false ∧ ((s.flashImage r u = none ∨ ∀ i, (s.unitImage u).running = some i → i.flash = false))) :=
  ⟨⟨up0, (.fn 0), 0x10, by decide +kernel⟩,
   ⟨up0, (.fn 0), 0x99, by decide +kernel⟩,
   ⟨upT 0x10 { unit0 with needed := true }, 0x10, ⟨[], []⟩, by decide +kernel⟩⟩

end W09

namespace W10

def svc (m : Nat) (s : State) : State := s.setObj (Obj.chService 0) m
def cp (f : ChPending → ChPending) (s : State) : State := { s with chPend := s.chPend.set 0 (f (s.chPend.get 0)) }
def tk (n : Nat) (s : State) : State := { s with pacers := s.pacers.set 0 { s.pacers.get 0 with tick := n } }
def out0 (m : Nat) (s : State) : State := { s with outBy := s.outBy.set 0 (some m) }
def prg : State := pac up0 (fun p => { p with program := some prog0 })
def sp (l : List Nat) (s : State) : State := { s with cores := s.cores.set 0 { map := upto 16, state := l } }
def spc : List Nat := List.replicate 16 0 ++ [2]
def ts (w : Nat) (s : State) : State := s.setObj (Obj.testStatus 0) w
def obs (f : Observe → Observe) (s : State) : State := { s with observe := s.observe.set 0 (f (s.observe.get 0)) }
def flt (n : Nat) (s : State) : State := obs (fun o => { o with filter := { o.filter with ctrl := n } }) s
def rec1 : TraceRec := { kept := 0, type := 1, chan := 0, unit := 0, cls := 0, seq := 0, tick := 0, cycle := 0, arg0 := 0, arg1 := 0 }
def tr1 (l : List TraceRec) : State := { (flt (2 ^ 30) up0).setObj Obj.t1State 2 with traceBuf := l }
def rst (key len v : Nat) : List Byte := toLE 4 0x54534552 ++ toLE 2 1 ++ toLE 2 1 ++ List.replicate 56 0 ++ (toLE 2 (key / 256) ++ toLE 1 (key % 256) ++ [0] ++ toLE 2 len ++ toLE 2 0 ++ toLE 8 v) ++ List.replicate 224 0
def att : State := { up0 with devLog := { newest := 5, acked := 2, first := 1, dropped := 0, entries := [] } }
def ae : AttnEntry := { seq := 5, code := 1, channel := 0, index := 0, sub := 0, detail := 0, tick := 0 }
def mxg (l : List (Nat × Word32)) : State := onGrp (fun g => { g with regs := l }) wk0
def klu : State := run0.setObj (Obj.klState 0) 2
def winE : List Byte := toLE 8 0x40000000 ++ toLE 8 0 ++ toLE 8 0x10000 ++ toLE 8 3 ++ List.replicate 480 0

def al3 : AttnLog := { newest := 5, acked := 2, first := 4, dropped := 0, entries := [ae, { ae with seq := 4 }] }
theorem witness_ServiceResetsAndTests :
    (∃ (s : State) (who : Req) (ch : Fin 4) (n : Nat) (m : Nat) (i : Instr), (s.serves' who (Obj.chServiceApply ch) ∧ (m, i) ∈ [(0, Instr.serviceReturn who ch n), (1, Instr.serviceOutGangCover who ch n), (2, Instr.serviceOutTwinCover who ch n), (3, Instr.serviceOutNoCover who ch n)] ∧ s.obj (Obj.chService ch) % 4 = m ∧ (bit (s.obj (Obj.chService ch)) 2 = true → m ≠ 1 ∧ s.gangOf ch ≠ [] ∧ s.leaderOf ch = ch)) ∧ (((s.startsAt ch n = true ∨ (n ≠ 0 ∧ (s.pacer ch).change.dueAt = some n))) ∧ s.tick ch + 2 ≤ n ∧ (m = 1 → s.gangOf ch ≠ [])) ∧ ((∀ c ∈ s.svcSet ch (bit (s.obj (Obj.chService ch)) 2), (m = 2 → s.inPair c = true ∧ c ∈ s.portSet 0) ∧ (m = 0 → s.outBy.get c ≠ none)) ∧ ((m = 0 ∨ bit (s.obj (Obj.chService ch)) 2 = true ∨ s.secondOut ch = false)))) ∧
    (∃ (s : State) (who : Req) (ch : Fin 4) (n : Nat) (m : Nat) (i : Instr), s.serves' who (Obj.chServiceApply ch) ∧ (m, i) ∈ [(0, Instr.serviceReturn who ch n), (1, Instr.serviceOutGangCover who ch n), (2, Instr.serviceOutTwinCover who ch n), (3, Instr.serviceOutNoCover who ch n)] ∧ s.obj (Obj.chService ch) % 4 = m ∧ n < s.tick ch + 2) ∧
    (∃ (s : State) (who : Req) (ch : Fin 4) (n : Nat) (m : Nat) (i : Instr), s.clocksRun ∧ (m, i) ∈ [(0, Instr.serviceReturn who ch n), (1, Instr.serviceOutGangCover who ch n), (2, Instr.serviceOutTwinCover who ch n), (3, Instr.serviceOutNoCover who ch n)] ∧ s.obj (Obj.chService ch) % 4 ≠ m) ∧
    (∃ (s : State) (ch : Fin 4) (x : SvcChange) (l : List (Fin 4)), (s.clocksRun ∧ (s.chPend.get ch).svc = some x) ∧ l = s.svcSet ch x.all ∧ (x.t ≤ s.tick ch ∧ (∀ m ∈ s.ownerSet ch, s.atEdge m = true) ∧ s.gangDue ch = false ∧ (∀ m ∈ l, s.svcHolds m x.t x.mode = true) ∧ x.mode ≠ 0)) ∧
    (∃ (s : State) (ch : Fin 4) (x : SvcChange) (l : List (Fin 4)), (s.clocksRun ∧ (s.chPend.get ch).svc = some x) ∧ l = s.svcSet ch x.all ∧ (x.t ≤ s.tick ch ∧ (∀ m ∈ s.ownerSet ch, s.atEdge m = true) ∧ s.gangDue ch = false ∧ (∀ m ∈ l, s.svcHolds m x.t 0 = true) ∧ x.mode = 0)) ∧
    (∃ (s : State) (ch : Fin 4) (x : SvcChange) (l : List (Fin 4)), (s.clocksRun ∧ (s.chPend.get ch).svc = some x) ∧ l = s.svcSet ch x.all ∧ (x.t ≤ s.tick ch ∧ (∀ m ∈ s.ownerSet ch, s.atEdge m = true) ∧ s.gangDue ch = false ∧ (∃ m ∈ l, s.svcHolds m x.t x.mode = false))) ∧
    (∃ (s : State) (ch : Fin 4) (x : SvcChange) (l : List (Fin 4)), (s.clocksRun ∧ (s.chPend.get ch).svc = some x) ∧ l = s.svcSet ch x.all ∧ ((s.tick ch < x.t ∨ (∃ m ∈ s.ownerSet ch, s.atEdge m = false) ∨ s.gangDue ch = true))) ∧
    (∃ (s : State) (who : Req) (ch : Fin 4), s.serves' who (Obj.chReset ch) ∧ s.outBy.get ch ≠ none ∧ s.testing ch = false ∧ (s.chPend.get ch).reset = none ∧ (∀ u ∈ [pacerId ch, compId ch, dpId ch, coresetId ch], (s.unitImage u).apply = none)) :=
  ⟨⟨svc 3 up0, (.fn 0), 0, 2, 3, Instr.serviceOutNoCover (.fn 0) 0 2, by decide +kernel, by decide +kernel, by decide +kernel⟩,
   ⟨svc 3 up0, (.fn 0), 0, 1, 3, Instr.serviceOutNoCover (.fn 0) 0 1, by decide +kernel⟩,
   ⟨svc 3 up0, (.fn 0), 0, 2, 1, Instr.serviceOutGangCover (.fn 0) 0 2, by decide +kernel⟩,
   ⟨cp (fun p => { p with svc := some ⟨0, 3, false⟩ }) up0, 0, ⟨0, 3, false⟩, _, by decide +kernel, rfl, by decide +kernel⟩,
   ⟨out0 3 (cp (fun p => { p with svc := some ⟨0, 0, false⟩ }) prg), 0, ⟨0, 0, false⟩, _, by decide +kernel, rfl, by decide +kernel⟩,
   ⟨cp (fun p => { p with svc := some ⟨0, 2, false⟩ }) up0, 0, ⟨0, 2, false⟩, _, by decide +kernel, rfl, by decide +kernel⟩,
   ⟨cp (fun p => { p with svc := some ⟨5, 3, false⟩ }) up0, 0, ⟨5, 3, false⟩, _, by decide +kernel, rfl, by decide +kernel⟩,
   ⟨out0 3 up0, (.fn 0), 0, by decide +kernel⟩⟩
theorem witness_ServiceResetsAndTests_8 :
    (∃ (s : State) (who : Req) (ch : Fin 4), s.serves' who (Obj.chReset ch) ∧ s.outBy.get ch = none) ∧
    (∃ (s : State) (ch : Fin 4), s.clocksRun ∧ (s.chPend.get ch).reset ≠ some true) ∧
    (∃ (s : State) (ch : Fin 4), s.clocksRun ∧ (s.chPend.get ch).reset = some true ∧ (∀ q ∈ slices, (s.cacheSlice ch q.1).phase ≠ .invalidating)) ∧
    (∃ (s : State) (who : Req) (ch : Fin 4) (n : Nat) (p : Nat), s.serves' who (Obj.substApply ch) ∧ (s.cores.get ch).spare = some p ∧ (s.cores.get ch).state[p]? = some 2 ∧ (s.chPend.get ch).subst = none) ∧
    (∃ (s : State) (who : Req) (ch : Fin 4) (n : Nat) (p : Nat), s.serves' who (Obj.substApply ch) ∧ (((s.cores.get ch).spare = none ∨ (s.chPend.get ch).subst ≠ none ∨ ((s.cores.get ch).spare = some p ∧ (s.cores.get ch).state[p]? ≠ some 2)))) ∧
    (∃ (s : State) (ch : Fin 4) (n : Nat) (l : Nat) (p : Nat) (old : Nat), s.clocksRun ∧ (s.chPend.get ch).subst = some (n, l) ∧ n ≤ s.tick ch ∧ s.atEdge ch = true ∧ (s.cores.get ch).spare = some p ∧ (s.cores.get ch).state[p]? = some 2 ∧ (s.cores.get ch).map[l]? = some old) ∧
    (∃ (s : State) (ch : Fin 4) (n : Nat) (l : Nat) (p : Nat) (old : Nat), s.clocksRun ∧ (s.chPend.get ch).subst = some (n, l) ∧ n ≤ s.tick ch ∧ s.atEdge ch = true ∧ (((s.cores.get ch).spare = none ∨ ((s.cores.get ch).spare = some p ∧ (s.cores.get ch).state[p]? ≠ some 2)))) ∧
    (∃ (s : State) (ch : Fin 4) (n : Nat) (l : Nat) (p : Nat) (old : Nat), s.clocksRun ∧ (s.chPend.get ch).subst = some (n, l) ∧ ((s.tick ch < n ∨ s.atEdge ch = false))) :=
  ⟨⟨up0, (.fn 0), 0, by decide +kernel⟩,
   ⟨up0, 0, by decide +kernel⟩,
   ⟨cp (fun p => { p with reset := some true }) up0, 0, by decide +kernel⟩,
   ⟨sp spc up0, (.fn 0), 0, 5, 16, by decide +kernel⟩,
   ⟨{ up0 with cores := up0.cores.set 0 { map := upto 17, state := spc } }, (.fn 0), 0, 5, 16, by decide +kernel⟩,
   ⟨sp spc (cp (fun p => { p with subst := some (0, 3) }) up0), 0, 0, 3, 16, 3, by decide +kernel⟩,
   ⟨cp (fun p => { p with subst := some (0, 3) }) { up0 with cores := up0.cores.set 0 { map := upto 17, state := spc } }, 0, 0, 3, 16, 3, by decide +kernel⟩,
   ⟨cp (fun p => { p with subst := some (5, 3) }) up0, 0, 5, 3, 16, 3, by decide +kernel⟩⟩
theorem witness_ServiceResetsAndTests_16 :
    (∃ (s : State) (who : Req) (ch : Fin 4) (n : Nat) (v : Nat), (s.serves' who (Obj.testRun ch) ∧ v = s.obj (Obj.testTarget ch) ∧ testTargetOk v = true ∧ s.testReady ch v = true ∧ s.testing ch = false) ∧ (∀ u, testUnit ch v = some u → (s.unitImage u).apply = none) ∧ (s.obj (Obj.chPstate ch) = 0 ∧ s.marshal = .running)) ∧
    (∃ (s : State) (who : Req) (ch : Fin 4) (n : Nat) (v : Nat), s.serves' who (Obj.testRun ch) ∧ v = s.obj (Obj.testTarget ch) ∧ testTargetOk v = false) ∧
    (∃ (s : State) (who : Req) (ch : Fin 4) (n : Nat) (v : Nat), s.serves' who (Obj.testRun ch) ∧ v = s.obj (Obj.testTarget ch) ∧ testTargetOk v = true ∧ ((s.testReady ch v = false ∨ s.testing ch = true ∨ s.obj (Obj.chPstate ch) ≠ 0 ∨ s.marshal ≠ .running))) ∧
    (∃ (s : State) (ch : Fin 4) (n : Nat) (v : Nat), s.clocksRun ∧ s.quiet ∧ ((s.chPend.get ch).test = some (n, v) ∧ bits (s.obj (Obj.testStatus ch)) 15 12 = 1 ∧ n ≤ s.tick ch ∧ s.atEdge ch = true ∧ s.awake = true ∧ v < 0x40)) ∧
    (∃ (s : State) (ch : Fin 4) (n : Nat) (v : Nat), s.clocksRun ∧ s.quiet ∧ ((s.chPend.get ch).test = some (n, v) ∧ bits (s.obj (Obj.testStatus ch)) 15 12 = 1 ∧ n ≤ s.tick ch ∧ s.atEdge ch = true ∧ s.awake = true ∧ 0x40 ≤ v ∧ v ≤ 0x43)) ∧
    (∃ (s : State) (ch : Fin 4) (passed : Bool) (v : Nat), s.clocksRun ∧ bits (s.obj (Obj.testStatus ch)) 15 12 = 2 ∧ s.atEdge ch = true ∧ v = s.obj (Obj.testStatus ch) % 256) :=
  ⟨⟨(sp spc up0).setObj (Obj.testTarget 0) 16, (.fn 0), 0, 5, 16, by decide +kernel, (by intro u hu; revert u; decide +kernel), by decide +kernel⟩,
   ⟨up0.setObj (Obj.testTarget 0) 17, (.fn 0), 0, 5, 17, by decide +kernel⟩,
   ⟨up0.setObj (Obj.testTarget 0) 3, (.fn 0), 0, 5, 3, by decide +kernel⟩,
   ⟨ts 0x1010 (cp (fun p => { p with test := some (0, 16) }) up0), 0, 0, 16, by decide +kernel, ⟨rfl, rfl, rfl⟩, by decide +kernel⟩,
   ⟨ts 0x1040 (cp (fun p => { p with test := some (0, 0x40) }) up0), 0, 0, 0x40, by decide +kernel, ⟨rfl, rfl, rfl⟩, by decide +kernel⟩,
   ⟨ts 0x2010 (cp (fun p => { p with test := some (0, 16) }) up0), 0, true, 16, by decide +kernel⟩⟩
theorem witness_TraceReportsAndRestore :
    (∃ (s : State) (ch : Fin 4), s.clocksRun ∧ bits (s.observe.get ch).filter.ctrl 15 0 ≠ 0 ∧ s.tick ch % bits (s.observe.get ch).filter.ctrl 15 0 = 0 ∧ (s.observe.get ch).marked ≠ some (s.tick ch)) ∧
    (∃ (s : State) (ch : Fin 4), s.clocksRun ∧ bits (s.observe.get ch).filter.ctrl 15 0 ≠ 0 ∧ ((s.tick ch % bits (s.observe.get ch).filter.ctrl 15 0 ≠ 0 ∨ (s.observe.get ch).marked = some (s.tick ch)))) ∧
    (∃ (s : State), s.clocksRun ∧ ((s.obj Obj.t1AsState = 2 ∨ s.obj Obj.t1AsState = 3)) ∧ s.tick 0 % 2048 = 0 ∧ (s.observe.get 0).refd ≠ some (s.tick 0)) ∧
    (∃ (s : State), s.clocksRun ∧ s.obj Obj.t1AsState ≠ 2 ∧ s.obj Obj.t1AsState ≠ 3) ∧
    (∃ (s : State) (l : List TraceRec), (s.clocksRun ∧ s.traceToT1 = true ∧ s.marshal ≠ .updating ∧ s.awake = true ∧ s.obj Obj.t1State = 2) ∧ l = (s.traceBuf.takeWhile (fun x => x.kept < s.now)).take 45 ∧ ((l.length = 45 ∨ ∃ r ∈ s.traceBuf.head?, r.kept + 1000000 ≤ s.now))) ∧
    (∃ (s : State), s.clocksRun ∧ s.traceToT1 = true ∧ s.marshal ≠ .updating ∧ s.awake = true ∧ s.obj Obj.t1State = 2 ∧ s.traceBuf.length < 45 ∧ (∀ r ∈ s.traceBuf.head?, s.now < r.kept + 1000000)) ∧
    (∃ (s : State) (ch : Fin 4), s.clocksRun ∧ s.reportDue ch = true ∧ s.atEdge ch = true) ∧
    (∃ (s : State) (ch : Fin 4), s.clocksRun ∧ ((s.reportDue ch = false ∨ s.atEdge ch = false))) :=
  ⟨⟨tk 20 (flt 10 up0), 0, by decide +kernel⟩,
   ⟨tk 21 (flt 10 up0), 0, by decide +kernel⟩,
   ⟨tk 2048 (up0.setObj Obj.t1AsState 2), by decide +kernel⟩,
   ⟨up0, by decide +kernel⟩,
   ⟨{ tr1 (List.replicate 46 rec1) with now := 5 }, _, by decide +kernel, rfl, by decide +kernel⟩,
   ⟨tr1 [], by decide +kernel⟩,
   ⟨obs (fun o => { o with ticks := 9, target := 9 }) up0, 0, by decide +kernel⟩,
   ⟨up0, 0, by decide +kernel⟩⟩
theorem witness_TraceReportsAndRestore_8 :
    (∃ (s : State) (who : Req) (ch : Fin 4) (v : Nat), s.serves' who (Obj.splitClear ch)) ∧
    (∃ (s : State) (who : Req) (ch : Fin 4) (v : Nat), s.serves' who (Obj.splitClear ch) ∧ v ≠ 1) ∧
    (∃ (s : State) (who : Req) (b : List Byte), s.serves' who Obj.restoreWrite ∧ b.length ≠ 304) ∧
    (∃ (s : State) (who : Req) (b : List Byte), s.serves' who Obj.restoreWrite ∧ b.length = 304 ∧ s.marshal = .running ∧ restoreShape b = false) ∧
    (∃ (s : State) (who : Req) (b : List Byte) (i : Nat) (c : Nat), s.serves' who Obj.restoreWrite ∧ b.length = 304 ∧ s.marshal = .running ∧ restoreShape b = true ∧ i < field b 6 2 ∧ (∀ j < i, entryCode b j = rcOk) ∧ entryCode b i = c ∧ c ≠ rcOk) ∧
    (∃ (s : State) (who : Req) (b : List Byte) (i : Nat), s.serves' who Obj.restoreWrite ∧ b.length = 304 ∧ s.marshal = .running ∧ restoreShape b = true ∧ (∀ j < field b 6 2, entryCode b j = rcOk) ∧ i < field b 6 2 ∧ s.valueBad ((upto (field b 6 2)).map (restoreEntry b)) (restoreEntry b i).key = true) ∧
    (∃ (s : State) (who : Req) (b : List Byte), s.serves' who Obj.restoreWrite ∧ b.length = 304 ∧ s.marshal ≠ .running) ∧
    (∃ (s : State) (who : Req) (b : List Byte), s.serves' who Obj.restoreWrite ∧ b.length = 304 ∧ s.marshal = .running ∧ restoreShape b = true ∧ (∀ j < field b 6 2, entryCode b j = rcOk ∧ s.valueBad ((upto (field b 6 2)).map (restoreEntry b)) (restoreEntry b j).key = false)) :=
  ⟨⟨up0, (.fn 0), 0, 1, by decide +kernel⟩,
   ⟨up0, (.fn 0), 0, 2, by decide +kernel⟩,
   ⟨up0, (.fn 0), [1], by decide +kernel⟩,
   ⟨up0, (.fn 0), List.replicate 304 0, by decide +kernel⟩,
   ⟨up0, (.fn 0), rst 0x700000 4 0, 0, entryCode (rst 0x700000 4 0) 0, by decide +kernel⟩,
   ⟨up0, (.fn 0), rst Obj.entryMode 1 2, 0, by decide +kernel⟩,
   ⟨{ up0 with marshal := .loading }, (.fn 0), List.replicate 304 0, by decide +kernel⟩,
   ⟨up0, (.fn 0), rst Obj.t1Netmask 4 77, by decide +kernel⟩⟩
theorem witness_IllegalRegisterFaults : ∃ (s : State) (g : GroupRef) (ty : IntTy) (sat : Bool) (d : Nat) (a : Nat) (b : Nat) (c : Nat) (size : Nat) (align : Nat) (rank : Nat) (e : Ecc) (names : List (Nat × Nat)) (i : Instr) (r : Run) (bk : Block) (x : Group) (cx : Context), s.clocksRun ∧ s.findGroup g = some (r, bk, x) ∧ (x.wait = .none ∧ x.mask ≠ 0 ∧ (names, i) ∈ [([(d, tyRegs ty), (a, tyRegs ty), (b, tyRegs ty)], Instr.intAdd g ty sat d a b), ([(d, tyRegs ty), (a, tyRegs ty), (b, tyRegs ty), (c, tyRegs ty)], Instr.intMultiplyAdd g ty sat d a b c), ([(d, accessRegs size), (a, 2)], Instr.ld g .global size d a rank e), ([(a, 2), (b, 2), (d, 1)], Instr.appendG g a b d e), ([(d, 2)], Instr.alloc g d size align e), ([(a, 2)], Instr.free g a e)] ∧ regsOk r names = false ∧ r.cls ≠ 0 ∧ look s.ctxs r.ctx = some cx ∧ cx.state = .active) :=
  ⟨wk0, gr, .i32, false, 99, 0, 1, 2, 4, 16, 0, { corrected := [], bad := none, via := .mem }, [(99, tyRegs .i32), (0, tyRegs .i32), (1, tyRegs .i32)], Instr.intAdd gr .i32 false 99 0 1, _, _, _, ctx0, by decide +kernel, rfl, by decide +kernel⟩
theorem witness_ResetState_12 : ∃ (c : Fin 4), c ≠ 0 :=
  ⟨1, by decide +kernel⟩
theorem witness_EveryStepKeepsTheStateCanonical : ∃ (s : State) (t : State), s.canonical ∧ step s = .next t :=
  ⟨{ run0 with pending := [.resetAssert 999] }, run0, (by unfold State.canonical; decide +kernel), rfl⟩
theorem witness_AttentionLogIsAcknowledged :
    (∃ (s : State) (u : State) (who : Req) (v : Nat), u = s.endCycle ∧ (u.serves' who Obj.attnAck ∧ (u.logOf (reqLog who)).acked ≤ v ∧ v ≤ (u.logOf (reqLog who)).newest)) ∧
    (∃ (s : State) (u : State) (who : Req) (v : Nat), u = s.endCycle ∧ (u.serves' who Obj.attnAck ∧ ((v < (u.logOf (reqLog who)).acked ∨ (u.logOf (reqLog who)).newest < v)))) ∧
    (∃ (p : Nat × AttnEntry) (l : List (Nat × AttnEntry)), l.Pairwise (fun a b => attnBefore b.2 a.2 = false)) ∧
    (∃ (s : State), s.raised = []) ∧
    (∃ (s : State) (e : AttnEntry), s.raised = [(0, e)]) ∧
    (∃ (l : AttnLog) (n : Nat) (e : AttnEntry), 1 ≤ n) ∧
    (∃ (s : State) (f : Nat) (code : Nat), code < 16) ∧
    (∃ (s : State) (f : Nat) (n : Nat) (j : Nat) (e : AttnEntry), (s.logOf f).entries.find? (fun x => x.seq % logSize f = n) = some e ∧ j < 24) :=
  ⟨⟨att, att.endCycle, (.fn 0), 3, rfl, by decide +kernel⟩,
   ⟨att, att.endCycle, (.fn 0), 7, rfl, by decide +kernel⟩,
   ⟨(0, ae), [(0, { ae with code := 2 })], by decide +kernel⟩,
   ⟨att, by decide +kernel⟩,
   ⟨{ att with raised := [(0, ae)] }, ae, by decide +kernel⟩,
   ⟨al3, 2, ae, by decide +kernel⟩,
   ⟨att, 0, 3, by decide +kernel⟩,
   ⟨{ att with devLog := { att.devLog with entries := [ae] } }, 0, 5, 2, ae, by decide +kernel⟩⟩
theorem witness_DivergenceInAMatrixRegionFaults :
    (∃ (s : State) (g : GroupRef) (p : Nat) (target : Nat) (reconv : Nat) (x : Group), (s.clocksRun ∧ s.issues g [(p, 1)] = true) ∧ s.group g = some x ∧ ((∃ l ∈ x.active, x.reg l p ≠ 0) ∧ (∃ l ∈ x.active, x.reg l p = 0))) ∧
    (∃ (s : State) (g : GroupRef) (r : Nat) (reconv : Nat) (l : Nat) (m : Nat) (x : Group), (s.clocksRun ∧ s.issues g [(r, 2)] = true) ∧ s.group g = some x ∧ (l ∈ x.active ∧ m ∈ x.active ∧ x.pair l r ≠ x.pair m r)) ∧
    (∃ (s : State) (g : GroupRef) (r : Nat) (reconv : Nat) (l : Nat) (m : Nat) (x : Group), (s.clocksRun ∧ s.issues g [(r, 2)] = true) ∧ s.group g = some x ∧ (l ∈ x.active ∧ m ∈ x.active ∧ x.pair l r ≠ x.pair m r)) ∧
    (∃ (s : State) (g : GroupRef) (x : Group), (s.clocksRun ∧ s.issues g [] = true) ∧ s.group g = some x ∧ x.exited ||| x.mask ≠ 0xFFFFFFFF) ∧
    (∃ (s : State) (g : GroupRef) (x : Group), (s.clocksRun ∧ s.issues g [] = true) ∧ s.group g = some x ∧ x.exited ||| x.mask = 0xFFFFFFFF) :=
  ⟨⟨mxg [(4, 1), (256 + 4, 0)], gr, 4, 0x40000000, 0x40000000, _, by decide +kernel, rfl, by decide +kernel⟩,
   ⟨mxg [(4, 1), (256 + 4, 0)], gr, 4, 0x40000000, 0, 1, _, by decide +kernel, rfl, by decide +kernel⟩,
   ⟨mxg [(4, 1), (256 + 4, 0)], gr, 4, 0x40000000, 0, 1, _, by decide +kernel, rfl, by decide +kernel⟩,
   ⟨onGrp (fun x => { x with exited := 0 }) wk0, gr, _, by decide +kernel, rfl, by decide +kernel⟩,
   ⟨wk0, gr, _, by decide +kernel, rfl, by decide +kernel⟩⟩
theorem witness_ResetPulse :
    (∃ (s : State) (n : Nat), s.clocksRun ∧ 1000 ≤ n ∧ s.released = true) ∧
    (∃ (s : State) (n : Nat), s.clocksRun ∧ ((n < 1000 ∨ s.released = false))) ∧
    (∃ (s : State) (src : Nat) (board : Nat) (se : Bool) (t1 : Bool), s.clocksRun ∧ s.released = false) ∧
    (∃ (s : State) (src : Nat) (board : Nat) (se : Bool) (t1 : Bool), s.clocksRun ∧ s.released = true) ∧
    (∃ (s : State), s.clocksRun ∧ s.released = false ∧ s.recovered = false) :=
  ⟨⟨wk0, 1000, by decide +kernel⟩,
   ⟨wk0, 999, by decide +kernel⟩,
   ⟨State.reset, 1, 2, true, false, by decide +kernel⟩,
   ⟨wk0, 1, 2, true, false, by decide +kernel⟩,
   ⟨State.reset, by decide +kernel⟩⟩
theorem witness_ImportedLines :
    (∃ (s : State) (p : KlPort) (tag : Nat) (a : Nat) (mask : Nat) (d : List Byte) (relay : Bool), s.clocksRun ∧ s.portUp (KlPort.num p) = true ∧ a % 64 = 0 ∧ a + 64 ≤ devEnd ∧ s.memUp (chanOf a) = true ∧ d.length = 64 ∧ (((relay = false ∧ importsLine (s.link (KlPort.num p)).windows a = true) ∨ (relay = true ∧ p = .kl0 ∧ s.obj Obj.pairRole = 2 ∧ bit (s.obj Obj.pairCtrl) 29 = true ∧ chanOf a ∈ s.portSet 0 ∧ ∀ m ∈ s.portSet 0, (s.picture m).newest = none)))) ∧
    (∃ (s : State) (p : KlPort) (tag : Nat) (a : Nat) (mask : Nat) (d : List Byte), s.clocksRun ∧ s.portUp (KlPort.num p) = true ∧ a % 64 = 0 ∧ importsLine (s.link (KlPort.num p)).windows a = false ∧ (∀ x ∈ (s.link (KlPort.num p)).rxPubs, ∀ y ∈ (s.link (KlPort.num p)).rxPubs, x.tag = tag → y.tag = tag → x.dropped = y.dropped)) :=
  ⟨⟨(klu.setObj (Obj.memState 0) 2).setLink 0 { klu.link 0 with windows := winE }, .kl0, 1, 0x40000040, 5, List.replicate 64 7, false, by decide +kernel⟩,
   ⟨klu.setLink 0 { klu.link 0 with rxPubs := [⟨1, [], false, 1, true⟩] }, .kl0, 1, 0x40000040, 5, List.replicate 64 7, by decide +kernel⟩⟩

end W10

namespace W11

theorem allIsP {α β : Type} [DecidableEq α] [DecidableEq β] {L : List Nat} {e : Nat → Except Nat α} {v : Nat → α} {e' : Nat → Except Nat β} {w : Nat → β}
    (h : ∀ l ∈ L, okIs (e l) (v l) = true ∧ okIs (e' l) (w l) = true) : ∀ l ∈ L, e l = .ok (v l) ∧ e' l = .ok (w l) :=
  fun l hl => ⟨okIs_eq (h l hl).1, okIs_eq (h l hl).2⟩
def tsurf : List Byte := toLE 8 0x40004000 ++ toLE 8 0 ++ toLE 2 4 ++ toLE 2 4 ++ bytes [0, 0, 0, 0] ++ toLE 4 64 ++ List.replicate 20 0
def txs : State := withMem 0x40003000 tsurf (onGrp (fun g => { g with mask := 1, exited := 0xFFFFFFFE, regs := [(0, 0x40003000)] }) wk0)
def tsf : Surf := { base := 0x40004000, meta' := 0, width := 4, height := 4, fmt := 0, block := false, pitch := 64, clear := 0 }
def txr : Run := (txs.runs.headD (0, rn0)).2
theorem witness_QueriesAndSearches : ∃ (s : State) (ecc : Ecc) (g : GroupRef) (d : Nat) (sr : Nat) (u : Nat) (v : Nat) (smp : Nat) (r : Run) (b : Block) (x : Group) (sf : Nat → Surf) (c : Nat → List Nat), (s.clocksRun ∧ s.issues g [(d, 4), (sr, 2), (u, 1), (v, 1)] = true) ∧ s.findGroup g = some (r, b, x) ∧ (ecc.bad = none ∧ smp < 32 ∧ bits smp 2 1 ≠ 3 ∧ bits smp 4 3 ≠ 3) ∧ (∀ l ∈ x.active, s.surfAt r (x.pair l sr) (some b.core) = .ok (sf l) ∧ s.texSample r b.core (sf l) smp (signed 32 (x.reg l u).toNat) (signed 32 (x.reg l v).toNat) = .ok (c l)) :=
  ⟨txs, { corrected := [], bad := none, via := .mem }, gr, 16, 0, 4, 5, 0, _, _, _, fun _ => tsf, fun _ => okD (txs.texSample txr 0 tsf 0 0 0) [], by decide +kernel, rfl, by decide +kernel, (allIsP (by decide +kernel))⟩

end W11

/-! ## Results, worked out from the rules and the worked examples of the specification -/

/-- The state after a command. -/
def after (i : Instr) (s : State) : State := match exec i s with | .next t => t | _ => s

/-- Register `r` of lane 0 of the group of `wk0`. -/
def lane0 (r : Nat) (s : State) : Option Word32 := (s.group gr).map (fun x => x.reg 0 r)

/-- R91, worked example: block 0 of the super-resolution layer. -/
theorem test_dotProduct_example : blockDot ([100, -37, 5] ++ List.replicate 29 0) ([64, -3, 127] ++ List.replicate 29 0) = 7146 := by decide +kernel
/-- R91, worked example: block 0 shifts left by 38 and block 1 right by 12, with the tie to even. -/
theorem test_align_example : align 7146 (-13) (-51) = 1964277523021824 ∧ align (-10240) (-63) (-51) = -2 ∧ align (-10240) (-63) (-50) = -1 := by decide +kernel
/-- FIPS 202: the SHA3-256 digest of the three bytes "abc". -/
theorem test_sha3_abc : leNat (sha3 [0x61, 0x62, 0x63]).reverse = 0x3A985DA74FE225B2045C172D6BD390BD855F086E3E9D525B46BFE24511431532 := by decide +kernel
/-- R86: an I32 sum wraps, and in the saturating form clamps. -/
theorem test_intAdd_wraps : lane0 8 (after (.intAdd gr .i32 false 8 0 1) (one [(0, 0x7FFFFFFF), (1, 1)] wk0)) = some 0x80000000 := by decide +kernel
theorem test_intAdd_clamps : lane0 8 (after (.intAdd gr .i32 true 8 0 1) (one [(0, 0x7FFFFFFF), (1, 1)] wk0)) = some 0x7FFFFFFF := by decide +kernel
/-- R86: the difference of the least I8 and 1 clamps to -128, and wraps to 127. -/
theorem test_intSubtract_i8 : lane0 8 (after (.intSubtract gr .i8 true 8 0 1) (one [(0, 0x80), (1, 1)] wk0)) = some 0xFFFFFF80 ∧
    lane0 8 (after (.intSubtract gr .i8 false 8 0 1) (one [(0, 0x80), (1, 1)] wk0)) = some 0x7F := by decide +kernel
/-- R118: an I64 lies in a register pair; (2 ^ 32 + 1) times itself is 2 ^ 33 + 1 modulo 2 ^ 64. -/
theorem test_intMultiply_i64 : lane0 8 (after (.intMultiply gr .i64 false 8 0 2) (one [(0, 1), (1, 1), (2, 1), (3, 1)] wk0)) = some 1 ∧
    lane0 9 (after (.intMultiply gr .i64 false 8 0 2) (one [(0, 1), (1, 1), (2, 1), (3, 1)] wk0)) = some 2 := by decide +kernel
/-- R118: an arithmetic right shift keeps the sign; a destination that is also a source is read first. -/
theorem test_intShift_sign : lane0 0 (after (.intShift gr .i32 .rightArith 0 0 1) (one [(0, 0x80000000), (1, 4)] wk0)) = some 0xF8000000 := by decide +kernel
/-- R7: a store and a load of two bytes are little-endian. -/
theorem test_store_order : (match (after (.st gr .blockLocal 2 1 0 0) (one [(0, 0x40), (1, 0x1234)]
    (onRun (fun r => { r with body := r.body.take 0x1E ++ toLE 2 32 ++ r.body.drop 0x20 }) wk0))).findGroup gr with
    | some (_, b, _) => b.blsRead 0x40 2 | none => []) = [0x34, 0x12] := by decide +kernel
/-- R57: an edge adds one to the tick number of its Pacer alone. -/
theorem test_tickEdge_number : (after (.tickEdge 1 0x073A0000 none ecc0) run0).tick 1 = 1 ∧ (after (.tickEdge 1 0x073A0000 none ecc0) run0).tick 0 = 0 := by decide +kernel
/-- R541: a pulse of 999 ns does nothing and one of 1,000 ns resets. -/
theorem test_resetAssert_length : (after (.resetAssert 999) up0).marshal = .running ∧ (after (.resetAssert 1000) up0).marshal = .rom := by decide +kernel
/-- R464, Table Power objects: WAKE_MASK reads 9 after reset and a write of it is read back. -/
theorem test_object_write : run0.obj Obj.wakeMask = 9 ∧
    (after (.genericObjectWrite (.fn 0) (Obj.wakeMask / 256) (Obj.wakeMask % 256) (toLE 4 5)) run0).obj Obj.wakeMask = 5 := by decide +kernel
/-- IEEE 802.3: the CRC-32 of the nine characters "123456789" (R280). -/
theorem test_crc32 : crc32 (upto 9 |>.map (fun i => BitVec.ofNat 8 (0x31 + i))) = 0xCBF43926 := by decide +kernel
/-- R524, R525, worked example: the restore block of a 4K120 television. -/
def tvBlock : List Byte :=
  toLE 4 0x54534552 ++ toLE 2 1 ++ toLE 2 7 ++ List.replicate 56 0 ++
  bytes [0x00, 0x50, 0x0D, 0x00, 0x04, 0x00, 0x00, 0x00, 0xC8, 0xAF, 0, 0, 0, 0, 0, 0, 0x00, 0x51, 0x06, 0x00, 0x04, 0x00, 0x00, 0x00, 0x40, 0x1F, 0, 0, 0, 0, 0, 0,
    0x00, 0x52, 0x06, 0x00, 0x04, 0x00, 0x00, 0x00, 0x40, 0x1F, 0, 0, 0, 0, 0, 0, 0x00, 0x53, 0x06, 0x00, 0x04, 0x00, 0x00, 0x00, 0x94, 0x11, 0, 0, 0, 0, 0, 0,
    0x00, 0x54, 0x06, 0x00, 0x04, 0x00, 0x00, 0x00, 0x94, 0x11, 0, 0, 0, 0, 0, 0, 0x00, 0x50, 0x03, 0x00, 0x01, 0x00, 0x00, 0x00, 0x01, 0, 0, 0, 0, 0, 0, 0,
    0x00, 0x50, 0x04, 0x00, 0x04, 0x00, 0x00, 0x00, 0x19, 0, 0, 0, 0, 0, 0, 0] ++ List.replicate 128 0
def tvOk (t : State) : Bool :=
  t.reply = rcOk && t.obj Obj.restoreStatus = 0x10FF && t.obj Obj.packageLimit = 45000 && t.obj (Obj.chBudget 1) = 8000 &&
  t.obj (Obj.chBudget 3) = 4500 && t.obj Obj.entryMode = 1 && t.obj Obj.wakeMask = 0x19
theorem test_restore_example : tvBlock.length = 304 ∧ tvOk (after (.restoreWrite (.fn 0) tvBlock) up0) = true := by decide +kernel
/-- R523, worked example: PACKAGE_LIMIT 45,000 mW written alone after reset is refused, as 65,000 + 20,000 exceeds it. -/
theorem test_packageLimit_alone : (after (.packageLimitWrite (.fn 0) 45000) up0).reply = rcRange := by decide +kernel

end Sys2Proof.Tests
end

section
/-! Attachment of the video inputs and Kister Link ports (R28 to R30): what ATTACH_APPLY takes and refuses, and what its
effect changes and leaves. -/

namespace Sys2Proof.Machine

/-! ## Commands that act, and requests that are served -/

/-- A command that acts while the clocks run answers its effect. -/
theorem does_of_clocksRun {i : Instr} {s : State} {f : State → State} {p : State → Prop}
    (hi : exec i s = clocked s f) (hs : s.clocksRun) (hp : p (f s)) : Does i s p :=
  ⟨f s, hi.trans (clocked_next s f hs), hp⟩

/-- A request that is served comes to its object's own rule (R352). -/
theorem command_served {s : State} {who : Req} {k : Nat} (f : State → State) (h : s.serves' who k) :
    s.command who k f = f s := by
  obtain ⟨-, hwait, hgate, hbars⟩ := h
  simp [State.command, hwait, hgate, rcOk, hbars]

/-! ## ATTACH_APPLY (R30) -/

theorem exec_attachApply (who : Req) (u : AttachUnit) (T : Nat) (s : State) :
    exec (.attachApply who u T) s = clocked s (opAttachApply who u T) := rfl

/-- A staged set is one that ATTACH_APPLY takes for tick `T` (R30): none, a single channel, or a gang in force then. -/
def State.attachable (s : State) (T v : Nat) : Prop :=
  v < 16 ∧ (v = 0 ∨ (maskChans v).length = 1 ∨ s.gangAt T (maskChans v) = true)

/-- The channels of a unit's owner set and of a new one, which a change of attachment concerns. -/
def State.attachSets (s : State) (u : AttachUnit) (v : Nat) : List (Fin 4) :=
  maskChans (s.obj (attachOf u).owner) ++ maskChans v

theorem opAttachApply_refuses_set {s : State} {who : Req} {u : AttachUnit} {T : Nat}
    (h : s.serves' who (attachOf u).apply) (hset : ¬ s.attachable T (s.obj (attachOf u).next)) :
    opAttachApply who u T s = s.refuse (attachOf u).apply rcRange := by
  have hbad : 16 ≤ s.obj (attachOf u).next ∨ (s.obj (attachOf u).next ≠ 0 ∧
      (maskChans (s.obj (attachOf u).next)).length ≠ 1 ∧ s.gangAt T (maskChans (s.obj (attachOf u).next)) = false) := by
    simpa [State.attachable, Decidable.imp_iff_not_or] using hset
  unfold opAttachApply
  rw [command_served _ h]
  refine if_pos ?_
  rcases hbad with hbig | ⟨hzero, hone, hgang⟩
  · simp [hbig]
  · simp [hzero, hone, hgang]

theorem opAttachApply_accepts {s : State} {who : Req} {u : AttachUnit} {T : Nat}
    (h : s.serves' who (attachOf u).apply) (hset : s.attachable T (s.obj (attachOf u).next))
    (hpace : ∀ c ∈ s.attachSets u (s.obj (attachOf u).next),
      s.paceOf c = s.rootOf (s.attachSets u (s.obj (attachOf u).next)))
    (hT : s.tick (s.rootOf (s.attachSets u (s.obj (attachOf u).next))) + 2 ≤ T)
    (htest : s.underTest (attachOf u) = false) (himage : (s.unitImage (attachOf u).unit).apply = none)
    (hpair : bits (s.obj Obj.pairCtrl) 31 30 = 0) :
    opAttachApply who u T s = ({ s with attach := s.attach.set (attachOf u).slot (some (T, s.obj (attachOf u).next)) } :
      State).accept (attachOf u).apply := by
  obtain ⟨hlt, hkind⟩ := hset
  have hall : (s.attachSets u (s.obj (attachOf u).next)).all
      (fun c => s.paceOf c = s.rootOf (s.attachSets u (s.obj (attachOf u).next))) = true := by simpa using hpace
  unfold State.attachSets at hall hT
  unfold opAttachApply
  rw [command_served _ h]
  refine (if_neg ?_).trans (if_neg ?_)
  · rw [hall]
    have hbig : ¬ 16 ≤ s.obj (attachOf u).next := by omega
    rcases hkind with hzero | hone | hgang
    · simp [hzero] at hT ⊢; omega
    · simp [hbig, hone]; omega
    · simp [hbig, hgang]; omega
  · simp [htest, himage, hpair]

/-! ## ATTACH_EFFECT (R28, R30) -/

theorem exec_attachEffect (u : AttachUnit) (s : State) : exec (.attachEffect u) s = clocked s (attachEffect u) := rfl

/-- A waiting change of attachment of unit `u` to the set `v` is taken at the present edge: its tick has come, and the gang
changes and APPLYs of the edge have been taken. -/
structure State.AttachTaken (s : State) (u : AttachUnit) (T v : Nat) : Prop where
  waits : s.attach.get (attachOf u).slot = some (T, v)
  tick : T ≤ s.tick (s.rootOf (s.attachSets u v))
  gangs : (s.attachSets u v).any s.gangDue = false
  applies : (s.attachSets u v).any s.applyDue = false

/-- The change of attachment is taken from those that wait. -/
def State.dropAttach (s : State) (u : AttachUnit) : State := { s with attach := s.attach.set (attachOf u).slot none }

@[simp] theorem State.dropAttach_attach (s : State) (u : AttachUnit) :
    (s.dropAttach u).attach = s.attach.set (attachOf u).slot none := rfl
@[simp] theorem State.dropAttach_mem (s : State) (u : AttachUnit) : (s.dropAttach u).mem = s.mem := rfl
@[simp] theorem State.dropAttach_pacers (s : State) (u : AttachUnit) : (s.dropAttach u).pacers = s.pacers := rfl
@[simp] theorem obj_dropAttach (s : State) (u : AttachUnit) (k : Nat) : (s.dropAttach u).obj k = s.obj k := rfl

/-- The unit of `attachOf u` passes to a new owner set. -/
def State.passUnit (s : State) (u : AttachUnit) (v : Nat) : State :=
  if (attachOf u).port then s.passPort (attachOf u).i v else s.passInput (attachOf u).i v

/-- A change of attachment to what is no owner set, or between sets that share no edge, leaves the unit where it is. -/
theorem attachEffect_stays {s : State} {u : AttachUnit} {T v : Nat} (h : s.AttachTaken u T v)
    (hno : (s.isOwner v = false ∧ (s.attachSets u v).all s.atEdge = true) ∨ s.oneEdge (s.attachSets u v) = false) :
    attachEffect u s = (s.dropAttach u).ended (attachOf u).apply 0 3 := by
  obtain ⟨hwaits, htick, hgangs, happlies⟩ := h
  unfold State.attachSets at *
  unfold attachEffect
  simp only [hwaits, hgangs, happlies, Nat.not_lt.mpr htick]
  rcases hno with ⟨howner, hedge⟩ | hshared
  · simp [howner, hedge, State.dropAttach]
  · simp [hshared, State.dropAttach]

/-- A change of attachment to an owner set that shares the edge is done. -/
theorem attachEffect_passes {s : State} {u : AttachUnit} {T v : Nat} (h : s.AttachTaken u T v) (howner : s.isOwner v = true)
    (hshared : s.oneEdge (s.attachSets u v) = true) (hedge : (s.attachSets u v).all s.atEdge = true) :
    attachEffect u s = (((s.dropAttach u).passUnit u v).lateRelease).ended (attachOf u).apply 0 2 := by
  obtain ⟨hwaits, htick, hgangs, happlies⟩ := h
  unfold State.attachSets at *
  unfold attachEffect
  simp only [hwaits, hgangs, happlies, Nat.not_lt.mpr htick, howner, hshared, hedge]
  simp [State.dropAttach, State.passUnit]

/-! ### What late releases leave alone (R471) -/

@[simp] theorem State.lateRelease_attach (s : State) : s.lateRelease.attach = s.attach := rfl
@[simp] theorem State.lateRelease_links (s : State) : s.lateRelease.links = s.links := rfl
@[simp] theorem State.lateRelease_pictures (s : State) : s.lateRelease.pictures = s.pictures := rfl
@[simp] theorem State.lateRelease_mem (s : State) : s.lateRelease.mem = s.mem := rfl
@[simp] theorem State.lateRelease_pacers (s : State) : s.lateRelease.pacers = s.pacers := rfl

theorem obj_lateRelease_other (s : State) {k : Nat} (h : k ≠ Obj.padLatched) : s.lateRelease.obj k = s.obj k :=
  obj_setObj_other s _ h

/-! ### A port passes (R30) -/

/-- The tables of a port are disabled. -/
def State.noTables (s : State) (i : Nat) : State :=
  s.setLink i { s.link i with windows := [], batons := [], pending := none }

@[simp] theorem link_noTables (s : State) (i : Nat) :
    (s.noTables i).link i = { s.link i with windows := [], batons := [], pending := none } := by
  simp [State.noTables, State.setLink, State.link]

theorem passPort_attached (s : State) (i : Nat) {v : Nat} (hv : v ≠ 0) :
    s.passPort i v = (s.noTables i).setObj (Obj.klAttachOwner i) v ∨
    s.passPort i v = ((s.noTables i).setObj (Obj.klAttachOwner i) v).setObj (Obj.klState i) 1 := by
  simp only [State.passPort, decide_eq_false hv, Bool.false_and, if_neg hv, if_neg Bool.false_ne_true]
  split
  · exact .inr rfl
  · exact .inl rfl

/-- A port that passes to channels changes its tables and objects only. -/
theorem passPort_frame (s : State) (i : Nat) {v : Nat} (hv : v ≠ 0) :
    ∃ o, s.passPort i v = { s.noTables i with objs := o } := by
  rcases passPort_attached s i hv with h | h
  · exact ⟨_, h⟩
  · exact ⟨_, h⟩

theorem obj_passPort (s : State) (i : Nat) {v k : Nat} (hv : v ≠ 0) (hk : k ≠ Obj.klState i) :
    (s.passPort i v).obj k = if k = Obj.klAttachOwner i then v else s.obj k := by
  rcases passPort_attached s i hv with h | h
  · rw [h]; exact obj_setObj _ _ _ _
  · rw [h, obj_setObj_other _ _ hk]; exact obj_setObj _ _ _ _

/-! ### A video input passes (R30) -/

/-- The frame that channel `m` captures is not completed. -/
def State.stopCapture (s : State) (m : Fin 4) : State := s.setPicture m { s.picture m with capturing := none }

/-- The frames that the channels of a list capture are not completed. -/
def State.stopCaptures (s : State) (l : List (Fin 4)) : State := forEach l State.stopCapture s

theorem stopCaptures_cons (s : State) (a : Fin 4) (l : List (Fin 4)) :
    s.stopCaptures (a :: l) = (s.stopCapture a).stopCaptures l := rfl

theorem stopCaptures_frame (l : List (Fin 4)) (s : State) : ∃ p, s.stopCaptures l = { s with pictures := p } := by
  refine forEach_keeps (P := fun t => ∃ p, t = { s with pictures := p }) _ ?_ l s ⟨_, rfl⟩
  rintro _ m ⟨p, rfl⟩
  exact ⟨_, rfl⟩

@[simp] theorem capturing_stopCapture_self (s : State) (m : Fin 4) :
    ((s.stopCapture m).pictures.get m).capturing = none := by
  simp [State.stopCapture, State.setPicture]

theorem capturing_stopCapture {s : State} {m : Fin 4} (a : Fin 4) (h : (s.pictures.get m).capturing = none) :
    ((s.stopCapture a).pictures.get m).capturing = none := by
  by_cases hm : m = a
  · rw [hm, capturing_stopCapture_self]
  · rwa [State.stopCapture, State.setPicture, per4_get_set_other _ _ hm]

theorem capturing_stopCaptures {m : Fin 4} (l : List (Fin 4)) (hm : m ∈ l) :
    ∀ s : State, ((s.stopCaptures l).pictures.get m).capturing = none := by
  induction l with
  | nil => cases hm
  | cons a l ih =>
    intro s
    rw [stopCaptures_cons]
    rcases List.mem_cons.mp hm with rfl | hl
    · exact forEach_keeps (P := fun t => (t.pictures.get m).capturing = none) State.stopCapture
        (fun t b ht => capturing_stopCapture b ht) l _ (capturing_stopCapture_self s m)
    · exact ih hl (s.stopCapture a)

theorem passInput_attached (s : State) (i : Nat) {v : Nat} (hv : v ≠ 0) :
    s.passInput i v = (s.stopCaptures (s.inputSet i)).setObj (Obj.attachOwner i) v ∨
    s.passInput i v = ((s.stopCaptures (s.inputSet i)).setObj (Obj.attachOwner i) v).setObj (Obj.dpinState i) 1 := by
  simp only [State.passInput, hv, if_false]
  split
  · exact .inr rfl
  · exact .inl rfl

/-- An input that passes to channels changes what it captures and objects only. -/
theorem passInput_frame (s : State) (i : Nat) {v : Nat} (hv : v ≠ 0) :
    ∃ o, s.passInput i v = { s.stopCaptures (s.inputSet i) with objs := o } := by
  rcases passInput_attached s i hv with h | h
  · exact ⟨_, h⟩
  · exact ⟨_, h⟩

theorem obj_passInput (s : State) (i : Nat) {v k : Nat} (hv : v ≠ 0) (hk : k ≠ Obj.dpinState i) :
    (s.passInput i v).obj k = if k = Obj.attachOwner i then v else s.obj k := by
  obtain ⟨p, hp⟩ := stopCaptures_frame (s.inputSet i) s
  have howner : ((s.stopCaptures (s.inputSet i)).setObj (Obj.attachOwner i) v).obj k =
      if k = Obj.attachOwner i then v else s.obj k := by
    rw [obj_setObj, hp]; rfl
  rcases passInput_attached s i hv with h | h
  · rw [h, howner]
  · rw [h, obj_setObj_other _ _ hk, howner]

/-! ### The effect of a change of attachment to channels -/

/-- The object in which a unit tells its state: DPIN_STATE or KL_STATE. -/
def attachState : AttachUnit → Nat
  | .dpin0 => Obj.dpinState 0
  | .dpin1 => Obj.dpinState 1
  | .kl0 => Obj.klState 0
  | .kl1 => Obj.klState 1

/-- A unit that passes to channels changes objects, captures and tables only. -/
theorem passUnit_frame (s : State) (u : AttachUnit) {v : Nat} (hv : v ≠ 0) :
    ∃ o p l, s.passUnit u v = { s with objs := o, pictures := p, links := l } := by
  have hport (i : Nat) : ∃ o p l, s.passPort i v = { s with objs := o, pictures := p, links := l } := by
    obtain ⟨o, ho⟩ := passPort_frame s i hv
    exact ⟨o, _, _, ho⟩
  have hinput (i : Nat) : ∃ o p l, s.passInput i v = { s with objs := o, pictures := p, links := l } := by
    obtain ⟨o, ho⟩ := passInput_frame s i hv
    obtain ⟨p, hp⟩ := stopCaptures_frame (s.inputSet i) s
    exact ⟨o, p, _, by rw [ho, hp]⟩
  cases u with
  | dpin0 => exact hinput 0
  | dpin1 => exact hinput 1
  | kl0 => exact hport 0
  | kl1 => exact hport 1

theorem obj_passUnit (s : State) (u : AttachUnit) {v k : Nat} (hv : v ≠ 0) (hk : k ≠ attachState u) :
    (s.passUnit u v).obj k = if k = (attachOf u).owner then v else s.obj k := by
  cases u with
  | dpin0 => exact obj_passInput s 0 hv hk
  | dpin1 => exact obj_passInput s 1 hv hk
  | kl0 => exact obj_passPort s 0 hv hk
  | kl1 => exact obj_passPort s 1 hv hk

/-- From `s` to `t` the unit `u` has passed to the owner set `v`: nothing waits for it any longer, its command is done, and
of the objects only its owner set, its state and the latched pads may differ. -/
structure State.Passed (s t : State) (u : AttachUnit) (v : Nat) : Prop where
  attach : t.attach = s.attach.set (attachOf u).slot none
  owner : t.obj (attachOf u).owner = v
  mem : t.mem = s.mem
  pacers : t.pacers = s.pacers
  status : look t.cmdStatus (attachOf u).apply = some (cmdWord 0 2)
  objs : sameObjsBut s t [(attachOf u).owner, attachState u, Obj.padLatched]

theorem passed_passUnit (s : State) (u : AttachUnit) {v : Nat} (hv : v ≠ 0) :
    s.Passed ((((s.dropAttach u).passUnit u v).lateRelease).ended (attachOf u).apply 0 2) u v := by
  obtain ⟨o, p, l, hpass⟩ := passUnit_frame (s.dropAttach u) u hv
  have hobj : ∀ k, k ≠ attachState u → k ≠ Obj.padLatched →
      ((((s.dropAttach u).passUnit u v).lateRelease).ended (attachOf u).apply 0 2).obj k =
        if k = (attachOf u).owner then v else s.obj k := by
    intro k hstate hpads
    rw [obj_ended, obj_lateRelease_other _ hpads, obj_passUnit _ u hv hstate, obj_dropAttach]
  refine { attach := ?_, owner := ?_, mem := ?_, pacers := ?_, status := look_ended _ _ _ _, objs := ?_ }
  · simp [hpass]
  · have hstate : (attachOf u).owner ≠ attachState u := by cases u <;> decide
    have hpads : (attachOf u).owner ≠ Obj.padLatched := by cases u <;> decide
    simpa using hobj _ hstate hpads
  · simp [hpass]
  · simp [hpass]
  · intro k hk
    simp only [List.mem_cons, List.not_mem_nil, or_false, not_or] at hk
    obtain ⟨howner, hstate, hpads⟩ := hk
    rw [hobj k hstate hpads, if_neg howner]

/-- The tables of a port that has passed to channels are disabled (R30). -/
theorem link_passUnit (s : State) {u : AttachUnit} (k e x : Nat) {v : Nat} (hu : (attachOf u).port = true) (hv : v ≠ 0) :
    (((s.passUnit u v).lateRelease).ended k e x).link (attachOf u).i =
      { s.link (attachOf u).i with windows := [], batons := [], pending := none } := by
  obtain ⟨o, ho⟩ := passPort_frame s (attachOf u).i hv
  rw [← link_noTables, State.passUnit, if_pos hu, ho]
  simp [State.link]

/-- No channel that an input has left goes on capturing its frame (R30). -/
theorem capturing_passUnit (s : State) {u : AttachUnit} (k e x : Nat) {v : Nat} (hu : (attachOf u).port = false) (hv : v ≠ 0)
    {m : Fin 4} (hm : m ∈ s.inputSet (attachOf u).i) :
    ((((s.passUnit u v).lateRelease).ended k e x).pictures.get m).capturing = none := by
  obtain ⟨o, ho⟩ := passInput_frame s (attachOf u).i hv
  rw [State.passUnit, if_neg (by simp [hu]), ho]
  simpa using capturing_stopCaptures (s.inputSet (attachOf u).i) hm s

/-! ### The obligation -/

/-- Settles O6. ATTACH_APPLY comes to its own check as the request is served; the effect passes the unit, by cases on whether
it is a port (its tables are disabled) or a video input (the captures of the old set end). -/
theorem attachmentChangesAtItsTick : Obligations.AttachmentChangesAtItsTick := by
  refine ⟨?accepts, ?refusesBits, ?refusesSet, ?stays, ?port, ?input⟩
  case accepts =>
    intro s who u T hserves hlt hkind hpace hT htest himage hpair
    exact does_of_clocksRun (exec_attachApply who u T s) hserves.1
      (opAttachApply_accepts hserves ⟨hlt, hkind⟩ hpace hT htest himage hpair)
  case refusesBits =>
    intro s who u T hserves hbig
    exact does_of_clocksRun (exec_attachApply who u T s) hserves.1
      (opAttachApply_refuses_set hserves fun hset => Nat.not_lt.mpr hbig hset.1)
  case refusesSet =>
    intro s who u T hserves hzero hone hgang
    refine does_of_clocksRun (exec_attachApply who u T s) hserves.1 (opAttachApply_refuses_set hserves ?_)
    rintro ⟨-, h0 | h1 | hg⟩
    · exact hzero h0
    · exact hone h1
    · exact Bool.false_ne_true (hgang.symm.trans hg)
  case stays =>
    intro s u T v hrun hwaits hT hgangs happlies hno
    exact does_of_clocksRun (exec_attachEffect u s) hrun (attachEffect_stays ⟨hwaits, hT, hgangs, happlies⟩ hno)
  case port =>
    intro s T v hrun hwaits hv howner hgangs happlies hshared hedge hT
    refine does_of_clocksRun (exec_attachEffect .kl1 s) hrun ?_
    have htaken : s.AttachTaken .kl1 T v := ⟨hwaits, hT, hgangs, happlies⟩
    rw [attachEffect_passes htaken howner hshared hedge]
    obtain ⟨hattach, howns, hmem, hpacers, hstatus, hobjs⟩ := passed_passUnit s .kl1 hv
    have hlink := link_passUnit (s.dropAttach .kl1) (u := .kl1) (attachOf .kl1).apply 0 2 rfl hv
    have hwindows := congrArg KlLink.windows hlink
    have hbatons := congrArg KlLink.batons hlink
    have hpending := congrArg KlLink.pending hlink
    exact ⟨hattach, howns, hwindows, hbatons, hpending, hmem, hpacers, hstatus, hobjs⟩
  case input =>
    intro s T v hrun hwaits hv howner hgangs happlies hshared hedge hT
    refine does_of_clocksRun (exec_attachEffect .dpin0 s) hrun ?_
    have htaken : s.AttachTaken .dpin0 T v := ⟨hwaits, hT, hgangs, happlies⟩
    rw [attachEffect_passes htaken howner hshared hedge]
    obtain ⟨hattach, howns, hmem, hpacers, hstatus, hobjs⟩ := passed_passUnit s .dpin0 hv
    have hcaptures (m : Fin 4) (hm : m ∈ s.inputSet 0) :=
      capturing_passUnit (s.dropAttach .dpin0) (u := .dpin0) (attachOf .dpin0).apply 0 2 rfl hv hm
    exact ⟨hattach, howns, hcaptures, hmem, hpacers, hstatus, hobjs⟩

end Sys2Proof.Machine
end

section
/-! The rules about one group of a run: what an instruction that issues finds (R116, R118), and what it finds of the group, its
block and its run after one of them has been put back. -/

namespace Sys2Proof.Machine

/-! ## Blocks of a run -/

/-- A block is found under its own index. -/
theorem index_of_block {r : Run} {n : Nat} {b : Block} (h : r.block n = some b) : b.index = n := by
  simpa using List.find?_some h

/-- What a run's blocks are after one is put back. -/
theorem block_setBlock (r : Run) (b : Block) (n : Nat) :
    (r.setBlock b).block n = (r.block n).map (fun x => if x.index = b.index then b else x) := by
  simp only [Run.block, Run.setBlock, List.find?_map]
  congr 2
  funext x
  by_cases h : x.index = b.index <;> simp [h]

/-- The block just put back is found. -/
theorem block_setBlock_self {r : Run} {b b' : Block} {n : Nat} (h : r.block n = some b) (hindex : b'.index = n) :
    (r.setBlock b').block n = some b' := by
  rw [block_setBlock, h, Option.map_some, index_of_block h, if_pos hindex.symm]

/-- Putting a block back leaves the others. -/
theorem block_setBlock_other (r : Run) (b' : Block) {n : Nat} (h : n ≠ b'.index) : (r.setBlock b').block n = r.block n := by
  rw [block_setBlock]
  cases hb : r.block n with
  | none => rfl
  | some b => rw [Option.map_some, index_of_block hb, if_neg h]

/-! ## Finding a group -/

/-- A group is found in its run and its block, where that has not committed. -/
theorem findGroup_iff {s : State} {g : GroupRef} {r : Run} {b : Block} {x : Group} : s.findGroup g = some (r, b, x) ↔
    look s.runs g.run = some r ∧ r.block g.block = some b ∧ b.committed = none ∧ b.groups[g.group]? = some x := by
  unfold State.findGroup
  cases hr : look s.runs g.run with
  | none => simp
  | some r' =>
    cases hb : r'.block g.block with
    | none =>
      simp only [hb, Option.some.injEq, false_iff, reduceCtorEq]
      rintro ⟨rfl, hb', -⟩
      simp [hb] at hb'
    | some b' =>
      by_cases hc : b'.committed = none
      · simp only [hb, hc, ne_eq, not_true_eq_false, if_false, Option.map_eq_some_iff, Prod.mk.injEq, Option.some.injEq]
        constructor
        · rintro ⟨x', hx, rfl, rfl, rfl⟩
          exact ⟨rfl, hb, hc, hx⟩
        · rintro ⟨rfl, hb', -, hx⟩
          obtain rfl := Option.some.inj (hb.symm.trans hb')
          exact ⟨x, hx, rfl, rfl, rfl⟩
      · simp only [hb, hc, ne_eq, not_false_eq_true, if_true, Option.some.injEq, false_iff, reduceCtorEq]
        rintro ⟨rfl, hb', hc', -⟩
        obtain rfl := Option.some.inj (hb.symm.trans hb')
        exact hc hc'

/-- The block of a group that is found is that of its reference. -/
theorem index_of_findGroup {s : State} {g : GroupRef} {r : Run} {b : Block} {x : Group} (h : s.findGroup g = some (r, b, x)) :
    b.index = g.block := by
  obtain ⟨-, hb, -, -⟩ := findGroup_iff.mp h
  exact index_of_block hb

/-- An instruction that a group issues has its effect (R116, R118). -/
theorem issue_of_issues {s : State} {g : GroupRef} {names : List (Nat × Nat)} {f : Run → Block → Group → State} {r : Run}
    {b : Block} {x : Group} (h : s.issues g names = true) (hfind : s.findGroup g = some (r, b, x)) :
    issue s g names f = f r b x := by
  simp only [State.issues, hfind, Bool.and_eq_true, decide_eq_true_eq] at h
  obtain ⟨⟨⟨hwait, hmask⟩, hregs⟩, -⟩ := h
  simpa [issue, hfind, hwait, hregs] using fun hzero => absurd hzero hmask

/-! ## Putting a group back -/

/-- The run of a group just put back. -/
theorem look_putGroup (s : State) (g : GroupRef) (r : Run) (b : Block) (x : Group) :
    look (s.putGroup g r b x).runs g.run = some (r.setBlock (b.setGroup g.group x)) := look_put_self _ _ _

/-- The group just put back is found, with the run and the block it was put back with. -/
theorem findGroup_putGroup {s : State} {g : GroupRef} {r : Run} {b b0 : Block} (x : Group) (hb : r.block g.block = some b0)
    (hindex : b.index = g.block) (hopen : b.committed = none) (hgroup : g.group < b.groups.length) :
    (s.putGroup g r b x).findGroup g = some (r.setBlock (b.setGroup g.group x), b.setGroup g.group x, x) := by
  refine findGroup_iff.mpr ⟨look_putGroup s g r b x, block_setBlock_self hb hindex, hopen, ?_⟩
  simp [Block.setGroup, hgroup]

/-! ## Moving past an instruction (R119) -/

@[simp] theorem regs_reconverge (l : List StackEntry) (x : Group) : (Group.reconverge l x).regs = x.regs := by
  induction l generalizing x with
  | nil => rfl
  | cons e l ih =>
    unfold Group.reconverge
    split
    · exact ih _
    · rfl

@[simp] theorem regs_goto (x : Group) (pc : Nat) : (x.goto pc).regs = x.regs := regs_reconverge _ _
@[simp] theorem regs_next (x : Group) : x.next.regs = x.regs := regs_goto _ _

/-- The active lanes rise. -/
theorem active_rises (x : Group) : x.active.Pairwise (· < ·) := List.pairwise_lt_range.filter _

end Sys2Proof.Machine
end

section
/-! What accesses of memory change whatever their data: the caches, what the range and owner caches remember, and the counters
of accesses (R310, R319). -/

namespace Sys2Proof.Machine

theorem onlyAccess_refl (s : State) : onlyAccess s s := ⟨rfl, fun _ _ => rfl⟩

theorem onlyAccess_trans {s t u : State} (hst : onlyAccess s t) (htu : onlyAccess t u) : onlyAccess s u := by
  obtain ⟨ht, hobjst⟩ := hst
  obtain ⟨hu, hobjtu⟩ := htu
  refine ⟨?_, fun k hk => (hobjtu k hk).trans (hobjst k hk)⟩
  rw [hu, ht]

/-- A change that leaves the objects alone, too. -/
theorem onlyAccess_of_frame {s t : State} (ht : t = { s with
    runs := t.runs, caches := t.caches, ranges := t.ranges, owners := t.owners, texCaches := t.texCaches, objs := t.objs })
    (hobjs : t.objs = s.objs) : onlyAccess s t := ⟨ht, fun _ _ => by simp only [State.obj, hobjs]⟩

theorem onlyAccess_putGroup (s : State) (g : GroupRef) (r : Run) (b : Block) (x : Group) : onlyAccess s (s.putGroup g r b x) :=
  onlyAccess_of_frame rfl rfl

theorem onlyAccess_setSlice (s : State) (n : Fin 4) (sl : Slice) (c : CacheSlice) : onlyAccess s (s.setSlice n sl c) :=
  onlyAccess_of_frame rfl rfl

/-- Counting an access is a change of an access. -/
theorem onlyAccess_bump (s : State) {k : Nat} (n w : Nat) (hk : k ∈ accessCounters) : onlyAccess s (s.bump k n w) := by
  refine ⟨rfl, fun j hj => obj_bump_other s n w ?_⟩
  rintro rfl
  exact hj hk

/-- The counters of a channel's system cache count accesses. -/
theorem sc_mem_accessCounters (n : Fin 4) : Obj.scHits n ∈ accessCounters ∧ Obj.scMisses n ∈ accessCounters ∧
    Obj.scStreamFills n ∈ accessCounters ∧ Obj.scWritebacks n ∈ accessCounters := by
  have hn : n ∈ chans := by revert n; decide
  simp only [accessCounters, List.mem_flatten, List.mem_map]
  exact ⟨⟨_, ⟨n, hn, rfl⟩, by simp⟩, ⟨_, ⟨n, hn, rfl⟩, by simp⟩, ⟨_, ⟨n, hn, rfl⟩, by simp⟩, ⟨_, ⟨n, hn, rfl⟩, by simp⟩⟩

/-- What keeps to accesses in each of two cases does so after a choice. -/
theorem onlyAccess_ite {s t u : State} {c : Prop} [Decidable c] (ht : onlyAccess s t) (hu : onlyAccess s u) :
    onlyAccess s (if c then t else u) := by split <;> assumption

theorem onlyAccess_scAccess (s : State) (n : Fin 4) (line cls port : Nat) (write stream : Bool) :
    onlyAccess s (s.scAccess n line cls port write stream) := by
  obtain ⟨hhits, hmisses, hfills, hbacks⟩ := sc_mem_accessCounters n
  unfold State.scAccess
  split
  · exact onlyAccess_refl s
  · have counted {u : State} {c : Prop} [Decidable c] {k : Nat} (hk : k ∈ accessCounters) (hu : onlyAccess s u) :
        onlyAccess s (if c then u.bump k 1 64 else u) :=
      onlyAccess_ite (onlyAccess_trans hu (onlyAccess_bump u 1 64 hk)) hu
    have hset := onlyAccess_setSlice s n
    exact counted hbacks (counted hfills (onlyAccess_ite
      (onlyAccess_trans (hset _ _) (onlyAccess_bump _ 1 64 hhits)) (onlyAccess_trans (hset _ _) (onlyAccess_bump _ 1 64 hmisses))))

theorem onlyAccess_l2Access (s : State) (n : Fin 4) (line asid cls port : Nat) (write stream : Bool) :
    onlyAccess s (s.l2Access n line asid cls port write stream).1 := by
  unfold State.l2Access
  split
  · exact onlyAccess_refl s
  · exact onlyAccess_setSlice s n _ _

theorem onlyAccess_cacheRead (s : State) (ch : Fin 4) (asid cls port key rights : Nat) (stream : Bool) :
    onlyAccess s (s.cacheRead ch asid cls port key rights stream) := by
  have hl2 (asid : Nat) := onlyAccess_l2Access s ch (key / 64) asid cls port false stream
  unfold State.cacheRead
  refine onlyAccess_ite (onlyAccess_ite ?own (onlyAccess_scAccess _ _ _ _ _ _ _)) (onlyAccess_ite (hl2 asid) (onlyAccess_refl s))
  case own => exact onlyAccess_ite (hl2 0) (onlyAccess_trans (hl2 0) (onlyAccess_scAccess _ _ _ _ _ _ _))

theorem onlyAccess_rangeLook (s : State) (x : Xlat) (v : Nat) : onlyAccess s (s.rangeLook x v) := by
  unfold State.rangeLook
  split
  · exact onlyAccess_of_frame rfl rfl
  · split
    · exact onlyAccess_of_frame rfl rfl
    · exact onlyAccess_refl s

/-- What keeps to accesses at each item does so over a list. -/
theorem onlyAccess_forEach {α : Type} {f : State → α → State} (h : ∀ s a, onlyAccess s (f s a)) (l : List α) (s : State) :
    onlyAccess s (forEach l f s) :=
  forEach_keeps (P := onlyAccess s) f (fun t a ht => onlyAccess_trans ht (h t a)) l s (onlyAccess_refl s)

/-- Lookups of addresses are accesses (R319). -/
theorem onlyAccess_lookups (s : State) (r : Run) (core : Option Nat) (vs : List Nat) : onlyAccess s (s.lookups r core vs) :=
  onlyAccess_forEach (fun s v => onlyAccess_trans
    (onlyAccess_forEach (fun s k => onlyAccess_cacheRead s _ _ _ _ k _ _) _ s) (onlyAccess_rangeLook _ _ v)) _ s

end Sys2Proof.Machine
end

section
/-! Stores of a group (R125 to R128): the bytes that its lanes write in turn, and where a store of each space puts them. -/

namespace Sys2Proof.Machine

/-! ## Bytes that lanes write in turn -/

/-- The bytes just written are read back. -/
theorem readMem_writeMem_self (m : List Host.Cell) (a : Nat) (bs : List Byte) : readMem (writeMem m a bs) a bs.length = bs := by
  refine List.ext_getElem (by simp [readMem, upto]) fun i hi hi' => ?_
  simpa [readMem, upto] using readCell_writeMem_inside bs m a i hi'

/-- Bytes apart from those written are read as before. -/
theorem readMem_writeMem_apart (m : List Host.Cell) {a b n : Nat} {bs : List Byte} (h : b + n ≤ a ∨ a + bs.length ≤ b) :
    readMem (writeMem m a bs) b n = readMem m b n := by
  refine List.map_congr_left fun i hi => readCell_writeMem_outside bs m a (b + i) ?_
  have hi' : i < n := List.mem_range.mp hi
  omega

/-- Memory after the lanes of a list have each written `bs` of the lane at its address, in turn. -/
def writeLanes (ls : List Nat) (at' : Nat → Nat) (bs : Nat → List Byte) (m : List Host.Cell) : List Host.Cell :=
  ls.foldl (fun m l => writeMem m (at' l) (bs l)) m

/-- Bytes apart from those of every lane are read as before. -/
theorem readMem_writeLanes_apart {ls : List Nat} {at' : Nat → Nat} {bs : Nat → List Byte} {b n : Nat}
    (h : ∀ l ∈ ls, b + n ≤ at' l ∨ at' l + (bs l).length ≤ b) :
    ∀ m, readMem (writeLanes ls at' bs m) b n = readMem m b n := by
  induction ls with
  | nil => exact fun m => rfl
  | cons l ls ih =>
    intro m
    have hl := h l List.mem_cons_self
    have hrest := ih (fun k hk => h k (List.mem_cons_of_mem l hk)) (writeMem m (at' l) (bs l))
    exact hrest.trans (readMem_writeMem_apart m hl)

/-- Of rising lanes, the bytes of one that no higher one writes over are read back. -/
theorem readMem_writeLanes_highest {ls : List Nat} {at' : Nat → Nat} {bs : Nat → List Byte} {n l : Nat} (hlen : ∀ k, (bs k).length = n)
    (hrise : ls.Pairwise (· < ·)) (hl : l ∈ ls) (hover : ∀ k ∈ ls, l < k → at' k + n ≤ at' l ∨ at' l + n ≤ at' k) :
    ∀ m, readMem (writeLanes ls at' bs m) (at' l) n = bs l := by
  induction ls with
  | nil => cases hl
  | cons a ls ih =>
    intro m
    obtain ⟨habove, hrise'⟩ := List.pairwise_cons.mp hrise
    rcases List.mem_cons.mp hl with rfl | hmem
    · have hrest : ∀ k ∈ ls, at' l + n ≤ at' k ∨ at' k + (bs k).length ≤ at' l := fun k hk => by
        rw [hlen k]
        exact (hover k (List.mem_cons_of_mem _ hk) (habove k hk)).symm
      calc readMem (writeLanes ls at' bs (writeMem m (at' l) (bs l))) (at' l) n
          = readMem (writeMem m (at' l) (bs l)) (at' l) n := readMem_writeLanes_apart hrest _
        _ = bs l := by rw [← hlen l]; exact readMem_writeMem_self m (at' l) (bs l)
    · exact ih hrise' hmem (fun k hk => hover k (List.mem_cons_of_mem _ hk)) _

/-- A byte apart from those of every lane is read as before. -/
theorem readCell_writeLanes_apart {ls : List Nat} {at' : Nat → Nat} {bs : Nat → List Byte} {b : Nat}
    (h : ∀ l ∈ ls, b < at' l ∨ at' l + (bs l).length ≤ b) (m : List Host.Cell) :
    readCell (writeLanes ls at' bs m) b = readCell m b := by
  simpa [readMem, upto] using readMem_writeLanes_apart (n := 1) h m

/-! ## Addresses of the active lanes -/

/-- Results that are all in order. -/
theorem allOk_map {α β : Type} {l : List α} {f : α → Except Nat β} {g : α → β} (h : ∀ a ∈ l, f a = .ok (g a)) :
    allOk (l.map f) = .ok (l.map g) := by
  induction l with
  | nil => rfl
  | cons a l ih =>
    have htail := ih fun b hb => h b (List.mem_cons_of_mem a hb)
    simp only [List.map_cons, allOk, h a List.mem_cons_self, htail]

theorem laneOffs_ok {r : Run} {x : Group} {a n : Nat}
    (h : ∀ l ∈ x.active, (x.reg l a).toNat % n = 0 ∧ r.inBls (x.reg l a).toNat n = true) :
    laneOffs r x a n = .ok (x.active.map (fun l => (l, (x.reg l a).toNat))) := by
  refine allOk_map fun l hl => ?_
  obtain ⟨halign, hin⟩ := h l hl
  simp [halign, hin]

theorem laneKeys_ok {s : State} {r : Run} {core : Nat} {x : Group} {a n need : Nat} {at' : Nat → Nat}
    (h : ∀ l ∈ x.active, x.pair l a % n = 0 ∧ ∃ p q, s.translate (s.runXlat r (some core)) (x.pair l a) need = .ok (at' l, p, q)) :
    s.laneKeys r core x a n need = .ok (x.active.map (fun l => (l, at' l))) := by
  refine allOk_map fun l hl => ?_
  obtain ⟨halign, p, q, htrans⟩ := h l hl
  simp [halign, htrans]

theorem tileKeys_ok {p : Pass} {x : Group} {a n : Nat} {at' : Nat → Nat}
    (h : ∀ l ∈ x.active, tileKey (some p) x.frag l (x.reg l a).toNat n true = .ok (at' l)) :
    allOk (x.active.map (fun l => (tileKey (some p) x.frag l (x.reg l a).toNat n true).map (fun k => (l, k)))) =
      .ok (x.active.map (fun l => (l, at' l))) := by
  refine allOk_map fun l hl => ?_
  rw [h l hl]
  rfl

/-! ## The stores of one group -/

theorem exec_st (g : GroupRef) (sp : Space) (size v a rank : Nat) (s : State) :
    exec (.st g sp size v a rank) s = execSt g sp size v a rank s := rfl

/-- The bytes that a lane stores. -/
def Group.laneBytes (x : Group) (size v l : Nat) : List Byte := toLE size (x.data l v size)

@[simp] theorem length_laneBytes (x : Group) (size v l : Nat) : (x.laneBytes size v l).length = size := length_toLE _ _

/-- Block-local storage after a store of a group. -/
def Block.storeLanes (b : Block) (x : Group) (size v a : Nat) : Block :=
  { b with bls := writeLanes x.active (fun l => (x.reg l a).toNat) (x.laneBytes size v) b.bls }

/-- The block-local store of a group writes the lanes' bytes in turn. -/
theorem foldl_blsWrite (x : Group) (size v a : Nat) (b : Block) :
    (x.active.map (fun l => (l, (x.reg l a).toNat))).foldl (fun h p => h.blsWrite p.2 (toLE size (x.data p.1 v size))) b =
      b.storeLanes x size v a := by
  have hfold (ls : List Nat) : ∀ b : Block, ls.foldl (fun h l => h.blsWrite (x.reg l a).toNat (toLE size (x.data l v size))) b =
      { b with bls := writeLanes ls (fun l => (x.reg l a).toNat) (x.laneBytes size v) b.bls } := by
    induction ls with
    | nil => exact fun b => rfl
    | cons l ls ih => exact fun b => ih _
  rw [List.foldl_map]
  exact hfold x.active b

theorem blsByte_storeLanes_apart {b : Block} {x : Group} {size v a off : Nat}
    (h : ∀ l ∈ x.active, off < (x.reg l a).toNat ∨ (x.reg l a).toNat + size ≤ off) :
    (b.storeLanes x size v a).blsByte off = b.blsByte off :=
  readCell_writeLanes_apart (by simpa using h) b.bls

theorem blsRead_storeLanes {b : Block} {x : Group} {size v a l : Nat} (hl : l ∈ x.active)
    (hover : ∀ m ∈ x.active, l < m →
      (x.reg m a).toNat + size ≤ (x.reg l a).toNat ∨ (x.reg l a).toNat + size ≤ (x.reg m a).toNat) :
    (b.storeLanes x size v a).blsRead (x.reg l a).toNat size = toLE size (x.data l v size) :=
  readMem_writeLanes_highest (at' := fun l => (x.reg l a).toNat) (bs := x.laneBytes size v) (length_laneBytes x size v)
    (active_rises x) hl hover b.bls

/-- A store of a group of block `b` to the block-local storage of block `home` of its run. -/
def State.storeLocal (s : State) (g : GroupRef) (size v a : Nat) (r : Run) (b home : Block) (x : Group) : State :=
  (s.putGroup g (r.setBlock (home.storeLanes x size v a))
    (((r.setBlock (home.storeLanes x size v a)).block b.index).getD b) x.next).pruneTags

section
variable {s : State} {g : GroupRef} {size v a rank : Nat} {r : Run} {b : Block} {x : Group}

/-- A store to its own block's storage (R125). -/
theorem exec_st_blockLocal (hrun : s.clocksRun) (hissues : s.issues g [(v, accessRegs size), (a, 1)] = true)
    (hfind : s.findGroup g = some (r, b, x)) (hsize : accessSize size = true)
    (hoffs : ∀ l ∈ x.active, (x.reg l a).toNat % size = 0 ∧ r.inBls (x.reg l a).toNat size = true) :
    exec (.st g .blockLocal size v a rank) s = .next (s.storeLocal g size v a r b b x) := by
  rw [exec_st, execSt, clocked_next _ _ hrun]
  refine congrArg _ ((issue_of_issues hissues hfind).trans ?_)
  simp only [hsize, laneOffs_ok hoffs, foldl_blsWrite]
  rfl

/-- A store to the storage of a rank of the cluster (R114, R125). -/
theorem exec_st_cluster {home : Block} (hrun : s.clocksRun) (hissues : s.issues g [(v, accessRegs size), (a, 1)] = true)
    (hfind : s.findGroup g = some (r, b, x)) (hsize : accessSize size = true) (hrank : rank < max (lbCluster r.body) 1)
    (hhome : r.rankBlock b rank = some home)
    (hoffs : ∀ l ∈ x.active, (x.reg l a).toNat % size = 0 ∧ r.inBls (x.reg l a).toNat size = true) :
    exec (.st g .cluster size v a rank) s = .next (s.storeLocal g size v a r b home x) := by
  rw [exec_st, execSt, clocked_next _ _ hrun]
  refine congrArg _ ((issue_of_issues hissues hfind).trans ?_)
  simp only [hsize, hhome, Nat.not_le.mpr hrank, laneOffs_ok hoffs, foldl_blsWrite]
  rfl

/-- A store to a render tile (R235). -/
theorem exec_st_renderTile {p : Pass} {at' : Nat → Nat} (hrun : s.clocksRun)
    (hissues : s.issues g [(v, accessRegs size), (a, 1)] = true) (hfind : s.findGroup g = some (r, b, x))
    (hsize : accessSize size = true) (hpass : r.pass = some p)
    (hkeys : ∀ l ∈ x.active, tileKey (some p) x.frag l (x.reg l a).toNat size true = .ok (at' l)) :
    exec (.st g .renderTile size v a rank) s = .next (s.putGroup g
      { r with pass := some { p with pix := writeLanes x.active at' (x.laneBytes size v) p.pix } } b x.next) := by
  rw [exec_st, execSt, clocked_next _ _ hrun]
  refine congrArg _ ((issue_of_issues hissues hfind).trans ?_)
  simp only [hsize, hpass, tileKeys_ok hkeys, List.foldl_map]
  rfl

/-- The bytes that a global store of a group stages, where its lanes' addresses translate to `at'` (R126). -/
def Group.storeCells (x : Group) (size v : Nat) (at' : Nat → Nat) : List Host.Cell :=
  (x.active.map (fun l => (upto size).map (fun i => (at' l + i, ((x.laneBytes size v l).drop i).headD 0)))).flatten

/-- A global store is staged (R126, R128). -/
theorem exec_st_global {at' : Nat → Nat} (hrun : s.clocksRun) (hissues : s.issues g [(v, accessRegs size), (a, 2)] = true)
    (hfind : s.findGroup g = some (r, b, x)) (hsize : accessSize size = true)
    (hkeys : ∀ l ∈ x.active, x.pair l a % size = 0 ∧
      ∃ p q, s.translate (s.runXlat r (some b.core)) (x.pair l a) rightW = .ok (at' l, p, q))
    (hroom : r.commitUse b.core (x.storeCells size v at') ≤ r.commitRoom) :
    exec (.st g .global size v a rank) s = .next ((s.lookups r (some b.core) (x.active.map (fun l => x.pair l a))).putGroup g
      (r.setBlock { b with staged := stage b.staged (x.storeCells size v at') })
      { b with staged := stage b.staged (x.storeCells size v at') } x.next) := by
  have hstage : r.stageBlock b (x.storeCells size v at') =
      some (r.setBlock { b with staged := stage b.staged (x.storeCells size v at') },
        { b with staged := stage b.staged (x.storeCells size v at') }) := if_neg (Nat.not_lt.mpr hroom)
  rw [exec_st, execSt, clocked_next _ _ hrun]
  refine congrArg _ ((issue_of_issues hissues hfind).trans ?_)
  simp only [Group.storeCells, Group.laneBytes] at hstage
  simp only [hsize, laneKeys_ok hkeys, List.map_map, Function.comp_def, hstage]
  rfl

/-! ## What a store to block-local storage leaves -/

/-- A store to block-local storage changes the runs, and the tags of words that it leaves 0 (R145). -/
theorem storeLocal_frame (s : State) (g : GroupRef) (size v a : Nat) (r : Run) (b home : Block) (x : Group) :
    s.storeLocal g size v a r b home x = { s with
      runs := (s.storeLocal g size v a r b home x).runs, tags := (s.storeLocal g size v a r b home x).tags } := rfl

theorem findGroup_pruneTags (s : State) (g : GroupRef) : s.pruneTags.findGroup g = s.findGroup g := rfl

/-- A store to the own block's storage, which the group then finds. -/
theorem findGroup_storeLocal_own (hfind : s.findGroup g = some (r, b, x)) :
    ∃ r', (s.storeLocal g size v a r b b x).findGroup g = some (r', (b.storeLanes x size v a).setGroup g.group x.next, x.next) := by
  obtain ⟨-, hb, hopen, hx⟩ := findGroup_iff.mp hfind
  have hindex := index_of_findGroup hfind
  have hself : (r.setBlock (b.storeLanes x size v a)).block b.index = some (b.storeLanes x size v a) :=
    block_setBlock_self (hindex ▸ hb) rfl
  unfold State.storeLocal
  rw [hself, findGroup_pruneTags]
  exact ⟨_, findGroup_putGroup _ (hindex ▸ hself) hindex hopen (List.getElem?_eq_some_iff.mp hx).1⟩

/-- A store to another block's storage: that block takes the bytes, and the group's own keeps its storage. -/
theorem look_storeLocal_other {home : Block} {n : Nat} (hfind : s.findGroup g = some (r, b, x)) (hhome : r.block n = some home)
    (hne : home.index ≠ b.index) :
    ∃ r', look (s.storeLocal g size v a r b home x).runs g.run = some r' ∧
      r'.block home.index = some (home.storeLanes x size v a) ∧ r'.block b.index = some (b.setGroup g.group x.next) := by
  obtain ⟨-, hb, -, -⟩ := findGroup_iff.mp hfind
  have hindex := index_of_findGroup hfind
  have hown : (r.setBlock (home.storeLanes x size v a)).block b.index = some b :=
    (block_setBlock_other r (home.storeLanes x size v a) (Ne.symm hne)).trans (hindex ▸ hb)
  have hstored : (r.setBlock (home.storeLanes x size v a)).block home.index = some (home.storeLanes x size v a) :=
    block_setBlock_self (index_of_block hhome ▸ hhome) rfl
  unfold State.storeLocal
  rw [hown]
  refine ⟨_, look_putGroup _ _ _ _ _, ?_, ?_⟩
  · exact (block_setBlock_other _ (b.setGroup g.group x.next) hne).trans hstored
  · exact block_setBlock_self hown rfl

end

/-! ## The obligation -/

/-- Settles O21. In each space the lanes' bytes are written in turn, so of lanes that overlap the highest stays. -/
theorem stores : Obligations.Stores := by
  refine ⟨?blockLocal, ?global, ?cluster, ?renderTile⟩
  case blockLocal =>
    intro s g size v a rank r b x hrun hissues hfind hsize hoffs
    obtain ⟨r', hfound⟩ := findGroup_storeLocal_own (size := size) (v := v) (a := a) hfind
    exact ⟨_, exec_st_blockLocal hrun hissues hfind hsize hoffs, storeLocal_frame s g size v a r b b x, r', _, _, hfound,
      regs_next x, fun off hoff => blsByte_storeLanes_apart hoff, fun l hl hover => blsRead_storeLanes hl hover⟩
  case global =>
    intro s g size v a rank r b x at' cells hrun hissues hfind hsize hkeys hcells hroom
    obtain ⟨-, hb, hopen, hx⟩ := findGroup_iff.mp hfind
    have hindex := index_of_findGroup hfind
    obtain rfl : cells = x.storeCells size v at' := hcells
    have hself := block_setBlock_self (b' := { b with staged := stage b.staged (x.storeCells size v at') }) hb hindex
    refine ⟨_, exec_st_global hrun hissues hfind hsize hkeys hroom,
      onlyAccess_trans (onlyAccess_lookups s r _ _) (onlyAccess_putGroup _ _ _ _ _), _, _, _,
      findGroup_putGroup _ hself hindex hopen (List.getElem?_eq_some_iff.mp hx).1, regs_next x, rfl, rfl⟩
  case cluster =>
    intro s g size v a rank r b home x hrun hissues hfind hsize hrank hhome hne hoffs
    obtain ⟨r', hrun', hhome', hown⟩ := look_storeLocal_other (size := size) (v := v) (a := a) hfind hhome hne
    exact ⟨_, exec_st_cluster hrun hissues hfind hsize hrank hhome hoffs, storeLocal_frame s g size v a r b home x, r', _, _,
      hrun', hhome', hown, rfl, fun off hoff => blsByte_storeLanes_apart hoff, fun l hl hover => blsRead_storeLanes hl hover⟩
  case renderTile =>
    intro s g size v a rank r b x p at' hrun hissues hfind hsize hpass hkeys
    refine ⟨_, exec_st_renderTile hrun hissues hfind hsize hpass hkeys, rfl, _, _, look_putGroup _ _ _ _ _, rfl, ?_, ?_⟩
    · intro k hk
      refine readMem_writeLanes_apart (n := 1) (fun l hl => ?_) p.pix
      rw [length_laneBytes]
      exact hk l hl
    · exact fun l hl hover => readMem_writeLanes_highest (length_laneBytes x size v) (active_rises x) hl hover p.pix

end Sys2Proof.Machine
end

section
/-! Launches start their blocks (R110 to R115): what LAUNCH and BLOCK_START add to a run. -/

namespace Sys2Proof.Machine

/-! ## Commands that act on a run -/

theorem exec_launch (id : Nat) (s : State) : exec (.launch id) s = clocked s (launchStep id) := rfl

theorem exec_blockStart (id core : Nat) (s : State) : exec (.blockStart id core) s = execBlockStart id core s := rfl

/-- A run just stored is found, and nothing but the runs has changed. -/
theorem setRun_found {s : State} {id : Nat} {r : Run} {P : Run → Prop} (h : P r) :
    s.setRun id r = { s with runs := (s.setRun id r).runs } ∧ ∃ r', look (s.setRun id r).runs id = some r' ∧ P r' :=
  ⟨rfl, r, look_put_self _ _ _, h⟩

/-! ## LAUNCH (R112 to R114) -/

/-- The blocks of cluster `c` of a launch as they start, on the cores of R114. -/
def clusterBlocks (body : List Byte) (c : Nat) : List Block :=
  (upto (max (lbCluster body) 1)).map (fun k => startBlock body (c * max (lbCluster body) 1 + k) (placeCore body c k))

/-- Cluster `c` of a launch starts where it has not started, each of its cores has room, and no earlier cluster waits for one of
them. -/
def Run.startCluster (body : List Byte) (r : Run) (c : Nat) : Run :=
  if r.blocks.any (fun b => b.index / max (lbCluster body) 1 = c) ||
      (upto (max (lbCluster body) 1)).any (fun k => resLimit body 0 ≤ r.resident (placeCore body c k)) ||
      (upto c).any (fun d => !r.blocks.any (fun b => b.index / max (lbCluster body) 1 = d) &&
        (upto (max (lbCluster body) 1)).any (fun k => placeCore body d k = placeCore body c k))
  then r
  else { r with nextBlk := r.nextBlk + max (lbCluster body) 1, blocks := r.blocks ++ clusterBlocks body c }

/-- A LAUNCH tries its clusters in ascending order. -/
theorem launchStep_running {s : State} {id : Nat} {r : Run} (hr : look s.runs id = some r) (heng : r.eng = .launch)
    (hop : r.cmd.op = 1) (hfin : r.finished = false) :
    launchStep id s =
      s.setRun id ((upto (lbBlocks r.body / max (lbCluster r.body) 1)).foldl (Run.startCluster r.body) r) := by
  simp only [launchStep, hr, heng, hop, hfin]
  rfl

/-- The first cluster starts on cores that have room. -/
theorem startCluster_first {body : List Byte} {r : Run} (hnone : r.blocks = []) (hroom : 0 < resLimit body 0) :
    (r.startCluster body 0).blocks = clusterBlocks body 0 := by
  have hres (core : Nat) : r.resident core = 0 := by simp [Run.resident, hnone]
  have hfull : ¬ resLimit body 0 ≤ 0 := Nat.not_le.mpr hroom
  simp [Run.startCluster, hnone, hres, hfull, upto]

/-- A cluster that starts comes after the blocks that have. -/
theorem blocks_startCluster (body : List Byte) (r : Run) (c : Nat) : r.blocks <+: (r.startCluster body c).blocks := by
  unfold Run.startCluster
  split
  · exact ⟨[], List.append_nil _⟩
  · exact ⟨clusterBlocks body c, rfl⟩

theorem blocks_startClusters (body : List Byte) (l : List Nat) :
    ∀ r : Run, r.blocks <+: (l.foldl (Run.startCluster body) r).blocks := by
  induction l with
  | nil => exact fun r => ⟨[], List.append_nil _⟩
  | cons c l ih => exact fun r => (blocks_startCluster body r c).trans (ih _)

/-- Of a launch without blocks, the first cluster's blocks come first. -/
theorem take_startClusters {body : List Byte} {r : Run} {n : Nat} (hnone : r.blocks = []) (hroom : 0 < resLimit body 0)
    (hn : 0 < n) :
    ((upto n).foldl (Run.startCluster body) r).blocks.take (max (lbCluster body) 1) = clusterBlocks body 0 := by
  obtain ⟨m, rfl⟩ : ∃ m, n = m + 1 := ⟨n - 1, by omega⟩
  have hsplit : upto (m + 1) = 0 :: (List.range m).map Nat.succ := List.range_succ_eq_map
  obtain ⟨later, hlater⟩ := blocks_startClusters body ((List.range m).map Nat.succ) (r.startCluster body 0)
  have hlen : (clusterBlocks body 0).length = max (lbCluster body) 1 := by simp [clusterBlocks, upto]
  rw [hsplit, List.foldl_cons, ← hlater, startCluster_first hnone hroom, ← hlen, List.take_left]

/-! ## BLOCK_START (R114) -/

/-- BLOCK_START starts the core's next cluster where each of its cores has room. -/
theorem exec_blockStart_starts {s : State} {id core c : Nat} {r : Run} (hrun : s.clocksRun) (hr : look s.runs id = some r)
    (heng : r.eng = .launch) (hfin : r.finished = false)
    (hnext : (upto (lbBlocks r.body / max (lbCluster r.body) 1)).find? (fun c =>
      (upto (max (lbCluster r.body) 1)).any (fun k => placeCore r.body c k = core) &&
      !r.blocks.any (fun b => b.index / max (lbCluster r.body) 1 = c)) = some c)
    (hroom : ∀ k < max (lbCluster r.body) 1, r.resident (placeCore r.body c k) < resLimit r.body 0) :
    exec (.blockStart id core) s = .next (s.setRun id { r with
      nextBlk := r.nextBlk + max (lbCluster r.body) 1, blocks := r.blocks ++ clusterBlocks r.body c }) := by
  have hall : (upto (max (lbCluster r.body) 1)).all (fun k => r.resident (placeCore r.body c k) < resLimit r.body 0) = true := by
    simpa [upto] using hroom
  rw [exec_blockStart, execBlockStart, clocked_next _ _ hrun]
  simp only [hr, heng, hfin, hnext, hall]
  rfl

/-! ## A block that starts (R110, R115) -/

theorem mem_groups_startBlock {body : List Byte} {i core : Nat} {x : Group} (h : x ∈ (startBlock body i core).groups) :
    x = startGroup (field body 0 8) := List.eq_of_mem_replicate h

/-! ## The obligation -/

/-- Settles O27. A LAUNCH folds over its clusters: the first finds every core empty and starts, and those after it append. -/
theorem launchStartsBlocks : Obligations.LaunchStartsBlocks := by
  refine ⟨?launch, ?blockStart, ?fresh⟩
  case launch =>
    intro s id r hrun hr heng hop hfin hnone hone hfits hroom
    refine does_of_clocksRun (exec_launch id s) hrun ?_
    rw [launchStep_running hr heng hop hfin]
    have hcl : max (lbCluster r.body) 1 = lbCluster r.body := Nat.max_eq_left hone
    have hpos : 0 < lbBlocks r.body / lbCluster r.body := Nat.div_pos hfits hone
    have htake := take_startClusters (body := r.body) hnone hroom hpos
    refine setRun_found (P := fun r' => r'.blocks.take (lbCluster r.body) = _) ?_
    simpa [hcl, clusterBlocks] using htake
  case blockStart =>
    intro s id core c r hrun hr heng hfin hone hnext hroom
    have hcl : max (lbCluster r.body) 1 = lbCluster r.body := Nat.max_eq_left hone
    refine ⟨_, exec_blockStart_starts (c := c) hrun hr heng hfin (by rwa [hcl]) (by rwa [hcl]),
      setRun_found (P := fun r' => r'.blocks = _) ?_⟩
    simp only [clusterBlocks, hcl]
  case fresh =>
    intro body i core x l r hx
    rw [mem_groups_startBlock hx]
    exact ⟨rfl, rfl, rfl, rfl⟩

end Sys2Proof.Machine
end

section
/-! A launch at its last live lane: one state, in which EXIT changes the lock tags beside the runs, and in which a fault of the
command finds its context FAULTED already. -/

namespace Sys2Proof.Machine

/-! ## Two things a command does -/

/-- A command has one next state, of which all holds that it does. -/
theorem does_and {i : Instr} {s : State} {p q : State → Prop} (hp : Does i s p) (hq : Does i s q) :
    ∃ t, p t ∧ q t := by
  obtain ⟨t, ht, hpt⟩ := hp
  obtain ⟨u, hu, hqu⟩ := hq
  obtain rfl : t = u := Host.Outcome.next.inj (ht.symm.trans hu)
  exact ⟨t, hpt, hqu⟩

/-- An answer is a next state that passes a check. -/
def answersNext (p : State → Bool) : Out → Bool
  | .next t => p t
  | _ => false

/-- What a command does, from running it. -/
theorem does_of_run {i : Instr} {s : State} {p : State → Prop} [DecidablePred p]
    (h : answersNext (fun t => decide (p t)) (exec i s) = true) : Does i s p := by
  cases hexec : exec i s with
  | next t => exact ⟨t, hexec, by simpa [answersNext, hexec] using h⟩
  | fault r => simp [answersNext, hexec] at h
  | refused r => simp [answersNext, hexec] at h

/-! ## The state -/

/-- The body of a launch of one block of 32 threads (R112): ENTRY, PARAM_ADDR and its length 0; one cluster of one block on quad
0, 8 registers, 1 KB of block-local storage, 1 KB of commit buffer and one allocator call. -/
def lastLaneBody : List Byte :=
  List.replicate 0x12 0 ++ [32, 0, 1, 0, 1, 0, 1, 0, 1, 1, 8, 0, 1, 0, 1, 0, 1, 0]

def lastLaneCmd : Cmd :=
  { op := 1, cls := 1, immediate := false, waitEn := false, signalEn := false, ring := false, wcet := 0, waitBaton := 0,
    sigBaton := 0, waitValue := 0, sigValue := 0, user := 0, addr := 0, body := lastLaneBody, gen := 0, seed := 0, stamp := none }

/-- Every lane but lane 0 has executed EXIT. -/
def lastLaneGroup : Group := { startGroup 0 with mask := 1, exited := 0xFFFFFFFE }

/-- Word 0 of the block's storage is 1. -/
def lastLaneBlock : Block :=
  { index := 0, core := 0, groups := [lastLaneGroup], bls := [(0, 1)], staged := [], committed := none }

def lastLaneRun : Run :=
  { origin := .queue 0 1, cmd := lastLaneCmd, body := lastLaneBody, eng := .launch, ctx := 0, asid := 0, gen := Gen.empty,
    strict := true, ch := 0, cls := 1, units := 1, map := 0, window := 0, wcet := 0, start := 0, tick := 0,
    blocks := [lastLaneBlock], nextBlk := 1, status := 0, staged := [], stagedN := 0, defers := [], calls := 0, pass := none,
    cut := 0, tally := [], notice := none, opens := [], peerOpen := [], waited := false, finished := false }

/-- Lane 0 holds a lock on word 0 of the block's storage, and a sibling of it has failed to take it, and failed again (R146). -/
def lastLaneTag : Tag :=
  { unit := .core 0 0, addr := 0, home := some 0, is64 := false, run := 0, ctx := 0, core := 0, block := 0, group := 0,
    lane := 0, t0 := some 0, further := true }

def lastLaneCtx : Context :=
  { state := .active, owner := 0, asid := 0, strict := true, hostRefs := 0, fault := ⟨0, 0, 0, 0⟩, edges := [],
    since := .all 0 }

/-- The queue of the launch. The command before it has ended, and its completion entry is still to be written, to a ring that
no range of the address space maps. -/
def lastLaneQueue : Queue :=
  { ctx := 0, engine := 0, ch := 0, cls := 1, base := 0x1000, entries := 2, ring := 0x8000, ringN := 2, wptr := 1,
    rung := false, idle := false, sampled := 1, rptr := 0, bufAddr := 0, bufBytes := 0, bufOff := 0,
    head := some { track := 1, cmd := lastLaneCmd, phase := .running 0, gen := 0 },
    order := [⟨0, { lastLaneCmd with ring := true }, some ⟨0, none, 0, 0, true⟩⟩, ⟨1, lastLaneCmd, none⟩],
    nextSeq := 0, consumed := 0, ringDrops := 0, lap := 0, readyTicks := 0, stalled := false, stopped := false,
    closing := false, ahead := false }

/-- The launch runs, in trained memory. The hold on the queue's completion is over, for no filter is open; it has not been looked
at since, as after a port that received the publication has passed to other channels (R30). -/
def lastLane : State :=
  ({ State.reset with
     runs := [(0, lastLaneRun)], tags := [lastLaneTag], ctxs := [(0, lastLaneCtx)], queues := [(0, lastLaneQueue)],
     holds := [⟨.queue 0, some 0, 0x8000, 0⟩], nextId := 2 } : State).setObj (Obj.memState 0) 2

theorem findGroup_lastLane : lastLane.findGroup ⟨0, 0, 0⟩ = some (lastLaneRun, lastLaneBlock, lastLaneGroup) := rfl

theorem group_lastLane : lastLane.group ⟨0, 0, 0⟩ = some lastLaneGroup := rfl

/-! ## EXIT of the last lane (R129, R130, R145) -/

/-- As the last lane exits, its block ends, its storage is free, and the tag of the lock goes with it. -/
theorem exit_lastLane_drops_tag (mr : Bool) : Does (.exit ⟨0, 0, 0⟩ mr) lastLane (fun t => t.tags = []) := by
  refine does_of_run ?_
  revert mr
  decide +kernel

/-- EXIT of the last lane changes more than the runs. -/
theorem not_exit_lastLane_onlyRuns (mr : Bool) {p : State → Prop} :
    ¬ Does (.exit ⟨0, 0, 0⟩ mr) lastLane (fun t => t = { lastLane with runs := t.runs } ∧ p t) := by
  intro h
  obtain ⟨t, ⟨hframe, -⟩, htags⟩ := does_and h (exit_lastLane_drops_tag mr)
  have hkept : t.tags = [lastLaneTag] := congrArg State.tags hframe
  exact List.cons_ne_nil _ _ (hkept.symm.trans htags)

/-- Refutes O18, by the clause on EXIT: at the last lane's EXIT the block ends and its storage is free, so the tag of a lock the
lane still holds there goes (R145), and not the runs alone change. -/
theorem not_controlFlow : ¬ Obligations.ControlFlow := by
  rintro ⟨-, -, -, -, -, -, -, hexit, -⟩
  exact not_exit_lastLane_onlyRuns false (hexit lastLane ⟨0, 0, 0⟩ lastLaneGroup rfl (by decide +kernel) group_lastLane)

/-- Refutes O58, by its last clause: an EXIT with MR = 1 that leaves no live lane does not fault, and it ends the block, which
removes the tag of a lock in the block's storage (R145) beside what it changes of the runs. -/
theorem not_divergenceInAMatrixRegionFaults : ¬ Obligations.DivergenceInAMatrixRegionFaults := by
  rintro ⟨-, -, -, hexit⟩
  obtain ⟨t, ht, hframe⟩ := hexit lastLane ⟨0, 0, 0⟩ lastLaneGroup rfl (by decide +kernel) group_lastLane (by decide)
  exact not_exit_lastLane_onlyRuns true (p := fun _ => True) ⟨t, ht, hframe, trivial⟩

/-! ## Faults of the command (R157, R382, R383) -/

/-- The code of CTX_FAULT of context 0. -/
def State.faultCode (s : State) : Option Nat := (look s.ctxs 0).map (fun c => c.fault.code)

/-- A fault of the launch scraps its run first, which lets completions go on whose hold is over. The ring entry of the earlier
command then fails translation and faults the context with E_TRANSLATION, and a context that is FAULTED keeps that record. -/
theorem not_faults_with_own_code {i : Instr} {code : Nat} (hcode : code ≠ eTranslation)
    (hring : Does i lastLane (fun t => t.faultCode = some eTranslation)) :
    ¬ Does i lastLane (fun t => look t.runs 0 = none ∧
      ∃ c, look t.ctxs 0 = some c ∧ c.state = .faulted ∧ c.fault.code = code) := by
  intro h
  obtain ⟨t, ⟨-, c, hctx, -, hown⟩, hmet⟩ := does_and h hring
  have hcodes : some code = some eTranslation := by
    simpa [State.faultCode, hctx, hown] using hmet
  exact hcode (Option.some.inj hcodes)

theorem clock_lastLane_meets_ring :
    Does (.readSpecialRegister ⟨0, 0, 0⟩ .clock 0 0) lastLane (fun t => t.faultCode = some eTranslation) :=
  does_of_run (by decide +kernel)

theorem allocF_lastLane_meets_ring :
    Does (.allocF ⟨0, 0, 0⟩ 0 256 256 ⟨[], none, .mem⟩) lastLane (fun t => t.faultCode = some eTranslation) :=
  does_of_run (by decide +kernel)

theorem siblingWaitExpiry_lastLane_meets_ring :
    Does (.siblingWaitExpiry (.core 0 0) 0) lastLane (fun t => t.faultCode = some eTranslation) :=
  does_of_run (by decide +kernel)

/-- Refutes O19, by the clause on strict order: CLOCK stops the command, but an earlier command's completion, which goes on as the
run is scrapped, meets an unmapped ring first, and the context's record is E_TRANSLATION (R382, R383). -/
theorem not_specialRegisters : ¬ Obligations.SpecialRegisters := by
  rintro ⟨-, -, hstrict⟩
  exact not_faults_with_own_code (by decide) clock_lastLane_meets_ring
    (hstrict lastLane ⟨0, 0, 0⟩ 0 0 _ _ _ lastLaneCtx rfl (by decide +kernel) findGroup_lastLane rfl (by decide) rfl rfl)

/-- Refutes O23, by its last clause: the expiry of the sibling wait stops the holder's command, but an earlier command's
completion meets an unmapped ring first, and the context's record is E_TRANSLATION (R382, R383). -/
theorem not_locks : ¬ Obligations.Locks := by
  rintro ⟨-, -, -, -, -, hfurther⟩
  exact not_faults_with_own_code (by decide) siblingWaitExpiry_lastLane_meets_ring
    (hfurther lastLane (.core 0 0) 0 lastLaneTag lastLaneRun lastLaneCtx rfl rfl rfl rfl (by decide) rfl rfl)

/-- Refutes O26, by the clause on ALLOC.F: a call that finds no place stops the command, but an earlier command's completion meets
an unmapped ring first, and the context's record is E_TRANSLATION (R382, R383). -/
theorem not_allocatorCalls : ¬ Obligations.AllocatorCalls := by
  rintro ⟨-, -, hfails, -⟩
  exact not_faults_with_own_code (by decide) allocF_lastLane_meets_ring
    (hfails lastLane ⟨0, 0, 0⟩ 0 256 256 0 ⟨[], none, .mem⟩ _ _ _ lastLaneCtx rfl rfl (by decide +kernel) findGroup_lastLane
      (by decide) (by decide +kernel) (by decide +kernel) (by decide +kernel) (by decide +kernel) (by decide) rfl rfl)

end Sys2Proof.Machine
end

section
/-! Reads through the caches (R308, R310, R319): what the loads of a unit change beside memory's data, and what the reads of a
command do that meet no uncorrectable error. -/

namespace Sys2Proof.Machine

/-! ## What reads through the caches leave -/

/-- The runs and the texture caches, which reads through the other caches leave. -/
def State.unread (s : State) : List (Nat × Run) × Per4 (Per4 (List Nat)) := (s.runs, s.texCaches)

@[simp] theorem unread_bump (s : State) (k n w : Nat) : (s.bump k n w).unread = s.unread := rfl

@[simp] theorem unread_setSlice (s : State) (n : Fin 4) (sl : Slice) (c : CacheSlice) :
    (s.setSlice n sl c).unread = s.unread := rfl

@[simp] theorem unread_scAccess (s : State) (n : Fin 4) (line cls port : Nat) (write stream : Bool) :
    (s.scAccess n line cls port write stream).unread = s.unread := by
  unfold State.scAccess
  split
  · rfl
  · simp only [apply_ite State.unread, unread_bump, unread_setSlice, ite_self]

@[simp] theorem unread_l2Access (s : State) (n : Fin 4) (line asid cls port : Nat) (write stream : Bool) :
    (s.l2Access n line asid cls port write stream).1.unread = s.unread := by
  unfold State.l2Access
  split
  · rfl
  · rfl

@[simp] theorem unread_cacheRead (s : State) (ch : Fin 4) (asid cls port key rights : Nat) (stream : Bool) :
    (s.cacheRead ch asid cls port key rights stream).unread = s.unread := by
  simp only [State.cacheRead, apply_ite State.unread, unread_scAccess, unread_l2Access, ite_self]

@[simp] theorem unread_rangeLook (s : State) (x : Xlat) (v : Nat) : (s.rangeLook x v).unread = s.unread := by
  unfold State.rangeLook
  split
  · rfl
  · split
    · rfl
    · rfl

/-! ## Reads that leave runs and texture caches -/

/-- Only that has changed which accesses of memory touch, and neither a run nor a texture cache. -/
structure ReadsOnly (s t : State) : Prop where
  access : onlyAccess s t
  unread : t.unread = s.unread

theorem ReadsOnly.refl (s : State) : ReadsOnly s s := ⟨onlyAccess_refl s, rfl⟩

theorem ReadsOnly.trans {s t u : State} (hst : ReadsOnly s t) (htu : ReadsOnly t u) : ReadsOnly s u :=
  ⟨onlyAccess_trans hst.access htu.access, htu.unread.trans hst.unread⟩

theorem ReadsOnly.runs {s t : State} (h : ReadsOnly s t) : t.runs = s.runs := congrArg Prod.fst h.unread

theorem ReadsOnly.texCaches {s t : State} (h : ReadsOnly s t) : t.texCaches = s.texCaches := congrArg Prod.snd h.unread

/-- Objects that count no accesses read as before. -/
theorem ReadsOnly.obj {s t : State} (h : ReadsOnly s t) {k : Nat} (hk : k ∉ accessCounters) : t.obj k = s.obj k := by
  obtain ⟨⟨-, hobjs⟩, -⟩ := h
  exact hobjs k hk

theorem onlyAccess_mem {s t : State} (h : onlyAccess s t) : t.mem = s.mem := by rw [h.1]

theorem readsOnly_forEach {α : Type} {f : State → α → State} (h : ∀ s a, ReadsOnly s (f s a)) (l : List α) (s : State) :
    ReadsOnly s (forEach l f s) :=
  forEach_keeps (P := ReadsOnly s) f (fun t a ht => ht.trans (h t a)) l s (ReadsOnly.refl s)

theorem readsOnly_cacheRead (s : State) (ch : Fin 4) (asid cls port key rights : Nat) (stream : Bool) :
    ReadsOnly s (s.cacheRead ch asid cls port key rights stream) :=
  ⟨onlyAccess_cacheRead s ch asid cls port key rights stream, unread_cacheRead s ch asid cls port key rights stream⟩

theorem readsOnly_rangeLook (s : State) (x : Xlat) (v : Nat) : ReadsOnly s (s.rangeLook x v) :=
  ⟨onlyAccess_rangeLook s x v, unread_rangeLook s x v⟩

theorem readsOnly_lookAll (s : State) (x : Xlat) (port : Nat) (vs : List Nat) : ReadsOnly s (s.lookAll x port vs) :=
  readsOnly_forEach (fun s v =>
    (readsOnly_forEach (fun s k => readsOnly_cacheRead s _ _ _ _ k _ _) _ s).trans (readsOnly_rangeLook _ x v)) _ s

theorem readsOnly_lookSpans (s : State) (r : Run) (l : List (Nat × Nat)) : ReadsOnly s (s.lookSpans r l) :=
  readsOnly_lookAll s _ _ _

theorem readsOnly_touchLoads (s : State) (r : Run) (core : Option Nat) (vs : List Nat) :
    ReadsOnly s (s.touchLoads r core vs) :=
  (readsOnly_lookAll s _ _ vs).trans (readsOnly_forEach (fun s _ => readsOnly_cacheRead s _ _ _ _ _ _ _) _ _)

theorem readsOnly_touchSpans (s : State) (r : Run) (core : Option Nat) (l : List (Nat × Nat)) :
    ReadsOnly s (s.touchSpans r core l) := readsOnly_touchLoads s r core _

/-! ## Errors that were corrected (R308, R415) -/

theorem ecc_mem_accessCounters (n : Fin 4) : Obj.eccCorrected n ∈ accessCounters ∧ Obj.hlCorrected n ∈ accessCounters ∧
    Obj.ringCorrected n ∈ accessCounters := by
  revert n
  decide

/-- Reads that meet no uncorrectable error change objects only. -/
theorem noteEcc_frame (s : State) (ch : Fin 4) {e : Ecc} (hbad : e.bad = none) :
    ∃ o, s.noteEcc ch e = { s with objs := o } := by
  unfold State.noteEcc
  rw [hbad]
  cases e.via with
  | mem =>
    refine forEach_keeps (P := fun t => ∃ o, t = { s with objs := o }) _ ?_ _ s ⟨_, rfl⟩
    rintro _ a ⟨o, rfl⟩
    exact ⟨_, rfl⟩
  | hub => exact ⟨_, rfl⟩
  | ring => exact ⟨_, rfl⟩

theorem onlyAccess_noteEcc (s : State) (ch : Fin 4) {e : Ecc} (hbad : e.bad = none) : onlyAccess s (s.noteEcc ch e) := by
  obtain ⟨-, hhub, hring⟩ := ecc_mem_accessCounters ch
  unfold State.noteEcc
  rw [hbad]
  cases e.via with
  | mem => exact onlyAccess_forEach (fun s a => onlyAccess_bump s 1 64 (ecc_mem_accessCounters (chanOf a)).1) _ s
  | hub => exact onlyAccess_bump s _ 64 hhub
  | ring => exact onlyAccess_bump s _ 64 hring

theorem readsOnly_noteEcc (s : State) (ch : Fin 4) {e : Ecc} (hbad : e.bad = none) : ReadsOnly s (s.noteEcc ch e) := by
  obtain ⟨o, h⟩ := noteEcc_frame s ch hbad
  exact ⟨onlyAccess_noteEcc s ch hbad, by rw [h]; rfl⟩

/-- A command whose reads meet no uncorrectable error goes on. -/
theorem readsMeet_goes_on {s : State} {run : Nat} {r : Run} {e : Ecc} (f : State → State) (hr : look s.runs run = some r)
    (hbad : e.bad = none) : readsMeet s run e f = f (s.noteEcc (toCh r.ch) e) := by
  simp [readsMeet, hr, hbad]

end Sys2Proof.Machine
end

section
/-! Registers that lanes write (R118, R125): what a register and a number in consecutive registers read as after the lanes of a
list have each written `n` registers from `d` on. -/

namespace Sys2Proof.Machine

theorem regKey_inj {l l' r r' : Nat} (hr : r < 256) (hr' : r' < 256) : regKey l' r' = regKey l r ↔ l' = l ∧ r' = r := by
  unfold regKey
  omega

/-- What a register reads as after one is written. -/
theorem reg_setReg (x : Group) {l l' r r' : Nat} (v : Word32) (hr : r < 256) (hr' : r' < 256) :
    (x.setReg l r v).reg l' r' = if l' = l ∧ r' = r then v else x.reg l' r' := by
  unfold Group.reg Group.setReg
  simp only [← regKey_inj hr hr']
  by_cases hv : v = 0
  · simp only [hv, if_true, look_del]
    split <;> rfl
  · simp only [hv, if_false, look_put]
    split <;> rfl

/-- What a register reads as after a number is written to consecutive ones. -/
theorem reg_setWords {l l' r' : Nat} (hr' : r' < 256) {n : Nat} : ∀ {r : Nat} (x : Group) (v : Nat), r + n ≤ 256 →
    (x.setWords l r n v).reg l' r' =
      if l' = l ∧ r ≤ r' ∧ r' < r + n then BitVec.ofNat 32 (v / 2 ^ (32 * (r' - r))) else x.reg l' r' := by
  induction n with
  | zero => exact fun x v _ => (if_neg (by omega)).symm
  | succ n ih =>
    intro r x v hn
    rw [Group.setWords, ih _ _ (by omega), reg_setReg x _ (by omega) hr']
    by_cases hfirst : l' = l ∧ r' = r
    · have hshift : v / 2 ^ (32 * (r' - r)) = v := by
        rw [hfirst.2, Nat.sub_self, Nat.mul_zero, Nat.pow_zero, Nat.div_one]
      rw [if_neg (by omega), if_pos hfirst, if_pos (by omega), hshift]
    · by_cases hlater : l' = l ∧ r + 1 ≤ r' ∧ r' < r + 1 + n
      · have hshift : v / 2 ^ 32 / 2 ^ (32 * (r' - (r + 1))) = v / 2 ^ (32 * (r' - r)) := by
          rw [Nat.div_div_eq_div_mul, ← Nat.pow_add]
          congr 2
          omega
        rw [if_pos hlater, if_pos (by omega), hshift]
      · rw [if_neg hlater, if_neg hfirst, if_neg (by omega)]

/-- What a register reads as after each value of a list is written to one. -/
theorem reg_setChannels {l l' d r : Nat} (hr : r < 256) (cs : List Nat) : ∀ (k : Nat) (x : Group), d + k + cs.length ≤ 256 →
    ((cs.zipIdx k).foldl (fun y q => y.setReg l (d + q.2) (BitVec.ofNat 32 q.1)) x).reg l' r =
      if l' = l ∧ d + k ≤ r ∧ r < d + k + cs.length then BitVec.ofNat 32 (cs[r - d - k]?.getD 0) else x.reg l' r := by
  induction cs with
  | nil => exact fun k x _ => (if_neg (by simp)).symm
  | cons c cs ih =>
    intro k x hlen
    rw [List.length_cons] at hlen
    rw [List.zipIdx_cons, List.foldl_cons, ih _ _ (by omega), reg_setReg x _ (by omega) hr, List.length_cons]
    by_cases hfirst : l' = l ∧ r = d + k
    · have hindex : r - d - k = 0 := by omega
      rw [if_neg (by omega), if_pos hfirst, if_pos (by omega), hindex, List.getElem?_cons_zero, Option.getD_some]
    · by_cases hlater : l' = l ∧ d + (k + 1) ≤ r ∧ r < d + (k + 1) + cs.length
      · have hindex : r - d - k = r - d - (k + 1) + 1 := by omega
        rw [if_pos hlater, if_pos (by omega), hindex, List.getElem?_cons_succ]
      · rw [if_neg hlater, if_neg hfirst, if_neg (by omega)]

/-- What a register reads as after each lane of a list has written its values to `n` registers from `d` on. -/
theorem reg_foldl_lanes {f : Group → Nat → Group} {d n : Nat} {w : Nat → Nat → Word32} {ls : List Nat}
    (hf : ∀ a ∈ ls, ∀ x l r, r < 256 → (f x a).reg l r = if l = a ∧ d ≤ r ∧ r < d + n then w a (r - d) else x.reg l r) :
    ∀ (x : Group) {l r : Nat}, r < 256 →
      (ls.foldl f x).reg l r = if l ∈ ls ∧ d ≤ r ∧ r < d + n then w l (r - d) else x.reg l r := by
  induction ls with
  | nil => exact fun x l r _ => (if_neg (by simp)).symm
  | cons a ls ih =>
    intro x l r hr
    rw [List.foldl_cons, ih (fun b hb => hf b (List.mem_cons_of_mem a hb)) (f x a) hr, hf a List.mem_cons_self x l r hr]
    by_cases hla : l = a
    · subst hla
      by_cases hin : d ≤ r ∧ r < d + n
      · simp [hin]
      · simp [hin]
    · simp [hla]

/-- A register beside those that the lanes of a list write. -/
theorem not_lane_register {ls : List Nat} {d n l r : Nat} (h : l ∉ ls ∨ r < d ∨ d + n ≤ r) :
    ¬ (l ∈ ls ∧ d ≤ r ∧ r < d + n) := by
  rintro ⟨hl, hlo, hhi⟩
  rcases h with hout | hbelow | habove
  · exact hout hl
  · omega
  · omega

/-- Registers that hold the words of a number read as the number, as far as they reach. -/
theorem words_of_regs {y : Group} {l n : Nat} : ∀ {d v : Nat}, (∀ i < n, y.reg l (d + i) = BitVec.ofNat 32 (v / 2 ^ (32 * i))) →
    y.words l d n = v % 2 ^ (32 * n) := by
  induction n with
  | zero => exact fun _ => (Nat.mod_one _).symm
  | succ n ih =>
    intro d v h
    have hlow : (y.reg l d).toNat = v % 2 ^ 32 := by simpa using congrArg BitVec.toNat (h 0 (by omega))
    have hhigh : y.words l (d + 1) n = v / 2 ^ 32 % 2 ^ (32 * n) := by
      refine ih fun i hi => ?_
      have hword := h (i + 1) (by omega)
      rwa [Nat.mul_succ, Nat.add_comm (32 * i), Nat.pow_add, ← Nat.div_div_eq_div_mul, Nat.add_comm i, ← Nat.add_assoc] at hword
    rw [Group.words, hlow, hhigh, Nat.mul_succ, Nat.add_comm (32 * n), Nat.pow_add, Nat.mod_mul]

/-- A group at its next instruction reads its registers as before. -/
@[simp] theorem reg_next (x : Group) (l r : Nat) : x.next.reg l r = x.reg l r := by
  unfold Group.reg
  rw [regs_next]

@[simp] theorem words_next (x : Group) (l r n : Nat) : x.next.words l r n = x.words l r n := by
  induction n generalizing r with
  | zero => rfl
  | succ n ih => rw [Group.words, Group.words, reg_next, ih]

/-- The group just put back, of a group that was found. -/
theorem group_putGroup {s t : State} {g : GroupRef} {r : Run} {b : Block} {x : Group} (y : Group)
    (hfind : s.findGroup g = some (r, b, x)) : (t.putGroup g r b y).group g = some y := by
  obtain ⟨-, hb, hopen, hx⟩ := findGroup_iff.mp hfind
  have hlt := (List.getElem?_eq_some_iff.mp hx).1
  rw [State.group, findGroup_putGroup y hb (index_of_findGroup hfind) hopen hlt]
  rfl

/-- Of registers that an instruction issues with, the first group lies below 256 (R118). -/
theorem le_of_issues {s : State} {g : GroupRef} {d n : Nat} {names : List (Nat × Nat)} (h : s.issues g ((d, n) :: names) = true) :
    d + n ≤ 256 := by
  unfold State.issues at h
  split at h
  · cases h
  · simp only [List.all_cons, Bool.and_eq_true, decide_eq_true_eq] at h
    obtain ⟨-, hfirst, -⟩ := h
    exact hfirst

end Sys2Proof.Machine
end

section
/-! TEX and RAYQ (R224, R252 to R255): what a group's query does where every lane is answered. -/

namespace Sys2Proof.Machine

/-! ## TEX (R252 to R254) -/

theorem exec_tex (g : GroupRef) (d sr u v smp : Nat) (ecc : Ecc) (s : State) :
    exec (.tex g d sr u v smp ecc) s = execTex g d sr u v smp ecc s := rfl

/-- A sample has four channels. -/
theorem length_of_texSample {s : State} {r : Run} {core : Nat} {x : Surf} {smp : Nat} {u v : Int} {c : List Nat}
    (h : s.texSample r core x smp u v = .ok c) : c.length = 4 := by
  have hpadded (cs : List Nat) (hcs : (pure ((cs ++ [0, 0, 0, 0]).take 4) : Except Nat (List Nat)) = .ok c) : c.length = 4 := by
    obtain rfl := Except.ok.inj hcs
    simp
  unfold State.texSample at h
  cases hts : (sampleAt x smp u v).mapM (fun p =>
      (s.texel r x p.1 p.2 (some core)).map (fun p => (fmtChans x.fmt).map (chanVal p))) with
  | error e => simp [hts, bind, Except.bind] at h
  | ok ts =>
    simp only [hts, bind, Except.bind] at h
    split at h
    · exact hpadded _ h
    · exact hpadded _ h

theorem onlyAccess_texFill (s : State) (r : Run) (core : Nat) (spans : List (Nat × Nat)) :
    onlyAccess s (s.texFill r core spans) := by
  have hfill (t : State) (c : Per4 (Per4 (List Nat))) : onlyAccess t { t with texCaches := c } := onlyAccess_of_frame rfl rfl
  have hload (t : State) (v : Nat) : onlyAccess t (t.touchLoads r (some core) [v]) := (readsOnly_touchLoads t r _ _).access
  refine onlyAccess_forEach (fun t v => ?_) (spans.map (fun p => pieces p.1 p.2)).flatten s
  split
  · exact onlyAccess_refl t
  · exact onlyAccess_ite (onlyAccess_refl t) (onlyAccess_trans (hfill t _) (hload _ v))

/-- The group with the channels of each active lane's sample in its registers from `d` on. -/
def Group.setSamples (x : Group) (d : Nat) (c : Nat → List Nat) : Group :=
  x.active.foldl (fun y l => (c l).zipIdx.foldl (fun y q => y.setReg l (d + q.2) (BitVec.ofNat 32 q.1)) y) x

/-- What lane `l` of a TEX on core `core` reads: its surface descriptor, and the texels of its sample (R247, R253). -/
def State.laneSpans (s : State) (r : Run) (core : Nat) (x : Group) (sr u v smp : Nat) (sf : Nat → Surf) (l : Nat) :
    List (Nat × Nat) :=
  (x.pair l sr, 48) :: ((sampleAt (sf l) smp (signed 32 (x.reg l u).toNat) (signed 32 (x.reg l v).toNat)).map
    (fun p => s.texelSpans r (sf l) p.1 p.2 (some core))).flatten

/-- A TEX whose lanes all get a sample leaves the samples in its registers, and fills the quad's texture cache. -/
theorem exec_tex_samples {s : State} {ecc : Ecc} {g : GroupRef} {d sr u v smp : Nat} {r : Run} {b : Block} {x : Group}
    {sf : Nat → Surf} {c : Nat → List Nat} (hrun : s.clocksRun)
    (hissues : s.issues g [(d, 4), (sr, 2), (u, 1), (v, 1)] = true) (hfind : s.findGroup g = some (r, b, x))
    (hbad : ecc.bad = none) (hsmp : smp < 32) (hmodeX : bits smp 2 1 ≠ 3) (hmodeY : bits smp 4 3 ≠ 3)
    (hlanes : ∀ l ∈ x.active, s.surfAt r (x.pair l sr) (some b.core) = .ok (sf l) ∧
      s.texSample r b.core (sf l) smp (signed 32 (x.reg l u).toNat) (signed 32 (x.reg l v).toNat) = .ok (c l)) :
    exec (.tex g d sr u v smp ecc) s = .next (((s.noteEcc (toCh r.ch) ecc).texFill r b.core
      (x.active.map (s.laneSpans r b.core x sr u v smp sf)).flatten).putGroup g r b (x.setSamples d c).next) := by
  obtain ⟨hr, -, -, -⟩ := findGroup_iff.mp hfind
  rw [exec_tex, execTex, clocked_next _ _ hrun]
  refine congrArg _ ((issue_of_issues hissues hfind).trans ?_)
  rw [if_neg (by simp [hmodeX, hmodeY, hsmp]),
    allOk_map (g := fun l => (l, s.laneSpans r b.core x sr u v smp sf l, c l)) fun l hl => by
      obtain ⟨hsurf, hsample⟩ := hlanes l hl
      simp only [hsurf, hsample]
      rfl]
  simp only [readsMeet_goes_on _ hr hbad, List.foldl_map, List.map_map, Function.comp_def]
  rfl

/-- What a register reads as after a group's samples are written. -/
theorem reg_setSamples {x : Group} {d : Nat} {c : Nat → List Nat} (hd : d + 4 ≤ 256) (hc : ∀ l ∈ x.active, (c l).length = 4)
    {l n : Nat} (hn : n < 256) :
    (x.setSamples d c).reg l n =
      if l ∈ x.active ∧ d ≤ n ∧ n < d + 4 then BitVec.ofNat 32 ((c l)[n - d]?.getD 0) else x.reg l n := by
  refine reg_foldl_lanes (w := fun l i => BitVec.ofNat 32 ((c l)[i]?.getD 0)) (fun a ha y l r hr => ?_) x hn
  have hlane := reg_setChannels (d := d) (l := a) (l' := l) hr (c a) 0 y (by rw [hc a ha]; exact hd)
  rwa [hc a ha] at hlane

/-! ## RAYQ (R219, R220, R224, R255) -/

theorem exec_rayq (g : GroupRef) (d sr h : Nat) (ecc : Ecc) (s : State) :
    exec (.rayq g d sr h ecc) s = execRayq g d sr h ecc s := rfl

theorem leNat_lt (bs : List Byte) : leNat bs < 256 ^ bs.length := by
  induction bs with
  | nil => exact Nat.one_pos
  | cons b bs ih =>
    rw [leNat, List.length_cons, Nat.pow_succ]
    have hb : b.toNat < 256 := b.isLt
    omega

/-- The result record of a ray query has 16 bytes (R220). -/
theorem length_of_rayAnswer {s : State} {r : Run} {hier : Nat} {q : Ray} {bs : List Byte} {visits : Nat} {lim : Bool}
    {nodes : List (Nat × Nat)} (h : s.rayAnswer r hier q = .ok (bs, visits, lim, nodes)) : bs.length = 16 := by
  unfold State.rayAnswer at h
  simp only at h
  split at h
  · cases h; rfl
  · split at h
    · cases h; rfl
    · split at h
      · cases h
      · rename_i hr _
        cases hwalk : s.rayWalk r hr q q.limit [{ idx := hr.root, leaf := false, level := 1, t := q.t0 }] none 0 with
        | error e => rw [hwalk] at h; cases h
        | ok o =>
          rw [hwalk] at h
          cases h
          cases o.hit with
          | none => simp
          | some hit => simp

/-- The group with the result record of each active lane's query in its registers from `d` on. -/
def Group.setRecords (x : Group) (d : Nat) (bs : Nat → List Byte) : Group :=
  x.active.foldl (fun y l => y.setWords l d 4 (leNat (bs l))) x

/-- What a register reads as after a group's records are written. -/
theorem reg_setRecords {x : Group} {d : Nat} {bs : Nat → List Byte} (hd : d + 4 ≤ 256) {l n : Nat} (hn : n < 256) :
    (x.setRecords d bs).reg l n =
      if l ∈ x.active ∧ d ≤ n ∧ n < d + 4 then BitVec.ofNat 32 (leNat (bs l) / 2 ^ (32 * (n - d))) else x.reg l n :=
  reg_foldl_lanes (w := fun l i => BitVec.ofNat 32 (leNat (bs l) / 2 ^ (32 * i)))
    (fun _ _ y _ _ hr => reg_setWords hr y _ hd) x hn

/-- A record of 16 bytes is read back from the registers of its lane. -/
theorem words_setRecords {x : Group} {d : Nat} {bs : Nat → List Byte} (hd : d + 4 ≤ 256) {l : Nat} (hl : l ∈ x.active)
    (hlen : (bs l).length = 16) : (x.setRecords d bs).words l d 4 = leNat (bs l) := by
  have hregs : ∀ i < 4, (x.setRecords d bs).reg l (d + i) = BitVec.ofNat 32 (leNat (bs l) / 2 ^ (32 * i)) := fun i hi => by
    rw [reg_setRecords hd (by omega), if_pos ⟨hl, by omega, by omega⟩, Nat.add_sub_cancel_left]
  rw [words_of_regs hregs]
  have hlt := leNat_lt (bs l)
  rw [hlen] at hlt
  exact Nat.mod_eq_of_lt hlt

/-- The counters of a channel's Traverse unit take a group's query (R224). -/
def State.countRays (s : State) (ch : Fin 4) (visits queries limits : Nat) : State :=
  ((s.bump (Obj.traverseVisits ch) visits 64).bump (Obj.traverseQueries ch) queries 64).bump (Obj.traverseLimits ch) limits 64

/-- A RAYQ whose lanes are all answered leaves the records in its registers, and counts. -/
theorem exec_rayq_answers {s : State} {ecc : Ecc} {g : GroupRef} {d sr h : Nat} {r : Run} {b : Block} {x : Group}
    {bs : Nat → List Byte} {visits : Nat → Nat} {lim : Nat → Bool} {nodes : Nat → List (Nat × Nat)} (hrun : s.clocksRun)
    (hissues : s.issues g [(d, 4), (sr, 8), (h, 2)] = true) (hfind : s.findGroup g = some (r, b, x)) (hbad : ecc.bad = none)
    (hlanes : ∀ l ∈ x.active, (s.noteEcc (toCh r.ch) ecc).rayAnswer { r with eng := .traverse } (x.pair l h)
      (rayOf (toLE 32 (x.words l sr 8)) 65535) = .ok (bs l, visits l, lim l, nodes l)) :
    exec (.rayq g d sr h ecc) s = .next ((((s.noteEcc (toCh r.ch) ecc).countRays (toCh r.ch) (x.active.map visits).sum
      x.active.length (x.active.filter lim).length).touchSpans { r with eng := .traverse } none
        (x.active.map nodes).flatten).putGroup g r b (x.setRecords d bs).next) := by
  obtain ⟨hr, -, -, -⟩ := findGroup_iff.mp hfind
  rw [exec_rayq, execRayq, clocked_next _ _ hrun]
  refine congrArg _ ((issue_of_issues hissues hfind).trans ?_)
  rw [readsMeet_goes_on _ hr hbad]
  simp only
  rw [allOk_map (g := fun l => (l, bs l, visits l, lim l, nodes l)) (fun l hl => by rw [hlanes l hl]; rfl)]
  simp only [List.map_map, List.foldl_map, List.filter_map, List.length_map, Function.comp_def]
  rfl

/-- The Traverse counters of a channel are three objects, and no counters of accesses. -/
theorem traverse_counters_apart (n : Fin 4) : Obj.traverseVisits n ∉ accessCounters ∧ Obj.traverseQueries n ∉ accessCounters ∧
    Obj.traverseLimits n ∉ accessCounters ∧ Obj.traverseVisits n ≠ Obj.traverseQueries n ∧
    Obj.traverseVisits n ≠ Obj.traverseLimits n ∧ Obj.traverseQueries n ≠ Obj.traverseLimits n := by
  revert n
  decide

section
variable (s : State) (ch : Fin 4) (visits queries limits : Nat)

theorem obj_countRays_visits : (s.countRays ch visits queries limits).obj (Obj.traverseVisits ch) =
    (s.obj (Obj.traverseVisits ch) + visits) % 2 ^ 64 := by
  obtain ⟨-, -, -, hvq, hvl, -⟩ := traverse_counters_apart ch
  rw [State.countRays, obj_bump_other _ _ _ hvl, obj_bump_other _ _ _ hvq, obj_bump_self]

theorem obj_countRays_queries : (s.countRays ch visits queries limits).obj (Obj.traverseQueries ch) =
    (s.obj (Obj.traverseQueries ch) + queries) % 2 ^ 64 := by
  obtain ⟨-, -, -, hvq, -, hql⟩ := traverse_counters_apart ch
  rw [State.countRays, obj_bump_other _ _ _ hql, obj_bump_self, obj_bump_other _ _ _ hvq.symm]

theorem obj_countRays_limits : (s.countRays ch visits queries limits).obj (Obj.traverseLimits ch) =
    (s.obj (Obj.traverseLimits ch) + limits) % 2 ^ 64 := by
  obtain ⟨-, -, -, -, hvl, hql⟩ := traverse_counters_apart ch
  rw [State.countRays, obj_bump_self, obj_bump_other _ _ _ hql.symm, obj_bump_other _ _ _ hvl.symm]

theorem sameObjsBut_countRays : sameObjsBut s (s.countRays ch visits queries limits)
    [Obj.traverseVisits ch, Obj.traverseQueries ch, Obj.traverseLimits ch] := by
  intro k hk
  simp only [List.mem_cons, List.not_mem_nil, or_false, not_or] at hk
  obtain ⟨hv, hq, hl⟩ := hk
  rw [State.countRays, obj_bump_other _ _ _ hl, obj_bump_other _ _ _ hq, obj_bump_other _ _ _ hv]

end

/-- From `s` to `t` nothing has changed but runs, objects, caches, and what the range and owner caches remember. -/
def queryFrame (s t : State) : Prop :=
  t = { s with runs := t.runs, objs := t.objs, caches := t.caches, ranges := t.ranges, owners := t.owners }

theorem queryFrame_trans {s t u : State} (hst : queryFrame s t) (htu : queryFrame t u) : queryFrame s u := by
  unfold queryFrame at *
  rw [htu, hst]

theorem queryFrame_of_readsOnly {s t : State} (h : ReadsOnly s t) : queryFrame s t :=
  h.access.1.trans (by rw [h.texCaches])

theorem queryFrame_bump (s : State) (k n w : Nat) : queryFrame s (s.bump k n w) := rfl

theorem queryFrame_countRays (s : State) (ch : Fin 4) (visits queries limits : Nat) :
    queryFrame s (s.countRays ch visits queries limits) :=
  queryFrame_trans (queryFrame_trans (queryFrame_bump s _ _ _) (queryFrame_bump _ _ _ _)) (queryFrame_bump _ _ _ _)

theorem queryFrame_putGroup (s : State) (g : GroupRef) (r : Run) (b : Block) (x : Group) :
    queryFrame s (s.putGroup g r b x) := rfl

end Sys2Proof.Machine
end

section
/-! Commands of the Bearing and Traverse engines (R200, R201, R214, R222): what one stages as it works to its end, and how it waits
for a line that an open publication holds (R157, R165). -/

namespace Sys2Proof.Machine

/-- The instruction `i` works run `r`, a command of the Bearing or Traverse unit whose mode is that of the instruction, and `f` is
that mode's outcome. -/
def State.engineCommand (s : State) (run : Nat) (ecc : Ecc) (r : Run) (i : Instr) (f : Run → Except Nat EngineOut) : Prop :=
  i = .bearingSearch run ecc ∧ bearingMode 0 r = true ∧ f = s.search ∨
  i = .bearingRefine run ecc ∧ bearingMode 1 r = true ∧ f = s.refine ∨
  i = .bearingOcclude run ecc ∧ bearingMode 2 r = true ∧ f = s.occlude ∨
  i = .traverseRays run ecc ∧ traverseMode 0 r = true ∧ f = s.rays ∨
  i = .traversePatch run ecc ∧ traverseMode 1 r = true ∧ f = s.patches

theorem exec_bearingSearch (run : Nat) (ecc : Ecc) (s : State) :
    exec (.bearingSearch run ecc) s = clocked s (fun s => engineRow s run (bearingMode 0) ecc s.search) := rfl

theorem exec_bearingRefine (run : Nat) (ecc : Ecc) (s : State) :
    exec (.bearingRefine run ecc) s = clocked s (fun s => engineRow s run (bearingMode 1) ecc s.refine) := rfl

theorem exec_bearingOcclude (run : Nat) (ecc : Ecc) (s : State) :
    exec (.bearingOcclude run ecc) s = clocked s (fun s => engineRow s run (bearingMode 2) ecc s.occlude) := rfl

theorem exec_traverseRays (run : Nat) (ecc : Ecc) (s : State) :
    exec (.traverseRays run ecc) s = clocked s (fun s => engineRow s run (traverseMode 0) ecc s.rays) := rfl

theorem exec_traversePatch (run : Nat) (ecc : Ecc) (s : State) :
    exec (.traversePatch run ecc) s = clocked s (fun s => engineRow s run (traverseMode 1) ecc s.patches) := rfl

/-- Each of the five commands is an engine row of its own mode and outcome. -/
theorem exec_engineCommand {s : State} {run : Nat} {ecc : Ecc} {r : Run} {i : Instr} {f : Run → Except Nat EngineOut}
    (hrun : s.clocksRun) (h : s.engineCommand run ecc r i f) :
    ∃ mode : Run → Bool, mode r = true ∧ exec i s = .next (engineRow s run mode ecc f) := by
  rcases h with ⟨rfl, hmode, rfl⟩ | ⟨rfl, hmode, rfl⟩ | ⟨rfl, hmode, rfl⟩ | ⟨rfl, hmode, rfl⟩ | ⟨rfl, hmode, rfl⟩
  · exact ⟨_, hmode, (exec_bearingSearch run ecc s).trans (clocked_next s _ hrun)⟩
  · exact ⟨_, hmode, (exec_bearingRefine run ecc s).trans (clocked_next s _ hrun)⟩
  · exact ⟨_, hmode, (exec_bearingOcclude run ecc s).trans (clocked_next s _ hrun)⟩
  · exact ⟨_, hmode, (exec_traverseRays run ecc s).trans (clocked_next s _ hrun)⟩
  · exact ⟨_, hmode, (exec_traversePatch run ecc s).trans (clocked_next s _ hrun)⟩

theorem onlyAccess_setRun (s : State) (run : Nat) (r : Run) : onlyAccess s (s.setRun run r) := onlyAccess_of_frame rfl rfl

/-- A run whose engine command has come to the outcome `o`. -/
def Run.stageOut (r : Run) (o : EngineOut) : Run :=
  { r with staged := o.cells, tally := o.tally, cut := o.cut, finished := true }

section
variable {s : State} {run : Nat} {mode : Run → Bool} {ecc : Ecc} {f : Run → Except Nat EngineOut} {r : Run}

/-- An engine command with an outcome stages it. -/
theorem engineRow_stages {o : EngineOut} (hr : look s.runs run = some r) (hfin : r.finished = false) (hmode : mode r = true)
    (hbad : ecc.bad = none) (hout : f r = .ok o) :
    engineRow s run mode ecc f =
      (((s.noteEcc (toCh r.ch) ecc).touchSpans r none o.reads).lookSpans r o.writes).setRun run (r.stageOut o) := by
  simp only [engineRow, hr, hfin, hmode, readsMeet_goes_on _ hr hbad, hout]
  rfl

/-- An engine command that reads a held line waits. -/
theorem engineRow_held {e k : Nat} (hr : look s.runs run = some r) (hfin : r.finished = false) (hmode : mode r = true)
    (hbad : ecc.bad = none) (herr : f r = .error e) (hheld : heldAt e = some k) :
    engineRow s run mode ecc f = (s.noteEcc (toCh r.ch) ecc).hold (.run run) (some (toCh r.ch)) [k] := by
  have hr' : look (s.noteEcc (toCh r.ch) ecc).runs run = some r := by rw [(readsOnly_noteEcc s _ hbad).runs, hr]
  simp only [engineRow, hr, hfin, hmode, readsMeet_goes_on _ hr hbad, herr]
  simp [State.faultRun, hheld, hr']

end

/-- A line that is held, and that the agent does not wait for yet, is waited for, and counted (R157, R165). -/
theorem hold_new {s : State} {who : Holder} {die : Option (Fin 4)} {k : Nat} (hheld : s.heldFrom die k = true)
    (hnew : ∀ x ∈ s.holds, x.who = who → x.key ≠ k) :
    s.hold who die [k] =
      ({ s with holds := s.holds ++ [⟨who, die, k, s.now⟩] } : State).bump (Obj.pubHolds (chanOf k)) 1 64 := by
  have hfresh : (s.holds.filter (fun h => h.who = who)).any (fun h => h.key = k) = false := by
    simpa using hnew
  simp only [State.hold, List.filter_cons, hheld, hfresh]
  rfl

theorem pubHolds_not_mem_accessCounters (n : Fin 4) : Obj.pubHolds n ∉ accessCounters := by
  revert n
  decide

/-! ## The obligation -/

/-- Settles O29. A query writes each lane's answer to the lane's own registers, which the other lanes leave; an engine command is
one engine row, by cases on its mode's outcome: it stages it, or waits for the line that is held. -/
theorem queriesAndSearches : Obligations.QueriesAndSearches := by
  refine ⟨?tex, ?rayq, ?stages, ?held⟩
  case tex =>
    intro s ecc g d sr u v smp r b x sf c hrun hissues hfind hbad hsmp hmodeX hmodeY hlanes
    have hexec := exec_tex_samples hrun hissues hfind hbad hsmp hmodeX hmodeY hlanes
    have hd := le_of_issues hissues
    have hc : ∀ l ∈ x.active, (c l).length = 4 := fun l hl => length_of_texSample (hlanes l hl).2
    have haccess (spans : List (Nat × Nat)) := onlyAccess_trans (onlyAccess_trans (onlyAccess_noteEcc s (toCh r.ch) hbad)
      (onlyAccess_texFill _ r b.core spans)) (onlyAccess_putGroup _ g r b (x.setSamples d c).next)
    refine ⟨_, hexec, haccess _, onlyAccess_mem (haccess _), _, group_putGroup _ hfind, ?_, ?_⟩
    · intro l n _ hn hout
      rw [reg_next, reg_setSamples hd hc hn, if_neg (not_lane_register hout)]
    · intro l hl i hi
      rw [reg_next, reg_setSamples hd hc (by omega), if_pos ⟨hl, by omega, by omega⟩, Nat.add_sub_cancel_left]
  case rayq =>
    intro s w ecc g d sr h r b x bs visits lim nodes hrun hissues hfind hbad hw hlanes
    subst hw
    have hd := le_of_issues hissues
    have hnote := readsOnly_noteEcc s (toCh r.ch) hbad
    have htouch := readsOnly_touchSpans ((s.noteEcc (toCh r.ch) ecc).countRays (toCh r.ch) (x.active.map visits).sum
      x.active.length (x.active.filter lim).length) { r with eng := .traverse } none (x.active.map nodes).flatten
    obtain ⟨hvisits, hqueries, hlimits, -⟩ := traverse_counters_apart (toCh r.ch)
    refine ⟨_, exec_rayq_answers hrun hissues hfind hbad hlanes, ?_, ⟨_, group_putGroup _ hfind, ?_, ?_⟩, ?_, ?_, ?_, ?_⟩
    · exact queryFrame_trans (queryFrame_trans (queryFrame_trans (queryFrame_of_readsOnly hnote) (queryFrame_countRays ..))
        (queryFrame_of_readsOnly htouch)) (queryFrame_putGroup ..)
    · intro l hl
      rw [words_next, words_setRecords hd hl (length_of_rayAnswer (hlanes l hl))]
    · intro l n _ hn hout
      rw [reg_next, reg_setRecords hd hn, if_neg (not_lane_register hout)]
    · exact (htouch.obj hvisits).trans (by rw [obj_countRays_visits, hnote.obj hvisits])
    · exact (htouch.obj hqueries).trans (by rw [obj_countRays_queries, hnote.obj hqueries])
    · exact (htouch.obj hlimits).trans (by rw [obj_countRays_limits, hnote.obj hlimits])
    · intro k hk
      obtain ⟨hcounters, haccess⟩ := not_or.mp (mt List.mem_append.mpr hk)
      exact (htouch.obj haccess).trans ((sameObjsBut_countRays _ _ _ _ _ k hcounters).trans (hnote.obj haccess))
  case stages =>
    intro s run ecc r o i f hrun hr hfin hbad hcommand hout
    obtain ⟨mode, hmode, hexec⟩ := exec_engineCommand hrun hcommand
    have hreads := ((readsOnly_noteEcc s (toCh r.ch) hbad).trans (readsOnly_touchSpans _ r none o.reads)).trans
      (readsOnly_lookSpans _ r o.writes)
    have haccess := onlyAccess_trans hreads.access (onlyAccess_setRun _ run (r.stageOut o))
    refine ⟨_, hexec.trans (congrArg _ (engineRow_stages hr hfin hmode hbad hout)), look_put_self _ _ _, haccess,
      onlyAccess_mem haccess, ?_⟩
    intro j hj
    exact (look_put_other _ _ hj).trans (by rw [hreads.runs])
  case held =>
    intro s w run e k ecc r i f hrun hr hfin hbad hcommand herr hkey hw hheld hnew
    subst hw
    obtain ⟨mode, hmode, hexec⟩ := exec_engineCommand hrun hcommand
    obtain ⟨o, hnote⟩ := noteEcc_frame s (toCh r.ch) hbad
    have hreads := readsOnly_noteEcc s (toCh r.ch) hbad
    have hnew' : ∀ x ∈ (s.noteEcc (toCh r.ch) ecc).holds, x.who = .run run → x.key ≠ k := by rw [hnote]; exact hnew
    refine ⟨_, hexec.trans (congrArg _ ((engineRow_held hr hfin hmode hbad herr hkey).trans (hold_new hheld hnew'))),
      ?_, ?_, ?_, ?_⟩
    · rw [hnote]; rfl
    · rw [hnote]; rfl
    · rw [obj_bump_self]
      exact congrArg (fun n => (n + 1) % 2 ^ 64) (hreads.obj (pubHolds_not_mem_accessCounters _))
    · intro j hj
      obtain ⟨hpub, haccess⟩ := not_or.mp (mt List.mem_cons.mpr hj)
      exact (obj_bump_other _ _ _ hpub).trans (hreads.obj haccess)

end Sys2Proof.Machine
end

section
/-! What the rules of composition and display share: a request outside a pair, attention for a state object, and the errors that
reads of composition meet. -/

namespace Sys2Proof.Machine

/-! ## Requests and decisions outside a pair (R436, R438) -/

/-- A write that a pair would mirror is the device's own on a channel outside one (R438). -/
theorem mirrored_alone {s : State} {k c T : Nat} {v : List Byte} {f : State → State} (hk : mirrorCh k = some c)
    (halone : s.inPair c = false) : s.mirrored k v T f = f s := by
  simp [State.mirrored, hk, halone]

/-- A request that is served outside a pair comes to its object's own rule (R352, R438). -/
theorem mirrored_command_served {s : State} {who : Req} {k c T : Nat} {v : List Byte} {f : State → State}
    (hserves : s.serves' who k) (hk : mirrorCh k = some c) (halone : s.inPair c = false) :
    s.mirrored k v T (fun s => s.command who k f) = f s :=
  (mirrored_alone hk halone).trans (command_served f hserves)

theorem inPair_of_obj {s t : State} (ch : Nat) (h : t.obj Obj.pairCtrl = s.obj Obj.pairCtrl) : t.inPair ch = s.inPair ch := by
  simp [State.inPair, h]

theorem decide_alone {s : State} {ch : Fin 4} (f : Decision → Decision) (halone : s.inPair ch = false) : s.decide ch f = s := by
  simp [State.decide, halone]

/-! ## A state object and its attention (R355) -/

theorem obj_setState (s : State) (chan k v j : Nat) : (s.setState chan k v).obj j = if j = k then v else s.obj j := by
  unfold State.setState State.attnState
  by_cases hv : s.obj k = v
  · rw [if_pos hv]
    by_cases hj : j = k
    · rw [if_pos hj, hj, hv]
    · rw [if_neg hj]
  · rw [if_neg hv, obj_attn, obj_setObj]

/-- A state object that changes is noted in the logs. -/
theorem setState_frame (s : State) (chan k v : Nat) :
    ∃ o l e, s.setState chan k v = { s with objs := o, raised := l, heldAttn := e } := by
  unfold State.setState
  split
  · exact ⟨_, _, _, rfl⟩
  · obtain ⟨l, e, h⟩ := State.attn_frame (s.setObj k v) atState chan k ((s.setObj k v).obj k)
    exact ⟨_, l, e, h⟩

/-! ## Errors that reads meet, uncorrectable ones among them (R308, R415) -/

/-- The objects that errors of reads count in. -/
def eccObjects : List Nat :=
  (chans.map (fun n : Fin 4 => [Obj.eccCorrected n, Obj.eccUncorrected n, Obj.eccLast n, Obj.hlCorrected n,
    Obj.hlUncorrected n, Obj.ringCorrected n, Obj.ringUncorrected n])).flatten

/-- From `s` to `t` errors of reads may have been counted and noted, and nothing else has happened. -/
structure NotesErrors (s t : State) : Prop where
  frame : ∃ o l e, t = { s with objs := o, raised := l, heldAttn := e }
  objs : sameObjsBut s t eccObjects

theorem NotesErrors.refl (s : State) : NotesErrors s s := ⟨⟨_, _, _, rfl⟩, fun _ _ => rfl⟩

theorem NotesErrors.setObj {s t : State} (h : NotesErrors s t) {k : Nat} (v : Nat) (hk : k ∈ eccObjects) :
    NotesErrors s (t.setObj k v) := by
  obtain ⟨⟨o, l, e, rfl⟩, hobjs⟩ := h
  refine ⟨⟨_, _, _, rfl⟩, fun j hj => ?_⟩
  rw [obj_setObj_other _ v (ne_of_mem_of_not_mem hk hj).symm]
  exact hobjs j hj

theorem NotesErrors.bump {s t : State} (h : NotesErrors s t) {k : Nat} (n w : Nat) (hk : k ∈ eccObjects) :
    NotesErrors s (t.bump k n w) := h.setObj _ hk

theorem NotesErrors.attn {s t : State} (h : NotesErrors s t) (code chan k d : Nat) : NotesErrors s (t.attn code chan k d) := by
  obtain ⟨⟨o, l, e, rfl⟩, hobjs⟩ := h
  obtain ⟨l', e', hattn⟩ := State.attn_frame { s with objs := o, raised := l, heldAttn := e } code chan k d
  exact ⟨⟨o, l', e', hattn⟩, fun j hj => (obj_attn _ _ _ _ _ _).trans (hobjs j hj)⟩

theorem mem_eccObjects (n : Fin 4) : Obj.eccCorrected n ∈ eccObjects ∧ Obj.eccUncorrected n ∈ eccObjects ∧
    Obj.eccLast n ∈ eccObjects ∧ Obj.hlCorrected n ∈ eccObjects ∧ Obj.hlUncorrected n ∈ eccObjects ∧
    Obj.ringCorrected n ∈ eccObjects ∧ Obj.ringUncorrected n ∈ eccObjects := by
  revert n
  decide

theorem notesErrors_noteEcc (s : State) (ch : Fin 4) (e : Ecc) : NotesErrors s (s.noteEcc ch e) := by
  obtain ⟨-, -, -, hhub, hhubBad, hring, hringBad⟩ := mem_eccObjects ch
  have hs := NotesErrors.refl s
  unfold State.noteEcc
  cases e.via with
  | mem =>
    have hcorrected (l : List Nat) : NotesErrors s (forEach l (fun s a => s.bump (Obj.eccCorrected (chanOf a)) 1 64) s) :=
      forEach_keeps (P := NotesErrors s) _ (fun t a ht => ht.bump 1 64 (mem_eccObjects (chanOf a)).1) l s hs
    cases e.bad with
    | none => exact hcorrected _
    | some a =>
      obtain ⟨-, hbad, hlast, -⟩ := mem_eccObjects (if a < devEnd then chanOf a else ch)
      exact (((hcorrected _).bump 1 32 hbad).setObj a hlast).attn _ _ _ _
  | hub =>
    cases e.bad with
    | none => exact hs.bump _ 64 hhub
    | some a => exact ((hs.bump _ 64 hhub).bump 1 32 hhubBad).attn _ _ _ _
  | ring =>
    cases e.bad with
    | none => exact hs.bump _ 64 hring
    | some a => exact ((hs.bump _ 64 hring).bump 1 32 hringBad).attn _ _ _ _

/-- The reads of a command of composition have met errors: these are counted and noted, and an uncorrectable one is known to
what the command reads (R308). -/
def State.meetErrors (s : State) (ch : Fin 4) (e : Ecc) : State := { s.noteEcc ch e with readFault := e.bad }

/-- The reads of a command of composition are over. -/
def State.endReads (s : State) : State := { s with readFault := none }

theorem compReads_eq (ch : Fin 4) (e : Ecc) (f : State → State) (s : State) :
    compReads ch e f s = (f (s.meetErrors ch e)).endReads := rfl

@[simp] theorem mem_meetErrors (s : State) (ch : Fin 4) (e : Ecc) : (s.meetErrors ch e).mem = s.mem := by
  obtain ⟨⟨o, l, x, h⟩, -⟩ := notesErrors_noteEcc s ch e
  rw [State.meetErrors, h]

@[simp] theorem comp_meetErrors (s : State) (ch n : Fin 4) (e : Ecc) : (s.meetErrors ch e).comp n = s.comp n := by
  obtain ⟨⟨o, l, x, h⟩, -⟩ := notesErrors_noteEcc s ch e
  rw [State.meetErrors, h]; rfl

theorem obj_meetErrors (s : State) (ch : Fin 4) (e : Ecc) {k : Nat} (hk : k ∉ eccObjects) :
    (s.meetErrors ch e).obj k = s.obj k := (notesErrors_noteEcc s ch e).objs k hk

@[simp] theorem obj_endReads (s : State) (k : Nat) : s.endReads.obj k = s.obj k := rfl
@[simp] theorem mem_endReads (s : State) : s.endReads.mem = s.mem := rfl
@[simp] theorem comp_endReads (s : State) (ch : Fin 4) : s.endReads.comp ch = s.comp ch := rfl

end Sys2Proof.Machine
end

section
/-! Composition sets: the snapshot before a frame start (R262, R265, R277), loaded tables (R275) and CLOSURE_CLEAR (R283). -/

namespace Sys2Proof.Machine

theorem exec_setSnapshot (ch : Fin 4) (ecc : Ecc) (s : State) :
    exec (.setSnapshot ch ecc) s = clocked s (compReads ch ecc (setSnapshot ch)) := rfl

theorem exec_closureClear (who : Req) (ch : Fin 4) (mask : Nat) (s : State) :
    exec (.closureClear who ch mask) s = clocked s (opClosureClear who ch mask) := rfl

/-! ## Operations on a set -/

@[simp] theorem comp_setComp_self (s : State) (ch : Fin 4) (c : Comp) : (s.setComp ch c).comp ch = c := per4_get_set_self _ _ _

@[simp] theorem obj_setComp (s : State) (ch : Fin 4) (c : Comp) (k : Nat) : (s.setComp ch c).obj k = s.obj k := rfl

/-- The objects in which a snapshot counts and records are distinct, and its counters count no errors of reads. -/
theorem setCounters_apart (ch : Fin 4) :
    Obj.setRefusals ch ≠ Obj.setError ch ∧ Obj.setLate ch ≠ Obj.setError ch ∧ Obj.setLate ch ≠ Obj.setRefusals ch ∧
    Obj.setRefusals ch ∉ eccObjects ∧ Obj.setLate ch ∉ eccObjects := by
  revert ch
  decide

theorem pairCtrl_ne_setCounters (ch : Fin 4) :
    Obj.pairCtrl ≠ Obj.setError ch ∧ Obj.pairCtrl ≠ Obj.setRefusals ch ∧ Obj.pairCtrl ≠ Obj.setLate ch := by
  revert ch
  decide

/-- A refused set changes SET_REFUSALS, SET_ERROR and what waits for the logs. -/
theorem refuseSet_frame (s : State) (ch : Fin 4) (o : Nat) :
    ∃ x l e, s.refuseSet ch o = { s with objs := x, raised := l, heldAttn := e } := by
  obtain ⟨l, e, h⟩ := State.attn_frame ((s.bump (Obj.setRefusals ch) 1 32).setObj (Obj.setError ch) (eComp * 65536 + o))
    eComp ch (Obj.setError ch) _
  exact ⟨_, l, e, h⟩

theorem obj_refuseSet (s : State) (ch : Fin 4) (o k : Nat) :
    (s.refuseSet ch o).obj k = if k = Obj.setError ch then eComp * 65536 + o
      else if k = Obj.setRefusals ch then (s.obj (Obj.setRefusals ch) + 1) % 2 ^ 32 else s.obj k := by
  simp [State.refuseSet, State.bump, obj_setObj]

/-- The set in force goes on, with nothing to change, with a new working copy for the next frame, or refused. -/
theorem keepSet_cases (s : State) (ch : Fin 4) : s.keepSet ch = s ∨ (∃ o, s.keepSet ch = s.refuseSet ch o) ∨
    ∃ x, s.keepSet ch = s.setComp ch { s.comp ch with next := some x } := by
  unfold State.keepSet
  dsimp only
  split
  · exact .inl rfl
  · split
    · exact .inr (.inl ⟨_, rfl⟩)
    · split
      · exact .inr (.inr ⟨_, rfl⟩)
      · exact .inr (.inl ⟨_, rfl⟩)

theorem mem_keepSet (s : State) (ch : Fin 4) : (s.keepSet ch).mem = s.mem := by
  rcases keepSet_cases s ch with h | ⟨o, h⟩ | ⟨x, h⟩
  · rw [h]
  · obtain ⟨x, l, e, hrefuse⟩ := refuseSet_frame s ch o
    rw [h, hrefuse]
  · rw [h]; rfl

/-- Of the channel's pipe, keeping the set in force changes the set for the next frame only. -/
theorem comp_keepSet (s : State) (ch : Fin 4) : ∃ x, (s.keepSet ch).comp ch = { s.comp ch with next := x } := by
  rcases keepSet_cases s ch with h | ⟨o, h⟩ | ⟨x, h⟩
  · exact ⟨_, by rw [h]⟩
  · obtain ⟨x, l, e, hrefuse⟩ := refuseSet_frame s ch o
    exact ⟨(s.comp ch).next, by rw [h, hrefuse]; rfl⟩
  · exact ⟨some x, by rw [h, comp_setComp_self]⟩

theorem obj_keepSet_other (s : State) {ch : Fin 4} {k : Nat} (herror : k ≠ Obj.setError ch)
    (hrefusals : k ≠ Obj.setRefusals ch) :
    (s.keepSet ch).obj k = s.obj k := by
  rcases keepSet_cases s ch with h | ⟨o, h⟩ | ⟨x, h⟩
  · rw [h]
  · rw [h, obj_refuseSet, if_neg herror, if_neg hrefusals]
  · rw [h, obj_setComp]

/-! ## The snapshot on a device outside a pair (R262) -/

/-- A snapshot of channel `ch` is taken at the present edge: a frame start lies within reach, the snapshot has not been taken,
and what takes effect at the edge has, on a channel outside a pair. -/
structure State.SnapshotHere (u : State) (ch : Fin 4) : Prop where
  due : u.snapDue ch = true
  edge : u.edgeDue ch = false
  frame : u.frameDue ch = false
  alone : u.inPair ch = false

theorem snapshotHere_of_lead {u : State} {ch : Fin 4} {n : Nat} (hnext : u.nextFrame ch = some n)
    (hfirst : (u.comp ch).snapped = false) (hframes : (u.comp ch).frame ≠ none) (hlead : n ≤ u.snapLead ch)
    (hup : u.compUp ch = true) (hedge : u.edgeDue ch = false) (hframe : u.frameDue ch = false)
    (halone : u.inPair ch = false) : u.SnapshotHere ch :=
  { due := by simp [State.snapDue, hnext, hfirst, hlead, hup, Option.isSome_iff_ne_none.mpr hframes]
    edge := hedge, frame := hframe, alone := halone }

/-- The channel's snapshot before its next frame start has been taken. -/
def State.markSnapped (u : State) (ch : Fin 4) : State := u.setComp ch { u.comp ch with snapped := true }

/-- The device address that the pointer word of a channel gives, 0 for a pointer of 0. -/
def State.ptrSet (s : State) (ch : Fin 4) : Nat := if s.setPtr ch = 0 then 0 else s.devNat (s.setPtr ch) 8

theorem setSnapshot_alone {u : State} {ch : Fin 4} (h : u.SnapshotHere ch) :
    setSnapshot ch u = (u.markSnapped ch).snapshotNow ch := by
  obtain ⟨hdue, hedge, hframe, halone⟩ := h
  simp [setSnapshot, hdue, hedge, hframe, State.standby, halone, State.markSnapped]

theorem ptr_not_held {s : State} {ch : Fin 4} (hfree : s.setPtr ch = 0 ∨ s.ptrHeld (s.setPtr ch) = false) :
    (decide (s.setPtr ch ≠ 0) && s.ptrHeld (s.setPtr ch)) = false := by
  rcases hfree with h | h
  · simp [h]
  · simp [h]

section Decided
variable {s : State} {ch : Fin 4} (halone : s.inPair ch = false)
include halone

theorem snapshotNow_keeps (hptr : s.setPtr ch ≠ 0) (hheld : s.ptrHeld (s.setPtr ch) = true) :
    s.snapshotNow ch = (s.bump (Obj.setLate ch) 1 32).keepSet ch := by
  obtain ⟨herror, hrefusals, hlate⟩ := pairCtrl_ne_setCounters ch
  have hpair : ((s.bump (Obj.setLate ch) 1 32).keepSet ch).inPair ch = false :=
    (inPair_of_obj ch ((obj_keepSet_other _ herror hrefusals).trans (obj_bump_other _ _ _ hlate))).trans halone
  unfold State.snapshotNow
  simp only [hptr, hheld, ne_eq, not_false_eq_true, decide_true, Bool.and_self, if_true]
  exact decide_alone _ hpair

theorem snapshotNow_takes (hfree : s.setPtr ch = 0 ∨ s.ptrHeld (s.setPtr ch) = false)
    (hgood : (s.takeSet ch (s.ptrSet ch)).bad = none) :
    s.snapshotNow ch = s.setComp ch ((s.comp ch).use (s.takeSet ch (s.ptrSet ch))) := by
  unfold State.ptrSet at hgood
  unfold State.snapshotNow
  simp only [ptr_not_held hfree, hgood, Bool.false_eq_true, if_false]
  exact decide_alone (s := s.setComp ch _) _ halone

theorem snapshotNow_refuses (hfree : s.setPtr ch = 0 ∨ s.ptrHeld (s.setPtr ch) = false) {o : Nat}
    (hbad : (s.takeSet ch (s.ptrSet ch)).bad = some o) : s.snapshotNow ch = s.refuseSet ch o := by
  obtain ⟨herror, hrefusals, -⟩ := pairCtrl_ne_setCounters ch
  have hpair : (s.refuseSet ch o).inPair ch = false := by
    refine (inPair_of_obj ch ?_).trans halone
    rw [obj_refuseSet, if_neg herror, if_neg hrefusals]
  unfold State.ptrSet at hbad
  unfold State.snapshotNow
  simp only [ptr_not_held hfree, hbad, Bool.false_eq_true, if_false]
  exact decide_alone _ hpair

end Decided

/-! ## Tables that have been loaded (R275) -/

/-- The bank of a loading set stands ready. -/
def State.loadTables (ch : Fin 4) (s : State) : State :=
  match (s.comp ch).loading, (s.comp ch).idle with
  | some x, none => s.setComp ch { s.comp ch with idle := some (s.bankOf (s.comp ch) x.bytes) }
  | _, _ => s

theorem exec_lutBankLoadDone (ch : Fin 4) (ecc : Ecc) (s : State) :
    exec (.lutBankLoadDone ch ecc) s = clocked s (compReads ch ecc (State.loadTables ch)) := rfl

theorem loadTables_ready {s : State} {ch : Fin 4} {x : CompSet} (hloading : (s.comp ch).loading = some x)
    (hidle : (s.comp ch).idle = none) :
    s.loadTables ch = s.setComp ch { s.comp ch with idle := some (s.bankOf (s.comp ch) x.bytes) } := by
  simp [State.loadTables, hloading, hidle]

/-! ## CLOSURE_CLEAR (R283) -/

theorem mirrorCh_closureClear (ch : Fin 4) : mirrorCh (Obj.closureClear ch) = some ch.val := by
  revert ch
  decide

theorem opClosureClear_served {s : State} {who : Req} {ch : Fin 4} {mask : Nat} (hserves : s.serves' who (Obj.closureClear ch))
    (halone : s.inPair ch = false) :
    opClosureClear who ch mask s = (s.clearRegions ch mask).done (Obj.closureClear ch) := by
  unfold opClosureClear
  rw [mirrored_command_served hserves (mirrorCh_closureClear ch) halone, halone]
  rfl

/-! ## The snapshot and the errors its reads meet -/

/-- The command at the snapshot's edge answers the decision taken under the errors its reads met. -/
theorem does_setSnapshot {s u s1 : State} {ch : Fin 4} {ecc : Ecc} {p : State → Prop} (hrun : s.clocksRun)
    (hu : u = s.meetErrors ch ecc) (hhere : u.SnapshotHere ch) (hs1 : s1 = u.markSnapped ch)
    (hp : p (s1.snapshotNow ch).endReads) : Does (.setSnapshot ch ecc) s p := by
  refine does_of_clocksRun (exec_setSnapshot ch ecc s) hrun ?_
  rwa [compReads_eq, ← hu, setSnapshot_alone hhere, ← hs1]

/-- The errors of its reads and the mark leave memory, and change errors' counters and the mark only. -/
theorem marked_of_meetErrors {s u s1 : State} {ch : Fin 4} {ecc : Ecc} (hu : u = s.meetErrors ch ecc)
    (hs1 : s1 = u.markSnapped ch) :
    s1.mem = s.mem ∧ s1.comp ch = { s.comp ch with snapped := true } ∧ sameObjsBut s s1 eccObjects := by
  subst hs1 hu
  refine ⟨mem_meetErrors s ch ecc, ?_, fun k hk => obj_meetErrors s ch ecc hk⟩
  rw [State.markSnapped, comp_setComp_self, comp_meetErrors]

/-! ## The obligation -/

/-- Settles O34. A snapshot at its edge comes to the decision of a device outside a pair (`does_setSnapshot`), which takes the
set, refuses it or keeps the one in force; what its reads met leaves the pipes and the counters of sets alone. -/
theorem compositionSets : Obligations.CompositionSets := by
  refine ⟨?takes, ?refuses, ?late, ?tables, ?clear⟩
  case takes =>
    intro s u s1 ch ecc n a x hrun hu hnext hfirst hframes hlead hup hedge hframe halone hs1 hfree ha hx hgood
    subst ha hx
    refine does_setSnapshot hrun hu (snapshotHere_of_lead hnext hfirst hframes hlead hup hedge hframe halone) hs1 ?_
    have halone1 : s1.inPair ch = false := by rw [hs1]; exact halone
    exact congrArg State.endReads (snapshotNow_takes halone1 hfree hgood)
  case refuses =>
    intro s u s1 ch ecc n a o hrun hu hnext hfirst hframes hlead hup hedge hframe halone hs1 hfree ha hbad
    subst ha
    refine does_setSnapshot hrun hu (snapshotHere_of_lead hnext hfirst hframes hlead hup hedge hframe halone) hs1 ?_
    have halone1 : s1.inPair ch = false := by rw [hs1]; exact halone
    rw [snapshotNow_refuses halone1 hfree hbad]
    obtain ⟨hne, -, -, hcount, -⟩ := setCounters_apart ch
    obtain ⟨y, l, e, hrefuse⟩ := refuseSet_frame s1 ch o
    obtain ⟨hmem, -, hobjs⟩ := marked_of_meetErrors hu hs1
    refine ⟨?_, ?_, ?_, ?_⟩
    · rw [hrefuse]; rfl
    · rw [hrefuse]; exact hmem
    · rw [obj_endReads, obj_refuseSet, if_neg hne, if_pos rfl, hobjs _ hcount]
    · rw [obj_endReads, obj_refuseSet, if_pos rfl]
  case late =>
    intro s u s1 ch ecc n hrun hu hnext hfirst hframes hlead hup hedge hframe halone hs1 hptr hheld
    refine does_setSnapshot hrun hu (snapshotHere_of_lead hnext hfirst hframes hlead hup hedge hframe halone) hs1 ?_
    have halone1 : s1.inPair ch = false := by rw [hs1]; exact halone
    rw [snapshotNow_keeps halone1 hptr hheld]
    obtain ⟨-, herror, hrefusals, -, hcount⟩ := setCounters_apart ch
    obtain ⟨hmem, hmarked, hobjs⟩ := marked_of_meetErrors hu hs1
    obtain ⟨x, hkept⟩ := comp_keepSet (s1.bump (Obj.setLate ch) 1 32) ch
    have hcomp := hkept.trans (congrArg (fun c : Comp => { c with next := x }) hmarked)
    refine ⟨?_, ?_, ?_, ?_⟩
    · rw [obj_endReads, obj_keepSet_other _ herror hrefusals, obj_bump_self, hobjs _ hcount]
    · rw [mem_endReads, mem_keepSet]; exact hmem
    · rw [comp_endReads, hcomp]
    · rw [comp_endReads, hcomp]
  case tables =>
    intro s u ch ecc x hrun hu hloading hidle
    refine does_of_clocksRun (exec_lutBankLoadDone ch ecc s) hrun ?_
    have hmet : u = s.meetErrors ch ecc := hu
    rw [compReads_eq, ← hmet, loadTables_ready hloading hidle]
    rfl
  case clear =>
    intro s who ch mask hserves halone
    refine does_of_clocksRun (exec_closureClear who ch mask s) hserves.1 ?_
    exact opClosureClear_served hserves halone

end Sys2Proof.Machine
end

section
/-! Display outputs (R285 to R294): DP_APPLY and its effect, training, HPD and HDCP. -/

namespace Sys2Proof.Machine

theorem exec_dpApply (who : Req) (ch : Fin 4) (T : Nat) (s : State) :
    exec (.dpApply who ch T) s = clocked s (opDpApply who ch T) := rfl

theorem exec_dpTimingEffect (ch : Fin 4) (s : State) : exec (.dpTimingEffect ch) s = clocked s (dpEffect ch) := rfl

theorem exec_hdcpLoss (ch : Fin 4) (s : State) : exec (.hdcpLoss ch) s = clocked s (fun s => s.loseHdcp ch) := rfl

/-! ## Operations on a display output -/

/-- The objects of a display output that its events change are distinct, and are no latched pads. -/
theorem dpObjects_apart (ch : Fin 4) :
    Obj.dpState ch ≠ Obj.hdcpState ch ∧ Obj.dpRetrains ch ≠ Obj.hdcpState ch ∧ Obj.dpRetrains ch ≠ Obj.dpState ch ∧
    Obj.hdcpState ch ≠ Obj.padLatched ∧ Obj.dpState ch ≠ Obj.padLatched := by
  revert ch
  decide

@[simp] theorem dp_setDp_self (s : State) (ch : Fin 4) (d : DpLink) : (s.setDp ch d).dp ch = d := per4_get_set_self _ _ _
@[simp] theorem obj_setDp (s : State) (ch : Fin 4) (d : DpLink) (k : Nat) : (s.setDp ch d).obj k = s.obj k := rfl
@[simp] theorem dp_setObj (s : State) (ch : Fin 4) (k v : Nat) : (s.setObj k v).dp ch = s.dp ch := rfl
@[simp] theorem dp_idleLanes (s : State) (ch n : Fin 4) : (s.idleLanes n).dp ch = s.dp ch := rfl
@[simp] theorem obj_idleLanes (s : State) (n : Fin 4) (k : Nat) : (s.idleLanes n).obj k = s.obj k := rfl
@[simp] theorem dp_lateRelease (s : State) (ch : Fin 4) : s.lateRelease.dp ch = s.dp ch := rfl
@[simp] theorem cmdStatus_lateRelease (s : State) : s.lateRelease.cmdStatus = s.cmdStatus := rfl

theorem dp_setState (s : State) (ch : Fin 4) (chan k v : Nat) : (s.setState chan k v).dp ch = s.dp ch := by
  obtain ⟨o, l, e, h⟩ := setState_frame s chan k v
  rw [h]; rfl

/-- Attention leaves the display outputs. -/
@[simp] theorem dp_attn (s : State) (ch : Fin 4) (code chan k d : Nat) : (s.attn code chan k d).dp ch = s.dp ch := by
  unfold State.dp
  rw [State.attn_dps]

/-! ### Loss of HDCP (R292, R298) -/

/-- A loss of HDCP changes HDCP_STATE and what the frame in progress shows. -/
theorem loseHdcp_frame (s : State) (ch : Fin 4) : ∃ o c, s.loseHdcp ch = { s with objs := o, comps := c } := by
  unfold State.loseHdcp
  split
  · exact ⟨_, _, rfl⟩
  · dsimp only
    split
    · exact ⟨_, _, rfl⟩
    · exact ⟨_, _, rfl⟩

theorem obj_loseHdcp (s : State) (ch : Fin 4) (k : Nat) :
    (s.loseHdcp ch).obj k = if k = Obj.hdcpState ch then 0 else s.obj k := by
  unfold State.loseHdcp
  by_cases hzero : s.obj (Obj.hdcpState ch) = 0
  · rw [if_pos hzero]
    by_cases hk : k = Obj.hdcpState ch
    · rw [if_pos hk, hk, hzero]
    · rw [if_neg hk]
  · rw [if_neg hzero, ← obj_setObj]
    dsimp only
    split
    · exact obj_setComp _ _ _ _
    · rfl

@[simp] theorem dp_loseHdcp (s : State) (ch n : Fin 4) : (s.loseHdcp n).dp ch = s.dp ch := by
  obtain ⟨o, c, h⟩ := loseHdcp_frame s n
  rw [h]; rfl

@[simp] theorem cmdStatus_loseHdcp (s : State) (n : Fin 4) : (s.loseHdcp n).cmdStatus = s.cmdStatus := by
  obtain ⟨o, c, h⟩ := loseHdcp_frame s n
  rw [h]

@[simp] theorem mem_loseHdcp (s : State) (n : Fin 4) : (s.loseHdcp n).mem = s.mem := by
  obtain ⟨o, c, h⟩ := loseHdcp_frame s n
  rw [h]

/-- Protected content leaves the rest of the frame where HDCP is lost (R292). -/
theorem cutOff_loseHdcp {s : State} {ch : Fin 4} (hauth : s.obj (Obj.hdcpState ch) ≠ 0)
    (hcarries : s.carriesProtected ch = true) : ((s.loseHdcp ch).comp ch).cutOff = true := by
  unfold State.loseHdcp
  rw [if_neg hauth]
  simp [hcarries]

/-! ### Training (R287, R288, R294) -/

/-- DP_STATE of a display output that trains: OFF when disabled, else TRAINING with a plugged sink and UNPLUGGED without. -/
def DpLink.trainState (d : DpLink) : Nat := if !bit d.cfg.ctrl 31 then 0 else if d.hpd then 1 else 3

theorem dp_trainDp (s : State) (ch : Fin 4) : (s.trainDp ch).dp ch = { s.dp ch with attempts := 0 } := by
  simp [State.trainDp]

theorem obj_trainDp (s : State) (ch : Fin 4) (k : Nat) :
    (s.trainDp ch).obj k = if k = Obj.hdcpState ch then 0 else if k = Obj.dpState ch then (s.dp ch).trainState else s.obj k := by
  unfold State.trainDp
  rw [obj_idleLanes, obj_loseHdcp, obj_setObj]
  rfl

@[simp] theorem cmdStatus_trainDp (s : State) (ch : Fin 4) : (s.trainDp ch).cmdStatus = s.cmdStatus := by
  unfold State.trainDp State.idleLanes State.setComp
  exact cmdStatus_loseHdcp _ _

/-- What DPn reads of its sink leaves the display outputs' settings (R288, R291). -/
@[simp] theorem dp_readSink (s : State) (ch n : Fin 4) : (s.readSink n).dp ch = s.dp ch := rfl

/-! ## DP_APPLY (R285, R287) -/

theorem mirrorCh_dpApply (ch : Fin 4) : mirrorCh (Obj.dpApply ch) = some ch.val := by
  revert ch
  decide

/-- The staged settings of DPn are ones that DP_APPLY takes for tick `T` (R285, R287, R289, R300). -/
structure State.DpApplyTakes (s : State) (ch : Fin 4) (T : Nat) : Prop where
  ctrl : dpCtrlOk (s.stagedDp ch).ctrl = true
  timing : timingOk (s.stagedDp ch) (s.lChk ch) (s.periodOf ch) = true
  dsc : dscOk (s.stagedDp ch) (s.periodOf ch) = true
  ahead : s.ahead ch T = true
  fits : s.fitsWaiting ch T (s.stagedDp ch) = true
  frame : s.startsAt ch T = true ∨ ((s.pacer ch).change.dueAt = some T ∧ T ≠ 0)

/-- DP_APPLY as a served request on a channel outside a pair: settings it takes wait for their frame start. -/
theorem opDpApply_accepts {s : State} {who : Req} {ch : Fin 4} {T : Nat} (hserves : s.serves' who (Obj.dpApply ch))
    (halone : s.inPair ch = false) (h : s.DpApplyTakes ch T) :
    opDpApply who ch T s = ({ s with dps := s.dps.mod ch (fun d => { d with pending := some (T, s.stagedDp ch) }) } : State).accept
      (Obj.dpApply ch) := by
  obtain ⟨hctrl, htiming, hdsc, hahead, hfits, hframe⟩ := h
  unfold opDpApply
  rw [mirrored_command_served hserves (mirrorCh_dpApply ch) halone]
  refine if_neg ?_
  rcases hframe with hstart | ⟨hdue, hT⟩
  · simp [hctrl, htiming, hdsc, hahead, hfits, hstart]
  · simp [hctrl, htiming, hdsc, hahead, hfits, hdue, hT]

theorem opDpApply_refuses {s : State} {who : Req} {ch : Fin 4} {T : Nat} (hserves : s.serves' who (Obj.dpApply ch))
    (halone : s.inPair ch = false) (h : ¬ s.DpApplyTakes ch T) :
    opDpApply who ch T s = s.refuse (Obj.dpApply ch) rcRange := by
  unfold opDpApply
  rw [mirrored_command_served hserves (mirrorCh_dpApply ch) halone]
  refine if_pos (Decidable.byContradiction fun hpass => h ?_)
  simp only [Bool.or_eq_true, Bool.not_eq_true', not_or, Bool.not_eq_false, Bool.and_eq_true, decide_eq_true_eq] at hpass
  obtain ⟨⟨⟨⟨⟨hctrl, htiming⟩, hdsc⟩, hahead⟩, hframe⟩, hfits⟩ := hpass
  exact ⟨hctrl, htiming, hdsc, hahead, hfits, hframe⟩

/-! ## DP_TIMING_EFFECT (R287, R292) -/

/-- Settings are in force on DPn, and its command is done; domains of an output that they disable stay ON for a while. -/
def State.takeDp (s : State) (ch : Fin 4) (c : DpCfg) : State :=
  ((if bit (s.dp ch).cfg.ctrl 31 && !bit c.ctrl 31 then s.lingers [ch, 4 + ch] else s).setDp ch
    { s.dp ch with cfg := c, pending := none }).ended (Obj.dpApply ch) 0 2

/-- Settings without HDCP_EN end what is authenticated (R292). -/
def State.keepHdcp (s : State) (ch : Fin 4) (c : DpCfg) : State := if bit c.ctrl 10 then s else s.loseHdcp ch

/-- The link trains where its new settings need it. -/
def State.retrainIf (s : State) (ch : Fin 4) (needs : Bool) : State := if needs then s.trainDp ch else s

theorem dpEffect_due {s : State} {ch : Fin 4} {T : Nat} {c : DpCfg} (hwaits : (s.dp ch).pending = some (T, c))
    (hT : T ≤ s.tick ch) :
    dpEffect ch s = (((s.takeDp ch c).keepHdcp ch c).retrainIf ch ((s.dp ch).retrains c)).lateRelease := by
  unfold dpEffect
  simp only [hwaits, if_neg (Nat.not_lt.mpr hT)]
  rfl

@[simp] theorem obj_takeDp (s : State) (ch : Fin 4) (c : DpCfg) (k : Nat) : (s.takeDp ch c).obj k = s.obj k := by
  unfold State.takeDp
  rw [obj_ended, obj_setDp]
  split
  · rfl
  · rfl

@[simp] theorem dp_takeDp (s : State) (ch : Fin 4) (c : DpCfg) : 
    (s.takeDp ch c).dp ch = { s.dp ch with cfg := c, pending := none } := by
  unfold State.takeDp State.dp
  rw [State.ended_dps]
  exact per4_get_set_self _ _ _

@[simp] theorem look_takeDp (s : State) (ch : Fin 4) (c : DpCfg) :
    look (s.takeDp ch c).cmdStatus (Obj.dpApply ch) = some (cmdWord 0 2) := look_ended _ _ _ _

theorem obj_keepHdcp (s : State) (ch : Fin 4) (c : DpCfg) (k : Nat) :
    (s.keepHdcp ch c).obj k = if k = Obj.hdcpState ch ∧ bit c.ctrl 10 = false then 0 else s.obj k := by
  unfold State.keepHdcp
  cases hen : bit c.ctrl 10 with
  | false => simp [obj_loseHdcp]
  | true => simp

@[simp] theorem dp_keepHdcp (s : State) (ch : Fin 4) (c : DpCfg) : (s.keepHdcp ch c).dp ch = s.dp ch := by
  unfold State.keepHdcp
  split
  · rfl
  · exact dp_loseHdcp _ _ _

@[simp] theorem cmdStatus_keepHdcp (s : State) (ch : Fin 4) (c : DpCfg) : (s.keepHdcp ch c).cmdStatus = s.cmdStatus := by
  unfold State.keepHdcp
  split
  · rfl
  · exact cmdStatus_loseHdcp _ _

theorem obj_retrainIf (s : State) (ch : Fin 4) (needs : Bool) (k : Nat) :
    (s.retrainIf ch needs).obj k = if needs = true ∧ k = Obj.hdcpState ch then 0
      else if needs = true ∧ k = Obj.dpState ch then (s.dp ch).trainState else s.obj k := by
  cases needs with
  | false => simp [State.retrainIf]
  | true => simp [State.retrainIf, obj_trainDp]

/-- Training changes neither the settings of an output nor those that wait. -/
theorem dp_retrainIf (s : State) (ch : Fin 4) (needs : Bool) :
    ∃ n, (s.retrainIf ch needs).dp ch = { s.dp ch with attempts := n } := by
  cases needs with
  | false => exact ⟨_, rfl⟩
  | true => exact ⟨0, dp_trainDp s ch⟩

@[simp] theorem cmdStatus_retrainIf (s : State) (ch : Fin 4) (needs : Bool) : (s.retrainIf ch needs).cmdStatus = s.cmdStatus := by
  cases needs with
  | false => rfl
  | true => exact cmdStatus_trainDp s ch

/-- Every object but the latched pads after settings have taken effect. -/
theorem obj_dpEffect {s : State} {ch : Fin 4} {T : Nat} {c : DpCfg} (hwaits : (s.dp ch).pending = some (T, c))
    (hT : T ≤ s.tick ch) {k : Nat} (hk : k ≠ Obj.padLatched) :
    (dpEffect ch s).obj k =
      if k = Obj.hdcpState ch then (if bit c.ctrl 10 = true ∧ (s.dp ch).retrains c = false then s.obj k else 0)
      else if (s.dp ch).retrains c = true ∧ k = Obj.dpState ch then DpLink.trainState { s.dp ch with cfg := c } else s.obj k := by
  rw [dpEffect_due hwaits hT, obj_lateRelease_other _ hk, obj_retrainIf, obj_keepHdcp, obj_takeDp, dp_keepHdcp, dp_takeDp]
  by_cases hhdcp : k = Obj.hdcpState ch
  · cases (s.dp ch).retrains c with
    | true => simp [hhdcp]
    | false =>
      cases bit c.ctrl 10 with
      | true => simp
      | false => simp [hhdcp]
  · simp [hhdcp]; rfl

end Sys2Proof.Machine
end

section
/-! Display outputs and video inputs, by event: training, HPD and HDCP of an output (R288, R292, R294), and the link, the stream
and the loss of an input (R295 to R297). -/

namespace Sys2Proof.Machine

/-! ## Events of a display output -/

theorem exec_dpTrainingDone (ch : Fin 4) (ok : Bool) (s : State) :
    exec (.dpTrainingDone ch ok) s = execDpTrainingDone ch ok s := rfl
theorem exec_hpdLowTimeout (ch : Fin 4) (s : State) : exec (.hpdLowTimeout ch) s = execHpdLowTimeout ch s := rfl
theorem exec_hpdReturn (ch : Fin 4) (s : State) : exec (.hpdReturn ch) s = execHpdReturn ch s := rfl
theorem exec_irqHpd (ch : Fin 4) (unlocked : Bool) (s : State) :
    exec (.irqHpd ch unlocked) s = execIrqHpd ch unlocked s := rfl
theorem exec_hdcpAuthDone (ch : Fin 4) (type1 : Bool) (s : State) :
    exec (.hdcpAuthDone ch type1) s = execHdcpAuthDone ch type1 s := rfl

section Output
variable {s : State} {ch : Fin 4} (hrun : s.clocksRun)
include hrun

theorem exec_dpTrainingDone_up (hstate : s.obj (Obj.dpState ch) = 1) (hready : s.linkReady ch = true)
    (hrate : dpRateOk (s.dp ch).cfg.ctrl = true) :
    exec (.dpTrainingDone ch true) s = .next ((s.setDp ch { s.dp ch with attempts := 0 }).setObj (Obj.dpState ch) 2) := by
  rw [exec_dpTrainingDone, execDpTrainingDone, clocked_next s _ hrun]
  simp [hstate, hready, hrate]

theorem exec_dpTrainingDone_fails {ok : Bool} (hstate : s.obj (Obj.dpState ch) = 1) (hready : s.linkReady ch = true)
    (hbad : ok = false ∨ dpRateOk (s.dp ch).cfg.ctrl = false) :
    exec (.dpTrainingDone ch ok) s = .next (if 4 ≤ (s.dp ch).attempts then
      ((s.setDp ch { s.dp ch with attempts := (s.dp ch).attempts + 1 }).idleLanes ch).setState ch (Obj.dpState ch) 4
      else s.setDp ch { s.dp ch with attempts := (s.dp ch).attempts + 1 }) := by
  have hnot : (ok && dpRateOk (s.dp ch).cfg.ctrl) = false := by
    rcases hbad with h | h
    · simp [h]
    · simp [h]
  rw [exec_dpTrainingDone, execDpTrainingDone, clocked_next s _ hrun]
  simp [hstate, hready, hnot]

theorem exec_hpdLowTimeout_enabled (hen : bit (s.dp ch).cfg.ctrl 31 = true) :
    exec (.hpdLowTimeout ch) s = .next ((((s.setDp ch { s.dp ch with hpd := false }).loseHdcp ch).idleLanes ch).setState ch
      (Obj.dpState ch) 3) := by
  rw [exec_hpdLowTimeout, execHpdLowTimeout, clocked_next s _ hrun]
  simp [hen]

theorem exec_hpdReturn_enabled (hen : bit (s.dp ch).cfg.ctrl 31 = true) (hlow : (s.dp ch).hpd = false) :
    exec (.hpdReturn ch) s = .next ((((s.setDp ch { s.dp ch with hpd := true }).readSink ch).trainDp ch).attnState ch
      (Obj.dpState ch)) := by
  rw [exec_hpdReturn, execHpdReturn, clocked_next s _ hrun]
  simp [hen, hlow]

theorem exec_irqHpd_unlocked (hup : s.obj (Obj.dpState ch) = 2) :
    exec (.irqHpd ch true) s = .next ((s.trainDp ch).bump (Obj.dpRetrains ch) 1 32) := by
  rw [exec_irqHpd, execIrqHpd, clocked_next s _ hrun]
  simp [hup]

theorem exec_hdcpAuthDone_keyed (type1 : Bool) (hen : bit (s.dp ch).cfg.ctrl 10 = true) (hup : s.obj (Obj.dpState ch) = 2)
    (hkeys : s.obj Obj.hdcpKeyState ≠ 0) :
    exec (.hdcpAuthDone ch type1) s = .next (s.setObj (Obj.hdcpState ch) (if type1 then 2 else 1)) := by
  rw [exec_hdcpAuthDone, execHdcpAuthDone, clocked_next s _ hrun]
  simp [hen, hup, hkeys]

end Output

/-! ## Video inputs -/

/-- The objects that the channels capturing from an input may change when it is lost (R177, R431, R439). -/
def captureObjects : List Nat := chans.map (fun m : Fin 4 => Obj.inputState m) ++ [Obj.startValid, Obj.pairState]

theorem inputState_mem_captureObjects (ch : Fin 4) : Obj.inputState ch ∈ captureObjects := by
  revert ch
  decide

/-- From `s` to `t` channels may have lost what they capture: their INPUT_STATE, lock and pair follow, and the streams and every
other object stand. -/
structure LosesCaptures (s t : State) : Prop where
  streams : t.streams = s.streams
  objs : sameObjsBut s t captureObjects

theorem LosesCaptures.refl (s : State) : LosesCaptures s s := ⟨rfl, fun _ _ => rfl⟩

theorem LosesCaptures.trans {s t u : State} (hst : LosesCaptures s t) (htu : LosesCaptures t u) : LosesCaptures s u :=
  ⟨htu.streams.trans hst.streams, fun k hk => (htu.objs k hk).trans (hst.objs k hk)⟩

theorem losesCaptures_setObj (s : State) {k : Nat} (v : Nat) (hk : k ∈ captureObjects) : LosesCaptures s (s.setObj k v) :=
  ⟨rfl, fun _ hj => obj_setObj_other s v (ne_of_mem_of_not_mem hk hj).symm⟩

theorem losesCaptures_unlocked (s : State) (ch : Fin 4) (was : LockState) : LosesCaptures s (s.unlocked ch was) := by
  have hvalid := losesCaptures_setObj s 0 (show Obj.startValid ∈ captureObjects by decide)
  unfold State.unlocked
  split
  · exact .refl s
  · dsimp only
    split
    · exact hvalid.trans (losesCaptures_setObj _ 3 (by decide))
    · exact hvalid

theorem losesCaptures_lockLost (s : State) (ch : Fin 4) : LosesCaptures s (lockLost ch s) := by
  unfold lockLost
  dsimp only
  split
  · exact .refl s
  · refine LosesCaptures.trans ⟨?_, fun k _ => ?_⟩ (losesCaptures_unlocked _ ch _)
    · rw [State.attn_streams]; rfl
    · rw [obj_attn, obj_setPacer]

theorem losesCaptures_setInput (s : State) (ch : Fin 4) (v : Nat) : LosesCaptures s (s.setInput ch v) := by
  have hstate : LosesCaptures s (s.setState ch (Obj.inputState ch) v) := by
    obtain ⟨o, l, e, h⟩ := setState_frame s ch (Obj.inputState ch) v
    refine ⟨by rw [h], fun k hk => ?_⟩
    rw [obj_setState, if_neg (ne_of_mem_of_not_mem (inputState_mem_captureObjects ch) hk).symm]
  unfold State.setInput
  dsimp only
  split
  · exact hstate.trans (losesCaptures_lockLost _ ch)
  · exact hstate

/-- The link of input `n` is gone, which is counted, and its stream with it (R296). -/
def State.unlinkInput (s : State) (n st : Nat) : State :=
  let s1 := s.bump (Obj.dpinLinkLosses n) 1 32
  ((({ s1 with streams := del s1.streams n } : State).setObj (Obj.dpinState n) st).setObj (Obj.dpinFormat n) 0).setObj
    (Obj.dpinHdcp n) 0

/-- A state of an input with a link, TRAINED or with a stream. -/
theorem not_unlinked {n : Nat} (hlinked : n = 2 ∨ n = 3) : (decide (n ≠ 2) && decide (n ≠ 3)) = false := by
  rcases hlinked with rfl | rfl
  · rfl
  · rfl

/-- An input that had a link loses it, and the channels that captured from it their captures. -/
theorem dropInput_of_linked {s : State} {n : Nat} (st : Nat)
    (hlinked : s.obj (Obj.dpinState n) = 2 ∨ s.obj (Obj.dpinState n) = 3) :
    LosesCaptures (s.unlinkInput n st) (s.dropInput n st) := by
  have hwas : (decide (s.obj (Obj.dpinState n) = 2) || decide (s.obj (Obj.dpinState n) = 3)) = true := by simpa using hlinked
  unfold State.dropInput
  simp only [hwas, not_unlinked hlinked, if_true, Bool.false_eq_true, if_false]
  refine forEach_keeps (P := LosesCaptures (s.unlinkInput n st)) _ ?_ _ _ (.refl _)
  intro t m ht
  split
  · exact ht
  · have hstop : LosesCaptures t (t.setPicture m { t.picture m with capturing := none }) := ⟨rfl, fun _ _ => rfl⟩
    split
    · exact (ht.trans hstop).trans (losesCaptures_setInput _ m 2)
    · exact ht.trans hstop

/-- The objects of a video input are distinct, and none of those that captures change. -/
theorem dpinObjects_apart (i : Dpin) :
    Obj.dpinState (Dpin.num i) ≠ Obj.dpinFormat (Dpin.num i) ∧ Obj.dpinState (Dpin.num i) ≠ Obj.dpinHdcp (Dpin.num i) ∧
    Obj.dpinFormat (Dpin.num i) ≠ Obj.dpinHdcp (Dpin.num i) ∧
    (∀ k ∈ [Obj.dpinState (Dpin.num i), Obj.dpinFormat (Dpin.num i), Obj.dpinHdcp (Dpin.num i)], Obj.dpinLinkLosses (Dpin.num i) ≠ k) ∧
    ∀ k ∈ [Obj.dpinState (Dpin.num i), Obj.dpinFormat (Dpin.num i), Obj.dpinLinkLosses (Dpin.num i)], k ∉ captureObjects := by
  cases i with
  | in0 => decide
  | in1 => decide

theorem exec_dpinLinkTrained (i : Dpin) (rate lanes : Nat) (s : State) :
    exec (.dpinLinkTrained i rate lanes) s = execDpinLinkTrained i rate lanes s := rfl
theorem exec_dpinStreamPresent (i : Dpin) (f : StreamFmt) (s : State) :
    exec (.dpinStreamPresent i f) s = execDpinStreamPresent i f s := rfl
theorem exec_dpinLinkLoss (i : Dpin) (s : State) : exec (.dpinLinkLoss i) s = execDpinLinkLoss i s := rfl

section Input
variable {s : State} {i : Dpin} (hrun : s.clocksRun)
include hrun

theorem exec_dpinLinkTrained_up {rate lanes : Nat} (hrate : rate ≤ bits (s.obj (Obj.dpinCtrl (Dpin.num i))) 30 28)
    (hlanes : lanes ≤ bits (s.obj (Obj.dpinCtrl (Dpin.num i))) 27 26) (hon : s.dpinOn (Dpin.num i) = true)
    (howned : s.inputSet (Dpin.num i) ≠ []) (hdown : s.obj (Obj.dpinState (Dpin.num i)) < 2)
    (hready : s.linkReady (4 + Dpin.num i) = true) :
    exec (.dpinLinkTrained i rate lanes) s = .next (s.setObj (Obj.dpinState (Dpin.num i)) 2) := by
  rw [exec_dpinLinkTrained, execDpinLinkTrained, clocked_next s _ hrun]
  simp [hon, howned, hready, Nat.not_le.mpr hdown, Nat.not_lt.mpr hrate, Nat.not_lt.mpr hlanes]

theorem exec_dpinLinkTrained_beyond {rate lanes : Nat} (hcaps : bits (s.obj (Obj.dpinCtrl (Dpin.num i))) 30 28 < rate ∨
      bits (s.obj (Obj.dpinCtrl (Dpin.num i))) 27 26 < lanes) :
    exec (.dpinLinkTrained i rate lanes) s = .next s := by
  rw [exec_dpinLinkTrained, execDpinLinkTrained, clocked_next s _ hrun]
  rcases hcaps with h | h
  · simp [h]
  · simp [h]

variable (hlinked : s.obj (Obj.dpinState (Dpin.num i)) = 2 ∨ s.obj (Obj.dpinState (Dpin.num i)) = 3)
include hlinked

theorem exec_dpinStreamPresent_linked (f : StreamFmt) :
    exec (.dpinStreamPresent i f) s = .next (((({ s with streams := put s.streams (Dpin.num i) f } : State).setObj
      (Obj.dpinState (Dpin.num i)) 3).setObj (Obj.dpinFormat (Dpin.num i)) (fmtWord f)).setObj (Obj.dpinHdcp (Dpin.num i))
      (if bit (s.obj (Obj.dpinCtrl (Dpin.num i))) 23 && s.obj Obj.hdcpKeyState = 1 then min f.hdcpType 2 else 0)) := by
  rw [exec_dpinStreamPresent, execDpinStreamPresent, clocked_next s _ hrun]
  simp only [not_unlinked hlinked, Bool.false_eq_true, if_false]

theorem exec_dpinLinkLoss_linked : exec (.dpinLinkLoss i) s = .next (s.dropInput (Dpin.num i) 1) := by
  rw [exec_dpinLinkLoss, execDpinLinkLoss, clocked_next s _ hrun]
  simp only [not_unlinked hlinked, Bool.false_eq_true, if_false]

end Input

/-! ## The obligation -/

/-- Settles O35, clause by clause: what DP_APPLY takes and refuses, its effect (`obj_dpEffect`), and one event at a time the
outputs, where whatever trains goes through `obj_trainDp`, and the inputs. -/
theorem displayLinks : Obligations.DisplayLinks := by
  refine ⟨?takes, ?refuses, ?effect, ?trained, ?hpd, ?authenticated, ?lost, ?linkUp, ?beyond, ?stream, ?linkLost⟩
  case takes =>
    intro s who ch T hserves halone hctrl htiming hdsc hahead hfits hframe
    exact does_of_clocksRun (exec_dpApply who ch T s) hserves.1
      (opDpApply_accepts hserves halone ⟨hctrl, htiming, hdsc, hahead, hfits, hframe⟩)
  case refuses =>
    intro s who ch T hserves halone hbad
    refine does_of_clocksRun (exec_dpApply who ch T s) hserves.1 (opDpApply_refuses hserves halone ?_)
    rintro ⟨hctrl, htiming, hdsc, hahead, hfits, -⟩
    simp [hctrl, htiming, hdsc, hahead, hfits] at hbad
  case effect =>
    intro s ch T c hrun hwaits hT
    refine does_of_clocksRun (exec_dpTimingEffect ch s) hrun ?_
    obtain ⟨hstate, -, -, hpad, hstatePad⟩ := dpObjects_apart ch
    have hobj {k : Nat} (hk : k ≠ Obj.padLatched) := obj_dpEffect hwaits hT hk
    have hdue := dpEffect_due hwaits hT
    obtain ⟨n, hdp⟩ := dp_retrainIf ((s.takeDp ch c).keepHdcp ch c) ch ((s.dp ch).retrains c)
    rw [dp_keepHdcp, dp_takeDp] at hdp
    refine ⟨?_, ?_, ?_, ?_, ?_, ?_⟩
    · rw [hdue, dp_lateRelease, hdp]
    · rw [hdue, dp_lateRelease, hdp]
    · rw [hdue, cmdStatus_lateRelease, cmdStatus_retrainIf, cmdStatus_keepHdcp, look_takeDp]
    · intro hsame k hk
      obtain ⟨hhdcp, hpads, -⟩ : k ≠ Obj.hdcpState ch ∧ k ≠ Obj.padLatched ∧ True := by simpa using hk
      rw [hobj hpads, if_neg hhdcp, if_neg (by simp [hsame])]
    · rw [hobj hpad, if_pos rfl]
    · intro hre
      refine ⟨?_, ?_⟩
      · rw [hobj hpad, if_pos rfl, if_neg (by simp [hre])]
      · rw [hobj hstatePad, if_neg hstate, if_pos ⟨hre, rfl⟩]; rfl
  case trained =>
    intro s ch hrun hstate hready
    refine ⟨fun hrate => ⟨_, exec_dpTrainingDone_up hrun hstate hready hrate, rfl⟩,
      fun ok hbad => ⟨fun hfew => ?_, fun hmany => ?_⟩⟩
    · exact ⟨_, exec_dpTrainingDone_fails hrun hstate hready hbad, if_neg (Nat.not_le.mpr hfew)⟩
    · refine ⟨_, exec_dpTrainingDone_fails hrun hstate hready hbad, ?_⟩
      rw [if_pos hmany]
      obtain ⟨o, l, e, hframe⟩ := setState_frame ((s.setDp ch _).idleLanes ch) ch (Obj.dpState ch) 4
      exact ⟨by rw [obj_setState, if_pos rfl], by rw [hframe]; rfl⟩
  case hpd =>
    intro s ch hrun hen
    obtain ⟨hstate, hcount, hcountState, -, -⟩ := dpObjects_apart ch
    refine ⟨⟨_, exec_hpdLowTimeout_enabled hrun hen, ?_, ?_, ?_⟩,
      fun hlow => ⟨_, exec_hpdReturn_enabled hrun hen hlow, ?_, ?_, ?_⟩,
      fun hup hhigh => ⟨_, exec_irqHpd_unlocked hrun hup, ?_, ?_⟩⟩
    · rw [obj_setState, if_pos rfl]
    · rw [obj_setState, if_neg hstate.symm, obj_idleLanes, obj_loseHdcp, if_pos rfl]
    · rw [dp_setState, dp_idleLanes, dp_loseHdcp, dp_setDp_self]
    · rw [State.attnState, obj_attn, obj_trainDp, if_neg hstate, if_pos rfl, dp_readSink, dp_setDp_self]
      simp [DpLink.trainState, hen]
    · rw [State.attnState, obj_attn, obj_trainDp, if_pos rfl]
    · rw [State.attnState, dp_attn, dp_trainDp, dp_readSink, dp_setDp_self]
    · rw [obj_bump_other _ _ _ hcountState.symm, obj_trainDp, if_neg hstate, if_pos rfl]
      simp [DpLink.trainState, hen, hhigh]
    · rw [obj_bump_self, obj_trainDp, if_neg hcount, if_neg hcountState]
  case authenticated =>
    intro s ch type1 hrun hen hup hkeys
    exact ⟨_, exec_hdcpAuthDone_keyed hrun type1 hen hup hkeys, rfl⟩
  case lost =>
    intro s ch hrun hauth
    refine does_of_clocksRun (exec_hdcpLoss ch s) hrun ⟨?_, mem_loseHdcp s ch, fun hcarries => cutOff_loseHdcp hauth hcarries⟩
    rw [obj_loseHdcp, if_pos rfl]
  case linkUp =>
    intro s i rate lanes hrun hrate hlanes hon howned hdown hready
    exact ⟨_, exec_dpinLinkTrained_up hrun hrate hlanes hon howned hdown hready, rfl⟩
  case beyond =>
    intro s i rate lanes hrun hcaps
    exact ⟨_, exec_dpinLinkTrained_beyond hrun hcaps, rfl⟩
  case stream =>
    intro s i f hrun hlinked
    obtain ⟨hformat, hhdcp, hformatHdcp, -⟩ := dpinObjects_apart i
    refine ⟨_, exec_dpinStreamPresent_linked hrun hlinked f, ?_, ?_, ?_, ?_⟩
    · exact look_put_self _ _ _
    · rw [obj_setObj_other _ _ hhdcp, obj_setObj_other _ _ hformat, obj_setObj_self]
    · rw [obj_setObj_other _ _ hformatHdcp, obj_setObj_self]
    · rw [obj_setObj_self]; simp
  case linkLost =>
    intro s i hrun hlinked
    obtain ⟨hformat, hhdcp, hformatHdcp, hlosses, hcaptures⟩ := dpinObjects_apart i
    obtain ⟨hstreams, hobjs⟩ := dropInput_of_linked 1 hlinked
    refine ⟨_, exec_dpinLinkLoss_linked hrun hlinked, ?_, ?_, ?_, ?_⟩
    · rw [hstreams]; exact look_del_self _ _
    · rw [hobjs _ (hcaptures _ (by simp)), State.unlinkInput, obj_setObj_other _ _ hhdcp, obj_setObj_other _ _ hformat,
        obj_setObj_self]
    · rw [hobjs _ (hcaptures _ (by simp)), State.unlinkInput, obj_setObj_other _ _ hformatHdcp, obj_setObj_self]
    · rw [hobjs _ (hcaptures _ (by simp)), State.unlinkInput, obj_setObj_other _ _ (hlosses _ (by simp)),
        obj_setObj_other _ _ (hlosses _ (by simp)), obj_setObj_other _ _ (hlosses _ (by simp))]
      exact obj_bump_self _ _ _ _

end Sys2Proof.Machine
end

section
/-! Wake events of a device that is awake (R464), doorbells of queues (R362, R363) and the T1 port (R341 to R344). -/

namespace Sys2Proof.Machine

/-! ## Wake events (R464) -/

/-- An event that would wake the device does nothing to one that is awake, and is not lost. -/
theorem wakeEdge_awake {s : State} (src : Nat) (h : s.power.p2 = .awake) : s.wakeEdge src = (false, s) := by
  simp [State.wakeEdge, wake, h]

theorem edgeEvent_awake {s : State} (src : Nat) (h : s.power.p2 = .awake) : s.edgeEvent src = s := by
  rw [State.edgeEvent, wakeEdge_awake src h]

/-! ## Doorbells of queues (R362, R363) -/

theorem exec_queueDb (f q w : Nat) (s : State) : exec (.queueDb f q w) s = clocked s (fun s => queueDb f q w (s.edgeEvent 1)) := rfl

theorem does_queueDb {s : State} {f q w : Nat} {p : State → Prop} (hrun : s.clocksRun) (hawake : s.power.p2 = .awake)
    (hp : p (queueDb f q w s)) : Does (.queueDb f q w) s p := by
  refine does_of_clocksRun (exec_queueDb f q w s) hrun ?_
  rwa [edgeEvent_awake 1 hawake]

theorem queueDb_resetting {s : State} {f : Nat} (q w : Nat) (h : s.resetting f = true) : queueDb f q w s = s := by
  simp [queueDb, h]

theorem queueDb_rings {s : State} {f q w : Nat} {x : Queue} {c : Context} (hf : f < 16) (hq : q < 2048)
    (hreset : s.resetting f = false) (hx : look s.queues q = some x) (hc : look s.ctxs x.ctx = some c) (howner : c.owner = f)
    (hstate : c.state ≠ .teardown) (hw : w < x.entries) :
    queueDb f q w s = s.setQueue q { x with wptr := w, rung := true, idle := false } := by
  unfold queueDb
  rw [if_neg (by simp [hf, hq, hreset]), hx]
  exact if_neg (by simp [hc, howner, hstate, hw])

/-- A doorbell is discarded and counted for the function. -/
def State.dropDoorbell (s : State) (f : Nat) : State :=
  (s.bump (own (.fn f) Obj.doorbellDrops) 1 32).attn atCount noCh Obj.doorbellDrops
    ((s.bump (own (.fn f) Obj.doorbellDrops) 1 32).obj (own (.fn f) Obj.doorbellDrops))

theorem queueDb_drops {s : State} {f q w : Nat} (hf : f < 16) (hq : q < 2048) (hreset : s.resetting f = false)
    (hbad : ∀ x, look s.queues q = some x → x.entries ≤ w ∨ ∀ c, look s.ctxs x.ctx = some c → c.owner ≠ f ∨ c.state = .teardown) :
    queueDb f q w s = s.dropDoorbell f := by
  unfold queueDb
  rw [if_neg (by simp [hf, hq, hreset])]
  cases hx : look s.queues q with
  | none => rfl
  | some x =>
    refine if_pos ?_
    rcases hbad x hx with hw | hmine
    · simp [hw]
    · cases hc : look s.ctxs x.ctx with
      | none => simp
      | some c =>
        rcases hmine c hc with howner | hstate
        · simp [howner]
        · simp [hstate]

theorem exec_fetcherSample (q : Nat) (s : State) : exec (.fetcherSample q) s = execFetcherSample q s := rfl

theorem exec_fetcherSample_takes {s : State} {q : Nat} {x : Queue} (hrun : s.clocksRun) (hx : look s.queues q = some x)
    (hnew : x.rung = true ∨ x.readPtr ≠ x.sampled) :
    exec (.fetcherSample q) s = .next (s.setQueue q { x with
      sampled := x.wptr, rung := false, idle := false,
      ahead := x.ahead || ({ x with sampled := x.wptr, rung := false, idle := false } : Queue).prefetches }) := by
  rw [exec_fetcherSample, execFetcherSample, clocked_next _ _ hrun, hx]
  refine congrArg _ (if_neg ?_)
  rcases hnew with hrung | hread
  · simp [hrung]
  · simp [hread]

theorem exec_fetcherSample_idles {s : State} {q : Nat} {x : Queue} (hrun : s.clocksRun) (hx : look s.queues q = some x)
    (hrung : x.rung = false) (hread : x.readPtr = x.sampled) :
    exec (.fetcherSample q) s = .next (s.setQueue q { x with idle := true }) := by
  rw [exec_fetcherSample, execFetcherSample, clocked_next _ _ hrun, hx]
  exact congrArg _ (if_pos (by simp [hrung, hread]))

/-! ## The port's address (R341, R342) -/

theorem exec_t1LinkChange (up : Bool) (s : State) : exec (.t1LinkChange up) s = execT1LinkChange up s := rfl
theorem exec_t1AddressAcquired (a : Nat) (s : State) : exec (.t1AddressAcquired a) s = execT1AddressAcquired a s := rfl
theorem exec_addressConflict (s : State) : exec .addressConflict s = execAddressConflict s := rfl

theorem t1Up_iff (s : State) : s.t1Up = true ↔ s.obj Obj.t1State ≠ 0 := decide_eq_true_iff

theorem t1State_ne_t1Addr : Obj.t1State ≠ Obj.t1Addr := by decide

/-- Acquisition starts over on a port whose link is up. -/
theorem acquire_up {s : State} (h : s.obj Obj.t1State ≠ 0) : s.acquire = (s.setObj Obj.t1State 1).setObj Obj.t1Addr 0 :=
  if_pos ((t1Up_iff s).mpr h)

/-- What the objects of the port read as once its state and address are set. -/
theorem obj_setPort (s : State) (st a k : Nat) : ((s.setObj Obj.t1State st).setObj Obj.t1Addr a).obj k =
    if k = Obj.t1Addr then a else if k = Obj.t1State then st else s.obj k := by
  rw [obj_setObj, obj_setObj]

/-- A port that takes an address is up with it, and has probed and announced it. -/
theorem takeAddress_spec (s : State) (a : Nat) : (s.takeAddress a).obj Obj.t1State = 2 ∧ (s.takeAddress a).obj Obj.t1Addr = a ∧
    (s.takeAddress a).t1Out = s.t1Out ++ [.probe a, .probe a, .probe a, .announce a, .announce a] ∧
    sameObjsBut s (s.takeAddress a) [Obj.t1State, Obj.t1Addr] := by
  unfold State.takeAddress
  refine ⟨?_, ?_, ?_, fun k hk => ?_⟩
  · rw [obj_setPort, if_neg t1State_ne_t1Addr, if_pos rfl]
  · rw [obj_setPort, if_pos rfl]
  · simp [List.replicate]
  · obtain ⟨hstate, haddr⟩ : k ≠ Obj.t1State ∧ k ≠ Obj.t1Addr := by simpa using hk
    rw [obj_setPort, if_neg haddr, if_neg hstate]
    rfl

/-- An event, where there was one, lies within `d` cycles of the present. -/
theorem any_within_iff (o : Option Nat) (now d : Nat) :
    o.any (fun t => decide (now < t + d)) = true ↔ ∃ t, o = some t ∧ now < t + d := by
  cases o with
  | none => simp
  | some t => simp

section Port
variable {s : State} (hrun : s.clocksRun)
include hrun

theorem exec_t1AddressAcquired_fixed (a : Nat) (hstate : s.obj Obj.t1State = 1) (hfixed : s.obj Obj.t1Ipv4 ≠ 0) :
    exec (.t1AddressAcquired a) s = .next (s.takeAddress (s.obj Obj.t1Ipv4)) := by
  rw [exec_t1AddressAcquired, execT1AddressAcquired, clocked_next _ _ hrun]
  exact congrArg _ ((if_neg (by simp [hstate])).trans (if_pos hfixed))

theorem exec_t1AddressAcquired_linkLocal {a : Nat} (hstate : s.obj Obj.t1State = 1) (hfixed : s.obj Obj.t1Ipv4 = 0)
    (hlocal : linkLocal a = true) : exec (.t1AddressAcquired a) s = .next (s.takeAddress a) := by
  rw [exec_t1AddressAcquired, execT1AddressAcquired, clocked_next _ _ hrun]
  exact congrArg _ ((if_neg (by simp [hstate])).trans ((if_neg (by simp [hfixed])).trans (if_pos hlocal)))

theorem exec_addressConflict_fixed (hup : s.obj Obj.t1State ≠ 0) (hfixed : s.obj Obj.t1Ipv4 ≠ 0) :
    exec .addressConflict s = .next ((s.setObj Obj.t1Addr 0).setState noCh Obj.t1State 3) := by
  rw [exec_addressConflict, execAddressConflict, clocked_next _ _ hrun, if_neg (by simp [(t1Up_iff s).mpr hup]),
    if_pos hfixed]

theorem exec_addressConflict_defends (hup : s.obj Obj.t1State = 2) (hfixed : s.obj Obj.t1Ipv4 = 0)
    (hlast : ¬ ∃ t, s.defended = some t ∧ s.now < t + defendInterval) :
    exec .addressConflict s =
      .next { s with t1Out := s.t1Out ++ [.announce (s.obj Obj.t1Addr)], defended := some s.now } := by
  have hany : s.defended.any (fun t => decide (s.now < t + defendInterval)) = false :=
    Bool.eq_false_iff.mpr (mt (any_within_iff _ _ _).mp hlast)
  have hport : s.t1Up = true := (t1Up_iff s).mpr (by omega)
  rw [exec_addressConflict, execAddressConflict, clocked_next _ _ hrun]
  refine congrArg _ ((if_neg ?_).trans ((if_neg ?_).trans (if_pos ?_)))
  · rw [hport]; decide
  · exact not_not_intro hfixed
  · rw [hup, hany]; rfl

theorem exec_addressConflict_acquires (hup : s.obj Obj.t1State ≠ 0) (hfixed : s.obj Obj.t1Ipv4 = 0)
    (hagain : s.obj Obj.t1State ≠ 2 ∨ ∃ t, s.defended = some t ∧ s.now < t + defendInterval) :
    exec .addressConflict s = .next ((s.setObj Obj.t1State 1).setObj Obj.t1Addr 0) := by
  rw [← acquire_up hup, exec_addressConflict, execAddressConflict, clocked_next _ _ hrun]
  refine congrArg _ ((if_neg ?_).trans ((if_neg ?_).trans (if_neg ?_)))
  · rw [(t1Up_iff s).mpr hup]; decide
  · exact not_not_intro hfixed
  · rcases hagain with hstate | hlast
    · rw [decide_eq_false hstate, Bool.false_and]; exact Bool.false_ne_true
    · rw [(any_within_iff _ _ _).mpr hlast]; simp

end Port

theorem exec_t1AddressWrite (who : Req) (sub : Nat) (v : List Byte) (s : State) :
    exec (.t1AddressWrite who sub v) s = clocked s (opT1Address who sub v) := rfl

/-- A write of T1_IPV4 takes effect at once and restarts acquisition (R342). -/
theorem opT1Address_ipv4 {s : State} {who : Req} {v : List Byte} (hserves : s.serves' who (key 0x1020 2)) (hv : v.length = 4) :
    opT1Address who 2 v s = ((s.setObj (key 0x1020 2) (leNat v)).acquire).answer rcOk := by
  unfold opT1Address
  rw [command_served _ hserves]
  simp [hv]

/-! ## Requests to the port, and its time (R343, R344) -/

theorem exec_arpRequest (ip mac target : Nat) (s : State) : exec (.arpRequest ip mac target) s = execArpRequest ip mac target s := rfl
theorem exec_icmpEchoRequest (ip ident : Nat) (data : List Byte) (s : State) :
    exec (.icmpEchoRequest ip ident data) s = execIcmpEchoRequest ip ident data s := rfl
theorem exec_asTimeMessage (now time delay : Nat) (synced : Bool) (s : State) :
    exec (.asTimeMessage now time delay synced) s = execAsTimeMessage now time delay synced s := rfl
theorem exec_asSyncLoss (s : State) : exec .asSyncLoss s = execAsSyncLoss s := rfl

/-- The time and rate that a message of a grandmaster leaves (log entry 145: the rate between the last two messages). -/
def State.synced (s : State) (now time delay : Nat) : State :=
  { s.at now with
    asDelay := delay, asTime := time, asAt := some now,
    asRate := match s.asAt with
      | some t => if t < now && s.asTime < time then (time - s.asTime, now - t) else s.asRate
      | none => (1, 1) }

section Time
variable {s : State} (hrun : s.clocksRun) (hen : s.obj Obj.t1AsEn ≠ 0) (hup : s.obj Obj.t1State ≠ 0)
include hrun hen hup

theorem exec_asTimeMessage_synced (now time delay : Nat) :
    exec (.asTimeMessage now time delay true) s = .next ((s.synced now time delay).setState noCh Obj.t1AsState 2) := by
  rw [exec_asTimeMessage, execAsTimeMessage, clocked_next _ _ hrun]
  exact congrArg _ (if_neg (by simp [hen, (t1Up_iff s).mpr hup]))

theorem exec_asTimeMessage_unsynced (now time delay : Nat) :
    exec (.asTimeMessage now time delay false) s = .next { s.at now with asDelay := delay } := by
  rw [exec_asTimeMessage, execAsTimeMessage, clocked_next _ _ hrun]
  exact congrArg _ (if_neg (by simp [hen, (t1Up_iff s).mpr hup]))

end Time

/-- The rate is that between the last two messages, where both times have moved on. -/
theorem asRate_synced {s : State} {now time t : Nat} (delay : Nat) (hlast : s.asAt = some t) (hnow : t < now) (htime : s.asTime < time) :
    (s.synced now time delay).asRate = (time - s.asTime, now - t) := by
  simp [State.synced, hlast, hnow, htime]

/-- Settles O39: the port's address and time, then the doorbells of queues, from the rules above. -/
theorem t1PortAndDoorbells : Obligations.T1PortAndDoorbells := by
  unfold Obligations.T1PortAndDoorbells
  refine ⟨?_, ?_, takeAddress_spec, ?_, ?_, ?_, ?_, ?_, ?_, ?_, ?_, ?_, ?_⟩
  · intro s hrun
    refine ⟨fun hdown => does_of_clocksRun (exec_t1LinkChange true s) hrun ((if_pos rfl).trans (if_neg ?_)),
      does_of_clocksRun (exec_t1LinkChange false s) hrun rfl⟩
    rw [t1Up_iff]
    exact not_not_intro hdown
  · intro s a hrun hstate
    exact ⟨fun hfixed => ⟨_, exec_t1AddressAcquired_fixed hrun a hstate hfixed, rfl⟩,
      fun hfixed hlocal => ⟨_, exec_t1AddressAcquired_linkLocal hrun hstate hfixed hlocal, rfl⟩⟩
  · intro s hrun hup
    refine ⟨fun hfixed => ⟨_, exec_addressConflict_fixed hrun hup hfixed, ?_, ?_⟩, fun hfixed hstate hlast => ?_,
      fun hfixed hagain => ⟨_, exec_addressConflict_acquires hrun hup hfixed hagain, ?_, ?_⟩⟩
    · rw [obj_setState, if_pos rfl]
    · rw [obj_setState, if_neg t1State_ne_t1Addr.symm, obj_setObj_self]
    · refine ⟨_, exec_addressConflict_defends hrun hstate hfixed ?_, rfl⟩
      rintro ⟨t, ht, hnow⟩
      exact absurd (hlast t ht) (Nat.not_le.mpr hnow)
    · rw [obj_setPort, if_neg t1State_ne_t1Addr, if_pos rfl]
    · rw [obj_setPort, if_pos rfl]
  · intro s who v hserves hv hup
    have hport : (s.setObj (key 0x1020 2) (leNat v)).obj Obj.t1State ≠ 0 := by
      rwa [obj_setObj_other _ _ (by decide)]
    have hipv4 : key 0x1020 2 ≠ Obj.t1Addr ∧ key 0x1020 2 ≠ Obj.t1State := by decide
    refine does_of_clocksRun (exec_t1AddressWrite who 2 v s) hserves.1 ?_
    rw [opT1Address_ipv4 hserves hv, acquire_up hport]
    refine ⟨?_, ?_, ?_, rfl⟩
    · rw [obj_answer, obj_setPort, if_neg hipv4.1, if_neg hipv4.2, obj_setObj_self]
    · rw [obj_answer, obj_setPort, if_neg t1State_ne_t1Addr, if_pos rfl]
    · rw [obj_answer, obj_setPort, if_pos rfl]
  · intro s ip mac target hrun
    refine ⟨fun hstate htarget => does_of_clocksRun (exec_arpRequest ip mac target s) hrun (if_pos ?_),
      fun htarget => does_of_clocksRun (exec_arpRequest ip mac target s) hrun (if_neg ?_)⟩
    · simp [hstate, htarget]
    · simp [htarget]
  · intro s ip ident data hrun hstate
    refine ⟨fun hlen => does_of_clocksRun (exec_icmpEchoRequest ip ident data s) hrun (if_pos ?_),
      fun hlen => does_of_clocksRun (exec_icmpEchoRequest ip ident data s) hrun (if_neg ?_)⟩
    · simp [hstate, hlen]
    · simp [hlen]
  · intro s now time delay hrun hen hup
    refine ⟨⟨_, exec_asTimeMessage_synced hrun hen hup now time delay, ?_⟩,
      ⟨_, exec_asTimeMessage_unsynced hrun hen hup now time delay, rfl⟩⟩
    refine ⟨?_, ?_, ?_, ?_, fun t hlast hnow htime => ?_⟩
    all_goals obtain ⟨o, l, e, hset⟩ := setState_frame (s.synced now time delay) noCh Obj.t1AsState 2
    · rw [hset]; rfl
    · rw [hset]; rfl
    · rw [hset]; rfl
    · rw [obj_setState, if_pos rfl]
    · rw [hset]; exact asRate_synced delay hlast hnow htime
  · intro s hrun hstate
    refine does_of_clocksRun (exec_asSyncLoss s) hrun ?_
    rw [if_pos hstate]
    obtain ⟨o, l, e, hset⟩ := setState_frame s noCh Obj.t1AsState 3
    refine ⟨?_, ?_⟩
    · rw [obj_setState, if_pos rfl]
    · rw [hset]; rfl
  · intro s f q w x c hrun hawake hf hq hreset hx hc howner hstate hw
    exact does_queueDb hrun hawake (queueDb_rings hf hq hreset hx hc howner hstate hw)
  · intro s f q w hrun hawake hf hq hreset hbad
    refine does_queueDb hrun hawake ?_
    rw [queueDb_drops hf hq hreset hbad]
    refine ⟨State.attn_queues _ _ _ _ _, ?_⟩
    rw [State.dropDoorbell, obj_attn, obj_bump_self]
  · intro s f q w hrun hawake hreset
    exact does_queueDb hrun hawake (queueDb_resetting q w hreset)
  · intro s q x hrun hx
    refine ⟨?_, fun hrung hread => ⟨_, exec_fetcherSample_idles hrun hx hrung hread, rfl⟩⟩
    rintro y rfl hnew
    exact ⟨_, exec_fetcherSample_takes hrun hx hnew, rfl⟩

end Sys2Proof.Machine
end

section
/-! Requests as they arrive: the dictionary doorbell (R349, R363) and datagrams to the T1 port (R347, R348). -/

namespace Sys2Proof.Machine

/-! ## DICT_DOORBELL (R349) -/

theorem exec_dictDoorbell (f tag : Nat) (frame : List Byte) (s : State) :
    exec (.dictDoorbell f tag frame) s = clocked s (fun s => doorbell f tag frame (if f < 16 then s.edgeEvent 1 else s)) := rfl

theorem does_dictDoorbell {s : State} {f tag : Nat} {frame : List Byte} {p : State → Prop} (hrun : s.clocksRun)
    (hawake : s.power.p2 = .awake) (hp : p (doorbell f tag frame s)) : Does (.dictDoorbell f tag frame) s p := by
  refine does_of_clocksRun (exec_dictDoorbell f tag frame s) hrun ?_
  rwa [edgeEvent_awake 1 hawake, ite_self]

theorem doorbell_resetting {s : State} {f : Nat} (tag : Nat) (frame : List Byte) (h : s.resetting f = true) :
    doorbell f tag frame s = s := if_pos (by simp [h])

section Window
variable {s : State} {f : Nat} (hf : f < 16) (hreset : s.resetting f = false)
include hf hreset

theorem doorbell_busy (tag : Nat) (frame : List Byte) (hbusy : (s.window f).busy = true) :
    doorbell f tag frame s = s.setWindow f { s.window f with overrun := true } :=
  (if_neg (by simp [hf, hreset])).trans (if_pos hbusy)

theorem doorbell_takes (tag : Nat) (frame : List Byte) (hbusy : (s.window f).busy = false) :
    doorbell f tag frame s =
      { s.setWindow f { s.window f with req := slice frame 0 2048, busy := true, overrun := false } with
        marshalQ := s.marshalQ ++ [{ src := .fn f, tag := tag % 65536, frame := slice frame 0 2048, admitted := false }] } :=
  (if_neg (by simp [hf, hreset])).trans (if_neg (by simp [hbusy]))

end Window

/-! ## Doorbells as BAR0 writes (R339) -/

theorem bar0Write_dictDoorbell (s : State) {f : Nat} (v : Nat) (hf : f < 16) :
    s.bar0Write f 0x1000 4 v = doorbell f (v % 65536) (s.window f).req (s.edgeEvent 1) := if_neg (Nat.not_le.mpr hf)

theorem bar0Write_queueDb (s : State) {f q size : Nat} (v : Nat) (hf : f < 16) (hq : q < 2048) (hsize : size ∈ [4, 8]) :
    s.bar0Write f (0x8000 + 8 * q) size v = queueDb f q (v % 2 ^ 32) (s.edgeEvent 1) := by
  have hreg (off : Nat) (n : Nat) (hoff : off < 0x8000) : ¬ (decide (0x8000 + 8 * q = off) && decide (size = n)) = true := by
    simp; omega
  have hfn : ¬ functions ≤ f := Nat.not_le.mpr hf
  have hplace : (0x8000 + 8 * q - 0x8000) / 8 = q := by omega
  have hsz : size = 4 ∨ size = 8 := by simpa using hsize
  simp only [State.bar0Write]
  rw [if_neg hfn, if_neg (by omega), if_neg (hreg _ _ (by decide)), if_neg (hreg _ _ (by decide)),
    if_neg (hreg _ _ (by decide)), if_neg (hreg _ _ (by decide)), if_pos, hplace]
  simp [hsz]
  omega

/-! ## Datagrams to the T1 port (R347, R348) -/

theorem exec_t1DictDatagram (ip port : Nat) (b : List Byte) (s : State) :
    exec (.t1DictDatagram ip port b) s = clocked s (datagram ip port b) := rfl

/-- The state in which a client has been heard from. -/
def State.hear (s : State) (ip port : Nat) : State := { s with t1Clients := heardFrom s.t1Clients ip port }

/-- A client's request with this TAG waits for Marshal. -/
def State.waitsAlready (s : State) (ip port tag : Nat) : Bool := s.marshalQ.any (fun q => q.src = .t1 ip port && q.tag = tag)

/-- The T1 requests that wait for Marshal. -/
def State.t1Waiting (s : State) : List DictRequest :=
  s.marshalQ.filter (fun q => match q.src with
    | .t1 _ _ => true
    | .fn _ => false)

section Arrives
variable {s : State} (ip port : Nat) {b : List Byte} (hup : s.obj Obj.t1State = 2) (hawake : s.power.p2 = .awake)
include hup hawake

theorem datagram_bad (hbad : datagramBad b = true) : datagram ip port b s = s.bump Obj.dictDrops 1 32 := by
  simp only [datagram, hup, State.sleeping, hawake, wakeEdge_awake 2 hawake, hbad]
  rfl

variable (hgood : datagramBad b = false)
include hgood

theorem datagram_waiting (hdup : s.waitsAlready ip port (frameTag b) = true) :
    datagram ip port b s = (s.hear ip port).bump Obj.dictDuplicates 1 32 := by
  simp only [datagram, hup, State.sleeping, hawake, wakeEdge_awake 2 hawake, hgood]
  exact if_pos hdup

variable (hnew : s.waitsAlready ip port (frameTag b) = false)
include hnew

theorem datagram_kept {r : List Byte} (hserves : s.requestsWait = false)
    (hkept : (s.hear ip port).keptReply ip port (frameTag b) = some r) :
    datagram ip port b s = (s.hear ip port).sendAgain ip port r := by
  simp only [datagram, hup, State.sleeping, hawake, wakeEdge_awake 2 hawake, hgood]
  refine (if_neg (Bool.eq_false_iff.mp hnew)).trans ?_
  have hserves' : (s.hear ip port).requestsWait = false := hserves
  unfold State.hear at hserves' hkept
  rw [hserves', hkept]
  rfl

theorem datagram_new (hkept : (s.hear ip port).keptReply ip port (frameTag b) = none) :
    datagram ip port b s = if 32 ≤ s.t1Waiting.length then (s.hear ip port).dropDatagram else { s.hear ip port with
      marshalQ := s.marshalQ ++ [{ src := .t1 ip port, tag := frameTag b, frame := b, admitted := s.t1May ip }] } := by
  simp only [datagram, hup, State.sleeping, hawake, wakeEdge_awake 2 hawake, hgood]
  refine (if_neg (Bool.eq_false_iff.mp hnew)).trans ?_
  unfold State.hear at hkept
  rw [hkept]
  generalize State.requestsWait _ = waits
  cases waits
  · rfl
  · rfl

end Arrives

/-- A kept reply goes again but for its RSW, and is counted (R348). -/
theorem sendAgain_spec (s : State) (ip port : Nat) (r : List Byte) : (s.sendAgain ip port r).marshalQ = s.marshalQ ∧
    (∃ d, (s.sendAgain ip port r).t1Out = s.t1Out ++ [.udp ip port d] ∧ d.drop 0x14 = r.drop 0x14 ∧ d.take 0x10 = slice r 0 0x10) ∧
    (s.sendAgain ip port r).obj Obj.dictDuplicates = (s.obj Obj.dictDuplicates + 1) % 2 ^ 32 ∧
    (s.sendAgain ip port r).reply = s.reply := by
  refine ⟨rfl, ⟨_, rfl, ?_, ?_⟩, obj_bump_self _ _ _ _, rfl⟩
  · simp [patch, List.drop_append]
  · simp [patch]

/-- Settles O5, clause by clause from the rules above. -/
theorem doorbellsAndDatagrams : Obligations.DoorbellsAndDatagrams := by
  unfold Obligations.DoorbellsAndDatagrams
  refine ⟨?_, ?_, ?_, ?_, ?_, ?_, ?_, ?_, ?_⟩
  · intro s f tag frame hrun hawake hf hreset hbusy
    exact does_dictDoorbell hrun hawake (doorbell_takes hf hreset tag frame hbusy)
  · intro s f tag frame hrun hawake hf hreset hbusy
    exact does_dictDoorbell hrun hawake (doorbell_busy hf hreset tag frame hbusy)
  · intro s f tag frame hrun hawake hreset
    exact does_dictDoorbell hrun hawake (doorbell_resetting tag frame hreset)
  · intro s f v hrun hf
    refine ⟨does_of_clocksRun (exec_dictDoorbell _ _ _ s) hrun ?_, fun q hq size hsize =>
      does_of_clocksRun (exec_queueDb _ _ _ s) hrun (bar0Write_queueDb s v hf hq hsize).symm⟩
    rw [if_pos hf, bar0Write_dictDoorbell s v hf]
  · intro s ip port b hrun hawake hup hbad
    exact does_of_clocksRun (exec_t1DictDatagram ip port b s) hrun (datagram_bad ip port hup hawake hbad)
  · intro s ip port b hrun hawake hup hgood hnew hkept hroom
    exact does_of_clocksRun (exec_t1DictDatagram ip port b s) hrun
      ((datagram_new ip port hup hawake hgood hnew hkept).trans (if_neg (Nat.not_le.mpr hroom)))
  · intro s ip port b hrun hawake hup hgood hdup
    refine does_of_clocksRun (exec_t1DictDatagram ip port b s) hrun ?_
    rw [datagram_waiting ip port hup hawake hgood hdup]
    exact ⟨rfl, rfl, obj_bump_self _ _ _ _, obj_bump_other _ _ _ (by decide)⟩
  · intro s ip port b hrun hawake hup hgood hnew hkept hfull
    refine does_of_clocksRun (exec_t1DictDatagram ip port b s) hrun ?_
    rw [datagram_new ip port hup hawake hgood hnew hkept, if_pos (show 32 ≤ s.t1Waiting.length from hfull)]
    exact ⟨rfl, rfl, obj_bump_self _ _ _ _, fun k hk => obj_bump_other _ _ _ (by simpa using hk)⟩
  · intro s ip port b r hrun hawake hserves hup hgood hnew hkept
    refine does_of_clocksRun (exec_t1DictDatagram ip port b s) hrun ?_
    rw [datagram_kept ip port hup hawake hgood hnew hserves hkept]
    exact sendAgain_spec (s.hear ip port) ip port r

end Sys2Proof.Machine
end

section
/-! Writes of dictionary objects (R21, R22, R351, R352): what the gate and the object's type refuse, objects with a row of their
own, and objects that store their value. -/

namespace Sys2Proof.Machine

theorem exec_genericObjectWrite (who : Req) (index sub : Nat) (v : List Byte) (s : State) :
    exec (.genericObjectWrite who index sub v) s =
      clocked s (fun s => if s.requestsWait then s else s.writeObject who index sub v) := rfl

/-- The block base that an index belongs to. -/
def baseOf (index : Nat) : Nat := ((blockOf index).map (·.1)).getD 0

theorem exec_genericObjectWrite_served {s : State} (who : Req) (index sub : Nat) (v : List Byte) (hrun : s.clocksRun)
    (hserves : s.requestsWait = false) : exec (.genericObjectWrite who index sub v) s = .next (s.writeObject who index sub v) := by
  rw [exec_genericObjectWrite, clocked_next _ _ hrun, hserves, if_neg Bool.false_ne_true]

theorem does_genericObjectWrite {s : State} {who : Req} {index sub : Nat} {v : List Byte} {p : State → Prop} (hrun : s.clocksRun)
    (hserves : s.requestsWait = false) (hp : p (s.writeObject who index sub v)) : Does (.genericObjectWrite who index sub v) s p :=
  ⟨_, exec_genericObjectWrite_served who index sub v hrun hserves, hp⟩

/-! ## What is refused (R351) -/

theorem writeObject_unknown {s : State} {index sub : Nat} (who : Req) (bytes : List Byte) (hrow : objRow index sub = none)
    (hstray : strayGang index sub = false) : s.writeObject who index sub bytes = s.answer rcUnknown := by
  simp [State.writeObject, hrow, hstray]

section Row
variable {s : State} {who : Req} {index sub n : Nat} {r : ObjRow} (hrow : objRow index sub = some (r, n))
  (hgate : s.gate who index sub = rcOk)
include hrow hgate

theorem writeObject_ro (bytes : List Byte) (hacc : r.acc = .ro) : s.writeObject who index sub bytes = s.answer rcAccess := by
  simp [State.writeObject, hrow, hgate, rcOk, hacc]

theorem writeObject_length {bytes : List Byte} (hro : r.acc ≠ .ro) (hcmd : r.acc ≠ .cmd) (hlen : bytes.length ≠ r.ty.size) :
    s.writeObject who index sub bytes = s.answer rcLength := by
  simp [State.writeObject, hrow, hgate, rcOk, hro, hcmd, hlen]

theorem writeObject_bool {bytes : List Byte} (hro : r.acc ≠ .ro) (hcmd : r.acc ≠ .cmd) (hbool : r.ty = .bool)
    (hlen : bytes.length = 1) (hbig : 1 < leNat bytes) : s.writeObject who index sub bytes = s.answer rcRange := by
  simp [State.writeObject, hrow, hgate, rcOk, hro, hcmd, hbool, ObjTy.size, hlen, hbig]

/-! ## What is written (R21, R22) -/

variable {bytes : List Byte} (hro : r.acc ≠ .ro) (hlen : bytes.length = r.ty.size) (hbool : r.ty = .bool → leNat bytes ≤ 1)
include hro hlen hbool

theorem writeObject_row {f : State → State} (hop : rowOp who (baseOf index) n sub (leNat bytes) bytes = some f) :
    s.writeObject who index sub bytes = f s := by
  unfold baseOf at hop
  have hval : ¬ (r.ty = .bool ∧ 1 < leNat bytes) := fun h => absurd (hbool h.1) (Nat.not_le.mpr h.2)
  simp [State.writeObject, hrow, hgate, rcOk, hro, hlen, hval, hop]

theorem writeObject_store (hop : rowOp who (baseOf index) n sub (leNat bytes) bytes = none) :
    s.writeObject who index sub bytes =
      s.storeObject who (baseOf index) n sub (key index sub) (leNat bytes) bytes r.ty.isOctets := by
  unfold baseOf at hop ⊢
  have hval : ¬ (r.ty = .bool ∧ 1 < leNat bytes) := fun h => absurd (hbool h.1) (Nat.not_le.mpr h.2)
  simp [State.writeObject, hrow, hgate, rcOk, hro, hlen, hval, hop]

end Row

/-! ## Stored values (R22, R438) -/

theorem inPair_unpaired {s : State} (h : bits (s.obj Obj.pairCtrl) 31 30 = 0) (ch : Nat) : s.inPair ch = false := by
  simp [State.inPair, h]

/-- The store of an object concerns this device alone: it is not mirrored, and not held back for a standby (R438). -/
structure State.StoresAlone (s : State) (b n sub k : Nat) : Prop where
  mirror : ∀ c, mirrorCh k = some c → s.inPair c = false
  held : (b, sub) = (0x3100, 1) ∨ (b, sub) = (0x6000, 4) → s.inPair (toCh n) = false

theorem storesAlone_unpaired {s : State} (h : bits (s.obj Obj.pairCtrl) 31 30 = 0) (b n sub k : Nat) : s.StoresAlone b n sub k :=
  ⟨fun c _ => inPair_unpaired h c, fun _ => inPair_unpaired h _⟩

theorem pairStore_alone {s : State} {b n sub : Nat} (bytes : List Byte)
    (h : (b, sub) = (0x3100, 1) ∨ (b, sub) = (0x6000, 4) → s.inPair (toCh n) = false) : s.pairStore b n sub bytes = s := by
  simp only [Prod.mk.injEq] at h
  by_cases hheld : (b = 0x3100 ∧ sub = 1) ∨ (b = 0x6000 ∧ sub = 4)
  · simp [State.pairStore, h hheld]
  · obtain ⟨hstrict, hfill⟩ := not_or.mp hheld
    simp [State.pairStore, hstrict, hfill]

/-- STRICT_ALL and FILL are not PAIR_CTRL. -/
theorem key'_ne_pairCtrl {b n sub : Nat} (h : (b, sub) = (0x3100, 1) ∨ (b, sub) = (0x6000, 4)) :
    Obj.pairCtrl ≠ State.writeHook.key' b n sub := by
  rcases h with h | h
  · cases h
    show 0xB000 * 256 + 1 ≠ (0x3100 + 0x400 * n) * 256 + 1
    omega
  · cases h
    show 0xB000 * 256 + 1 ≠ (0x6000 + 0x100 * n) * 256 + 4
    omega

section Store
variable {s : State} (who : Req) {b n sub k : Nat} (v : Nat) (bytes : List Byte) (halone : s.StoresAlone b n sub k)
  (hcourse : b ≠ 0x1400) (hqueue : b ≠ 0x1800)
include halone hcourse hqueue

theorem storeObject_alone (octets : Bool) : s.storeObject who b n sub k v bytes octets =
    if octets then ((s.setOct k bytes).pairStore b n sub bytes).answer rcOk
    else if !valueOk b n sub (writtenValue b n sub v) then s.answer rcRange
    else if b = 0xB000 then s.pairCtrlSet (writtenValue b n sub v)
    else ((s.writeHook b n sub (writtenValue b n sub v)).pairStore b n sub bytes).answer rcOk := by
  have hbars : s.standbyBars k = false := by
    unfold State.standbyBars
    cases hk : mirrorCh k with
    | none => rfl
    | some c => simp [State.standby, halone.mirror c hk]
  unfold State.storeObject
  rw [if_neg hcourse, if_neg hqueue, hbars, if_neg Bool.false_ne_true]
  cases hk : mirrorCh k with
  | none => simp only [State.mirrored, hk]
  | some c => exact mirrored_alone hk (halone.mirror c hk)

theorem storeObject_octets : s.storeObject who b n sub k v bytes true = (s.setOct k bytes).answer rcOk := by
  rw [storeObject_alone who v bytes halone hcourse hqueue, if_pos rfl, pairStore_alone (s := s.setOct k bytes) bytes halone.held]

theorem storeObject_range (hbad : valueOk b n sub (writtenValue b n sub v) = false) :
    s.storeObject who b n sub k v bytes false = s.answer rcRange := by
  rw [storeObject_alone who v bytes halone hcourse hqueue, if_neg Bool.false_ne_true, hbad]
  rfl

theorem storeObject_value (hpair : b ≠ 0xB000) (hhook : (b, sub) ∉ [(0x1020, 7), (0x8000, 1), (0xC000, 1)])
    (hok : valueOk b n sub (writtenValue b n sub v) = true) :
    s.storeObject who b n sub k v bytes false =
      (s.setObj (State.writeHook.key' b n sub) (writtenValue b n sub v)).answer rcOk := by
  have hplain : s.writeHook b n sub (writtenValue b n sub v) =
      s.setObj (State.writeHook.key' b n sub) (writtenValue b n sub v) := by
    unfold State.writeHook
    split
    · exact absurd (by simp) hhook
    · exact absurd (by simp) hhook
    · exact absurd (by simp) hhook
    · rfl
  rw [storeObject_alone who v bytes halone hcourse hqueue, if_neg Bool.false_ne_true, hok, if_neg (by decide), if_neg hpair,
    hplain, pairStore_alone]
  intro h
  rw [inPair_of_obj (s := s) _ (obj_setObj_other _ _ (key'_ne_pairCtrl h))]
  exact halone.held h

end Store

/-! ## Plain objects -/

/-- A numeric object, of a block that the map has once, that only stores what is written, whatever the state and the requester. -/
structure PlainObject (k b : Nat) (r : ObjRow) : Prop where
  row : objRow (k / 256) (k % 256) = some (r, 0)
  base : baseOf (k / 256) = b
  writable : r.acc ≠ .ro ∧ r.acc ≠ .cmd
  numeric : r.ty ≠ .bool ∧ r.ty.isOctets = false
  noRow : ∀ who v bytes, rowOp who b 0 (k % 256) v bytes = none
  stores : b ∉ [0x1020, 0x1400, 0x1800, 0x3100, 0x6000, 0x8000, 0xB000, 0xC000]
  unmirrored : mirrorCh k = none
  key_eq : key (k / 256) (k % 256) = k ∧ State.writeHook.key' b 0 (k % 256) = k
  value : ∀ v, writtenValue b 0 (k % 256) v = v ∧ valueOk b 0 (k % 256) v = true

theorem plain_updateTarget : PlainObject Obj.updateTarget 0x9010 ⟨4, .u16, .rw, 0⟩ :=
  ⟨by decide, by decide, by decide, by decide, fun _ _ _ => rfl, by decide, by decide, by decide, fun _ => ⟨rfl, rfl⟩⟩

theorem plain_traceDestIp : PlainObject Obj.traceDestIp 0xA000 ⟨6, .u32, .rw, 0⟩ :=
  ⟨by decide, by decide, by decide, by decide, fun _ _ _ => rfl, by decide, by decide, by decide, fun _ => ⟨rfl, rfl⟩⟩

theorem plain_traceDestPort : PlainObject Obj.traceDestPort 0xA000 ⟨7, .u16, .rw, 19545⟩ :=
  ⟨by decide, by decide, by decide, by decide, fun _ _ _ => rfl, by decide, by decide, by decide, fun _ => ⟨rfl, rfl⟩⟩

theorem writeObject_plain {s : State} {who : Req} {k b : Nat} {r : ObjRow} {bytes : List Byte} (h : PlainObject k b r)
    (hgate : s.gate who (k / 256) (k % 256) = rcOk) (hlen : bytes.length = r.ty.size) :
    s.writeObject who (k / 256) (k % 256) bytes = (s.setObj k (leNat bytes)).answer rcOk := by
  obtain ⟨hrow, rfl, hwritable, hnumeric, hop, hstores, hmirror, ⟨hkey, hkey'⟩, hvalue⟩ := h
  obtain ⟨hwritten, hok⟩ := hvalue (leNat bytes)
  simp only [List.mem_cons, List.not_mem_nil, or_false, not_or] at hstores
  obtain ⟨hport, hcourse, hqueue, hstrict, hfill, hdpin, hpair, hkl⟩ := hstores
  have halone : s.StoresAlone (baseOf (k / 256)) 0 (k % 256) k :=
    ⟨fun c hc => by simp [hmirror] at hc, fun hheld => by simp [hstrict, hfill] at hheld⟩
  rw [writeObject_store hrow hgate hwritable.1 hlen (fun hbool => absurd hbool hnumeric.1) (hop _ _ _), hkey, hnumeric.2,
    storeObject_value who _ bytes halone hcourse hqueue hpair (by simp [hport, hdpin, hkl]) (hwritten.symm ▸ hok), hkey', hwritten]

theorem gate_pf0_running {s : State} {index sub : Nat} {r : ObjRow} {n : Nat} (hrow : objRow index sub = some (r, n))
    (hrunning : s.marshal = .running) : s.gate (.fn 0) index sub = rcOk := by
  simp [State.gate, hrow, hrunning]

/-- Settles O4: what is refused, objects with a row of their own and stored ones, then UPDATE_TARGET as a plain object. -/
theorem objectWriteStoresOrRefuses : Obligations.ObjectWriteStoresOrRefuses := by
  unfold Obligations.ObjectWriteStoresOrRefuses
  refine ⟨?_, ?_, ?_, ?_, ?_, ?_⟩
  · rintro s who index sub n b r bytes hrun hserves hrow rfl hgate hro hlen hbool
    refine ⟨fun f hop => does_genericObjectWrite hrun hserves (writeObject_row hrow hgate hro hlen hbool hop),
      fun hop hpair hblock hhook => ?_⟩
    simp only [List.mem_cons, List.not_mem_nil, or_false, not_or] at hblock
    obtain ⟨hcourse, hqueue, hpairCtrl⟩ := hblock
    have hstore := writeObject_store hrow hgate hro hlen hbool hop
    have halone := storesAlone_unpaired hpair (baseOf index) n sub (key index sub)
    refine ⟨fun hoct => does_genericObjectWrite hrun hserves ?_, fun hnum hok => does_genericObjectWrite hrun hserves ?_,
      fun hnum hbad => does_genericObjectWrite hrun hserves ?_⟩
    · rw [hstore, hoct, storeObject_octets who _ bytes halone hcourse hqueue]
    · rw [hstore, hnum]
      exact storeObject_value who _ bytes halone hcourse hqueue hpairCtrl hhook hok
    · rw [hstore, hnum, storeObject_range who _ bytes halone hcourse hqueue hbad]
  · intro s who index sub bytes hrun hwaits
    exact does_of_clocksRun (exec_genericObjectWrite who index sub bytes s) hrun (if_pos hwaits)
  · intro s who index sub n r bytes hrun hserves hrow hgate
    exact ⟨fun hacc => does_genericObjectWrite hrun hserves (writeObject_ro hrow hgate bytes hacc),
      fun hro hcmd hlen => does_genericObjectWrite hrun hserves (writeObject_length hrow hgate hro hcmd hlen),
      fun hro hcmd hbool hlen hbig => does_genericObjectWrite hrun hserves (writeObject_bool hrow hgate hro hcmd hbool hlen hbig)⟩
  · intro s who k bytes hrun hserves hk hgate
    refine ⟨?_, ?_, ?_, ?_, ?_⟩
    · rintro rfl hlen
      exact does_genericObjectWrite hrun hserves (writeObject_plain plain_updateTarget hgate hlen)
    · rintro rfl hlen
      exact does_genericObjectWrite hrun hserves (writeObject_plain plain_traceDestIp hgate hlen)
    · rintro rfl hlen
      exact does_genericObjectWrite hrun hserves (writeObject_plain plain_traceDestPort hgate hlen)
    · rintro rfl
      have hrow : objRow (Obj.serial / 256) (Obj.serial % 256) = some (⟨4, .string 16, .ro, 0⟩, 0) := by decide
      exact does_genericObjectWrite hrun hserves (writeObject_ro hrow hgate bytes rfl)
    · rintro rfl hlen
      obtain ⟨hro, hcmd⟩ := plain_traceDestPort.writable
      exact does_genericObjectWrite hrun hserves (writeObject_length plain_traceDestPort.row hgate hro hcmd hlen)
  · intro s who index sub bytes hrun hserves hrow hstray
    exact does_genericObjectWrite hrun hserves (writeObject_unknown who bytes hrow hstray)
  · intro s v hrun hrunning hawake hv
    have hserves : s.requestsWait = false := by simp [State.requestsWait, hrunning, hawake]
    have hgate := gate_pf0_running plain_updateTarget.row hrunning
    have hvalue : leNat (toLE 2 v) = v := (leNat_toLE 2 v).trans (Nat.mod_eq_of_lt hv)
    refine does_genericObjectWrite hrun hserves ?_
    rw [writeObject_plain plain_updateTarget hgate (length_toLE 2 v), hvalue]

end Sys2Proof.Machine
end

section
/-! Dictionary requests as Marshal executes them (R346, R350, R353): the state in which one is served, READs, WRITEs, and the reply
in the function's window. -/

namespace Sys2Proof.Machine

/-! ## The end of a cycle and a trace record leave most of the state (R355, R506) -/

theorem obj_endCycle (s : State) {k : Nat} (hseq : k ≠ Obj.traceSeq) (hlost : k ≠ Obj.traceLost) : s.endCycle.obj k = s.obj k := by
  refine forEach_keeps (P := fun t => t.obj k = s.obj k) State.logOne (fun t p ht => ?_) s.raised { s with raised := [] } rfl
  refine Eq.trans ?_ ht
  unfold State.logOne State.setLog
  split
  · exact obj_logDevice t p.2 k hseq hlost
  · rfl

/-- What decides whether requests of a function are served stays as it was. -/
structure ServesAlike (s t : State) : Prop where
  halt : t.halt = s.halt
  marshal : t.marshal = s.marshal
  power : t.power = s.power
  ctxs : t.ctxs = s.ctxs
  courses : t.courses = s.courses
  queues : t.queues = s.queues

theorem ServesAlike.trans {s t u : State} (hst : ServesAlike s t) (htu : ServesAlike t u) : ServesAlike s u :=
  ⟨htu.halt.trans hst.halt, htu.marshal.trans hst.marshal, htu.power.trans hst.power, htu.ctxs.trans hst.ctxs,
    htu.courses.trans hst.courses, htu.queues.trans hst.queues⟩

theorem ServesAlike.requestsWait {s t : State} (h : ServesAlike s t) : t.requestsWait = s.requestsWait := by
  simp only [State.requestsWait, State.awake, h.marshal, h.power]

theorem ServesAlike.gate {s t : State} (h : ServesAlike s t) (f index sub : Nat) :
    t.gate (.fn f) index sub = s.gate (.fn f) index sub := by
  cases f with
  | zero => simp only [State.gate, h.marshal]
  | succ f => simp only [State.gate, State.vfMay, h.marshal, h.ctxs, h.courses, h.queues]

theorem servesAlike_emit (s : State) (type chan unit cls ctx a0 a1 : Nat) : ServesAlike s (s.emit type chan unit cls ctx a0 a1) := by
  obtain ⟨o, v, b, h⟩ := emit_frame s type chan unit cls ctx a0 a1
  rw [h]
  exact ⟨rfl, rfl, rfl, rfl, rfl, rfl⟩

/-! ## The state in which a request is served (R350, R355) -/

/-- A request has been taken from the queue's head, in the cycle after that of the events before it, and is counted. -/
def State.taken (s : State) (q : DictRequest) (rest : List DictRequest) : State :=
  ({ s.endCycle with marshalQ := rest, queuedOk := q.admitted } : State).bump Obj.dictRequests 1 64

/-- What taking a request changes: the events of the cycle are logged, and the queue, its admission and the objects change. -/
theorem taken_frame (s : State) (q : DictRequest) (rest : List DictRequest) : ∃ d m o v b, s.taken q rest =
    { s with
      raised := [], devLog := d, vfLogs := m, objs := o, observe := v, traceBuf := b, marshalQ := rest, queuedOk := q.admitted } := by
  obtain ⟨d, m, o, v, b, h⟩ := endCycle_frame s
  unfold State.taken State.bump State.setObj
  rw [h]
  exact ⟨_, _, _, _, _, rfl⟩

theorem taken_leaves (s : State) (q : DictRequest) (rest : List DictRequest) : (s.taken q rest).marshalQ = rest ∧
    (s.taken q rest).windows = s.windows ∧ (s.taken q rest).mem = s.mem ∧ (s.taken q rest).pacers = s.pacers ∧
    (s.taken q rest).octs = s.octs := by
  obtain ⟨d, m, o, v, b, h⟩ := taken_frame s q rest
  rw [h]
  exact ⟨rfl, rfl, rfl, rfl, rfl⟩

theorem servesAlike_taken (s : State) (q : DictRequest) (rest : List DictRequest) : ServesAlike s (s.taken q rest) := by
  obtain ⟨d, m, o, v, b, h⟩ := taken_frame s q rest
  rw [h]
  exact ⟨rfl, rfl, rfl, rfl, rfl, rfl⟩

theorem obj_taken_other (s : State) (q : DictRequest) (rest : List DictRequest) {k : Nat} (hk : k ≠ Obj.dictRequests) :
    (s.taken q rest).obj k = s.endCycle.obj k := obj_bump_other _ _ _ hk

theorem obj_taken_requests (s : State) (q : DictRequest) (rest : List DictRequest) :
    (s.taken q rest).obj Obj.dictRequests = (s.obj Obj.dictRequests + 1) % 2 ^ 64 := by
  have hkey : Obj.dictRequests ≠ Obj.traceSeq ∧ Obj.dictRequests ≠ Obj.traceLost := by decide
  rw [← obj_endCycle s hkey.1 hkey.2]
  exact obj_bump_self _ _ _ _

/-! ## Windows and replies (R345, R349) -/

@[simp] theorem window_setWindow_self (s : State) (f : Nat) (w : DictWindow) : (s.setWindow f w).window f = w := by
  simp [State.window, State.setWindow]

/-- The reply to a function's request stands in its window, which is free again. -/
def State.replied (s : State) (f : Nat) (q : DictRequest) (size : Nat) (data : List Byte) : State :=
  s.setWindow f { s.window f with
    reply := patch (s.window f).reply 0 (replyFrame q.frame (s.rsw f s.reply) size data), busy := false, tag := q.tag }

theorem frameTag_of_good {q : DictRequest} {f : Nat} (hsrc : q.src = .fn f) (hgood : frameGood q = true) : frameTag q.frame = q.tag := by
  simp only [frameGood, hsrc, Bool.and_eq_true, decide_eq_true_eq] at hgood
  exact hgood.2

theorem exec_dictRead (s : State) : exec .dictRead s = clocked s (fun s => s.serveHead false) := rfl
theorem exec_dictWrite (s : State) : exec .dictWrite s = clocked s (fun s => s.serveHead true) := rfl

section Head
variable {s : State} {q : DictRequest} {rest : List DictRequest} {f : Nat} (hserves : s.requestsWait = false)
  (hhead : s.marshalQ = q :: rest) (hsrc : q.src = .fn f) (hgood : frameGood q = true)
include hserves hhead hsrc hgood

theorem serveHead_read (hop : frameOp q.frame = 1) {c : Nat} {data : List Byte}
    (hread : (s.taken q rest).serveRead (.fn f) q.frame = (c, data)) :
    s.serveHead false = { ((s.taken q rest).answer c).replied f q (replySize (.fn f) q.frame) data with queuedOk := false } := by
  unfold State.taken at hread
  simp only [State.serveHead, hserves, hhead, hsrc, State.serve, hgood, hop, frameTag_of_good hsrc hgood, State.sendReply]
  simp only [Bool.false_eq_true, if_false, decide_true, if_true, Bool.not_true, hread]
  rfl

theorem serveHead_write (hop : frameOp q.frame = 2) :
    s.serveHead true = { ((((s.taken q rest).emit 15 noCh 12 0 0 (frameIndex q.frame * 256 + frameSub q.frame) f).serveWrite (.fn f)
      q.frame).replied f q (replySize (.fn f) q.frame) []) with queuedOk := false } := by
  simp only [State.serveHead, hserves, hhead, hsrc, State.serve, hgood, hop, frameTag_of_good hsrc hgood, State.sendReply]
  rfl

end Head

/-! ## READ and WRITE of whole objects (R346) -/

theorem serveRead_whole {t : State} {who : Req} {b : List Byte} {n : Nat} {r : ObjRow}
    (hrow : objRow (frameIndex b) (frameSub b) = some (r, n)) (hgate : t.gate who (frameIndex b) (frameSub b) = rcOk)
    (hcount : frameCount b = 0) (hoff : frameOff b = 0) (hwo : r.acc ≠ .wo) (hcmd : r.acc ≠ .cmd) (hpos : 0 < r.ty.size)
    (hmax : r.ty.size ≤ 1024) (hsize : r.ty.size = objSize who (baseOf (frameIndex b)) r) :
    t.serveRead who b = (rcOk, t.readObject who (baseOf (frameIndex b)) n r (key (frameIndex b) (frameSub b)) 0 r.ty.size) := by
  unfold baseOf at hsize ⊢
  have hsome : ¬ r.ty.size = 0 := Nat.pos_iff_ne_zero.mp hpos
  simp [State.serveRead, hrow, hgate, rcOk, hcount, hoff, hwo, hcmd, ← hsize, hsome, hmax]

theorem replySize_read {who : Req} {b : List Byte} {n : Nat} {r : ObjRow} (hrow : objRow (frameIndex b) (frameSub b) = some (r, n))
    (hcmd : r.acc ≠ .cmd) (hsize : r.ty.size = objSize who (baseOf (frameIndex b)) r) : replySize who b = r.ty.size := by
  unfold baseOf at hsize
  simp [replySize, hrow, hcmd, ← hsize]

/-- A WRITE of at most 1,024 bytes, in one frame, of an object no longer than that does what the write of the object does. -/
theorem serveWrite_whole {t : State} {who : Req} {b : List Byte} {n : Nat} {r : ObjRow}
    (hrow : objRow (frameIndex b) (frameSub b) = some (r, n)) (hflags : frameFlags b = 0) (hoff : frameOff b = 0)
    (hcount : frameCount b ≤ 1024) (hmax : r.ty.size ≤ 1024) :
    t.serveWrite who b = t.writeObject who (frameIndex b) (frameSub b) (slice b 24 (frameCount b)) := by
  by_cases hgate : t.gate who (frameIndex b) (frameSub b) = rcOk
  · have hshort : ¬ 1024 < frameCount b := Nat.not_lt.mpr hcount
    have hwhole : ¬ 1024 < r.ty.size := Nat.not_lt.mpr hmax
    have hlast : bit (frameFlags b) 0 = false := by rw [hflags]; rfl
    by_cases hro : r.acc = .ro
    · rw [writeObject_ro hrow hgate _ hro]
      simp [State.serveWrite, hrow, hgate, rcOk, hshort, hro]
    · simp [State.serveWrite, hrow, hgate, rcOk, hshort, hro, hwhole, hlast, hoff, frameHead]
  · simp only [State.serveWrite]
    rw [hrow]
    generalize hc : t.gate who (frameIndex b) (frameSub b) = c at hgate ⊢
    cases c with
    | zero => exact absurd rfl hgate
    | succ c => rfl

/-- Settles O3: the READ by what it reads in the state in which it is served, the WRITE by the write of its object there. -/
theorem requestsAreExecutedAndAnswered : Obligations.RequestsAreExecutedAndAnswered := by
  unfold Obligations.RequestsAreExecutedAndAnswered
  refine ⟨?_, ?_⟩
  · intro s q rest f n r hrun hserves hhead hsrc hgood hop hcount hoff hrow hwo hcmd hmax hpos hgate hsize
    have halike := servesAlike_taken s q rest
    have hread := serveRead_whole (t := s.taken q rest) hrow ((halike.gate _ _ _).trans hgate) hcount hoff hwo hcmd hpos hmax hsize
    refine does_of_clocksRun (exec_dictRead s) hrun ?_
    rw [serveHead_read hserves hhead hsrc hgood hop hread, replySize_read hrow hcmd hsize]
    obtain ⟨hqueue, hwindows, hmem, hpacers, hocts⟩ := taken_leaves s q rest
    refine ⟨s.taken q rest, rfl, hqueue, rfl, ?_, ?_, ?_, obj_taken_requests s q rest,
      fun k hk => obj_taken_other s q rest (by simpa using hk), hmem, hpacers, hocts⟩
    · exact congrArg DictWindow.busy (window_setWindow_self _ _ _)
    · exact congrArg DictWindow.tag (window_setWindow_self _ _ _)
    · refine (congrArg DictWindow.reply (window_setWindow_self _ _ _)).trans ?_
      have hwindow : (s.taken q rest).window f = s.window f := by simp only [State.window, hwindows]
      rw [← hwindow]
      rfl
  · intro s q rest f n r hrun hserves hhead hsrc hgood hop hflags hoff hcount hrow hmax
    have halike := (servesAlike_taken s q rest).trans
      (servesAlike_emit (s.taken q rest) 15 noCh 12 0 0 (frameIndex q.frame * 256 + frameSub q.frame) f)
    refine does_of_clocksRun (exec_dictWrite s) hrun ⟨_, _, rfl, ?_, serveHead_write hserves hhead hsrc hgood hop⟩
    rw [serveWrite_whole hrow hflags hoff hcount hmax]
    exact exec_genericObjectWrite_served _ _ _ _ (halike.halt.trans hrun) (halike.requestsWait.trans hserves)

end Sys2Proof.Machine
end

section
/-! The attention log (R353, R355, R356): the order of a cycle's events, what its end appends, what ATTN_ACK acknowledges, and
how the log shows in the RSW and in a READ. -/

namespace Sys2Proof.Machine

/-! ## The events of one cycle (R355) -/

/-- The order of R355 is lexicographic in channel, INDEX and SUB. -/
theorem attnBefore_iff (a b : AttnEntry) : attnBefore a b = true ↔
    a.channel < b.channel ∨ a.channel = b.channel ∧ (a.index < b.index ∨ a.index = b.index ∧ a.sub < b.sub) := by
  unfold attnBefore
  split
  · simp only [decide_eq_true_eq]; omega
  · split
    · simp only [decide_eq_true_eq]; omega
    · simp only [decide_eq_true_eq]; omega

theorem attnBefore_asymm {a b : AttnEntry} (h : attnBefore a b = true) : attnBefore b a = false := by
  rw [← Bool.not_eq_true]
  rw [attnBefore_iff] at h ⊢
  omega

/-- What goes before an event goes before all that the event does not follow. -/
theorem attnBefore_false_of_before {a b c : AttnEntry} (hab : attnBefore a b = true) (hcb : attnBefore c b = false) :
    attnBefore c a = false := by
  rw [← Bool.not_eq_true] at hcb ⊢
  rw [attnBefore_iff] at hab hcb ⊢
  omega

theorem raiseIn_perm (p : Nat × AttnEntry) (l : List (Nat × AttnEntry)) : (raiseIn p l).Perm (p :: l) := by
  induction l with
  | nil => exact .refl _
  | cons x t ih =>
    unfold raiseIn
    split
    · exact .refl _
    · exact (ih.cons x).trans (.swap p x t)

/-- An event takes its place among ordered ones. -/
theorem raiseIn_ordered (p : Nat × AttnEntry) (l : List (Nat × AttnEntry)) (h : l.Pairwise (fun a b => attnBefore b.2 a.2 = false)) :
    (raiseIn p l).Pairwise (fun a b => attnBefore b.2 a.2 = false) := by
  induction l with
  | nil => exact List.pairwise_singleton _ _
  | cons x t ih =>
    obtain ⟨hx, ht⟩ := List.pairwise_cons.mp h
    unfold raiseIn
    split
    next hpx =>
      refine List.pairwise_cons.mpr ⟨fun y hy => ?_, h⟩
      rcases List.mem_cons.mp hy with rfl | hyt
      · exact attnBefore_asymm hpx
      · exact attnBefore_false_of_before hpx (hx y hyt)
    next hpx =>
      refine List.pairwise_cons.mpr ⟨fun y hy => ?_, ih ht⟩
      rcases List.mem_cons.mp ((raiseIn_perm p t).mem_iff.mp hy) with rfl | hyt
      · exact Bool.eq_false_iff.mpr hpx
      · exact hx y hyt

/-! ## Raising and appending (R355, R356) -/

theorem raised_attn (s : State) (code chan k d : Nat) (h : s.marshal ≠ .updating) :
    (s.attn code chan k d).raised = raiseIn (0, s.attnEntry code chan k d) s.raised := by
  simp [State.attn, State.note, h]

theorem heldAttn_attn_updating (s : State) (code chan k d : Nat) (h : s.marshal = .updating) :
    (s.attn code chan k d).heldAttn = s.heldAttn ++ [(0, s.attnEntry code chan k d)] ∧
    (s.attn code chan k d).raised = s.raised := by
  simp [State.attn, State.note, h]

theorem raised_endCycle (s : State) : s.endCycle.raised = [] := by
  obtain ⟨d, m, o, v, b, h⟩ := endCycle_frame s
  rw [h]

theorem endCycle_of_none_raised {s : State} (h : s.raised = []) : s.endCycle = s := by
  cases s
  cases h
  rfl

/-- One event of the device's is appended to the device log at the cycle's end. -/
theorem devLog_endCycle_single {s : State} {e : AttnEntry} (h : s.raised = [(0, e)]) :
    s.endCycle.devLog = s.devLog.append 256 e := by
  obtain ⟨o, v, b, hlog⟩ := logDevice_frame { s with raised := [] } e
  show (forEach s.raised State.logOne { s with raised := [] }).devLog = _
  rw [h]
  show (State.logDevice { s with raised := [] } e).devLog = _
  rw [hlog]

theorem append_entries (l : AttnLog) {n : Nat} (e : AttnEntry) (hn : 1 ≤ n) :
    (l.append n e).entries = { e with seq := l.newest + 1 } :: l.entries.take (n - 1) := by
  obtain ⟨m, rfl⟩ := Nat.exists_eq_add_of_le' hn
  rfl

/-- A full log overwrites its oldest entry, and counts it where nobody has acknowledged it. -/
theorem append_full {l : AttnLog} {n : Nat} (e : AttnEntry) (h : l.entries.length = n) :
    (l.append n e).first = l.first + 1 ∧
    (l.append n e).dropped = (if l.acked < l.first then l.dropped + 1 else l.dropped) := by
  simp [AttnLog.append, h]

theorem append_room {l : AttnLog} {n : Nat} (e : AttnEntry) (h : l.entries.length ≠ n) :
    (l.append n e).first = l.first ∧ (l.append n e).dropped = l.dropped := by
  simp [AttnLog.append, h]

/-! ## ATTN_ACK (R356) -/

theorem exec_attnAck (who : Req) (v : Nat) (s : State) : exec (.attnAck who v) s = clocked s (opAttnAck who v) := rfl

@[simp] theorem halt_endCycle (s : State) : s.endCycle.halt = s.halt := by
  obtain ⟨d, m, o, w, b, h⟩ := endCycle_frame s
  rw [h]

theorem opAttnAck_accepts {s : State} {who : Req} {v : Nat} (h : s.endCycle.serves' who Obj.attnAck)
    (hlow : (s.endCycle.logOf (reqLog who)).acked ≤ v) (hhigh : v ≤ (s.endCycle.logOf (reqLog who)).newest) :
    opAttnAck who v s =
      (s.endCycle.setLog (reqLog who) { s.endCycle.logOf (reqLog who) with acked := v }).answer rcOk := by
  unfold opAttnAck
  rw [command_served _ h]
  refine if_neg ?_
  simp [hlow, hhigh]

theorem opAttnAck_refuses {s : State} {who : Req} {v : Nat} (h : s.endCycle.serves' who Obj.attnAck)
    (hout : v < (s.endCycle.logOf (reqLog who)).acked ∨ (s.endCycle.logOf (reqLog who)).newest < v) :
    opAttnAck who v s = s.endCycle.answer rcRange := by
  unfold opAttnAck
  rw [command_served _ h]
  refine if_pos ?_
  simpa using hout

/-! ## The log as a requester sees it (R353, R355) -/

theorem service_code_lt (v : Service) : v.code < 4 := by cases v <;> decide

theorem marshal_code_lt (m : MarshalState) : m.code < 16 := by cases m <;> decide

theorem chState_lt (s : State) : s.chState < 256 := by
  have h0 := service_code_lt (s.svc 0)
  have h1 := service_code_lt (s.svc 1)
  have h2 := service_code_lt (s.svc 2)
  have h3 := service_code_lt (s.svc 3)
  unfold State.chState
  omega

/-- The RSW is ATTN above the low 7 bits of the newest SEQ above 24 bits of states, reply code and tick. -/
theorem rsw_eq (s : State) (f : Nat) {code : Nat} (hcode : code < 16) : ∃ r < 2 ^ 24, s.rsw f code =
    (if (s.logOf f).newest = (s.logOf f).acked then 0 else 1) * 2 ^ 31 + (s.logOf f).newest % 128 * 2 ^ 24 + r := by
  have hch := chState_lt s
  have hm := marshal_code_lt s.marshal
  refine ⟨s.chState * 2 ^ 16 + s.marshal.code * 2 ^ 12 + code * 2 ^ 8 + s.tick 0 % 256, by omega, ?_⟩
  simp only [State.rsw]
  split
  · omega
  · omega

theorem rsw_attn (s : State) (f : Nat) {code : Nat} (hcode : code < 16) :
    bit (s.rsw f code) 31 = decide ((s.logOf f).newest ≠ (s.logOf f).acked) := by
  obtain ⟨r, hr, h⟩ := rsw_eq s f hcode
  unfold bit
  rw [Nat.testBit_eq_decide_div_mod_eq, h]
  split
  next heq => simp [heq]; omega
  next hne => simp [hne]; omega

theorem rsw_seq (s : State) (f : Nat) {code : Nat} (hcode : code < 16) :
    bits (s.rsw f code) 30 24 = (s.logOf f).newest % 128 := by
  obtain ⟨r, hr, h⟩ := rsw_eq s f hcode
  unfold bits
  rw [h]
  split <;> omega

/-- A READ of ATTN_LOG returns the entry that the log holds at its place, byte for byte. -/
theorem attnByte_of_find {s : State} {f n j : Nat} {e : AttnEntry}
    (h : (s.logOf f).entries.find? (fun x => x.seq % logSize f = n) = some e) (hj : j < 24) :
    s.attnByte f (24 * n + j) = (e.bytes[j]?).getD 0 := by
  have hdiv : (24 * n + j) / 24 = n := by omega
  have hmod : (24 * n + j) % 24 = j := by omega
  simp [State.attnByte, hdiv, hmod, h]

/-- Settles O57, clause by clause from the rules above. -/
theorem attentionLogIsAcknowledged : Obligations.AttentionLogIsAcknowledged := by
  unfold Obligations.AttentionLogIsAcknowledged
  refine ⟨?_, ?_, ?_, ?_, ?_, ?_, ?_⟩
  · rintro s u who v rfl hserves
    have hrun : s.clocksRun := (halt_endCycle s).symm.trans hserves.1
    exact ⟨fun hlow hhigh => does_of_clocksRun (exec_attnAck who v s) hrun (opAttnAck_accepts hserves hlow hhigh),
      fun hout => does_of_clocksRun (exec_attnAck who v s) hrun (opAttnAck_refuses hserves hout)⟩
  · intro s code chan k d
    exact ⟨fun h => ⟨raised_attn s code chan k d h, State.attn_devLog _ _ _ _ _⟩, heldAttn_attn_updating s code chan k d⟩
  · exact fun p l h => ⟨raiseIn_ordered p l h, raiseIn_perm p l⟩
  · exact fun s => ⟨raised_endCycle s, endCycle_of_none_raised, fun e => devLog_endCycle_single⟩
  · exact fun l n e hn => ⟨rfl, rfl, append_entries l e hn, append_full e, append_room e⟩
  · exact fun s f code hcode => ⟨rsw_attn s f hcode, rsw_seq s f hcode⟩
  · exact fun s f n j e => attnByte_of_find

end Sys2Proof.Machine
end

section
/-! The dispatch is total (R351): what a command cannot do is a reply code, a status or an unchanged state (log entry 5). -/

namespace Sys2Proof.Machine

theorem clocked_answers (s : State) (f : State → State) : ∃ t, clocked s f = .next t := by
  unfold clocked
  split
  · exact ⟨_, rfl⟩
  · exact ⟨_, rfl⟩

/-- Every command but the end of a stop and the loss of supply acts while the clocks run, and only then (R540, R543, R547). -/
theorem exec_clocked (c : Instr) (s : State) (hsupply : c ≠ .supplyUndervoltage) (hrestored : c ≠ .supplyRestored)
    (hrefclk : c ≠ .sysRefclkReturn) : ∃ f, exec c s = clocked s f := by
  cases c with
  | supplyUndervoltage => exact absurd rfl hsupply
  | supplyRestored => exact absurd rfl hrestored
  | sysRefclkReturn => exact absurd rfl hrefclk
  | _ => exact ⟨_, by unfold exec; rfl⟩

/-- Settles O56: the three commands that end a stop or begin one answer outright, and every other is clocked. -/
theorem everyCommandIsAnswered : Obligations.EveryCommandIsAnswered := by
  unfold Obligations.EveryCommandIsAnswered
  intro c s
  by_cases hsupply : c = .supplyUndervoltage
  · subst hsupply; exact ⟨_, rfl⟩
  by_cases hrestored : c = .supplyRestored
  · subst hrestored; exact ⟨_, rfl⟩
  by_cases hrefclk : c = .sysRefclkReturn
  · subst hrefclk; exact ⟨_, rfl⟩
  obtain ⟨f, hf⟩ := exec_clocked c s hsupply hrestored hrefclk
  rw [hf]
  exact clocked_answers s f

end Sys2Proof.Machine
end
